-- ==== Sys2Proof/Word.lean ====
section
/-! DEFINITION. The word types of the Q9, the sparse stores the state is made of, and the records that cross the
module's edge (host commands, flits, chunks, decoded pictures). Rules: spec/00_scope.md R7; spec/16_fabric_host.md. -/
namespace Sys2Proof

/-- One byte of memory (R7). -/
abbrev Byte := BitVec 8
/-- One 32-bit register, one instruction word (R42). -/
abbrev Word := BitVec 32
/-- One 64-bit value: a pair of registers, an address, a scalar register. -/
abbrev Dword := BitVec 64

/-- A sparse store: pairs of an index and a value, indexes strictly rising, nothing listed that equals what an
unlisted index reads as. Its operations are in Machine/Bank.lean, the proof that they keep this form in
Laws/Bank.lean. -/
abbrev Bank (α : Type) := List (Nat × α)

/-- The 32 lanes of a group, in ascending order (R13). -/
def lanes32 : List Nat := List.range 32

/-- An RDMA access (R363): its queue pair, whether it writes, its region, offset, data, length. -/
structure Rdma where
  qp   : Nat
  w    : Bool
  rkey : Word
  off  : Dword
  data : List Byte
  len  : Nat
  deriving DecidableEq, Repr, Inhabited

/-- One SEND from the host (R364): the queue pair it came on, the header's LEN, TAG and reserved bytes (byte 1 and
bytes 8 to 15, Table 16-6), and the body. OP is the row of the opcode table. -/
structure Command where
  qp   : Nat
  tag  : Word
  len  : Nat
  rsvd : BitVec 72
  body : List Byte
  deriving DecidableEq, Repr, Inhabited

/-- One chunk of a collective (R302). -/
structure Chunk where
  payload : List Byte
  label   : Dword
  impid   : Dword
  rank    : Nat
  slot    : Nat
  deriving DecidableEq, Repr, Inhabited

/-- What one lane asks of a peer (R356): the address of bits [55:0], the size in bytes, and the data of a write or
atomic. -/
structure RemoteAcc where
  lane : Nat
  addr : Dword
  size : Nat
  data : BitVec 128
  exp  : Dword
  deriving DecidableEq, Repr, Inhabited

/-- The kinds of remote access (R356, Table 16-2): a read, a plain write, a flag write (SIGF), and the atomics with
their operation code of Table 7-7, compare-and-swap and bounded increment. -/
inductive RemoteKind where
  | read | write | sigf
  | atom (fn : Nat)
  | cas
  | incb
  deriving DecidableEq, Repr, Inhabited

/-- A remote request (R356): one message per 256-byte sector that the lanes of one issue reach on one peer. -/
structure RemoteReq where
  id   : Nat
  kind : RemoteKind
  accs : List RemoteAcc
  deriving DecidableEq, Repr, Inhabited

/-- What the re-sharding engines of two modules tell one another (R328 to R335). -/
inductive ReshardMsg where
  | accept (rank : Nat) (commit : Bool)
  | request (rank curd : Nat)
  | clear (curds : List Nat)
  | report (rank : Nat)
  | retract (rank : Nat)
  | commit (gen : Dword)
  | committed (rank : Nat)
  | finish
  | stop (rank : Nat)
  deriving DecidableEq, Repr, Inhabited

/-- What a message carries after its header unit (R355). The spec gives the kinds and not the bytes. -/
inductive MsgBody where
  | request (r : RemoteReq)
  | response (id : Nat) (vals : List (Nat × BitVec 128))
  | refusal (id : Nat) (lanes : List (Nat × Nat × Nat))
  | chunk (link slot : Nat) (c : Chunk)
  | credit (link bytes : Nat)
  | start (kaddr param impid : Dword) (uid : Nat) (digest : List Byte)
  | answer (uid module : Nat) (ok : Bool)
  | abort (uid : Nat)
  | ended (uid module : Nat) (aborted : Bool)
  | reshard (m : ReshardMsg)
  | write (id : Nat) (addr : Dword) (data : List Byte)
  | read (id : Nat) (addr : Dword) (len : Nat)
  | bytes (id : Nat) (data : List Byte)
  | chunkPart (data : List Byte)
  deriving DecidableEq, Repr, Inhabited

/-- One message of the transaction layer (Table 16-2). -/
structure Message where
  src   : Nat
  dst   : Nat
  msgno : Word
  kind  : BitVec 8
  units : Nat
  ctxid : BitVec 16
  info  : Dword
  body  : MsgBody
  deriving DecidableEq, Repr, Inhabited

/-- One 16-byte unit of a flit's payload: a message's header, a unit that follows one, or padding (R355). -/
inductive FlitUnit where
  | head (m : Message)
  | more
  | pad
  deriving DecidableEq, Repr, Inhabited

/-- A flit as it arrives, striped (R351): the 16-byte units that each of the eight wavelengths brings in order, none where the wavelength's
FEC does not decode; what the units of its payload mean (the spec gives a message's header unit and no more), and the free relay space that
an opening flit's payload tells. -/
structure Flit where
  waves : List (List (Option (BitVec 128)))
  units : List FlitUnit
  relay : Nat
  deriving DecidableEq, Repr, Inhabited

/-- A decoded picture, as the AV1 specification gives it from the bitstream: samples in row-major order. -/
structure Picture where
  bd   : Nat
  w    : Nat
  h    : Nat
  mono : Bool
  y    : List Nat
  cb   : List Nat
  cr   : List Nat
  deriving DecidableEq, Repr, Inhabited

/-- A picture of 8 or 10 bits a sample holds a sample for each place of its planes (R344). -/
def Picture.wf (p : Picture) : Bool :=
  (p.bd == 8 || p.bd == 10) && p.y.length == p.w * p.h && p.y.all (fun x => decide (x < 2 ^ p.bd)) &&
    p.cb.all (fun x => decide (x < 2 ^ p.bd)) && p.cr.all (fun x => decide (x < 2 ^ p.bd)) &&
    (p.mono || (p.cb.length == (p.w + 1) / 2 * ((p.h + 1) / 2) && p.cr.length == (p.w + 1) / 2 * ((p.h + 1) / 2)))

/-- A frame that is not shown (R347): whether it is a key frame, the slots its prediction used and those it refreshes, its picture. -/
structure HiddenFrame where
  key     : Bool
  refs    : List Nat
  refresh : List Nat
  pic     : Picture
  deriving DecidableEq, Repr, Inhabited

/-- What the decoder found for the next shown frame: its error kind (Table 15-5), whether it is a key frame, whether
film-grain parameters stand in it, the reference slots its prediction used and the slots it refreshes; the slot that a
show_existing_frame shows; the frames not shown that stand before it; the bytes of BITS and of REFBUF read for it (offset, length), and
what it leaves in REFBUF (offset, bytes). -/
structure FrameInfo where
  err     : Nat
  key     : Bool
  fg      : Bool
  refs    : List Nat
  refresh : List Nat
  pic     : Picture
  existing : Option Nat
  hidden  : List HiddenFrame
  bits    : Nat × Nat
  refRd   : Nat × Nat
  refWr   : List (Nat × List Byte)
  deriving DecidableEq, Repr, Inhabited

/-- A migrate command (R36, R289): the features of the module the context goes to, and the budget T of the save. -/
structure Migration where
  features : BitVec 512
  budget   : Nat
  deriving DecidableEq, Repr, Inhabited

/-- One firmware image and its SM2 signature (R384). -/
structure FwImage where
  bytes : List Byte
  sig   : BitVec 512
  deriving DecidableEq, Repr, Inhabited

/-- One access over the management connector (R5, R360). -/
inductive MgmtAccess where
  | read (off : Word)
  | write (off : Word) (v : Dword)
  | link (link : Nat) (rx : Bool)
  deriving DecidableEq, Repr, Inhabited

end Sys2Proof
end

