-- ==== Sys2Proof/Machine/Bank.lean ====
section
/-! DEFINITION. The operations of the sparse stores (Bank): read with a default, write keeping the canonical form. -/
namespace Sys2Proof

/-- What index k reads as: its listed value, else the default. -/
def Bank.get {α : Type} (d : α) : Bank α → Nat → α
  | [], _ => d
  | (k', v) :: r, k => if k' = k then v else Bank.get d r k

/-- The store without index k. -/
def Bank.del {α : Type} : Bank α → Nat → Bank α
  | [], _ => []
  | (k', v) :: r, k => if k' = k then Bank.del r k else (k', v) :: Bank.del r k

/-- Lists (k, v) before the first larger index. -/
def Bank.ins {α : Type} : Bank α → Nat → α → Bank α
  | [], k, v => [(k, v)]
  | (k', v') :: r, k, v => if k < k' then (k, v) :: (k', v') :: r else (k', v') :: Bank.ins r k v

/-- Writes v at index k; writing the default removes the entry. -/
def Bank.set {α : Type} [DecidableEq α] (d : α) (m : Bank α) (k : Nat) (v : α) : Bank α :=
  if v = d then m.del k else (m.del k).ins k v

/-- The canonical form: indexes strictly rising, no entry equal to the default. -/
def Bank.wf {α : Type} [DecidableEq α] (d : α) (m : Bank α) : Bool :=
  (m.map (·.1)).Pairwise (· < ·) && m.all (fun e => e.2 ≠ d)

/-- The bytes of a bank from key `lo`, n keys, renumbered from 0. -/
def Bank.cut (b : Bank α) (lo n : Nat) : Bank α := (b.filter (fun e => decide (lo ≤ e.1) && decide (e.1 < lo + n))).map (fun e => (e.1 - lo, e.2))

end Sys2Proof
end

