-- ==== Sys2Proof/Syntax.lean ====
section
/-! DEFINITION. The instructions, commands and events of the Q9: one constructor per row of spec/opcode_table.json.
A row with a 32-bit word carries that word's fields (u is the run-boundary flag B of R42, p the guard predicate); a
Fjarmar row carries the fields of Table 13-2 that it uses; a host command carries the SEND that brought it; an event
carries what the environment chooses about it (which party, which operation, what arrived). -/
namespace Sys2Proof

/-- One constructor per row of the opcode table. -/
inductive Instr where
  /-- ADD (R93): Adds two 32-bit lane registers modulo 2^32. -/
  | add (u : Bool) (d a b : BitVec 6) (p : BitVec 3)
  /-- SUB (R93): Subtracts two 32-bit lane registers modulo 2^32. -/
  | sub (u : Bool) (d a b : BitVec 6) (p : BitVec 3)
  /-- MUL (R93): Writes the low 32 bits of a product. -/
  | mul (u : Bool) (d a b : BitVec 6) (p : BitVec 3)
  /-- MULHI (R93): Writes the high half of a signed 64-bit product. -/
  | mulhi (u : Bool) (d a b : BitVec 6) (p : BitVec 3)
  /-- MULHIU (R93): Writes the high half of an unsigned 64-bit product. -/
  | mulhiu (u : Bool) (d a b : BitVec 6) (p : BitVec 3)
  /-- MAD (R93): Multiplies and adds the accumulator in d, keeping the low 32 bits. -/
  | mad (u : Bool) (d a b : BitVec 6) (p : BitVec 3)
  /-- AND (R93): Bitwise AND of two 32-bit registers. -/
  | and (u : Bool) (d a b : BitVec 6) (p : BitVec 3)
  /-- OR (R93): Bitwise OR of two 32-bit registers. -/
  | or (u : Bool) (d a b : BitVec 6) (p : BitVec 3)
  /-- XOR (R93): Bitwise XOR of two 32-bit registers. -/
  | xor (u : Bool) (d a b : BitVec 6) (p : BitVec 3)
  /-- ANDN (R93): Computes x AND NOT y on 32 bits. -/
  | andn (u : Bool) (d a b : BitVec 6) (p : BitVec 3)
  /-- MIN (R93): Signed 32-bit minimum. -/
  | min (u : Bool) (d a b : BitVec 6) (p : BitVec 3)
  /-- MAX (R93): Signed 32-bit maximum. -/
  | max (u : Bool) (d a b : BitVec 6) (p : BitVec 3)
  /-- MINU (R93): Unsigned 32-bit minimum. -/
  | minu (u : Bool) (d a b : BitVec 6) (p : BitVec 3)
  /-- MAXU (R93): Unsigned 32-bit maximum. -/
  | maxu (u : Bool) (d a b : BitVec 6) (p : BitVec 3)
  /-- ADD.64 (R93): Adds two 64-bit register pairs modulo 2^64. -/
  | add64 (u : Bool) (d a b : BitVec 6) (p : BitVec 3)
  /-- SUB.64 (R93): Subtracts two 64-bit register pairs. -/
  | sub64 (u : Bool) (d a b : BitVec 6) (p : BitVec 3)
  /-- MUL.64 (R93): Writes the low 64 bits of a 64-bit product. -/
  | mul64 (u : Bool) (d a b : BitVec 6) (p : BitVec 3)
  /-- MULHI.64 (R93): Writes the high half of a signed 128-bit product. -/
  | mulhi64 (u : Bool) (d a b : BitVec 6) (p : BitVec 3)
  /-- MULHIU.64 (R93): Writes the high half of an unsigned 128-bit product. -/
  | mulhiu64 (u : Bool) (d a b : BitVec 6) (p : BitVec 3)
  /-- MAD.64 (R93): 64-bit multiply-add into the accumulator pair. -/
  | mad64 (u : Bool) (d a b : BitVec 6) (p : BitVec 3)
  /-- AND.64 (R93): Bitwise AND of 64-bit pairs. -/
  | and64 (u : Bool) (d a b : BitVec 6) (p : BitVec 3)
  /-- OR.64 (R93): Bitwise OR of 64-bit pairs. -/
  | or64 (u : Bool) (d a b : BitVec 6) (p : BitVec 3)
  /-- XOR.64 (R93): Bitwise XOR of 64-bit pairs. -/
  | xor64 (u : Bool) (d a b : BitVec 6) (p : BitVec 3)
  /-- ANDN.64 (R93): Computes x AND NOT y on 64 bits. -/
  | andn64 (u : Bool) (d a b : BitVec 6) (p : BitVec 3)
  /-- MIN.64 (R93): Signed 64-bit minimum. -/
  | min64 (u : Bool) (d a b : BitVec 6) (p : BitVec 3)
  /-- MAX.64 (R93): Signed 64-bit maximum. -/
  | max64 (u : Bool) (d a b : BitVec 6) (p : BitVec 3)
  /-- MINU.64 (R93): Unsigned 64-bit minimum. -/
  | minu64 (u : Bool) (d a b : BitVec 6) (p : BitVec 3)
  /-- MAXU.64 (R93): Unsigned 64-bit maximum. -/
  | maxu64 (u : Bool) (d a b : BitVec 6) (p : BitVec 3)
  /-- SHL (R93): Shifts left by y, giving 0 for counts of 32 or more. -/
  | shl (u : Bool) (d a b : BitVec 6) (p : BitVec 3)
  /-- SHR (R93): Logical right shift by y. -/
  | shr (u : Bool) (d a b : BitVec 6) (p : BitVec 3)
  /-- SAR (R93): Arithmetic right shift by y. -/
  | sar (u : Bool) (d a b : BitVec 6) (p : BitVec 3)
  /-- ROT (R93): Rotates left by y mod 32. -/
  | rot (u : Bool) (d a b : BitVec 6) (p : BitVec 3)
  /-- ABS (R93): Signed absolute value, saturating the most negative value and setting SAT. -/
  | abs (u : Bool) (d a : BitVec 6) (p : BitVec 3)
  /-- CLZ (R93): Counts leading zeros. -/
  | clz (u : Bool) (d a : BitVec 6) (p : BitVec 3)
  /-- POPC (R93): Counts set bits. -/
  | popc (u : Bool) (d a : BitVec 6) (p : BitVec 3)
  /-- BREV (R93): Reverses the bit order. -/
  | brev (u : Bool) (d a : BitVec 6) (p : BitVec 3)
  /-- BFX (R93): Extracts a zero-extended bit field. -/
  | bfx (u : Bool) (d a b : BitVec 6) (p : BitVec 3)
  /-- BFI (R93): Inserts a bit field into the accumulator in d. -/
  | bfi (u : Bool) (d a b : BitVec 6) (p : BitVec 3)
  /-- PERMB (R93): Permutes bytes under nibble selectors. -/
  | permb (u : Bool) (d a b : BitVec 6) (p : BitVec 3)
  /-- DIV (R94): Signed division toward zero, never trapping; division by zero sets DZ. -/
  | div (u : Bool) (d a b : BitVec 6) (p : BitVec 3)
  /-- DIVU (R94): Unsigned division, never trapping. -/
  | divu (u : Bool) (d a b : BitVec 6) (p : BitVec 3)
  /-- REM (R94): Signed remainder with the sign of x. -/
  | rem (u : Bool) (d a b : BitVec 6) (p : BitVec 3)
  /-- REMU (R94): Unsigned remainder. -/
  | remu (u : Bool) (d a b : BitVec 6) (p : BitVec 3)
  /-- SHL.64 (R93): 64-bit left shift. -/
  | shl64 (u : Bool) (d a b : BitVec 6) (p : BitVec 3)
  /-- SHR.64 (R93): 64-bit logical right shift. -/
  | shr64 (u : Bool) (d a b : BitVec 6) (p : BitVec 3)
  /-- SAR.64 (R93): 64-bit arithmetic right shift. -/
  | sar64 (u : Bool) (d a b : BitVec 6) (p : BitVec 3)
  /-- ROT.64 (R93): 64-bit rotate left. -/
  | rot64 (u : Bool) (d a b : BitVec 6) (p : BitVec 3)
  /-- ABS.64 (R93): 64-bit signed absolute value with saturation. -/
  | abs64 (u : Bool) (d a : BitVec 6) (p : BitVec 3)
  /-- CLZ.64 (R93): 64-bit leading zero count. -/
  | clz64 (u : Bool) (d a : BitVec 6) (p : BitVec 3)
  /-- POPC.64 (R93): 64-bit population count. -/
  | popc64 (u : Bool) (d a : BitVec 6) (p : BitVec 3)
  /-- BREV.64 (R93): 64-bit bit reversal. -/
  | brev64 (u : Bool) (d a : BitVec 6) (p : BitVec 3)
  /-- BFX.64 (R93): 64-bit bit-field extract. -/
  | bfx64 (u : Bool) (d a b : BitVec 6) (p : BitVec 3)
  /-- BFI.64 (R93): 64-bit bit-field insert. -/
  | bfi64 (u : Bool) (d a b : BitVec 6) (p : BitVec 3)
  /-- PERMB.64 (R93): Permutes the eight bytes of a 64-bit value. -/
  | permb64 (u : Bool) (d a b : BitVec 6) (p : BitVec 3)
  /-- DIV.64 (R94): 64-bit signed division, never trapping. -/
  | div64 (u : Bool) (d a b : BitVec 6) (p : BitVec 3)
  /-- DIVU.64 (R94): 64-bit unsigned division, never trapping. -/
  | divu64 (u : Bool) (d a b : BitVec 6) (p : BitVec 3)
  /-- REM.64 (R94): 64-bit signed remainder. -/
  | rem64 (u : Bool) (d a b : BitVec 6) (p : BitVec 3)
  /-- REMU.64 (R94): 64-bit unsigned remainder. -/
  | remu64 (u : Bool) (d a b : BitVec 6) (p : BitVec 3)
  /-- ADDI (R95): Adds a sign-extended, possibly wide, immediate. -/
  | addi (u : Bool) (d a : BitVec 6) (i : BitVec 7) (p : BitVec 3)
  /-- MULI (R95): Multiplies by an immediate. -/
  | muli (u : Bool) (d a : BitVec 6) (i : BitVec 7) (p : BitVec 3)
  /-- ANDI (R95): ANDs with an immediate. -/
  | andi (u : Bool) (d a : BitVec 6) (i : BitVec 7) (p : BitVec 3)
  /-- ORI (R95): ORs with an immediate. -/
  | ori (u : Bool) (d a : BitVec 6) (i : BitVec 7) (p : BitVec 3)
  /-- XORI (R95): XORs with an immediate. -/
  | xori (u : Bool) (d a : BitVec 6) (i : BitVec 7) (p : BitVec 3)
  /-- SHLI (R95): Shifts left by an immediate count 0 to 31. -/
  | shli (u : Bool) (d a : BitVec 6) (i : BitVec 7) (p : BitVec 3)
  /-- SHRI (R95): Logical right shift by an immediate count. -/
  | shri (u : Bool) (d a : BitVec 6) (i : BitVec 7) (p : BitVec 3)
  /-- SARI (R95): Arithmetic right shift by an immediate count. -/
  | sari (u : Bool) (d a : BitVec 6) (i : BitVec 7) (p : BitVec 3)
  /-- ADDI.64 (R95): 64-bit add of an immediate. -/
  | addi64 (u : Bool) (d a : BitVec 6) (i : BitVec 7) (p : BitVec 3)
  /-- MULI.64 (R95): 64-bit multiply by an immediate. -/
  | muli64 (u : Bool) (d a : BitVec 6) (i : BitVec 7) (p : BitVec 3)
  /-- ANDI.64 (R95): 64-bit AND with an immediate. -/
  | andi64 (u : Bool) (d a : BitVec 6) (i : BitVec 7) (p : BitVec 3)
  /-- ORI.64 (R95): 64-bit OR with an immediate. -/
  | ori64 (u : Bool) (d a : BitVec 6) (i : BitVec 7) (p : BitVec 3)
  /-- XORI.64 (R95): 64-bit XOR with an immediate. -/
  | xori64 (u : Bool) (d a : BitVec 6) (i : BitVec 7) (p : BitVec 3)
  /-- SHLI.64 (R95): 64-bit left shift by an immediate count 0 to 63. -/
  | shli64 (u : Bool) (d a : BitVec 6) (i : BitVec 7) (p : BitVec 3)
  /-- SHRI.64 (R95): 64-bit logical right shift by an immediate. -/
  | shri64 (u : Bool) (d a : BitVec 6) (i : BitVec 7) (p : BitVec 3)
  /-- SARI.64 (R95): 64-bit arithmetic right shift by an immediate. -/
  | sari64 (u : Bool) (d a : BitVec 6) (i : BitVec 7) (p : BitVec 3)
  /-- MOVI (R95): Writes the low 32 bits of the immediate. -/
  | movi (u : Bool) (d : BitVec 6) (i : BitVec 7) (p : BitVec 3)
  /-- MOVI.64 (R95): Writes the sign-extended 64-bit immediate to a pair. -/
  | movi64 (u : Bool) (d : BitVec 6) (i : BitVec 7) (p : BitVec 3)
  /-- FADD (R97): FP32 addition rounded once in the dynamic mode. -/
  | fadd (u : Bool) (d a b : BitVec 6) (p : BitVec 3)
  /-- FSUB (R97): FP32 subtraction. -/
  | fsub (u : Bool) (d a b : BitVec 6) (p : BitVec 3)
  /-- FMUL (R97): FP32 multiplication. -/
  | fmul (u : Bool) (d a b : BitVec 6) (p : BitVec 3)
  /-- FFMA (R97): FP32 fused multiply-add with one rounding. -/
  | ffma (u : Bool) (d a b : BitVec 6) (p : BitVec 3)
  /-- FMIN (R98): FP32 minimum under Table 4-3. -/
  | fmin (u : Bool) (d a b : BitVec 6) (p : BitVec 3)
  /-- FMAX (R98): FP32 maximum under Table 4-3. -/
  | fmax (u : Bool) (d a b : BitVec 6) (p : BitVec 3)
  /-- FSGN.J (R97): Copies a with the sign of b. -/
  | fsgnJ (u : Bool) (d a b : BitVec 6) (p : BitVec 3)
  /-- FSGN.N (R97): Copies a with the inverted sign of b. -/
  | fsgnN (u : Bool) (d a b : BitVec 6) (p : BitVec 3)
  /-- FSGN.X (R97): Copies a with sign a XOR b. -/
  | fsgnX (u : Bool) (d a b : BitVec 6) (p : BitVec 3)
  /-- FCLASS (R97): Writes a one-hot class mask of an FP32 value. -/
  | fclass (u : Bool) (d a : BitVec 6) (p : BitVec 3)
  /-- FDIV (R97): Correctly rounded FP32 division. -/
  | fdiv (u : Bool) (d a b : BitVec 6) (p : BitVec 3)
  /-- HADD2.type (R99): Packed two-element F16 or BF16 addition. -/
  | hadd2 (u : Bool) (t : BitVec 1) (d a b : BitVec 6) (p : BitVec 3)
  /-- HMUL2.type (R99): Packed two-element multiplication. -/
  | hmul2 (u : Bool) (t : BitVec 1) (d a b : BitVec 6) (p : BitVec 3)
  /-- HFMA2.type (R99): Packed two-element fused multiply-add. -/
  | hfma2 (u : Bool) (t : BitVec 1) (d a b : BitVec 6) (p : BitVec 3)
  /-- HMIN2.type (R99): Packed two-element minimum. -/
  | hmin2 (u : Bool) (t : BitVec 1) (d a b : BitVec 6) (p : BitVec 3)
  /-- HMAX2.type (R99): Packed two-element maximum. -/
  | hmax2 (u : Bool) (t : BitVec 1) (d a b : BitVec 6) (p : BitVec 3)
  /-- DADD (R100): Binary64 addition on register pairs. -/
  | dadd (u : Bool) (d a b : BitVec 6) (p : BitVec 3)
  /-- DMUL (R100): Binary64 multiplication. -/
  | dmul (u : Bool) (d a b : BitVec 6) (p : BitVec 3)
  /-- DFMA (R100): Binary64 fused multiply-add. -/
  | dfma (u : Bool) (d a b : BitVec 6) (p : BitVec 3)
  /-- ICMP.cc (R101): Sets a predicate from a 32-bit integer comparison. -/
  | icmp (u : Bool) (c : BitVec 4) (q : BitVec 3) (a b : BitVec 6) (p : BitVec 3)
  /-- ICMP.cc.64 (R101): Sets a predicate from a 64-bit integer comparison. -/
  | icmp64 (u : Bool) (c : BitVec 4) (q : BitVec 3) (a b : BitVec 6) (p : BitVec 3)
  /-- FCMP.cc (R102): Sets a predicate from an FP32 or FP64 comparison. -/
  | fcmp (u : Bool) (c : BitVec 3) (t : BitVec 1) (q : BitVec 3) (a b : BitVec 6) (p : BitVec 3)
  /-- PLOG.op (R103): Combines predicates with AND, OR, XOR, ANDN or NOT. -/
  | plog (u : Bool) (o q a b p : BitVec 3)
  /-- SEL (R103): Selects va or vb by a predicate. -/
  | sel (u : Bool) (s : BitVec 3) (d a b : BitVec 6) (p : BitVec 3)
  /-- CVT.dst.src (R104): Converts between scalar types in the dynamic mode, optionally saturating. -/
  | cvt (u : Bool) (t : BitVec 4) (d a : BitVec 6) (e : BitVec 4) (k : BitVec 1) (p : BitVec 3)
  /-- CVTPK.type (R105): Converts two FP32 values and packs them. -/
  | cvtpk (u : Bool) (t : BitVec 3) (d a b : BitVec 6) (p : BitVec 3)
  /-- CVTUPK.type (R106): Unpacks and widens one packed element exactly. -/
  | cvtupk (u : Bool) (t : BitVec 3) (d a : BitVec 6) (k p : BitVec 3)
  /-- RCP (R107): Correctly rounded FP32 reciprocal. -/
  | rcp (u : Bool) (d a : BitVec 6) (p : BitVec 3)
  /-- RSQ (R107): FP32 reciprocal square root. -/
  | rsq (u : Bool) (d a : BitVec 6) (p : BitVec 3)
  /-- SQRT (R107): FP32 square root. -/
  | sqrt (u : Bool) (d a : BitVec 6) (p : BitVec 3)
  /-- EXP2 (R107): FP32 base-2 exponential. -/
  | exp2 (u : Bool) (d a : BitVec 6) (p : BitVec 3)
  /-- LOG2 (R107): FP32 base-2 logarithm. -/
  | log2 (u : Bool) (d a : BitVec 6) (p : BitVec 3)
  /-- SIN (R107): FP32 sine of radians. -/
  | sin (u : Bool) (d a : BitVec 6) (p : BitVec 3)
  /-- COS (R107): FP32 cosine of radians. -/
  | cos (u : Bool) (d a : BitVec 6) (p : BitVec 3)
  /-- TANH (R107): FP32 hyperbolic tangent. -/
  | tanh (u : Bool) (d a : BitVec 6) (p : BitVec 3)
  /-- SHFL.mode (R111): Shuffles lane values within a tile, with the lane or delta in a register. -/
  | shfl (u : Bool) (m : BitVec 2) (d a b : BitVec 6) (p : BitVec 3)
  /-- SHFL.mode (R111): Shuffles lane values within a tile, with an immediate lane or delta. -/
  | shflImm (u : Bool) (m : BitVec 2) (d a : BitVec 6) (n : BitVec 5) (p : BitVec 3)
  /-- VOTE.ALL (R112): Sets pd when the predicate holds in every participant of the tile. -/
  | voteAll (u : Bool) (q s p : BitVec 3)
  /-- VOTE.ANY (R112): Sets pd when the predicate holds in some participant. -/
  | voteAny (u : Bool) (q s p : BitVec 3)
  /-- VOTE.BALLOT (R112): Writes the tile-relative mask of participants whose predicate holds. -/
  | voteBallot (u : Bool) (d : BitVec 6) (s p : BitVec 3)
  /-- VOTE.UNI (R112): Sets pd when the predicate is uniform across participants. -/
  | voteUni (u : Bool) (q s p : BitVec 3)
  /-- MATCH (R113): Writes the mask of participants holding an equal value. -/
  | matchLanes (u : Bool) (d a : BitVec 6) (p : BitVec 3)
  /-- PARTSET (R114): Sets PART.SIZE once per issue. -/
  | partset (u : Bool) (k p : BitVec 3)
  /-- VRED.op (R115): Reduces a register over the tile's participants in ascending lane order. -/
  | vred (u : Bool) (o : BitVec 3) (d a : BitVec 6) (t : BitVec 1) (p : BitVec 3)
  /-- VSCAN.op (R115): Inclusive or exclusive scan over the tile's participants. -/
  | vscan (u : Bool) (o : BitVec 3) (d a : BitVec 6) (e t : BitVec 1) (p : BitVec 3)
  /-- MOV (R109): Copies a 32-bit register unchanged. -/
  | mov (u : Bool) (d a : BitVec 6) (p : BitVec 3)
  /-- MOV.64 (R109): Copies a register pair unchanged. -/
  | mov64 (u : Bool) (d a : BitVec 6) (p : BitVec 3)
  /-- MOVS (R109): Writes the low half of a scalar register to every lane of Act. -/
  | movs (u : Bool) (d : BitVec 6) (a : BitVec 5) (p : BitVec 3)
  /-- MOVS.HI (R109): Writes the high half of a scalar register to every lane of Act. -/
  | movsHi (u : Bool) (d : BitVec 6) (a : BitVec 5) (p : BitVec 3)
  /-- MOVS.64 (R109): Writes a whole scalar register to a pair. -/
  | movs64 (u : Bool) (d : BitVec 6) (a : BitVec 5) (p : BitVec 3)
  /-- RDLANE (R109): Writes one hardware lane's register to a scalar register. -/
  | rdlane (u : Bool) (d : BitVec 5) (a : BitVec 6) (n : BitVec 5) (p : BitVec 3)
  /-- RDLANE.64 (R109): Writes one lane's register pair to a scalar register. -/
  | rdlane64 (u : Bool) (d : BitVec 5) (a : BitVec 6) (n : BitVec 5) (p : BitVec 3)
  /-- SADD (R96): 64-bit scalar add, once per issue. -/
  | sadd (u : Bool) (d a b : BitVec 5) (p : BitVec 3)
  /-- SSUB (R96): 64-bit scalar subtract. -/
  | ssub (u : Bool) (d a b : BitVec 5) (p : BitVec 3)
  /-- SMUL (R96): 64-bit scalar multiply, low half. -/
  | smul (u : Bool) (d a b : BitVec 5) (p : BitVec 3)
  /-- SAND (R96): Scalar AND. -/
  | sand (u : Bool) (d a b : BitVec 5) (p : BitVec 3)
  /-- SOR (R96): Scalar OR. -/
  | sor (u : Bool) (d a b : BitVec 5) (p : BitVec 3)
  /-- SXOR (R96): Scalar XOR. -/
  | sxor (u : Bool) (d a b : BitVec 5) (p : BitVec 3)
  /-- SSHL (R96): Scalar left shift. -/
  | sshl (u : Bool) (d a b : BitVec 5) (p : BitVec 3)
  /-- SSHR (R96): Scalar logical right shift. -/
  | sshr (u : Bool) (d a b : BitVec 5) (p : BitVec 3)
  /-- SCMP.cc (R96): Compares scalar registers and sets a predicate in the issue's Act. -/
  | scmp (u : Bool) (c q : BitVec 3) (a b : BitVec 5) (p : BitVec 3)
  /-- SADDI (R96): Adds a 64-bit immediate to a scalar register. -/
  | saddi (u : Bool) (d a : BitVec 5) (i : BitVec 7) (p : BitVec 3)
  /-- LD.sz (R173): Per-lane load of 1 to 16 bytes, counting in LD or RM. -/
  | ld (u : Bool) (s : BitVec 3) (d a : BitVec 6) (o : BitVec 7) (p : BitVec 3)
  /-- ST.sz (R173): Per-lane store of 1 to 16 bytes, counting in ST or RM. -/
  | st (u : Bool) (s : BitVec 3) (d a : BitVec 6) (o : BitVec 7) (p : BitVec 3)
  /-- LDA.sz.scope (R177): Single-copy-atomic load with acquire at its scope. -/
  | lda (u : Bool) (s : BitVec 3) (d a : BitVec 6) (z : BitVec 1) (o : BitVec 6) (p : BitVec 3)
  /-- STL.sz.scope (R177): Single-copy-atomic store with release at its scope. -/
  | stl (u : Bool) (s : BitVec 3) (d a : BitVec 6) (z : BitVec 1) (o : BitVec 6) (p : BitVec 3)
  /-- ATOM.op.TEAM (R180): Team-scope atomic read-modify-write, returning the old value. -/
  | atomTeam (u : Bool) (f : BitVec 4) (d : BitVec 6) (a : BitVec 5) (w : BitVec 1) (b : BitVec 6) (p : BitVec 3)
  /-- ATOM.op.CLUSTER (R180): Cluster-scope atomic at the home L2 slice. -/
  | atomCluster (u : Bool) (f : BitVec 4) (d : BitVec 6) (a : BitVec 5) (w : BitVec 1) (b : BitVec 6) (p : BitVec 3)
  /-- ATOM.op.DEVICE (R180): Device-scope atomic at the home L2 slice. -/
  | atomDevice (u : Bool) (f : BitVec 4) (d : BitVec 6) (a : BitVec 5) (w : BitVec 1) (b : BitVec 6) (p : BitVec 3)
  /-- ATOM.op.FABRIC (R180): Fabric-scope atomic at the homing module's slice. -/
  | atomFabric (u : Bool) (f : BitVec 4) (d : BitVec 6) (a : BitVec 5) (w : BitVec 1) (b : BitVec 6) (p : BitVec 3)
  /-- RED.op.scope (R180): Atomic update that returns no value. -/
  | red (u : Bool) (f : BitVec 4) (w : BitVec 1) (s : BitVec 3) (a b : BitVec 6) (p : BitVec 3)
  /-- ATOMCAS.scope (R181): Compare-and-swap, returning the old value. -/
  | atomcas (u : Bool) (w : BitVec 1) (s : BitVec 3) (d a b : BitVec 6) (p : BitVec 3)
  /-- ATOMINCB.scope (R181): Increments the word only below an unsigned bound, returning the old value. -/
  | atomincb (u : Bool) (w : BitVec 1) (s : BitVec 3) (d a b : BitVec 6) (p : BitVec 3)
  /-- SIGF.scope (R183): Writes a 64-bit flag word with release at its scope. -/
  | sigf (u : Bool) (s : BitVec 3) (a b : BitVec 6) (p : BitVec 3)
  /-- FENCE.scope (R184): Orders the group's earlier memory operations before later ones at a scope; lanes run ahead speculatively. -/
  | fence (u : Bool) (s : BitVec 4) (p : BitVec 3)
  /-- WAIT (R187): Blocks until each named counter is at or below its limit. -/
  | wait (u : Bool) (l s t r c : BitVec 5)
  /-- BARV (R192): Sets the lanes of Act in the barrier mask as a release arrival and continues. -/
  | barv (u : Bool) (l : BitVec 2) (i : BitVec 4) (p : BitVec 3)
  /-- BARW (R193): Waits until the barrier's parity equals q, then acquires. -/
  | barw (u : Bool) (l : BitVec 2) (i : BitVec 4) (q : BitVec 1) (p : BitVec 3)
  /-- BARS (R194): Arrives and waits for the phase in which the arrival is counted. -/
  | bars (u : Bool) (l : BitVec 2) (i : BitVec 4) (p : BitVec 3)
  /-- BARST (R196): Writes the barrier's status without waiting. -/
  | barst (u : Bool) (d : BitVec 6) (l : BitVec 2) (i : BitVec 4) (p : BitVec 3)
  /-- BRA (R123): PC-relative branch for the lanes of Act. -/
  | bra (o : BitVec 19) (p : BitVec 3)
  /-- BRU (R125): Branch that asserts a uniform guard. -/
  | bru (o : BitVec 19) (p : BitVec 3)
  /-- CALL (R123): PC-relative call writing the link register v63. -/
  | call (o : BitVec 19) (p : BitVec 3)
  /-- CALLR (R123): Per-lane indirect call writing v63. -/
  | callr (a : BitVec 6) (p : BitVec 3)
  /-- RET (R123): Returns to the address in v63 within the caller's 4 GiB region. -/
  | ret (p : BitVec 3)
  /-- JMPR (R123): Per-lane indirect jump. -/
  | jmpr (a : BitVec 6) (p : BitVec 3)
  /-- EXIT (R126): Moves lanes to exited, clearing their rejoin bits and current-task state. -/
  | exit (p : BitVec 3)
  /-- RJENROL (R127): Enrols the lanes of Act in a rejoin mask. -/
  | rjenrol (u : Bool) (j p : BitVec 3)
  /-- RJPARK (R127): Parks enrolled lanes on a mask and evaluates release. -/
  | rjpark (u : Bool) (j p : BitVec 3)
  /-- RJOUT (R127): Strikes the lanes of Act out of a mask and evaluates release. -/
  | rjout (u : Bool) (j p : BitVec 3)
  /-- RJGET (R127): Reads a rejoin mask into a register. -/
  | rjget (u : Bool) (d : BitVec 6) (j p : BitVec 3)
  /-- SPAWN (R154): Raises the join counter and pushes a task frame per lane. -/
  | spawn (u : Bool) (d a b : BitVec 6) (p : BitVec 3)
  /-- SPAWNB (R154): Pushes a batch card of records per lane. -/
  | spawnb (u : Bool) (d a b : BitVec 6) (p : BitVec 3)
  /-- TAKE (R158): Takes a task or batch chunk per lane, stealing if needed, or returns empty. -/
  | take (u : Bool) (d : BitVec 6) (p : BitVec 3)
  /-- ENDT (R161): Ends the current task and lowers its join counter with release. -/
  | endt (u : Bool) (p : BitVec 3)
  /-- TJOIN (R165): Waits until the join counter reads 0, then acquires. -/
  | tjoin (u : Bool) (a : BitVec 6) (p : BitVec 3)
  /-- ROLE (R166): Drains the group's counters and switches it to another role's window and entry. -/
  | role (u : Bool) (k : BitVec 2) (p : BitVec 3)
  /-- LAUNCH (R167): Enqueues a launch packet without blocking and writes a status. -/
  | launch (u : Bool) (d a : BitVec 5) (q : BitVec 6) (p : BitVec 3)
  /-- TMMA (R209): Issues a matrix multiply-accumulate into an accumulator tile. -/
  | tmma (u : Bool) (a b : BitVec 6) (p : BitVec 3)
  /-- TZERO (R213): Issues the clearing of an accumulator tile. -/
  | tzero (u : Bool) (a : BitVec 6) (p : BitVec 3)
  /-- TACLD (R213): Issues a load of a tile from memory into the accumulators. -/
  | tacld (u : Bool) (a : BitVec 6) (p : BitVec 3)
  /-- TACST (R213): Issues a converting store of a tile to memory. -/
  | tacst (u : Bool) (a : BitVec 6) (p : BitVec 3)
  /-- TQUANT (R214): Issues block quantisation of a tile with scales. -/
  | tquant (u : Bool) (a b : BitVec 6) (p : BitVec 3)
  /-- TLEND (R200): Copies a 4 KiB register block into the quad's staging slot and makes it current. -/
  | tlend (u : Bool) (d : BitVec 6) (p : BitVec 3)
  /-- VCHAIN (R117): Issues a memory-to-memory stream chain counted in TL. -/
  | vchain (u : Bool) (a : BitVec 6) (p : BitVec 3)
  /-- VATWAIT (R231): Waits until a vat is full or draining, then acquires. -/
  | vatwait (u : Bool) (v : BitVec 6) (p : BitVec 3)
  /-- VATTAKE (R231): Waits for a full vat and moves it to draining. -/
  | vattake (u : Bool) (v : BitVec 6) (p : BitVec 3)
  /-- VATFREE (R231): Moves a draining vat to free with release. -/
  | vatfree (u : Bool) (v : BitVec 6) (p : BitVec 3)
  /-- CPY (R233): Issues a linear byte copy from the feeder. -/
  | cpy (u : Bool) (d a b : BitVec 6) (p : BitVec 3)
  /-- CPYA (R233): Issues a copy of an affine pattern's elements. -/
  | cpya (u : Bool) (d : BitVec 6) (s : BitVec 2) (p : BitVec 3)
  /-- CPYG (R233): Issues an indexed gather copy from a descriptor. -/
  | cpyg (u : Bool) (d a : BitVec 6) (p : BitVec 3)
  /-- CPYX (R233): Issues a codebook expansion copy. -/
  | cpyx (u : Bool) (d a b : BitVec 6) (p : BitVec 3)
  /-- CBLOAD (R235): Issues a load of a codebook slot, waiting for another team's tag to clear. -/
  | cbload (u : Bool) (d a : BitVec 6) (k p : BitVec 3)
  /-- QPUSH (R227): Issues a stream of a pattern into an operand queue of the group. -/
  | qpush (u : Bool) (s : BitVec 2) (q p : BitVec 3)
  /-- AASET (R226): Loads an affine pattern slot from a record. -/
  | aaset (u : Bool) (a : BitVec 6) (s : BitVec 2) (p : BitVec 3)
  /-- VATARM (R230): Waits for a free vat and arms it for n copies. -/
  | vatarm (u : Bool) (a v : BitVec 6) (p : BitVec 3)
  /-- CPYABORT (R240): Ends the reported faulting copy with damage. -/
  | cpyabort (u : Bool) (p : BitVec 3)
  /-- DECSUB (R341): Submits a decode request and writes its status. -/
  | decsub (u : Bool) (d a : BitVec 6) (p : BitVec 3)
  /-- RSHD (R328): Starts a reimposition and writes its status. -/
  | rshd (u : Bool) (d a : BitVec 6) (p : BitVec 3)
  /-- CSRR (R142): Reads a status and control register. -/
  | csrr (u : Bool) (d : BitVec 6) (c : BitVec 12) (p : BitVec 3)
  /-- CSRW (R143): Writes a status and control register. -/
  | csrw (u : Bool) (a : BitVec 6) (c : BitVec 12) (p : BitVec 3)
  /-- FEAT (R144): Reads a word of the contract mask. -/
  | feat (u : Bool) (d : BitVec 6) (n : BitVec 4) (p : BitVec 3)
  /-- TRAP (R145): Raises software trap 0x20. -/
  | trap (u : Bool) (n : BitVec 8) (p : BitVec 3)
  /-- TRET (R137): Returns trapped lanes to TPC. -/
  | tret (p : BitVec 3)
  /-- BRK (R145): Raises breakpoint trap 0x0B. -/
  | brk (u : Bool) (n : BitVec 8) (p : BitVec 3)
  /-- NOP (R47): Takes an issue slot with no effect. -/
  | nop (u : Bool)
  /-- HINT.IMM (R49): Prefix supplying upper immediate bits. -/
  | hintImm (y : BitVec 22)
  /-- HINT.SCHED (R51): Scheduling request with no architectural effect. -/
  | hintSched (u : Bool) (w : BitVec 1) (h : BitVec 4)
  /-- HINT.MOD (R50): Prefix giving rounding, predicate, promotion and cache modifiers. -/
  | hintMod (r q : BitVec 3) (m : BitVec 1) (c : BitVec 2)
  /-- MOVI (R298): Sequencer: loads a sign-extended immediate. -/
  | chunkMovi (d : BitVec 4) (imm : BitVec 32)
  /-- MOVI.HI (R298): Sequencer: sets the upper 32 bits of a register. -/
  | chunkMoviHi (d : BitVec 4) (imm : BitVec 32)
  /-- ADDI (R298): Sequencer: adds two registers and an immediate. -/
  | chunkAddi (d a b : BitVec 4) (imm : BitVec 32)
  /-- ADDI.N (R298): Sequencer: subtracts and adds an immediate. -/
  | chunkAddiN (d a b : BitVec 4) (imm : BitVec 32)
  /-- LOOP (R298): Sequencer: decrements a counter and branches while nonzero. -/
  | loop (d : BitVec 4) (imm : BitVec 32)
  /-- BNZ (R298): Sequencer: branches when a register is nonzero. -/
  | bnz (a : BitVec 4) (imm : BitVec 32)
  /-- YIELD (R298): Sequencer: ends the context's turn. -/
  | yield
  /-- HALT (R298): Sequencer: frees the context and releases its staging. -/
  | chunkHalt
  /-- CSRR (R310): Sequencer: reads a context register. -/
  | chunkCsrr (d : BitVec 4) (csr : BitVec 12)
  /-- CSRW (R310): Sequencer: writes a context register such as TLEAF. -/
  | chunkCsrw (a : BitVec 4) (csr : BitVec 12)
  /-- BIND (R299): Binds a channel to a peer context and delivers held chunks. -/
  | bind (a ch : BitVec 4)
  /-- WAITF.cc (R300): Waits until a flag word compares true, then acquires. -/
  | waitf (cc a b : BitVec 4)
  /-- SIGF (R300): Stores a flag word with release at the imposition's scope. -/
  | chunkSigf (a b : BitVec 4)
  /-- SIGF.ADD (R300): Atomically adds to a flag word with release. -/
  | chunkSigfAdd (a b : BitVec 4)
  /-- XMIT (R304): Reads a chunk into transmit staging and sends it on a channel. -/
  | xmit (d a b ch : BitVec 4)
  /-- RECV (R304): Stores the oldest chunk of a channel and its label. -/
  | recv (d a b ch : BitVec 4)
  /-- COMB.m.op.f (R304): Combines the oldest chunk of a channel into a buffer, in ARR or TREE mode. -/
  | comb (m : BitVec 1) (op f d a b ch : BitVec 4)
  /-- CFWD.m.op.f (R304): Combines as COMB and sends the result on another channel. -/
  | cfwd (m : BitVec 1) (fw op f d a b ch : BitVec 4)
  /-- TLBINV_WRITE (R272): A CSRW to TLBINV starts a translation invalidation after earlier accesses are performed. -/
  | tlbinvWrite (c : Nat) (v : Dword)
  /-- HARDWARE_BREAKPOINT (R379): A lane reaching a breakpoint word traps before executing it. -/
  | hardwareBreakpoint (c : Nat) (mask : BitVec 32)
  /-- LOAD_COMPLETION (R174): Returned data is written to a load's destination. -/
  | loadCompletion (c k : Nat)
  /-- STORE_PERFORMED (R188): A store, RED, SIGF or STL is performed at its completion point. -/
  | storePerformed (c k : Nat)
  /-- FENCE_COMPLETION (R185): Speculative results stand and held stores and traps take effect in order. -/
  | fenceCompletion (c k : Nat)
  /-- FENCE_CONFLICT_ROLLBACK (R186): A conflicting invalidation returns lanes to the fence and discards held work. -/
  | fenceConflictRollback (c k : Nat)
  /-- QUEUE_ENTRY_ARRIVAL (R228): A QPUSH entry enters its operand queue when there is room, releasing a stalled reader. -/
  | queueEntryArrival (c k : Nat) (peer : List Byte)
  /-- COPY_COMPLETION (R236): A copy completes: vat fill count, barrier arrival and CP decrement in one step. -/
  | copyCompletion (c k : Nat) (peer : List Byte)
  /-- COPY_FAULT (R238): A copy meets a failing page and is suspended with its progress kept. -/
  | copyFault (c k : Nat) (peer : List Byte) (refused : Option Nat)
  /-- MATRIX_OPERATION_RETIRE (R209): A matrix operation finishes its work in the arrays and retires from TL. -/
  | matrixOperationRetire (c k : Nat)
  /-- VCHAIN_RETIRE (R120): A stream chain completes its writes and retires from TL. -/
  | vchainRetire (c k : Nat)
  /-- TLB_INVALIDATION_COMPLETE (R272): BUSY clears once no translation in the extent is held or in use. -/
  | tlbInvalidationComplete (c : Nat)
  /-- ASYNC_EVENT_TAKEN (R139): A save, halt or destruction is taken at the first run boundary with queues drained. -/
  | asyncEventTaken (k : Nat)
  /-- CLUSTER_RESTORE (R291): A saved cluster is placed again and its state reloaded. -/
  | clusterRestore (k : Nat)
  /-- PREEMPTION_REQUEST (R289): A placeable higher-level packet that cannot be placed requests pre-emption of lower clusters. -/
  | preemptionRequest (q : Nat)
  /-- SLICE_EXPIRY (R289): A cluster that has run for its SLICE is chosen for pre-emption. -/
  | sliceExpiry (q : Nat)
  /-- DRAIN_TIMEOUT (R290): A drain not ended when T runs out is decided anew. -/
  | drainTimeout (grid cluster : Nat)
  /-- DEPENDENCE_FLAG_READ (R282): The scheduler re-reads unlatched dependence flags on a write or after 4,096 cycles. -/
  | dependenceFlagRead (q : Nat)
  /-- CLUSTER_PLACEMENT (R284): Places a cluster first-fit on a rectangle of cores once room is free. -/
  | clusterPlacement
  /-- IMPOSITION_START_ARRIVAL (R314): A start loads programs into a free slot and makes the context Ready. -/
  | impositionStartArrival (link slot : Nat)
  /-- IMPOSITION_START_TIMEOUT (R317): A start undelivered within 50 ms fails the imposition as aborted. -/
  | impositionStartTimeout (k : Nat)
  /-- CHUNK_ARRIVAL (R302): An arriving chunk is staged and delivered to the bound channel or held. -/
  | chunkArrival (link slot src : Nat) (x : Chunk)
  /-- WAITF_FLAG_READ (R300): A waiting flag is re-read on a page write or after 4,096 cycles. -/
  | waitfFlagRead (link slot : Nat)
  /-- RESHARD_PLANNING (R329): Once all participants accept, each engine plans its curds. -/
  | reshardPlanning
  /-- CURD_RECEIVED (R332): A moved curd is stored and its done bit set with release. -/
  | curdReceived (curd : Nat) (bytes : List Byte)
  /-- PENDING_COUNTER_CHANGE (R334): A change of a pending-reduction counter defers or re-queues curds. -/
  | pendingCounterChange (tensor : Nat)
  /-- COMMIT (R335): The coordinator writes GEN + 1 to every generation word. -/
  | commit
  /-- PARTICIPANT_STOP (R333): A stopped participant makes every other part stop with error 0x07. -/
  | participantStop (rank : Nat)
  /-- DECODE_REQUEST_ASSIGNMENT (R339): A free decoder takes the next accepted request. -/
  | decodeRequestAssignment (dec : Nat)
  /-- FRAME_OUTPUT (R343): A decoded frame is written into a free vat with its status word and arrives. -/
  | frameOutput (dec : Nat) (fr : FrameInfo)
  /-- SLOT_START (R352): A rotor slot marker aligns the slot and opens a slot connection. -/
  | slotStart (link slot : Nat)
  /-- SLOT_END (R354): Unacknowledged flits return to the transaction layer and partial messages are discarded. -/
  | slotEnd (link : Nat)
  /-- FLIT_RECEPTION (R354): A flit is checked, accepted in SEQ order or discarded with NAK. -/
  | flitReception (link : Nat) (f : Flit)
  /-- REMOTE_REQUEST_TIMEOUT (R357): A request unanswered for 50 ms completes as refused, peer unreachable. -/
  | remoteRequestTimeout (c k : Nat)
  /-- FEC_WINDOW_END (R358): A window with too many corrected bits starts retraining of the wavelength. -/
  | fecWindowEnd (link w : Nat) (count : Nat × Nat)
  /-- RETRAINING_END (R358): The wavelength is handed back, or marked failed after three failures. -/
  | retrainingEnd (link w : Nat) (ok : Bool)
  /-- CLOCK_STEP_CHANGE (R3): The management controller lowers or raises the arithmetic clock by 75 MHz. -/
  | clockStepChange (slower : Bool)
  /-- COOLANT_HOLD (R4): Coolant out of limits for more than 1 s holds the clock at its lowest step. -/
  | coolantHold
  /-- COOLANT_HOLD_RELEASE (R4): The hold ends when both coolant limits are met again. -/
  | coolantHoldRelease
  /-- CORRECTED_ERROR (R275): A single error is corrected and counted. -/
  | correctedError (dram : Bool)
  /-- UNCORRECTABLE_ERROR (R276): A detected uncorrectable error poisons the word. -/
  | uncorrectableError (addr : Nat)
  /-- PARITY_ERROR_REEXECUTION (R277): A path parity error discards a run's register writes and re-executes it. -/
  | parityErrorReexecution (c : Nat) (mask : BitVec 32)
  /-- SAMPLE_TAG (R381): After a random gap of issues an instruction is tagged for sampling. -/
  | sampleTag (core quad ctx : Nat)
  /-- TRACE_BLOCK_WRITE (R382): A trace block is written when full or 1 ms after its first record. -/
  | traceBlockWrite (ctx : Nat)
  /-- LIVE_MIGRATION (R36): A context is moved to another module with its contract mask and load table. -/
  | liveMigration (ctx : Nat) (move : Migration)
  /-- COLD_START (R389): Runs every start step, clearing the black box and zeroing memories. -/
  | coldStart (imgs : List FwImage) (fail : Nat)
  /-- WARM_START (R389): Runs a start keeping training, calibration and the black box. -/
  | warmStart (imgs : List FwImage) (fail : Nat)
  /-- CTXCREATE (R34): Creates a context from a descriptor. -/
  | ctxcreate (cmd : Command)
  /-- CTXDESTROY (R364): Destroys a context, ending its work and queues. -/
  | ctxdestroy (cmd : Command)
  /-- QPBIND (R362): Binds a queue pair to a context. -/
  | qpbind (cmd : Command)
  /-- QOPEN (R279): Opens or reconfigures a launch queue. -/
  | qopen (cmd : Command)
  /-- QCANCEL (R279): Ends a queue's packets with code 0x18. -/
  | qcancel (cmd : Command)
  /-- HOST_LAUNCH (R280): Enqueues a launch packet sent by the host. -/
  | hostLaunch (cmd : Command)
  /-- HOST_TLBINV (R272): Starts a translation invalidation from the host. -/
  | hostTlbinv (cmd : Command)
  /-- SEQCTL_RESUME (R322): Makes a stopped sequencer context Ready. -/
  | seqctlResume (cmd : Command)
  /-- SEQCTL_STEP (R322): Runs one instruction of a stopped context, then stops with 0x4F. -/
  | seqctlStep (cmd : Command)
  /-- SEQCTL_ABORT (R322): Aborts a sequencer context. -/
  | seqctlAbort (cmd : Command)
  /-- SEQCTL_STOP (R322): Stops a context at its next chunk boundary with 0x4E. -/
  | seqctlStop (cmd : Command)
  /-- RSABORT (R333): Stops a reimposition part with error 0x08. -/
  | rsabort (cmd : Command)
  /-- MRREG (R363): Registers a memory region and returns its rkey. -/
  | mrreg (cmd : Command)
  /-- MRDEREG (R363): Deregisters a memory region. -/
  | mrdereg (cmd : Command)
  /-- SUSPEND (R289): Requests pre-emption of a named cluster with budget T. -/
  | suspend (cmd : Command)
  /-- LINKSTAT (R360): Returns and optionally clears a link status record. -/
  | linkstat (cmd : Command)
  /-- OBJLOAD (R372): Checks and loads a Pelrik object or writes a refusal record. -/
  | objload (cmd : Command)
  /-- OBJDROP (R374): Drops a loaded object once none of its grids is resident or saved. -/
  | objdrop (cmd : Command)
  /-- DEBUG_HALT (R378): Requests a halt of a group. -/
  | debugHalt (cmd : Command)
  /-- DEBUG_RELEASE (R378): Resumes a halted group's lanes. -/
  | debugRelease (cmd : Command)
  /-- DEBUG_HOLD (R378): Sets the group's hold so breakpoints and steps halt it. -/
  | debugHold (cmd : Command)
  /-- DEBUG_UNHOLD (R378): Clears the group's hold. -/
  | debugUnhold (cmd : Command)
  /-- DEBUG_STEP (R378): Arms single step on lanes and releases a halted held group. -/
  | debugStep (cmd : Command)
  /-- DEBUG_BKSET (R378): Sets a hardware breakpoint of a group. -/
  | debugBkset (cmd : Command)
  /-- DEBUG_BKCLR (R378): Clears a hardware breakpoint. -/
  | debugBkclr (cmd : Command)
  /-- DEBUG_SETPC (R378): Sets TPC of trapped lanes of a halted group. -/
  | debugSetpc (cmd : Command)
  /-- DEBUG_DUMP (R380): Writes a halted group's dump to memory. -/
  | debugDump (cmd : Command)
  /-- TRACECFG (R381): Configures sampling and the trace ring for a context. -/
  | tracecfg (cmd : Command)
  /-- ATTEST (R386): Writes a signed attestation report. -/
  | attest (cmd : Command)
  /-- KEYLOAD (R385): Unwraps and loads a key slot. -/
  | keyload (cmd : Command)
  /-- BBREAD (R388): Returns black-box entries in SEQ order. -/
  | bbread (cmd : Command)
  /-- MGMTRD (R5): Reads a management register. -/
  | mgmtrd (cmd : Command)
  /-- MGMTWR (R5): Writes a management register such as CLKCAP or START. -/
  | mgmtwr (cmd : Command)
  /-- RDMA_WRITE (R363): Writes host data into a registered memory region. -/
  | rdmaWrite (qp : Nat) (rkey : Word) (off : Dword) (data : List Byte)
  /-- RDMA_READ (R363): Returns data from a registered memory region to the host. -/
  | rdmaRead (qp : Nat) (rkey : Word) (off : Dword) (len : Nat)
  /-- INVALID_REQUEST_NAK (R361): An unsupported operation or transport is answered with an invalid-request NAK. -/
  | invalidRequestNak (qp : Nat)
  /-- ECN_MARK (R361): An ECN-marked packet is answered with a congestion notification packet. -/
  | ecnMark (qp : Nat)
  /-- ETHERNET_PORT_DOWN (R361): A port going down puts its queue pairs in the error state. -/
  | ethernetPortDown (port : Nat)
  /-- QUEUED_RESULT_WRITE (R92): A special-function or conversion result leaves the group's queue and is written to its destination register. -/
  | queuedResultWrite (c : Nat)
  /-- MANAGEMENT_CONNECTOR_ACCESS (R5): An access over the management connector reads or writes the management register space or reads a link status record. -/
  | managementConnectorAccess (x : MgmtAccess)
  deriving DecidableEq, Repr

end Sys2Proof
end

