-- ==== Sys2Proof/Config.lean ====
section
/-! DEFINITION. What an implementation fixes and the free values: opaque constants with no body, each named in a log entry,
so that no proof can lean on a value the spec leaves open. -/
namespace Sys2Proof

/-- What happens next: the lanes of a group or feeder context (by its index) that issue together at one word; lanes that stopped at a word
and are ready to go on; a link
sequencer that runs its chosen context; an event or a host command; the retirement of a group or a team; one piece of a store
performed, or of a load read anew; a location that an engine operation reads, or a piece of its result that it writes, before its end; a byte of a copy, of a curd or of an RDMA access that is read, or moved, before its turn; the beginning of a decoder's frame, and a byte of it; a sector an L1 writes back or fills, or that the L2 takes up or gives up; a word an instruction cache takes up or gives up; the delivery of a received message; the sending of a message on a link; a completion sent on a queue pair; a
translation that a TLB takes up or gives up; a queued result written; the reading of a flag word or counter that is watched; a command with an unknown opcode. -/
inductive Turn where
  | lanes (key : Nat) (mask : BitVec 32)
  | ready (key : Nat) (mask : BitVec 32)
  | seq (link : Nat)
  | event (i : Instr)
  | retire (key : Nat)
  | retireTeam (team : Nat)
  | perform (key id part : Nat)
  | reload (key id part : Nat)
  | engineSee (key id loc : Nat)
  | engineDo (key id i part : Nat)
  | copySee (key id i : Nat)
  | frameStart (dec : Nat) (fr : FrameInfo)
  | frameByte (dec i : Nat)
  | copyMove (key id i n : Nat)
  | rdmaPart (access : Rdma) (i : Nat)
  | rdmaEnd (qp : Nat)
  | curdSee (module curd i n : Nat)
  | curdMove (link i n : Nat)
  | writeBack (core sector : Nat)
  | fill (core ctxid : Nat) (va : BitVec 64)
  | l2Fill (ctxid : Nat) (va : BitVec 64)
  | l2Drop (sector : Nat)
  | fetchFill (core ctxid : Nat) (va : BitVec 64)
  | fetchDrop (core word : Nat)
  | deliver (k : Nat)
  | transmit (link k : Nat)
  | tlbFill (who ctxid page : Nat)
  | tlbDrop (who ctxid page : Nat)
  | reply (qp : Nat)
  | result (key : Nat)
  | flagRead (queue : Nat)
  | waitRead (link slot : Nat)
  | counterRead (tensor : Nat)
  | unknownCommand (op : Nat) (cmd : Command)
  deriving DecidableEq, Repr, Inhabited

/-- The schedule when the agenda is empty: any turn at all (R17 to R19, R287; log entry 3). -/
opaque Config.turn : Nat → Turn
/-- The steps for which what falls due at a step can be put off (R18, R19, R21; log entry 3). -/
opaque Config.patience : Nat → Nat
/-- Time that passes in a step, in clocks: index step × 256 + core for a core's clock, + 128 for the scheduler's counter (R3,
R278; log entry 4). -/
opaque Config.elapsed : Nat → Nat
/-- SM4-XTS under a key over the 32-byte word at a physical address: a permutation of the words (R274; log entry 5). Key 0 stands
for plaintext, key k + 1 for the 256 bits k. -/
opaque Config.sm4Xts : (key addr : Nat) → BitVec 256 ≃ BitVec 256
def Config.cipher (key addr : Nat) : BitVec 256 ≃ BitVec 256 := if key = 0 then Equiv.refl _ else Config.sm4Xts key addr
/-- The bytes by which REFBUF holds a stream's state, by the number of times that a decoder has left one and by their place (R342; log
entry 97). -/
opaque Config.refState : (n i : Nat) → BitVec 8
/-- The sector that a full cache gives up, of those that may go (R264, R265; log entry 76). -/
opaque Config.evicted : Nat → Nat
/-- The code of a violation in HSTAT and the black box (Table 18-3): 0 frame ownership, 1 empty key slot, 2 poison, 3
second parity error (log entry 6). -/
opaque Config.violationCode : Nat → Nat
/-- The module a context's peer table names for peer p (R169): the table's format is not given (log entry 7). -/
opaque Config.peerEntry : (table : Dword) → (p : Nat) → Option Nat
/-- The 16-byte units after a message's header unit, and those of an opening flit that tell a free relay space: the spec gives no layout
(R353, R355; log entry 47). -/
opaque Config.bodyUnit : (m : Message) → (i : Nat) → BitVec 128
opaque Config.openingUnit : (space i : Nat) → BitVec 128
/-- A link's receive buffer is full at a step (R354; log entry 47). -/
opaque Config.rxFull : (link n : Nat) → Bool
/-- The INFO bytes of a black-box entry (Table 18-6: "per KIND"; log entry 8). -/
opaque Config.bboxInfo : (kind n : Nat) → List Byte

/-- What a sample record says of timing: 0 the longest stall, 1 the memory level, 2 to 6 the five latencies (Table 18-4; log
entry 10). -/
opaque Config.sampleInfo : (n field : Nat) → Nat

/-- The algorithms that the spec names and does not give (log entry 11): SM3; whether a public key is a point of the SM2 curve; the
encryption of trace key n to a public key (112 bytes); whether a wrapped key decrypts, and to what; SM2 verification against the vendor key;
the module's SM2 signature (64 bytes); SM4-GCM under trace key n: ciphertext and tag. -/
opaque Config.sm3 : List Byte → BitVec 256
opaque Config.sm2Point : List Byte → Bool
opaque Config.sm2Wrap : (n : Nat) → (pub : List Byte) → List Byte
opaque Config.unwraps : List Byte → Bool
opaque Config.keyOf : List Byte → BitVec 256
opaque Config.sm2Verify : FwImage → Bool
opaque Config.sm2Sign : List Byte → List Byte
opaque Config.sm4Gcm : (n : Nat) → (nonce aad plain : List Byte) → List Byte × List Byte
/-- The module's serial number, 16 bytes (R386; log entry 12). -/
opaque Config.serial : List Byte
/-- What STARTSTAT shows as failed warm starts in a row once three have failed: 0 to 2 (R390, Table 0-4; log entry 14). -/
opaque Config.rowShown : Nat → Nat
/-- What the sensors read at step n (Table 0-4; log entry 13): THERM, and the power average and peak in W. -/
opaque Config.therm : Nat → Dword
opaque Config.power : Nat → Nat × Nat

end Sys2Proof
end

