-- ==== Sys2Proof/Machine/State.lean ====
section
/-! DEFINITION. The state of the machine: everything the spec gives the module, as plain data. Every structure's default
values are its values after reset (or at launch, where the spec gives launch values). -/
namespace Sys2Proof.Machine

/-! ## Groups and feeder contexts -/

/-- The counter classes (R29). -/
inductive Cls where
  | ld | st | tl | rm | cp
  deriving DecidableEq, Repr

/-- A trap that waits to be taken: cause, DETAIL, TADDR. -/
structure TrapInfo where
  cause  : Nat
  detail : Nat
  addr   : Dword
  deriving DecidableEq, Repr

/-- A lane's arrival on a barrier through the BARS at `pc`: `done` holds the phase in which the arrival was counted, with
its damage bit, once that phase has completed (R194). -/
structure BarMark where
  level : Nat
  idx   : Nat
  pc    : Dword
  done  : Option (Nat × Bool)
  deriving DecidableEq, Repr

/-- A frame that a TAKE has reserved (R162): the victim's core, the frame's SEQ, and the choice of victim that went with it (R160): its die
and distance, the choice before it, the choice. -/
structure Resv where
  core   : Nat
  seq    : Nat
  choice : Option (Nat × Option Nat × Nat)
  deriving DecidableEq, Repr

/-- One lane (R12, R33, Table 1-18). `preds` bit k is pk (bit 0 unused); `run` counts the words of the current run
(R43); `sub` holds the lanes it issues with until its run ends (R17), or with which one rejoin release freed it (R129),
and 0 where it may join any; `stopped` the word at which its run stopped to wait (R287); `unpark` the word after the RJPARK at which it is
parked (R128); `task` the current task's join address and the records left (R157); `refusals` the peers' refusals not yet taken, oldest
first (R172); `resv` the frame that a TAKE of the lane has reserved (R162); `held` an issue held under R133; `parity` a parity error in
the current run (R277); `stepDue` a single-step trap that a completed wait still owes (R146); `bkPass` lets the lane pass a hardware
breakpoint once (R379). -/
structure Lane where
  pc       : Dword := 0
  tpc      : Dword := 0
  taddr    : Dword := 0
  exited   : Bool := false
  parked   : Option Nat := none
  unpark   : Dword := 0
  waiting  : Bool := false
  held     : Bool := false
  stopped  : Option Dword := none
  parity   : Bool := false
  preds    : BitVec 8 := 0
  flags    : Word := 0
  srseed   : Word := 0
  run      : Nat := 0
  sub      : Word := 0
  task     : Option (Dword × Nat) := none
  stepArm  : Bool := false
  stepDue  : Bool := false
  bkPass   : Bool := false
  bars     : List BarMark := []
  refusals : List TrapInfo := []
  resv     : Option Resv := none
  deriving DecidableEq, Repr

/-- The bytes of a store that are not yet performed: where they go, under which key, whether the core's L1 takes
them (a team-scope performance) or the home slice does, the virtual page they were translated through, whether they keep the lane's
program order because they were issued past an incomplete FENCE (R185), whether their sectors stream (R265), and the join increments that
follow at once, each with its counter's location (log entry 80). -/
structure PStore where
  lane : Nat
  loc  : Nat
  tag  : Nat
  l1   : Bool
  page : Option Nat
  data : List Byte
  ord  : Bool := false
  stream : Bool := false
  incs : List (Nat × Nat) := []
  deriving DecidableEq, Repr

/-- A release that has been performed before its lane's older operations were, which a party outside its scope may see (R245, log entry 103):
the operation, its lane, its bytes, its scope. -/
structure Owed where
  op    : Nat
  lane  : Nat
  loc   : Nat
  len   : Nat
  scope : Nat
  deriving DecidableEq, Repr

/-- One single-copy-atomic piece of a load (R251): the lane, where it is read, the register entries it goes to, how it is
extended, the words read so far, and whether a later read may still give others (`live`: R175, R249). -/
structure LPart where
  lane : Nat
  loc  : Nat
  tag  : Nat
  l1   : Bool
  page : Option Nat
  size : Nat
  sgn  : Bool
  data : List (Nat × Word)
  live : Bool
  deriving DecidableEq, Repr

/-- What a lane awaits of a fabric access: the register entries its data goes to. -/
structure RLane where
  lane : Nat
  keys : List Nat
  size : Nat
  sgn  : Bool
  addr : Dword
  deriving DecidableEq, Repr

/-- One request message of a fabric access (R356): whether it is an acquire (LDA, R177), and whether it has been answered. -/
structure ROut where
  id    : Nat
  acq   : Bool
  peer  : Nat
  lanes : List RLane
  done  : Bool
  deriving DecidableEq, Repr

/-- An affine pattern (Table 9-4). -/
structure Pattern where
  base  : Dword := 0
  cnt0  : Nat := 0
  cnt1  : Nat := 0
  cnt2  : Nat := 0
  esize : Nat := 0
  str0  : Dword := 0
  str1  : Dword := 0
  str2  : Dword := 0
  deriving DecidableEq, Repr

/-- A codebook slot of a core (R235). -/
structure Codebook where
  team    : Option Nat := none
  iw      : Nat := 0
  vsize   : Nat := 0
  entries : Nat := 0
  deriving DecidableEq, Repr

/-- What a copy moves (Table 9-7); a CPYX with the index width, entry size and entry count of its slot when it was checked, and from its
start on those it then has (log entry 83). -/
inductive CopyKind where
  | cpy (dst src : Dword) (len : Nat)
  | cpya (dst : Dword) (pat : Pattern)
  | cpyg (dst sbase iaddr : Dword) (count rsize limit : Nat)
  | cpyx (dst src : Dword) (count slot iw vsize entries : Nat)
  | cbload (src : Dword) (slot iw vsize entries : Nat)
  | qpush (pat : Pattern) (queue : Nat)
  deriving DecidableEq, Repr

/-- A piece of a copy on its way to or from a peer (R236, R356): its request, whether it is read there, its place in copy order, its address,
and the cause with which the peer has refused it. -/
structure CopySend where
  id      : Nat
  rd      : Bool
  off     : Nat
  len     : Nat
  addr    : Dword
  refused : Option Nat
  deriving DecidableEq, Repr

/-- A translated page that an operation holds until it retires (R119, R208): the number of its 64 KiB page, the physical
address of the page, the key tag, and whether the L1 may hold it (R265). -/
structure HeldPage where
  page : Nat
  phys : Nat
  tag  : Nat
  l1   : Bool
  deriving DecidableEq, Repr

/-- A page that a copy has started (R236, R272): whether it is the destination's, and the places of the copy order that lie in it. -/
structure CopyPage where
  dst  : Bool
  lo   : Nat
  n    : Nat
  held : HeldPage
  deriving DecidableEq, Repr

/-- A copy in flight (R236 to R240): its CPBIND value at issue, its issue number, the bytes delivered in copy order, and the fault
that suspends it. Of its bytes by their place in copy order: those read before they are delivered, and those delivered before their turn
(Table 9-10); the index each unit has read; the pieces that peers have not answered; the codebook slot as it stood when a CPYX started
(R235); and the pages it has started and not finished. -/
structure CopyOp where
  kind  : CopyKind
  bind  : Word
  seq   : Nat
  bytes : Nat
  fault : Option TrapInfo
  seen  : Bank (Option Byte) := []
  moved : List Nat := []
  picks : Bank (Option Nat) := []
  sent  : List CopySend := []
  book  : Option (Bank Byte) := none
  pages : List CopyPage := []
  deriving DecidableEq, Repr

def CopyKind.isQpush : CopyKind → Bool
  | .qpush _ _ => true
  | _ => false

/-- A matrix operation in flight (R208 to R220): its opcode (fn of major 43), the lanes of its Act, the 16 words of its
parameter block, its format word, its generator's seed, the B slots bound at issue by quarter, SCALEH.START at issue, the
translations it holds, of work begun before its end the bytes it has read and the locations it has written (Table 8-9), and whether its
wait link's wait has ended (R216). -/
structure MatOp where
  fn    : Nat
  lanes : Word
  block : List Dword
  fw    : Word
  seed  : Word
  slots : List Nat
  start : Nat
  held  : List HeldPage
  seen  : Bank (Option Byte) := []
  wrote : List Nat := []
  go    : Bool := false
  deriving DecidableEq, Repr

/-- A stream chain in flight (R117 to R120): the words of its chain block, the translations it holds, and, of work begun before its
end, the bytes it has read, the locations it has written, and the locations of each element of which it has written only a part (Table
4-13). -/
structure ChainOp where
  block : List Dword
  held  : List HeldPage
  seen  : Bank (Option Byte) := []
  wrote : List Nat := []
  begun : List (List Nat) := []
  deriving DecidableEq, Repr

/-- What a counted operation still has to do. -/
inductive OpBody where
  | load (parts : List LPart)
  | store (todo : List PStore) (rel : Option Nat)
  | remote (reqs : List ROut)
  | matrix (op : MatOp)
  | vchain (op : ChainOp)
  | copy (op : CopyOp)
  deriving DecidableEq, Repr

/-- An operation counted in a class (R29); it leaves the list when it and every older one of its class are done. -/
structure PendOp where
  id    : Nat
  cls   : Cls
  lanes : Word
  done  : Bool
  body  : OpBody
  deriving DecidableEq, Repr

/-- What a lane held at a FENCE (R186, step 1). -/
structure FenceLane where
  lane   : Nat
  preds  : BitVec 8
  flags  : Word
  srseed : Word
  run    : Nat
  deriving DecidableEq, Repr

/-- An incomplete FENCE (R184 to R186): the operations that must be performed first, the lanes that ran past it, the
group's registers, operand queues and PART as they would stand without what those lanes have done since, the sectors that they have
speculatively read, each with the lane that read it, the operations issued past it (their stores are held,
their loads speculative), and whether a conflict has reached it. -/
structure Fence where
  id       : Nat
  scope    : Nat
  pc       : Dword
  after    : List Nat
  lanes    : List FenceLane
  regs     : Bank Word
  queues   : Bank (List (Bank Word))
  part     : Word
  sectors  : List (Nat × Nat)
  specOps  : List Nat
  conflict : Bool
  deriving DecidableEq, Repr

/-- A TAKE in progress (R158): the lanes of its Act that it has not served yet, how many its Act held, and W of the cards it has reached,
each by the core that holds it and its SEQ. -/
structure TakeOp where
  lanes : Word
  acts  : Nat
  ws    : List ((Nat × Dword) × Nat)
  deriving DecidableEq, Repr

/-- A special-function or conversion result that waits in the group's queue (R92). -/
structure QueuedResult where
  keys : List (Nat × Word)
  deriving DecidableEq, Repr

/-- The kernel a group runs: its record of the loaded object (Table 17-2), read at launch, and the object's emulation
bindings (R370). Missing list entries read as 0. -/
structure Kernel where
  addr    : Dword := 0
  object  : Nat := 0
  tbar    : Nat := 0
  tasks   : Bool := false
  feed    : Bool := false
  compat  : Bool := false
  entries : List Dword := []
  wsizes  : List Nat := []
  feedEnt : Dword := 0
  bars    : List (Nat × Nat × Nat × Bool) := []
  vats    : List Nat := []
  gvec    : List Dword := []
  fvec    : List Dword := []
  req     : BitVec 512 := 0
  emul    : List (Nat × Dword) := []
  deriving DecidableEq, Repr

/-- A read of a block at another module (R226, R356): its request, the lane that waits for it, its address and length, and the answer: the
bytes, or the cause and DETAIL with which the peer refuses it. -/
structure PeerRead where
  id   : Nat
  lane : Nat
  addr : Dword
  len  : Nat
  data : Option (List Byte)
  refused : Option (Nat × Nat)
  deriving DecidableEq, Repr

/-- One hardware breakpoint (R379): its word and the lanes it stops. -/
structure Breakpoint where
  addr  : Dword
  lanes : Word
  deriving DecidableEq, Repr

/-- A group, or a group's feeder context (`isFeeder`, one lane, lane 0): R13, R222. It stands in the state under twice
its place number (core × 48 + quadrant × 12 + slot), the feeder context one above. Registers are kept per role:
register N of role r of lane l has index (r × 64 + N) × 32 + l, whose place in the column is the role's base + N. `shown`
holds the slot and the window bases that a live migration keeps in GROUPID.SLOT and WIN.BASE (R36); `stalls` the stall reasons that a
tagged word has met (R288, R381); `takes` the TAKEs in progress (R158); `poison` the poisoned registers (R276);
`fetched` the blocks asked of other modules (R356); `owed` the releases performed early (R245). -/
structure Grp where
  used     : Bool := false
  isFeeder : Bool := false
  gid      : Nat := 0
  core     : Nat := 0
  quad     : Nat := 0
  slot     : Nat := 0
  grid     : Nat := 0
  cluster  : Nat := 0
  team     : Nat := 0
  group    : Nat := 0
  tq       : Nat := 15
  ctxid    : Nat := 0
  kern     : Kernel := {}
  bases    : List Nat := []
  priv     : Nat := 0
  role     : Nat := 0
  lanes    : Bank Lane := []
  v        : Bank Word := []
  s        : Bank Dword := []
  j        : Bank Word := []
  part     : Word := 0
  qwin     : Word := 0
  rmode    : Word := 0
  trapen   : Word := 0
  tcause   : Word := 0
  tlanes   : Word := 0
  scaleh   : Dword := 0x7F#64
  tlbinv   : Dword := 0
  tlbAfter : List Nat := []
  nextOp   : Nat := 0
  ops      : List PendOp := []
  fences   : List Fence := []
  sfq      : List QueuedResult := []
  reported : List (Nat × Nat × Nat) := []
  halted   : Bool := false
  haltPend : Bool := false
  hstat    : Dword := 0
  hold     : Bool := false
  frozen   : Bool := false
  bkpts    : Bank (Option Breakpoint) := []
  pats     : Bank Pattern := []
  queues   : Bank (List (Bank Word)) := []
  cpbind   : Word := 0
  cfault   : Dword := 0
  cfOp     : Option Nat := none
  copySeq  : Nat := 0
  saveReq  : Bool := false
  shown    : Option (Nat × List Nat) := none
  samples  : List (Option Nat × List Byte) := []
  stalls   : List Nat := []
  takes    : List TakeOp := []
  poison   : List Nat := []
  fetched  : List PeerRead := []
  owed     : List Owed := []
  deriving DecidableEq, Repr

/-! ## Barriers, vats, teams, clusters, grids -/

/-- A barrier (R190): the current phase, the lane-arrival masks by the group's number in its grid, the groups counted, the feeder and
decoder counts, the damage so far, the last phase's damage bit, and the held arrivals in order (`heldM`: lanes that
arrive links hold, R217). -/
structure Barrier where
  phase   : Nat := 0
  masks   : Bank Word := []
  arrived : List Nat := []
  fcount  : Nat := 0
  ccount  : Nat := 0
  dmg     : Bool := false
  lastD   : Bool := false
  heldG   : List Nat := []
  heldF   : List Bool := []
  heldC   : List Bool := []
  heldM   : List (Nat × Word) := []
  deriving DecidableEq, Repr

/-- The states of a vat (Table 9-5). -/
inductive VatSt where
  | free | filling | full | draining
  deriving DecidableEq, Repr

/-- A vat (R229): state, fill count n, issued count i, completed copies, damage, and whether a decoder has filled part of it. -/
structure Vat where
  st     : VatSt := .free
  n      : Nat := 0
  i      : Nat := 0
  filled : Nat := 0
  dmg    : Bool := false
  dec    : Bool := false
  deriving DecidableEq, Repr

/-- A team (R14) under (grid × 65536 + cluster) × 16 + index: its core, allocations, the places of its resident groups, that of its first
group when it was placed, the current staging slot of each quarter by the group's number (R199), barriers and vats. -/
structure Team where
  used    : Bool := false
  core    : Nat := 0
  opBase  : Nat := 0
  opBytes : Nat := 0
  accBase : Nat := 0
  accq    : Nat := 0
  quads   : Nat := 0
  ngroups : Nat := 0
  gids    : List Nat := []
  lead    : Nat := 0
  slots   : Bank Nat := []
  bars    : Bank Barrier := []
  vats    : Bank Vat := []
  lived   : Nat := 0
  retiring : Bool := false
  retired : Bool := false
  deriving DecidableEq, Repr

/-- The life of a cluster (Table 1-17). -/
inductive ClusterSt where
  | none | resident | draining | saving | saved | retired
  deriving DecidableEq, Repr

/-- A cluster (R15) under grid × 65536 + index: where it stands, its barriers, when it was placed, the pre-emption
request it holds (its budget T and the cycle it was made), and how many of its teams have retired. -/
structure Cluster where
  st       : ClusterSt := .none
  die      : Nat := 0
  row      : Nat := 0
  col      : Nat := 0
  teams    : Nat := 0
  bars     : Bank Barrier := []
  placed   : Nat := 0
  order    : Nat := 0
  request  : Option (Nat × Nat) := none
  discard  : Bool := false
  deriving DecidableEq, Repr

/-- A launch packet (Table 12-2) as 16 words of 64 bits. -/
structure Packet where
  words : List Dword := []
  deriving DecidableEq, Repr

/-- A grid (R16): its packet, context, kernel, launch queue, the clusters placed and retired, its barriers, the scratchpad
it holds per die (offset and bytes), the frames dropped, and the lives of its retired teams (R290). -/
structure Grid where
  used     : Bool := false
  ctxid    : Nat := 0
  queue    : Nat := 0
  level    : Nat := 0
  packet   : Packet := {}
  kern     : Kernel := {}
  nclus    : Nat := 0
  nextClus : Nat := 0
  retired  : Nat := 0
  pending  : List Nat := []
  bars     : Bank Barrier := []
  scr      : Bank (Option (Nat × Nat)) := []
  scrTaken : Bool := false
  lives    : Nat × Nat := (0, 0)
  deriving DecidableEq, Repr

/-- A packet in a launch queue (R280): its sequence number, its latched dependences, whether its checks at the head are made and
whether it starts an imposition (R313), the cycle it became placeable, the grid made for it once its first cluster is placed, what its
launcher issued before it (R167): group, operation, core; and the kernel that the check at the head found (R374). -/
structure Queued where
  packet : Packet
  seq    : Nat
  latched : List Nat
  checked : Bool
  imp     : Bool
  ready  : Option Nat
  grid   : Option Nat
  after  : List (Nat × Nat × Nat)
  kern   : Option Kernel := none
  deriving DecidableEq, Repr

/-- A launch queue (Table 12-1, R279, R280). -/
structure LaunchQ where
  isOpen : Bool := false
  level  : Nat := 0
  depth  : Nat := 0
  ctxid  : Nat := 0
  slice  : Nat := 0
  next   : Nat := 1
  packets : List Queued := []
  deriving DecidableEq, Repr

/-- What a saved team keeps beside its groups (Table 1-18): the team with its barriers and vats; the bytes of its
operand-store allocation and of its accumulator allocation in each quadrant, from offset 0; the staging stores of its quads (R199);
and the codebook slots tagged with it (R235). -/
structure SavedTeam where
  idx   : Nat
  team  : Team
  op    : Bank Byte
  accs  : List (Bank Byte)
  stage : Bank Byte
  books : List (Nat × Codebook × Bank Byte)
  deriving DecidableEq, Repr

/-- A saved cluster (R39, R291): its groups and feeder contexts as they stood, and its teams. -/
structure SavedCluster where
  grid    : Nat
  cluster : Nat
  groups  : List (Grp × Grp)
  teams   : List SavedTeam
  deriving DecidableEq, Repr

/-! ## Contexts and loaded objects -/

/-- A loaded object (R372): its context, address and size, its kernels by the address of their records, and whether an
OBJDROP has been received (R374). -/
structure LoadedObj where
  ctxid : Nat
  base  : Dword
  size  : Nat
  kernels : List Kernel
  dropping : Bool
  deriving DecidableEq, Repr

/-- One open trace block and the counts of a traced context (R381 to R383). -/
structure TraceCfg where
  on     : Bool := false
  mask   : Nat := 0
  period : Nat := 0
  ring   : Dword := 0
  bytes  : Nat := 0
  written : Nat := 0
  seq    : Nat := 0
  lost   : Nat := 0
  recs   : List (List Byte) := []
  deriving DecidableEq, Repr

/-- A context (Table 1-16): the descriptor as copied. -/
structure Context where
  used     : Bool := false
  conf     : Bool := false
  dbg      : Bool := false
  fab      : Bool := false
  ptroot   : Nat := 0
  spill    : Dword := 0
  priv     : Dword := 0
  keys     : BitVec 256 := 0
  contract : BitVec 512 := 0
  trkey    : Dword := 0
  peers    : Dword := 0
  desc     : List Byte := []
  saved    : Bool := false
  trace    : TraceCfg := {}
  traceKey : Nat := 0
  dying    : Bool := false
  deriving DecidableEq, Repr

/-! ## What issues next -/

/-- The modifiers gathered from the words of a prefix group (R48 to R50). -/
structure Prefix where
  hasMod  : Bool := false
  rnd     : Nat := 0
  pd      : Nat := 0
  promote : Bool := false
  cache   : Nat := 0
  imms    : List (BitVec 22) := []
  deriving DecidableEq, Repr

/-- The issue in progress: the group or feeder context (its index), the lanes that stand together at one word, the address
of the first word of the prefix group, and the prefix words already read; with no lanes, whether the last issue had no effect
and its lanes stand (`stalled`). -/
structure Cur where
  stalled : Bool := false
  word  : Word := 0
  key   : Nat := 0
  lanes : Word := 0
  pc    : Dword := 0
  pos   : Nat := 0
  pre   : Prefix := {}
  deriving DecidableEq, Repr

/-! ## Tasks -/

/-- A task frame (Table 6-1). `origin` is the core that holds it in its deque's place of birth, `seq` its age. -/
structure Frame where
  entry  : Dword
  arg    : Dword
  join   : Dword
  batch  : Bool
  resv   : Bool
  team   : Nat
  grid   : Nat
  count  : Nat
  size   : Nat
  next   : Nat
  origin : Nat
  seq    : Dword
  deriving DecidableEq, Repr

/-- A core's hardware deque, oldest first, its spawn sequence counter (R148, R149), and the victim it last chose at each
die (own 0, other 1) and distance (R160), under die × 16 + distance; how many frames of each grid its ring holds
(R151); and the frames, by SEQ, whose push still awaits operations of its lane (group, operation, core): no lane takes one before
(R164, log entry 80). -/
structure Deque where
  frames : List Frame := []
  seq    : Dword := 0
  chosen : Bank (Option Nat) := []
  ringed : Bank Nat := []
  awaiting : List (Dword × List (Nat × Nat × Nat)) := []
  deriving DecidableEq, Repr

/-! ## The fabric -/

/-- One direction of a link (Table 16-4, R358): its masks, the failures in a row of each wavelength, the wavelengths that
wait to retrain, and its counters. -/
structure LinkDir where
  active   : Nat := 255
  retraining : Nat := 0
  failed   : Nat := 0
  fails    : Bank Nat := []
  queue    : List Nat := []
  retrains : Nat := 0
  cbits    : Bank Nat := []
  uncorr   : Nat := 0
  discard  : Nat := 0
  naktx    : Nat := 0
  nakrx    : Nat := 0
  retslot  : Nat := 0
  relayed  : Nat := 0
  deriving DecidableEq, Repr

/-- A link: its two directions (0 receive, 1 transmit) and its slot connection (R351 to R354): the slot it runs and the peer
module, whether the peer's opening flit has come, the next SEQ to send, the first not acknowledged and the next to accept; the mask last
received, and the maps by which the next flit sent and the next received are striped; the data flits sent and not acknowledged, each with its
SEQ, its message and its number in it; the message being received with its units so far; whether flits are discarded until a resend; the
peer's free relay space, and that which this module's opening flit announces; and the flits sent on it, by wavelength. -/
structure Link where
  rx       : LinkDir := {}
  tx       : LinkDir := {}
  slot     : Option Nat := none
  peer     : Nat := 0
  opened   : Bool := false
  txSeq    : Nat := 0
  txAck    : Nat := 0
  rxSeq    : Nat := 0
  peerMask : Nat := 255
  map      : Nat := 255
  rxMap    : Nat := 255
  unacked  : List (Nat × Message × Nat) := []
  part     : Option (Message × Nat) := none
  naking   : Bool := false
  relaySpace : Nat := 0
  announced : Nat := 0
  out      : List (List (List (BitVec 128))) := []
  deriving DecidableEq, Repr

/-- The links and the transaction layer (R349 to R357): this module's number, the next MSGNO to each module and from each,
messages received and not yet delivered, messages to send, messages held for relay (HOP = 1), the next request number, and the
completion flags sent to other modules and not yet answered: request, context, address, status (R286); and the bytes of a chunk whose
last message from a module is still to come. -/
structure Fabric where
  self    : Nat := 0
  links   : Bank Link := []
  txNext  : Bank Nat := []
  rxNext  : Bank Nat := []
  heldRx  : List Message := []
  outbox  : List Message := []
  relay   : List Message := []
  nextReq : Nat := 0
  flags   : List (Nat × Nat × Dword × Dword) := []
  parts   : Bank (List Byte) := []
  deriving DecidableEq, Repr

/-! ## Link sequencers (chapter 13) -/

/-- The states of a context slot (Table 13-1). -/
inductive SeqSt where
  | free | ready | running | waiting | stopped
  deriving DecidableEq, Repr

/-- What a waiting context waits for: a flag, a chunk on a channel, room for bytes in transmit staging. -/
inductive SeqWait where
  | flag
  | chunk (ch : Nat)
  | room (n : Nat)
  deriving DecidableEq, Repr

/-- An imposition as one link's slot runs it (Table 13-9, R314): its identity, the number its launching module gave it, its context, the
launching module, this module's rank, the modules by rank, the record's fields, the program's words and PARAM. -/
structure SeqImp where
  impid    : Dword := 0
  uid      : Nat := 0
  ctxid    : Nat := 0
  launcher : Nat := 0
  rank     : Nat := 0
  mods     : List Nat := []
  scope    : Nat := 0
  slot     : Nat := 0
  tleaf    : Nat := 0
  forme    : Dword := 0
  gen      : Dword := 0
  farea    : Dword := 0
  faultf   : Dword := 0
  words    : List Dword := []
  param    : Dword := 0
  deriving DecidableEq, Repr

/-- A context slot (R294): channels are bound to a peer's rank + 128 × slot; `pend` is an ABORT (true) or STOP (false) that waits
for a chunk boundary; `held` the translations of a chunk instruction that waits (R303); `staged` holds the chunks of no channel, `backlog` those that wait for staging room, with their module;
`starts` the starts that wait; `last` the IMPID that last ended here (R302). -/
structure SeqSlot where
  st      : SeqSt := .free
  frozen  : Bool := false
  imp     : SeqImp := {}
  pc      : Nat := 0
  c       : Bank Dword := []
  bind    : Bank (Option Nat) := []
  chans   : Bank (List Chunk) := []
  tleaf   : Nat := 0
  stops   : Nat := 0
  stepping : Bool := false
  pend    : Option Bool := none
  wait    : Option SeqWait := none
  held    : Option (List HeldPage) := none
  staged  : List Chunk := []
  backlog : List (Nat × Chunk) := []
  starts  : List SeqImp := []
  last    : Option Dword := none
  deriving DecidableEq, Repr

/-- A link's sequencer (R293, R318): the slot that runs, the slot that ran last, the bytes in transmit staging. -/
structure SeqLink where
  running : Option Nat := none
  last    : Nat := 3
  tx      : Nat := 0
  deriving DecidableEq, Repr

/-- An imposition at its launching module (R313 to R317): its number there (TICKETs of two queues may be equal), its modules, those that
have answered its start, those whose contexts have all ended, and how it is going to end. -/
structure Imposition where
  uid      : Nat
  ctxid    : Nat
  cflag    : Dword
  mods     : List Nat
  answered : List Nat
  ended    : List Nat
  aborted  : Bool
  failed   : Bool
  deriving DecidableEq, Repr

/-- A module's part of an imposition (R315), named by its launcher and the launcher's number for it: the contexts still loaded or
waiting. -/
structure ImpPart where
  uid      : Nat
  ctxid    : Nat
  launcher : Nat
  live     : Nat
  aborted  : Bool
  deriving DecidableEq, Repr

/-- The sequencers: slots under link × 4 + slot, links, the link whose instruction is being executed, the impositions
launched here, with the number of the next, and this module's parts of impositions. -/
structure Seqs where
  slots : Bank SeqSlot := []
  links : Bank SeqLink := []
  cur   : Option Nat := none
  imps  : List Imposition := []
  parts : List ImpPart := []
  nextImp : Nat := 0
  deriving DecidableEq, Repr

/-! ## The re-sharding engine (chapter 14) -/

/-- A curd (R329): its tensor, the participant it comes from, where it lies in the source's old and the receiver's new shard, and
its length. -/
structure Curd where
  tensor : Nat
  source : Nat
  src    : Dword
  dst    : Dword
  len    : Nat
  deriving DecidableEq, Repr

/-- A tensor of a forme (Table 14-2): BASE, element bytes, extents, and the mesh axis that splits each dimension (0 none). -/
structure Tensor where
  base  : Dword
  esize : Nat
  dims  : List Nat
  split : List Nat
  deriving DecidableEq, Repr

/-- A forme (Table 14-1) as read: its mesh, the modules by rank, GENADDR, PENDTAB, its tensors. -/
structure Forme where
  mesh    : List Nat
  mods    : List (Option Nat)
  gen     : Dword
  pend    : Dword
  tensors : List Tensor
  deriving DecidableEq, Repr

/-- The engine (R327 to R337): whether it runs a part, the context whose violation froze it, the request's context, address
and words, the participants' modules and this module's place among them, whether the coordinator commits; what its issuer issued before it
(R241: group, operation, core); the acceptances heard (module, context, request address, COMMIT); STATE of the part (0 while an accepted
request waits for those), its formes and plan, the tensors whose counter it last read nonzero, the ranks that have reported, the curds
it has still to ask for or to move itself, those other modules have asked of it that still wait (module, curd), and those it was told to
clear before its plan was made. Of curds being moved: the bytes read so far (module, curd, place) and the places written so far (R251).
Whether the commit has begun here, the generation of a commit that waits for a part that moves again, and the ranks whose
generation word is written (R335). -/
structure Reshard where
  active   : Bool := false
  frozen   : Option Nat := none
  ctxid    : Nat := 0
  addr     : Dword := 0
  req      : List Dword := []
  parts    : List Nat := []
  rank     : Nat := 0
  commit   : Bool := false
  accepted : List (Nat × Nat × Dword × Bool) := []
  st       : Nat := 0
  formes   : Option (Forme × Forme) := none
  curds    : List Curd := []
  held     : List Nat := []
  reports  : List Nat := []
  asks     : List Nat := []
  waiting  : List (Nat × Nat) := []
  after    : List (Nat × Nat × Nat) := []
  clears   : List Nat := []
  seen     : List ((Nat × Nat × Nat) × Byte) := []
  landed   : List (Nat × Nat) := []
  committing : Bool := false
  owed     : Option Dword := none
  acks     : List Nat := []
  deriving DecidableEq, Repr

/-! ## The decoders (chapter 15) -/

/-- What a sequence header gives (R338, R342): the profile, the level of operating point 0, the picture's size, the bit depth, whether it is
monochrome, whether it is 4:2:0 or monochrome, and whether film-grain parameters may stand in a frame. -/
structure SeqHeader where
  profile : Nat
  level   : Nat := 0
  w       : Nat := 0
  h       : Nat := 0
  bd      : Nat := 8
  mono    : Bool := false
  sub420  : Bool := true
  grain   : Bool := false
  deriving DecidableEq, Repr

/-- A stream (R342, R346, R347): its parsing state, the pictures in its eight reference slots, the last good picture, the tainted slots,
and the bytes by which REFBUF holds it. -/
structure DecStream where
  header : Option SeqHeader := none
  slots  : Bank (Option Picture) := []
  good   : Option Picture := none
  taint  : List Nat := []
  image  : List (Nat × List Byte) := []
  deriving DecidableEq, Repr

/-- A frame that a decoder is writing (R343): the vat, the bytes, the places written so far, the status word, the damage. -/
structure DecFrame where
  vat   : Nat
  data  : List Byte
  wrote : List Nat
  word  : Nat
  dmg   : Bool
  deriving DecidableEq, Repr

/-- An accepted decode request (R340, R341): the group it was issued beside, the record's words, the decoder it runs on, the
frames output, the error kind that every further frame takes, what its issuer issued before it (R241: group, operation, core), the
frame being written, how far into BITS it is, and its stream. -/
structure DecReq where
  id    : Nat
  key   : Nat
  ctxid : Nat
  grid  : Nat
  cluster : Nat
  team  : Nat
  block : List Dword
  dec   : Option Nat
  next  : Nat
  dead  : Nat
  after : List (Nat × Nat × Nat)
  frame : Option DecFrame := none
  pos   : Nat := 0
  strm  : DecStream := {}
  deriving DecidableEq, Repr

/-- The decoders: requests in arrival order, the streams that decoders have left in memory, how many times that has been, and the decoders
frozen for a context. -/
structure Decoders where
  reqs    : List DecReq := []
  nextId  : Nat := 0
  streams : List DecStream := []
  left    : Nat := 0
  frozen  : Bank (Option Nat) := []
  deriving DecidableEq, Repr

/-! ## The host side (chapter 16) -/

/-- What a completion still waits for (Tables 16-5, 17-4, 18-2): a cluster saved or retired, an invalidation, an object's last
grid, a halt. -/
inductive Await where
  | now
  | cluster (key : Nat)
  | inval (ctxid : Nat) (v : Dword)
  | object (idx : Nat)
  | halt (key : Nat)
  deriving DecidableEq, Repr

/-- A completion (R364) in the order of its queue pair. -/
structure Reply where
  tag    : Word
  status : Nat
  value  : Dword
  extra  : List Byte
  await  : Await
  deriving DecidableEq, Repr

/-- A queue pair (R361, R362): usable or not, its context, the error state, completions not yet sent; and an RDMA access some of whose bytes
have moved before the rest (R251): the access, and those bytes by place. -/
structure QPair where
  enabled : Bool := false
  ctxid   : Option Nat := none
  error   : Bool := false
  replies : List Reply := []
  ahead   : Option (Rdma × Bank (Option Byte)) := none
  deriving DecidableEq, Repr

/-- A registered memory region (R363). -/
structure MemRegion where
  ctxid : Nat
  vbase : Dword
  len   : Dword
  w     : Bool
  deriving DecidableEq, Repr

/-- What the module sends to hosts. -/
inductive HostMsg where
  | completion (qp : Nat) (tag : Word) (status : Nat) (value : Dword) (extra : List Byte)
  | readData (qp : Nat) (data : List Byte)
  | accessNak (qp : Nat)
  | invalidNak (qp : Nat)
  | congestion (qp : Nat)
  | mgmt (data : List Byte)
  deriving DecidableEq, Repr

/-- The host interface: queue pairs 0 to 255, memory regions by rkey, and what has been sent. -/
structure HostIf where
  qps     : Bank QPair := [(0, { enabled := true }), (1, { enabled := true })]
  regions : Bank (Option MemRegion) := []
  nextKey : Nat := 1
  out     : List HostMsg := []
  deriving DecidableEq, Repr

/-! ## Management and starts (R3 to R5, R384 to R390) -/

/-- The management controller: clock steps, the coolant hold, the error counts, START and STARTSTAT's fields, the
measurement, warm starts since the last cold start, and whether a failed start leaves only the management connector. -/
structure Mgmt where
  clkStep   : Nat := 0
  clkLimit  : Nat := 0
  clkCap    : Nat := 0
  limiting  : Bool := false
  hold      : Bool := false
  holds     : Nat := 0
  sramErr   : Nat := 0
  dramErr   : Nat := 0
  start     : Dword := 0
  lastKind  : Nat := 1
  failedRow : Nat := 0
  failStep  : Nat := 0
  warmCount : Nat := 0
  measure   : BitVec 256 := 0
  asked     : Option (Nat × Bool) := none
  dead      : Bool := false
  deriving DecidableEq, Repr

/-- A context that has left for another module (R36, R376): its descriptor, load table, grids with their clusters, and saved
clusters. -/
structure Migrated where
  ctxid : Nat
  ctx   : Context
  objs  : List (Nat × Option LoadedObj)
  grids : List (Nat × Grid)
  clusters : List (Nat × Cluster)
  saved : List SavedCluster
  deriving DecidableEq, Repr

/-! ## Why a step can stop -/

/-- The machine takes no fault of its own: every condition the spec names is a trap, a stop code, a status or a refusal
it describes, and those are next states. The one reason is the model's, for a location the spec says does not exist. -/
inductive Fault where
  /-- Raised by no instruction: an address outside every memory (R267) ends in the trap or the record the spec gives it. Safe. -/
  | noSuchLocation
  deriving DecidableEq, Repr

/-- Why an instruction has no meaning here. -/
inductive Refusal where
  /-- The instruction is not modelled. Safe: the machine stops. -/
  | notModelled (mnemonic : String)
  deriving DecidableEq, Repr

/-! ## The module -/

/-- One black-box entry (Table 18-6). -/
structure BBoxEntry where
  seq    : Nat
  scyc   : Dword
  kind   : Nat
  master : Nat
  ctxid  : Nat
  code   : Nat
  addr   : Nat
  info   : List Byte
  deriving DecidableEq, Repr

/-- The black-box record (R388): the events counted since the last cold start, and the ring. A completed cold start has
left its KIND 8 entry. -/
structure BBox where
  seq     : Nat := 1
  entries : Bank (Option BBoxEntry) := [(0, some ⟨0, 0, 8, 0, 0, 0, 0, []⟩)]
  deriving DecidableEq, Repr

/-- What a requester's TLB or walker holds of a page (R273): a leaf entry with its page's size in bits, or the table its walk has
reached, to be read at a level. -/
inductive Held where
  | leaf (e : Dword) (shift : Nat)
  | table (level base : Nat)
  deriving DecidableEq, Repr

/-- A sector in the L2 (R265, R274): the key id under which it was filled, the key tag under which DRAM holds its words, whether it has been
written since, and whether it streams. -/
structure L2Sector where
  key    : Nat
  tag    : Nat
  dirty  : Bool
  stream : Bool
  deriving DecidableEq, Repr

/-- The scheduler (R278 to R292). -/
structure Sched where
  cycle   : Dword := 0
  queues  : Bank LaunchQ := []
  rr      : Bank (Option Nat) := []
  nextGrid : Nat := 1
  placeNo : Nat := 0
  grids   : Bank Grid := []
  clusters : Bank Cluster := []
  teams   : Bank Team := []
  saved   : List SavedCluster := []
  deriving DecidableEq, Repr

/-- An entry of a quadrant's age matrix (R287): lanes that stand ready to start a run at one word. -/
structure Entry where
  key   : Nat
  pc    : Dword
  lanes : Word
  deriving DecidableEq, Repr

/-- A quadrant's issue (R287): the entries that are ready, oldest first, and the entry that starts beside the first of its cycle. -/
structure Quad where
  ready  : List Entry := []
  second : Option Entry := none
  deriving DecidableEq, Repr

/-- What must happen in the end (R18, R19, R21, R224): a lane that stands takes its turn, a quadrant starts its oldest entry, a core's
feeder serves its next context, or a turn is taken. -/
inductive Due where
  | lane (key l : Nat)
  | start (quad : Nat)
  | feeder (core : Nat)
  | turn (t : Turn)
  deriving DecidableEq, Repr

/-- The order of issue: the quadrants under core × 4 + quadrant, the context each core's feeder served last, and what is due, with the
steps it can still be put off. -/
structure Order where
  quads   : Bank Quad := []
  feeders : Bank (Option Nat) := []
  due     : List (Due × Nat) := []
  deriving DecidableEq, Repr

/-- The whole machine. `mem` holds every store addressed by location number (Machine/Memory.lean); `l1` the bytes the cores'
L1 data caches hold apart from memory, with their dirty mark (R264), under core × 2^42 + physical address; `streams` the sectors of
them that stream (R265), under core × 2^34 + sector; `l2` the sectors that the L2 holds (R274);
`poison` the poisoned 32-byte words; `tags` the key under which each 32-byte word of DRAM stands (R274); `owners` the root of trust's
ownership map of 2 MiB frames (R270); `keys` the key in each slot, none while it is empty; `l1i` the words the cores' instruction caches hold, with their key tag, under
core × 2^40 + word number; `tlb` what requesters hold of pages; `sample` the quadrants and contexts that tag their next issue, and the issues since the last tagged one (R381); `free` and `tick` are the
model's own counters, which index the free values and the schedule. -/
structure State where
  mem    : List Host.Cell := []
  l1     : Bank (Option (Bool × Byte)) := []
  streams : Bank Bool := []
  l2     : Bank (Option L2Sector) := []
  poison : Bank Bool := []
  owners : Bank (Option Nat) := []
  l1i    : Bank (Option (Nat × Word)) := []
  tlb    : Bank (Option Held) := []
  keys   : Bank (Option (BitVec 256)) := []
  grps   : Bank Grp := []
  cycles : List Dword := List.replicate 128 0
  deques : Bank Deque := []
  books  : Bank Codebook := []
  ctxs   : Bank Context := []
  objs   : Bank (Option LoadedObj) := []
  sched  : Sched := {}
  bbox   : BBox := {}
  fabric : Fabric := {}
  seqs   : Seqs := {}
  rs     : Reshard := {}
  decs   : Decoders := {}
  host   : HostIf := {}
  mgmt   : Mgmt := {}
  away   : List Migrated := []
  tags   : Bank Nat := []
  sample : Bank (Bool × Nat) := []
  cur    : Cur := {}
  agenda : List Turn := []
  order  : Order := {}
  free   : Nat := 0
  tick   : Nat := 0
  deriving DecidableEq, Repr

/-- The machine right after reset: a completed cold start (R389). -/
def State.reset : State := {}

end Sys2Proof.Machine
end

