-- ==== Sys2Proof/Machine/Memory.lean ====
section
/-! DEFINITION. Locations and bytes: the one sparse memory and its key tags, the L1 copies, poison, and the five-level walk
(spec/11_memories_translation.md R263 to R276; Table 7-1). -/
namespace Sys2Proof.Machine

/-! ## Location numbers -/

/-- DRAM is at its physical address (R267); the other stores stand above 2^44. -/
def opLoc (core off : Nat) : Nat := 2 ^ 44 + core * 2 ^ 21 + off
def scrLoc (die off : Nat) : Nat := 2 ^ 45 + die * 2 ^ 26 + off
def accLoc (core quad off : Nat) : Nat := 2 ^ 46 + (core * 4 + quad) * 786432 + off
def bookLoc (core slot off : Nat) : Nat := 2 ^ 47 + core * 2 ^ 16 + slot * 8192 + off
/-- Staging slot `slot` of the quarter of group number `group` of a team (R199). -/
def stageLoc (team group slot off : Nat) : Nat := 2 ^ 48 + (team * 32 + group) * 8192 + slot * 4096 + off

def isDram (loc : Nat) : Bool := decide (loc < 2 ^ 42)

/-- The bytes of each home memory (R267). -/
def homeBytes (home : Nat) : Nat :=
  match home with
  | 0 => 48 * 2 ^ 30
  | 1 => 48 * 2 ^ 30
  | 2 => 512 * 2 ^ 30
  | _ => 0

/-- A physical address that names a byte (R267). -/
def physExists (a : Nat) : Bool := decide (a % 2 ^ 40 < homeBytes (a / 2 ^ 40))

/-! ## Bytes -/

/-- The relay store: 1 GiB of near memory that each module reserves at its start and no context maps (R353). That it is the last of home 0
is the model's (DESIGN CHOICE, log entry 95). -/
def inRelayStore (a : Nat) : Bool := decide (47 * 2 ^ 30 ≤ a) && decide (a < 48 * 2 ^ 30)

/-- What an unlisted location reads as: every memory is zero after a cold start (R389) and every allocation is zeroed
(R263). -/
def memDefault : Byte := 0

def State.rawByte (s : State) (loc : Nat) : Byte := Bank.get memDefault s.mem loc
def State.setRaw (s : State) (loc : Nat) (b : Byte) : State := { s with mem := Bank.set memDefault s.mem loc b }
def Memory.wf (m : List Host.Cell) : Bool := Bank.wf memDefault m

def l1Key (core loc : Nat) : Nat := core * 2 ^ 42 + loc
/-- The L1's copy of a byte with its dirty mark (R264). -/
def State.l1Byte (s : State) (core loc : Nat) : Option (Bool × Byte) := Bank.get none s.l1 (l1Key core loc)
def State.setL1 (s : State) (core loc : Nat) (x : Option (Bool × Byte)) : State :=
  { s with l1 := Bank.set none s.l1 (l1Key core loc) x }

/-- Writes a dirty byte back to memory and drops the copy. -/
def State.flushByte (s : State) (core loc : Nat) : State :=
  match s.l1Byte core loc with
  | some (true, b) => (s.setRaw loc b).setL1 core loc none
  | some (false, _) => s.setL1 core loc none
  | none => s

/-- Marks the incomplete fences past which a lane has read a written sector speculatively (R186): a lane's own write is no other
party's (R171). -/
def State.noteWrite (s : State) (who : Option (Nat × Nat)) (sectors : List Nat) : State :=
  { s with grps := s.grps.map (fun e =>
      if e.2.fences.isEmpty then e else
      (e.1, { e.2 with fences := e.2.fences.map (fun f =>
        if f.sectors.any (fun x => sectors.contains x.2 && who != some (e.1, x.1)) then { f with conflict := true } else f) })) }

/-- A write or an invalidation of sectors reaches the fences, if there are any (R186, R264). -/
def State.noted (s : State) (who : Option (Nat × Nat)) (sectors : List Nat) : State :=
  if s.grps.any (fun e => !e.2.fences.isEmpty) then s.noteWrite who sectors else s

/-- Of the elements a chain has written in part, those that a write covers whole: they end as that write leaves them (Table 4-13). -/
def ChainOp.covered (op : ChainOp) (hit : Nat → Bool) : ChainOp :=
  { op with wrote := (op.begun.filter (fun x => x.all hit)).flatten ++ op.wrote, begun := op.begun.filter (fun x => !x.all hit) }
def OpBody.begun : OpBody → Bool
  | .vchain op => !op.begun.isEmpty
  | _ => false

/-- A write of the locations that `hit` names reaches the chains that have written a part of an element (Table 4-13). -/
def State.coverChains (s : State) (hit : Nat → Bool) : State :=
  if !s.grps.any (fun e => e.2.ops.any (fun o => o.body.begun)) then s else
  { s with grps := s.grps.map (fun e => (e.1, { e.2 with ops := e.2.ops.map (fun (o : PendOp) => match o.body with
      | .vchain op => { o with body := .vchain (op.covered hit) }
      | _ => o) })) }

/-- The locations of the L1 of a core that hold a copy. -/
def State.l1Locs (s : State) (core : Nat) : List Nat :=
  (s.l1.filter (fun e => e.1 / 2 ^ 42 == core)).map (fun e => e.1 % 2 ^ 42)

/-- The L1 of `core` holds every byte of 32-byte word w dirty. -/
def State.wholeDirty (s : State) (core w : Nat) : Bool :=
  (List.range 32).all (fun i => match s.l1Byte core (w * 32 + i) with
    | some (true, _) => true
    | _ => false)

/-- Where the poison of an L1's word, of an instruction cache's word, and of a register stands among the locations (R276, log entry 101);
a register's is kept with its group (`Grp.poison`). -/
def l1PoisonLoc (core loc : Nat) : Nat := 2 ^ 60 + core * 2 ^ 42 + loc
def l1iPoisonLoc (core word : Nat) : Nat := 2 ^ 61 + (core * 2 ^ 40 + word) * 32
def regPoisonLoc (key reg : Nat) : Nat := 2 ^ 62 + (key * 2 ^ 13 + reg) * 32

def State.isPoisoned (s : State) (loc : Nat) : Bool := Bank.get false s.poison (loc / 32)
def State.setPoison (s : State) (loc : Nat) (b : Bool) : State := { s with poison := Bank.set false s.poison (loc / 32) b }

/-- Some byte of 32-byte word w stands dirty in the L1 of `core`. -/
def State.someDirty (s : State) (core w : Nat) : Bool :=
  (List.range 32).any (fun i => match s.l1Byte core (w * 32 + i) with
    | some (true, _) => true
    | _ => false)

/-- Poison as words of an L1 are given up: one written back whole clears its word in memory, a poisoned one that is written back
poisons it, a clean one is gone. -/
def State.flushPoison (s : State) (core : Nat) (words : List Nat) : Bank Bool :=
  if s.poison.isEmpty then s.poison else
  words.foldl (fun (b : Bank Bool) w =>
    let bad := Bank.get false b (l1PoisonLoc core (w * 32) / 32)
    let b := if bad then Bank.set false b (l1PoisonLoc core (w * 32) / 32) false else b
    if bad && s.someDirty core w then Bank.set false b w true
    else if s.wholeDirty core w then Bank.set false b w false else b) s.poison

/-- Writes reach sectors that the L2 holds: they are dirty (R274). -/
def State.dirtyL2 (s : State) (sectors : List Nat) : State :=
  if s.l2.isEmpty then s else { s with l2 := s.l2.map (fun e => if sectors.contains e.1 then (e.1, e.2.map (fun x => { x with dirty := true })) else e) }

/-- The L1 of `core` writes back and gives up the copies at some locations, and the sectors' speculative readers hear of it (R186, R276). -/
def State.flushLocs (s : State) (core : Nat) (locs : List Nat) : State :=
  if locs.isEmpty then s else
  let clean := s.flushPoison core (locs.map (· / 32)).eraseDups
  let secs := (locs.map (· / 256)).eraseDups
  let dirty := locs.filter (fun l => match s.l1Byte core l with
    | some (true, _) => true
    | _ => false)
  let s := (s.coverChains dirty.contains).dirtyL2 (dirty.map (· / 256))
  let s := locs.foldl (fun s l => s.flushByte core l) s
  ({ s with poison := clean, streams := s.streams.filter (fun e => !(e.1 / 2 ^ 34 == core && secs.contains (e.1 % 2 ^ 34))) }).noted none secs

/-- The L1 of `core` writes back what is dirty and keeps nothing: what a release at cluster scope or wider makes
visible (R247), and what an acquire drops. -/
def State.flushCore (s : State) (core : Nat) : State := s.flushLocs core (s.l1Locs core)

/-- The L1 of `core` gives up one 256-byte sector. -/
def State.flushSector (s : State) (core sector : Nat) : State :=
  s.flushLocs core ((s.l1Locs core).filter (fun l => l / 256 == sector))

/-- The cores whose L1 holds something. -/
def State.l1Cores (s : State) : List Nat := (s.l1.map (fun e => e.1 / 2 ^ 42)).eraseDups

/-- Every core's L1 gives up one sector. -/
def State.flushSectorAll (s : State) (sector : Nat) : State := s.l1Cores.foldl (fun s c => s.flushSector c sector) s

/-- Every L1 writes back what is dirty and keeps nothing: PROMOTE, whose team-scope releases are cumulative (R178, R247, R253), and
the end of a grid (R262). -/
def State.flushAll (s : State) : State := s.l1Cores.foldl (fun s c => s.flushCore c) s

/-- The L1 of `core` drops clean copies; their sectors' speculative readers hear of it (R186, R264). -/
def State.dropLocs (s : State) (core : Nat) (locs : List Nat) : State :=
  if locs.isEmpty then s else
  (locs.foldl (fun s l => match s.l1Byte core l with
    | some (false, _) => s.setL1 core l none
    | _ => s) s).noted none (locs.map (· / 256)).eraseDups

/-- An acquire at cluster scope or wider: copies that are not dirty are dropped (R245, R248). -/
def State.dropClean (s : State) (core : Nat) : State :=
  s.dropLocs core ((s.l1Locs core).filter (fun l => match s.l1Byte core l with
    | some (false, _) => true
    | _ => false))

def streamKey (core sector : Nat) : Nat := core * 2 ^ 34 + sector

/-- The L1 data cache of a core holds 768 KiB: 3,072 sectors (Table 0-1). One more sends a sector back: a streaming one first (R265), else
any one (log entry 76). -/
def State.fitL1 (s : State) (core : Nat) : State :=
  if s.l1.length ≤ 3072 then s else
  let secs := ((s.l1Locs core).map (· / 256)).eraseDups
  if secs.length ≤ 3072 then s else
  let first := secs.filter (fun x => Bank.get false s.streams (streamKey core x))
  let from_ := if first.isEmpty then secs else first
  s.flushSector core (from_.getD (Config.evicted s.tick % from_.length) 0)

def wordTag (s : State) (w : Nat) : Nat := Bank.get 0 s.tags w

/-- Byte i of a 32-byte word. -/
def byteOf (w : BitVec 256) (i : Nat) : Byte := w.extractLsb' (8 * i) 8

/-- Little-endian: the first byte lies lowest (R7). -/
def bytesToNat : List Byte → Nat
  | [] => 0
  | b :: r => b.toNat + 256 * bytesToNat r

def natToBytes : Nat → Nat → List Byte
  | 0, _ => []
  | n + 1, x => BitVec.ofNat 8 x :: natToBytes n (x / 256)

/-- The 32 bytes of DRAM word w as they stand under its own key, the copies of `core` over them. -/
def State.wordBits (s : State) (core : Option Nat) (w : Nat) : BitVec 256 :=
  BitVec.ofNat 256 (bytesToNat ((List.range 32).map (fun i =>
    let loc := w * 32 + i
    match core with
    | some c => match s.l1Byte c loc with
                | some (_, b) => b
                | none => s.rawByte loc
    | none => s.rawByte loc)))

/-- A DRAM word of one key as another key shows it: its ciphertext decrypted (R274). -/
def recode (from_ to_ addr : Nat) (x : BitVec 256) : BitVec 256 := (Config.cipher to_ addr).symm (Config.cipher from_ addr x)

/-- Reads a byte as the holder of key `tag` sees it, through the L1 of `core` if one is given (R274). -/
def State.readByte (s : State) (core : Option Nat) (tag loc : Nat) : Byte :=
  if isDram loc && wordTag s (loc / 32) != tag then
    byteOf (recode (wordTag s (loc / 32)) tag (loc / 32 * 32) (s.wordBits core (loc / 32))) (loc % 32)
  else
    match core with
    | some c => match s.l1Byte c loc with
                | some (_, b) => b
                | none => s.rawByte loc
    | none => s.rawByte loc

/-- Puts a DRAM word under another key: the sector is written back from the caches and refilled (R274); an L2 that held it under one key id
writes it back under that one, written or not (log entry 100). -/
def State.retag (s : State) (tag w : Nat) : State :=
  if wordTag s w = tag then s else
  let s := s.flushSectorAll (w / 8)
  let x := recode (wordTag s w) tag (w * 32) (s.wordBits none w)
  let s := (List.range 32).foldl (fun s i => s.setRaw (w * 32 + i) (byteOf x i)) s
  { s with tags := Bank.set 0 s.tags w tag, l2 := Bank.set none s.l2 (w / 8) none }

/-- Writes a byte at the home of its location, dropping any copy the writing core holds. -/
def State.writeByte (s : State) (core : Option Nat) (tag loc : Nat) (b : Byte) : State :=
  if isDram loc then
    let s := s.retag tag (loc / 32)
    let s := match core with
      | some c => if (s.l1Byte c loc).isSome then s.setL1 c loc none else s
      | none => s
    s.setRaw loc b
  else s.setRaw loc b

/-- Writes a byte in the L1 of a core: performed at team scope, not yet at the home slice. -/
def State.writeL1 (s : State) (core tag loc : Nat) (b : Byte) : State :=
  (s.retag tag (loc / 32)).setL1 core loc (some (true, b))

def State.readBytes (s : State) (core : Option Nat) (tag loc n : Nat) : List Byte :=
  (List.range n).map (fun i => s.readByte core tag (loc + i))
def State.readNat (s : State) (core : Option Nat) (tag loc n : Nat) : Nat := bytesToNat (s.readBytes core tag loc n)

/-- The 256-byte sectors of n bytes from loc. -/
def sectorsOf (loc n : Nat) : List Nat :=
  if n = 0 then [] else (List.range ((loc + n - 1) / 256 - loc / 256 + 1)).map (fun i => loc / 256 + i)

/-- A write of a whole 32-byte word clears its poison (R276). -/
def State.unpoison (s : State) (loc n : Nat) : State :=
  { s with poison := s.poison.filter (fun e => !(decide (loc ≤ e.1 * 32) && decide (e.1 * 32 + 32 ≤ loc + n))) }

/-- Writes bytes in order at their home. -/
def State.writeBytes (s : State) (who : Option (Nat × Nat)) (core : Option Nat) (tag loc : Nat) (d : List Byte) : State :=
  let s := (d.zipIdx).foldl (fun s x => s.writeByte core tag (loc + x.2) x.1) s
  let s := (s.unpoison loc d.length).dirtyL2 (sectorsOf loc d.length)
  (s.coverChains (fun l => decide (loc ≤ l) && decide (l < loc + d.length))).noted who (sectorsOf loc d.length)

/-- Writes bytes in the L1 of a core, which keeps to its size; their sectors stream, or no longer do (R265). -/
def State.writeBytesL1 (s : State) (who : Option (Nat × Nat)) (core tag loc : Nat) (d : List Byte) (stream : Bool) : State :=
  let s := (d.zipIdx).foldl (fun s x => s.writeL1 core tag (loc + x.2) x.1) s
  let s := if s.poison.isEmpty then s else s.unpoison (l1PoisonLoc core loc) d.length
  let s := { s with streams := (sectorsOf loc d.length).foldl (fun b x => Bank.set false b (streamKey core x) stream) s.streams }
  ((s.coverChains (fun l => decide (loc ≤ l) && decide (l < loc + d.length))).noted who (sectorsOf loc d.length)).fitL1 core

/-- A poisoned word among the locations of a range that `hit` names. -/
def State.poisonIn (s : State) (hit : Nat → Bool) (loc n : Nat) : Option Nat :=
  (s.poison.find? (fun e => decide (loc < e.1 * 32 + 32) && decide (e.1 * 32 < loc + n) &&
    (List.range 32).any (fun i => decide (loc ≤ e.1 * 32 + i) && decide (e.1 * 32 + i < loc + n) && hit (e.1 * 32 + i)))).map (fun e => e.1 * 32)

/-- Some word that a read of the range takes is poisoned (R276): its address; of a word of another store than DRAM, which R267 gives no
physical address, the model's own location number (DESIGN CHOICE, log entry 101). A byte that the reading core's L1 holds is read there. -/
def State.poisoned (s : State) (core : Option Nat) (loc n : Nat) : Option Nat :=
  if s.poison.isEmpty then none else
  match core with
  | none => s.poisonIn (fun _ => true) loc n
  | some c => ((s.poisonIn (fun x => (s.l1Byte c x).isNone) loc n).orElse (fun _ =>
      (s.poisonIn (fun x => (s.l1Byte c (x - l1PoisonLoc c 0)).isSome) (l1PoisonLoc c loc) n).map (fun x => x - l1PoisonLoc c 0)))

/-- Bytes written one by one: a word all of whose bytes are among them is poisoned no longer (R276). -/
def State.unpoisonAll (s : State) (locs : List Nat) : State :=
  if s.poison.isEmpty then s else
  { s with poison := s.poison.filter (fun e => !((List.range 32).all (fun i => locs.contains (e.1 * 32 + i)))) }

/-- The die of a byte's home L2 slice (R264). -/
def homeDie (phys : Nat) : Nat := if phys / 2 ^ 40 < 2 then phys / 2 ^ 40 else phys / 4096 % 2

/-- The L2 gives a sector up: one that has not been written leaves DRAM as it was filled, under the key of that time (R274, R385). -/
def State.leaveL2 (s : State) (current sector : Nat) (x : L2Sector) : State :=
  let words := (List.range 8).map (sector * 8 + ·)
  let s := { s with l2 := Bank.set none s.l2 sector none }
  if x.dirty then s
  else { s with tags := words.foldl (fun b w => if Bank.get 0 b w = current then Bank.set 0 b w x.tag else b) s.tags }

/-- The L2 takes a sector up under a key id, whose key tag is given: its words stand in plaintext (R274). -/
def State.enterL2 (s : State) (sector key tag : Nat) (stream : Bool) : State :=
  let s := (List.range 8).foldl (fun s i => s.retag tag (sector * 8 + i)) s
  { s with l2 := Bank.set none s.l2 sector (some ⟨key, tag, false, stream⟩) }

/-! ## Code (R374) -/

/-- Where an instruction cache holds the word at a location. -/
def l1iKey (core loc : Nat) : Nat := core * 2 ^ 40 + loc / 4

/-- The word of memory at a location, through the L1 of a core if one is given; a poisoned one is consumed (R276). -/
def memWord (s : State) (core : Option Nat) (tag loc : Nat) : Except Nat Word :=
  match s.poisoned core loc 4 with
  | some a => .error a
  | none => .ok (BitVec.ofNat 32 (s.readNat core tag loc 4))

/-- The word a fetch of `core` gives at a location: its instruction cache's, if that holds it under this key, else memory's. -/
def codeWord (s : State) (core : Nat) (cached : Bool) (tag loc : Nat) : Except Nat Word :=
  match (if cached then Bank.get none s.l1i (l1iKey core loc) else none) with
  | some (t, w) => if t = tag then (if s.isPoisoned (l1iPoisonLoc core (loc / 4)) then .error loc else .ok w) else memWord s (some core) tag loc
  | none => memWord s (if cached then some core else none) tag loc

/-! ## Translation -/

/-- What an access asks of a page. -/
inductive Need where
  | read | write | exec
  deriving DecidableEq, Repr

/-- The result of a translation: the physical byte with the key id and cacheability of its page; no page; a denied access
(the DETAIL of cause 0x07, with `key` set for the KEYS check); or a violation (its number in Config.violationCode). -/
inductive Xlat where
  | ok (phys key cache : Nat)
  | noPage
  | deny (detail : Nat)
  | violation (code phys : Nat)
  deriving DecidableEq, Repr

def bitsOf (x : Dword) (lo n : Nat) : Nat := x.toNat / 2 ^ lo % 2 ^ n

/-- An entry that ends the walk with no page: V = 0, or malformed (R269, R270). -/
def badEntry (level : Nat) (e : Dword) : Bool :=
  if bitsOf e 0 1 = 0 then true
  else if bitsOf e 1 1 = 1 then
    decide (level > 3) || bitsOf e 2 6 != 0 || bitsOf e 42 22 != 0 || !physExists (bitsOf e 8 34 * 256) ||
      (if level = 3 then false else bitsOf e 8 4 != 0)
  else
    decide (level < 2) || bitsOf e 7 5 != 0 || bitsOf e 2 2 != 0 || bitsOf e 38 2 == 3 || bitsOf e 12 2 == 3 ||
      !physExists (bitsOf e 38 2 * 2 ^ 40 + bitsOf e 14 24 * 65536) ||
      (bitsOf e 6 1 == 1 && bitsOf e 40 8 == 0) ||
      (if level = 2 then bitsOf e 14 14 != 0 else if level = 3 then bitsOf e 14 5 != 0 else false)

/-- What a walk comes to: a leaf entry and its page's size in bits, no page, or a poisoned entry (R276). -/
inductive Walked where
  | leaf (e : Dword) (shift : Nat)
  | noPage
  | poison (a : Nat)
  deriving DecidableEq, Repr

/-- An entry as a walker reads it (R271): at the home slice, under the key its word stands under (log entry 77). -/
def entryAt (s : State) (a : Nat) : Dword := BitVec.ofNat 64 (bytesToNat ((List.range 8).map (fun i => s.rawByte (a + i))))

/-- The walk of Table 11-2 from one level down. -/
def walk (s : State) (va : Nat) : List (Nat × Nat × Nat) → Nat → Walked
  | [], _ => .noPage
  | (level, shift, bits) :: rest, base =>
    let a := base + va / 2 ^ shift % 2 ^ bits * 8
    let e := entryAt s a
    if !physExists a then .noPage
    else match s.poisoned none a 8 with
      | some w => .poison w
      | none =>
        if badEntry level e then .noPage
        else if bitsOf e 1 1 = 1 then walk s va rest (bitsOf e 8 34 * 256)
        else .leaf e shift

def walkLevels : List (Nat × Nat × Nat) := [(0, 48, 8), (1, 39, 9), (2, 30, 9), (3, 21, 9), (4, 16, 5)]

/-- Who translates: a group or feeder context under its number in the state, or a master outside the cores (R273, log entry 78). -/
def whoHost : Nat := 2 ^ 20
def whoLink (link : Nat) : Nat := 2 ^ 20 + 1 + link
def whoReshard : Nat := 2 ^ 20 + 64
def whoDecoders : Nat := 2 ^ 20 + 65
def whoPeer : Nat := 2 ^ 20 + 66
def whoCore (core : Nat) : Nat := 2 ^ 20 + 128 + core
def Grp.asker (g : Grp) : Nat := 2 * g.gid + (if g.isFeeder then 1 else 0)

/-- Where a requester's translation of a page of a context stands. -/
def tlbKey (who ctxid page : Nat) : Nat := (who * 65536 + ctxid) * 2 ^ 40 + page

/-- The translation a requester's TLB holds, else what its walk finds from the table it has reached (R271 to R273); a walk that ends with
no page holds nothing, and the access walks from the root (R271). -/
def leafOf (s : State) (who ctxid : Nat) (c : Context) (v : Nat) : Walked :=
  match Bank.get none s.tlb (tlbKey who ctxid (v / 65536)) with
  | some (.leaf e shift) => .leaf e shift
  | some (.table level base) => match walk s v (walkLevels.drop level) base with
    | .noPage => walk s v walkLevels c.ptroot
    | x => x
  | none => walk s v walkLevels c.ptroot

/-- The tag of data under a key id: 0 for plaintext, else one more than the key its slot holds (R274). -/
def keyTag (s : State) (key : Nat) : Nat :=
  if key = 0 then 0 else match Bank.get none s.keys key with
    | some k => k.toNat + 1
    | none => 0

/-- Where a page's leaf leads, whatever it permits: the physical address of a byte, if a walk finds its page. -/
def physOf (s : State) (who ctxid : Nat) (c : Context) (va : Dword) : Option Nat :=
  let v := va.toNat % 2 ^ 56
  match leafOf s who ctxid c v with
  | .leaf e shift => some (bitsOf e 38 2 * 2 ^ 40 + bitsOf e 14 24 * 65536 + v % 2 ^ shift)
  | _ => none

/-- Translation of a global or flag-window address in a context (R268 to R270), with the root of trust's checks. -/
def translate (s : State) (who ctxid : Nat) (c : Context) (need : Need) (va : Dword) : Xlat :=
  let v := va.toNat % 2 ^ 56
  match leafOf s who ctxid c v with
  | .noPage => .noPage
  | .poison a => .violation 2 a
  | .leaf e shift =>
    let key := bitsOf e 40 8
    let phys := bitsOf e 38 2 * 2 ^ 40 + bitsOf e 14 24 * 65536 + v % 2 ^ shift
    if need = .write ∧ bitsOf e 4 1 = 0 then .deny 0
    else if need = .exec ∧ bitsOf e 5 1 = 0 then .deny 3
    else if bitsOf e 48 16 ≠ ctxid ∨ (bitsOf e 6 1 = 1 ∧ c.conf = false) then .deny 0
    else if c.keys.getLsbD key = false then .deny 2
    else if inRelayStore phys || (match Bank.get none s.owners (phys / 2 ^ 21) with
             | some o => o != ctxid
             | none => false) then .violation 0 phys
    else if key ≠ 0 ∧ (Bank.get none s.keys key).isNone then .violation 1 phys
    else .ok phys key (bitsOf e 12 2)

end Sys2Proof.Machine
end

