-- ==== Sys2Proof/Machine/Ops.lean ====
section
/-! DEFINITION. The named operations over registers, lanes, counters and records, and the taking of a trap, written once. -/
namespace Sys2Proof.Machine

/-! ## Looking things up -/

def State.grp (s : State) (k : Nat) : Grp := Bank.get {} s.grps k
def State.setGrp (s : State) (k : Nat) (g : Grp) : State := { s with grps := Bank.set {} s.grps k g }
def State.modGrp (s : State) (k : Nat) (f : Grp → Grp) : State := s.setGrp k (f (s.grp k))

def clusterKey (grid cluster : Nat) : Nat := grid * 65536 + cluster
def teamKey (grid cluster team : Nat) : Nat := clusterKey grid cluster * 16 + team
def Grp.teamKey (g : Grp) : Nat := Machine.teamKey g.grid g.cluster g.team

def State.grid (s : State) (k : Nat) : Grid := Bank.get {} s.sched.grids k
def State.setGrid (s : State) (k : Nat) (x : Grid) : State :=
  { s with sched := { s.sched with grids := Bank.set {} s.sched.grids k x } }
def State.clus (s : State) (k : Nat) : Cluster := Bank.get {} s.sched.clusters k
def State.setClus (s : State) (k : Nat) (x : Cluster) : State :=
  { s with sched := { s.sched with clusters := Bank.set {} s.sched.clusters k x } }
def State.team (s : State) (k : Nat) : Team := Bank.get {} s.sched.teams k
def State.setTeam (s : State) (k : Nat) (x : Team) : State :=
  { s with sched := { s.sched with teams := Bank.set {} s.sched.teams k x } }
def State.ctx (s : State) (k : Nat) : Context := Bank.get {} s.ctxs k
def State.setCtx (s : State) (k : Nat) (x : Context) : State := { s with ctxs := Bank.set {} s.ctxs k x }
/-- CYCLE of a core (Table 1-3). -/
def State.cycleOf (s : State) (core : Nat) : Dword := s.cycles.getD core 0

/-- The die of a core, and its row and column (Table 1-5). -/
def dieOf (core : Nat) : Nat := core / 64
def rowOf (core : Nat) : Nat := core % 64 / 8
def colOf (core : Nat) : Nat := core % 8

/-! ## Lane masks -/

def inMask (m : Word) (l : Nat) : Bool := m.getLsbD l
def laneBit (l : Nat) : Word := BitVec.ofNat 32 (2 ^ l)
def lanesOf (m : Word) : List Nat := lanes32.filter (fun l => inMask m l)
def maskOf (ls : List Nat) : Word := ls.foldl (fun m l => m ||| laneBit l) 0
/-- The lowest lane of a mask (R30). -/
def lowest (m : Word) : Option Nat := (lanesOf m).head?

/-! ## Lanes and registers -/

def Grp.lane (g : Grp) (l : Nat) : Lane := Bank.get {} g.lanes l
def Grp.setLane (g : Grp) (l : Nat) (x : Lane) : Grp := { g with lanes := Bank.set {} g.lanes l x }
def Grp.modLane (g : Grp) (l : Nat) (f : Lane → Lane) : Grp := g.setLane l (f (g.lane l))
def Grp.modLanes (g : Grp) (ls : List Nat) (f : Nat → Lane → Lane) : Grp :=
  ls.foldl (fun g l => g.modLane l (f l)) g

/-- The lanes a group has: 32, or lane 0 alone in a feeder context (R13, R222). -/
def Grp.allLanes (g : Grp) : List Nat := if g.isFeeder then [0] else lanes32
def Grp.live (g : Grp) : List Nat := g.allLanes.filter (fun l => !(g.lane l).exited)

/-- The index of register n of the current role (R25). -/
def Grp.vkey (g : Grp) (n l : Nat) : Nat := (g.role * 64 + n) * 32 + l
def Grp.rv (g : Grp) (n l : Nat) : Word := Bank.get 0 g.v (g.vkey n l)
def Grp.wv (g : Grp) (n l : Nat) (x : Word) : Grp := { g with v := Bank.set 0 g.v (g.vkey n l) x }
/-- A pair: the low half in the even register (R23). -/
def Grp.rv64 (g : Grp) (n l : Nat) : Dword := g.rv (n + 1) l ++ g.rv n l
def Grp.wv64 (g : Grp) (n l : Nat) (x : Dword) : Grp :=
  (g.wv n l (x.extractLsb' 0 32)).wv (n + 1) l (x.extractLsb' 32 32)
/-- s0 reads as zero and ignores writes (Table 1-1). -/
def Grp.rs (g : Grp) (n : Nat) : Dword := if n = 0 then 0 else Bank.get 0 g.s n
def Grp.ws (g : Grp) (n : Nat) (x : Dword) : Grp := if n = 0 then g else { g with s := Bank.set 0 g.s n x }
/-- A source predicate: 0 is true in every lane (Table 2-2). -/
def Grp.pr (g : Grp) (p l : Nat) : Bool := p == 0 || (g.lane l).preds.getLsbD p
def setBit8 (x : BitVec 8) (i : Nat) (b : Bool) : BitVec 8 :=
  if b then x ||| BitVec.ofNat 8 (2 ^ i) else x &&& ~~~ BitVec.ofNat 8 (2 ^ i)
def Grp.wp (g : Grp) (p l : Nat) (b : Bool) : Grp :=
  if p = 0 then g else g.modLane l (fun x => { x with preds := setBit8 x.preds p b })
def Grp.rj (g : Grp) (n : Nat) : Word := Bank.get 0 g.j n
def Grp.wj (g : Grp) (n : Nat) (x : Word) : Grp := { g with j := Bank.set 0 g.j n x }

/-- The window of a role: 16, 32, 48 or 64 registers (R22); a feeder context has 64 (R222). -/
def Grp.winOf (g : Grp) (role : Nat) : Nat := if g.isFeeder then 64 else 16 * (g.kern.wsizes.getD role 0 + 1)
def Grp.win (g : Grp) : Nat := g.winOf g.role
def Grp.nroles (g : Grp) : Nat := g.kern.wsizes.length

def Grp.qwinOn (g : Grp) : Bool := !g.isFeeder && g.qwin.getLsbD 0

/-- A group with other registers and lanes, and a state with other groups and no issue in progress: what most words change. -/
def Grp.put (g : Grp) (v : Bank Word) (lanes : Bank Lane) : Grp := { g with v := v, lanes := lanes }
def State.put (s : State) (grps : Bank Grp) : State := { s with grps := grps, cur := {} }

/-! ## Counters (R29) -/

def Grp.count (g : Grp) (c : Cls) : Nat := (g.ops.filter (fun o => o.cls == c)).length
/-- One more operation of the class may issue: the counter stands below 63. -/
def Grp.room (g : Grp) (c : Cls) : Bool := decide (g.count c < 63)

/-- Takes off the list what is done and has no older operation of its class before it. -/
def retireList : List PendOp → List Cls → List PendOp
  | [], _ => []
  | o :: r, blocked =>
    if o.done && !blocked.contains o.cls then retireList r blocked
    else o :: retireList r (o.cls :: blocked)

def Grp.retireOps (g : Grp) : Grp := { g with ops := retireList g.ops [] }
def Grp.findOp (g : Grp) (id : Nat) : Option PendOp := g.ops.find? (fun o => o.id == id)
def Grp.setOp (g : Grp) (o : PendOp) : Grp := { g with ops := g.ops.map (fun x => if x.id = o.id then o else x) }
/-- Issues an operation: its class's counter goes up by one. -/
def Grp.addOp (g : Grp) (c : Cls) (lanes : Word) (body : OpBody) : Grp :=
  { g with nextOp := g.nextOp + 1, ops := g.ops ++ [⟨g.nextOp, c, lanes, false, body⟩] }
/-- Marks an operation done and lets the counters fall. -/
def Grp.finishOp (g : Grp) (id : Nat) : Grp :=
  ({ g with ops := g.ops.map (fun (o : PendOp) => if o.id = id then { o with done := true } else o) }).retireOps

/-- The register entries that await returned data (R174). -/
def OpBody.awaits : OpBody → List Nat
  | .load ps => ps.flatMap (fun p => p.data.map (·.1))
  | .remote rs => ((rs.filter (fun r => !r.done)).flatMap (·.lanes)).flatMap (·.keys)
  | _ => []
def Grp.awaits (g : Grp) (key : Nat) : Bool :=
  g.ops.any (fun o => !o.done && o.body.awaits.contains key)

/-- Every lane of a mask has run past a fence. -/
def Fence.coversAll (f : Fence) (m : Word) : Bool := (lanesOf m).all (fun l => f.lanes.any (fun x => x.lane == l))

/-- An exception flag is raised in the lanes of `m`, and in what a rollback of a fence gives them back (R254). -/
def Grp.raiseFlag (g : Grp) (m fl : Word) : Grp :=
  { g.modLanes (lanesOf m) (fun _ x => { x with flags := x.flags ||| fl }) with
    fences := g.fences.map (fun f => { f with lanes := f.lanes.map (fun x => if inMask m x.lane then { x with flags := x.flags ||| fl } else x) }) }

/-- The lanes of `m` set PART (R27); what a lane outside a fence has set, no rollback of the fence takes back (R186). -/
def Grp.setPart (g : Grp) (m x : Word) : Grp :=
  { g with part := x, fences := g.fences.map (fun f => if f.coversAll m then f else { f with part := x }) }

/-! ## Free values -/

/-- Takes the next index of a free value. -/
def State.takeFree (s : State) : Nat × State := (s.free, { s with free := s.free + 1 })

/-! ## Records: black box and trace -/

/-- Enters an event in the black box (R388), with what `note` puts into INFO; a confidential context leaves ADDR and INFO zero (R383). -/
def State.bboxNote (s : State) (kind master ctxid code addr : Nat) (note : List Byte → List Byte) : State :=
  let conf := (s.ctx ctxid).conf
  let n := s.bbox.seq
  let e : BBoxEntry :=
    ⟨n, s.sched.cycle, kind, master, ctxid, code, if conf then 0 else addr,
      if conf then [] else (note (Config.bboxInfo kind n)).take 32⟩
  { s with bbox := { seq := n + 1, entries := Bank.set none s.bbox.entries (n % 4096) (some e) } }
def State.bboxAdd (s : State) (kind master ctxid code addr : Nat) : State := s.bboxNote kind master ctxid code addr id

/-- MASTER: the row of Table 18-5 and an index of 12 bits. -/
def masterCode (row idx : Nat) : Nat := row * 4096 + idx % 4096
def Grp.master (g : Grp) : Nat := masterCode (if g.isFeeder then 2 else 1) g.gid

def bit64 (b : Bool) (i : Nat) : Nat := if b then 2 ^ i else 0

/-- GROUPID of a lane (Table 1-4; R375 in a compat16 kernel). -/
def Grp.groupId (g : Grp) (l : Nat) : Word :=
  BitVec.ofNat 32 ((g.shown.elim g.slot (·.1)) * 4096 + g.tq % 16 * 256 +
    g.quad * 64 + (if g.kern.compat then (2 * g.group + l / 16) % 64 else g.group % 32))

def coreIdOf (core : Nat) : Nat := core % 64

/-- The 64 bytes of an event record (R381). -/
def eventRecord (s : State) (g : Grp) (kind : Nat) (lanes : Word) (pc : Dword) (cause : Word) : List Byte :=
  [BitVec.ofNat 8 kind, 0, 0, 0] ++ natToBytes 4 (g.groupId 0).toNat ++ natToBytes 2 g.core ++ natToBytes 2 g.grid ++
  natToBytes 4 lanes.toNat ++ natToBytes 8 pc.toNat ++ natToBytes 4 cause.toNat ++ natToBytes 4 0 ++
  natToBytes 8 (s.cycleOf g.core).toNat ++ natToBytes 24 0

/-- A record joins the context's open trace block; while a full block waits it is dropped and counted (R382). -/
def State.traceAdd (s : State) (ctxid : Nat) (r : List Byte) : State :=
  let c := s.ctx ctxid
  if !c.trace.on then s
  else if c.trace.recs.length < 63 then
    s.setCtx ctxid { c with trace := { c.trace with recs := c.trace.recs ++ [r] } }
  else s.setCtx ctxid { c with trace := { c.trace with lost := c.trace.lost + 1 } }

/-- An event record of KIND 2 to 6, if the event mask enables it (R381). -/
def State.traceEvent (s : State) (g : Grp) (kind : Nat) (lanes : Word) (pc : Dword) (cause : Word) : State :=
  let c := s.ctx g.ctxid
  if c.trace.on && c.trace.mask / 2 ^ (kind - 2) % 2 == 1 then
    s.traceAdd g.ctxid (eventRecord s g kind lanes pc cause)
  else s

/-! ## Halts and freezes -/

/-- Queued special-function and conversion results are written before a trap is taken and before a halt (R92, R138, R139). -/
def Grp.drainQueued (g : Grp) : Grp :=
  { g with
    v := (g.sfq.flatMap (·.keys)).foldl (fun v x => Bank.set 0 v x.1 x.2) g.v
    sfq := [] }

/-- Halts a group or feeder context (R136): every lane keeps its program counter; HSTAT says why (Table 18-3). -/
def State.haltGrp (s : State) (k cause code : Nat) : State :=
  let g := (s.grp k).drainQueued
  let s := s.setGrp k { g with halted := true, haltPend := false, hstat := BitVec.ofNat 64 (cause + code % 256 * 256) }
  s.traceEvent g 3 0 0 0

/-- A violation freezes its master (R387): Config.violationCode names it. -/
def State.freezeGrp (s : State) (k code addr : Nat) (kind : Nat) : State :=
  let g := s.grp k
  let s := s.haltGrp k 5 (Config.violationCode code)
  let s := s.modGrp k (fun g => { g with frozen := true })
  s.bboxAdd kind g.master g.ctxid (Config.violationCode code) addr

/-! ## Taking a trap (R134) -/

/-- The handler a cause goes to, 0 for none (R134, R225, R370). -/
def trapEntry (g : Grp) (cause detail : Nat) : Dword :=
  match (if cause = 0x0A then g.kern.emul.find? (fun e => e.1 == detail) else none) with
  | some e => e.2
  | none =>
    if g.isFeeder then g.kern.fvec.getD (cause - 1) 0
    else if cause = 0x20 then g.kern.gvec.getD 15 0
    else g.kern.gvec.getD (cause - 1) 0

/-- The 32-bit TCAUSE (Table 1-15). -/
def tcauseOf (cause detail : Nat) : Word := BitVec.ofNat 32 (detail % 256 * 256 + cause % 256)

/-- The TAKEs in progress once the lanes of `m` have left them. -/
def Grp.takesWithout (g : Grp) (m : Word) : List TakeOp :=
  (g.takes.map (fun (t : TakeOp) => { t with lanes := t.lanes &&& ~~~ m })).filter (fun t => t.lanes != 0)

/-- The blocks asked of other modules once the lanes of `m` wait for none. -/
def Grp.fetchedWithout (g : Grp) (m : Word) : List PeerRead := g.fetched.filter (fun x => !inMask m x.lane)

/-- TakeTrap: the lanes of `m` save their word's address and fault address, TCAUSE and TLANES are set, and the lanes go to
the handler, or the group halts where its lanes stand: after a single step that is the next word (R136, R146). `tpc` and
`taddr` give each lane's values. -/
def takeTrap (s : State) (k : Nat) (m : Word) (cause detail : Nat) (tpc taddr : Nat → Dword) : State :=
  let g := (s.grp k).drainQueued
  let h := trapEntry g cause detail
  let halts := h == 0 || ((cause == 0x0B || cause == 0x0C) && g.hold)
  let g := g.modLanes (lanesOf m) (fun l x =>
    { x with tpc := tpc l, taddr := taddr l, waiting := false, held := false, stopped := none, parity := false, parked := none, bkPass := false,
             pc := if !halts then h else if cause = 0x0C then tpc l else x.pc, run := 0, sub := 0 })
  let g := { g with tcause := tcauseOf cause detail, tlanes := m, takes := g.takesWithout m, fetched := g.fetchedWithout m }
  let s := s.setGrp k g
  let s := s.traceEvent g 2 m (match lowest m with
    | some l => tpc l
    | none => 0) (tcauseOf cause detail)
  if halts then s.haltGrp k (if h == 0 then 2 else 4) 0 else s

/-- A trap met by a lane that is already trapped halts the group and changes nothing else (R136). Table 18-6 has ADDR hold the address
concerned; the entry leaves it 0 (DESIGN CHOICE, log entry 88). -/
def trapInTrap (s : State) (k cause : Nat) : State :=
  let g := s.grp k
  (s.haltGrp k 3 cause).bboxAdd 3 g.master g.ctxid cause 0

/-- Once no lane is trapped, the lanes whose issue was held execute it anew (R133). -/
def Grp.unhold (g : Grp) : Grp := if g.tlanes = 0 then g.modLanes g.allLanes (fun _ x => { x with held := false }) else g

/-- TRET for the lanes of `m` (R137): each leaves TLANES and resumes at TPC, a run start. -/
def returnTrap (s : State) (k : Nat) (m : Word) : State :=
  let g := s.grp k
  let g := g.modLanes (lanesOf m) (fun _ x =>
    { x with pc := x.tpc, run := 0, sub := 0, waiting := false, held := false, stopped := none, parity := false, bkPass := true })
  s.setGrp k { g with tlanes := g.tlanes &&& ~~~ m }.unhold

/-! ## Rejoin (R128) -/

/-- Every lane set in mask N is parked on it. -/
def Grp.releases (g : Grp) (n : Nat) : Bool :=
  g.rj n != 0 && (lanesOf (g.rj n)).all (fun l => (g.lane l).parked == some n)

/-- Releases mask N if it can be: its lanes go on at the word after their RJPARK, together (R129), and the mask clears.
The parked lanes' program counters stand at the RJPARK, or at the first word of its prefix group (R52). -/
def Grp.evalRelease (g : Grp) (n : Nat) : Grp :=
  if !g.releases n then g else
  let m := g.rj n
  (g.modLanes (lanesOf m) (fun l x =>
      let mates := maskOf ((lanesOf m).filter (fun l' => (g.lane l').pc == (g.lane l).pc))
      { x with parked := none, pc := x.unpark, stopped := some x.unpark, sub := mates, stepDue := x.stepArm })).wj n 0

def Grp.evalReleases (g : Grp) : Grp := (List.range 8).foldl (fun g n => g.evalRelease n) g

/-- Lane l leaves every mask (R126). -/
def Grp.strikeOut (g : Grp) (m : Word) : Grp :=
  (List.range 8).foldl (fun g n => g.wj n (g.rj n &&& ~~~ m)) g

end Sys2Proof.Machine
end

