-- ==== Sys2Proof/Machine/Barrier.lean ====
section
/-! DEFINITION. The hardware barriers (R189 to R196): arrivals of lanes, feeders, decoders and arrive links, the completion
of a phase, and the vats' transitions (R229). -/
namespace Sys2Proof.Machine

/-- A barrier by its level, its index, and the team, cluster or grid that shares it. -/
structure BarRef where
  level : Nat
  idx   : Nat
  owner : Nat
  deriving DecidableEq, Repr

/-- The barrier a group names (Table 7-12). -/
def Grp.barRef (g : Grp) (level idx : Nat) : BarRef :=
  ⟨level, idx, match level with
    | 0 => g.teamKey
    | 1 => clusterKey g.grid g.cluster
    | _ => g.grid⟩

def State.bar (s : State) (r : BarRef) : Barrier :=
  match r.level with
  | 0 => Bank.get {} (s.team r.owner).bars r.idx
  | 1 => Bank.get {} (s.clus r.owner).bars r.idx
  | _ => Bank.get {} (s.grid r.owner).bars r.idx

def State.setBar (s : State) (r : BarRef) (b : Barrier) : State :=
  match r.level with
  | 0 => let t := s.team r.owner; s.setTeam r.owner { t with bars := Bank.set {} t.bars r.idx b }
  | 1 => let t := s.clus r.owner; s.setClus r.owner { t with bars := Bank.set {} t.bars r.idx b }
  | _ => let t := s.grid r.owner; s.setGrid r.owner { t with bars := Bank.set {} t.bars r.idx b }

/-- The parity of the last completed phase; 1 before any (R32). -/
def Barrier.parity (b : Barrier) : Nat := (b.phase + 1) % 2
def Barrier.mask (b : Barrier) (who : Nat) : Word := Bank.get 0 b.masks who

/-- The kernel's declaration of a barrier: G, F, C and DECL (Table 17-2). -/
def Kernel.bar (k : Kernel) (level idx : Nat) : Nat × Nat × Nat × Bool :=
  let x : Nat × Nat := match level with
    | 0 => (0, 16)
    | 1 => (16, 8)
    | _ => (24, 4)
  if idx < x.2 then k.bars.getD (x.1 + idx) (0, 0, 0, false) else (0, 0, 0, false)
def Kernel.declared (k : Kernel) (level idx : Nat) : Bool := (k.bar level idx).2.2.2

/-- A group arrives when its mask holds a lane and every lane outside it has exited (R190). -/
def arrives (g : Grp) (m : Word) : Bool := m != 0 && g.live.all (fun l => inMask m l)

/-- Counts or holds the arrival of a group whose mask is complete. -/
def Barrier.countGroup (b : Barrier) (gmax who : Nat) : Barrier :=
  if b.arrived.contains who || b.heldG.contains who then b
  else if b.arrived.length < gmax then { b with arrived := b.arrived ++ [who] }
  else { b with heldG := b.heldG ++ [who] }

/-- A group's number in its grid, which a save and restore do not change. -/
def Grp.who (g : Grp) : Nat := (g.cluster * 16 + g.team) * 32 + g.group
def BarRef.grid (r : BarRef) : Nat := match r.level with
  | 0 => r.owner / 2 ^ 20
  | 1 => r.owner / 65536
  | _ => r.owner
def isWho (grid who : Nat) (g : Grp) : Bool := g.used && !g.isFeeder && g.grid == grid && g.who == who

/-- A group of a grid, resident or saved. -/
def State.byWho (s : State) (grid who : Nat) : Grp :=
  match s.grps.find? (fun e => isWho grid who e.2) with
  | some e => e.2
  | none => (((s.sched.saved.flatMap (fun c => c.groups.map (·.1))).find? (isWho grid who))).getD {}

/-- Changes a group of a grid where it stands, resident or saved. -/
def State.modWho (s : State) (grid who : Nat) (f : Grp → Grp) : State :=
  { s with
    grps := s.grps.map (fun e => if isWho grid who e.2 then (e.1, f e.2) else e)
    sched := { s.sched with saved := s.sched.saved.map (fun c => if c.grid = grid then
      { c with groups := c.groups.map (fun x => if isWho grid who x.1 then (f x.1, x.2) else x) } else c) } }

/-- The marks of the lanes set in the masks of a completed phase take it with its damage bit (R194); a group whose arrival
is held keeps its masks for the next phase. -/
def markDone (s : State) (r : BarRef) (b : Barrier) : State :=
  b.masks.foldl (fun s e => if b.heldG.contains e.1 then s else s.modWho r.grid e.1 (fun g =>
    g.modLanes (lanesOf e.2) (fun _ x =>
      { x with bars := x.bars.map (fun (m : BarMark) =>
          if m.level = r.level ∧ m.idx = r.idx ∧ m.done = none then { m with done := some (b.phase, b.dmg) } else m) }))) s

/-- Group `who` of a grid arrives with mask m; one that has retired has no lane left that it waits for. -/
def arrivesWho (s : State) (grid who : Nat) (m : Word) : Bool :=
  let g := s.byWho grid who
  if g.used then arrives g m else m != 0

/-- Sets the lanes that arrive links hold and that are no longer set (R217). -/
def enterHeld (s : State) (grid gmax : Nat) : List (Nat × Word) → Barrier → Barrier
  | [], b => b
  | (who, m) :: rest, b =>
    let now := m &&& ~~~ (b.mask who)
    let later := m &&& b.mask who
    let b := { b with masks := Bank.set 0 b.masks who (b.mask who ||| now),
                      heldM := if later = 0 then b.heldM else b.heldM ++ [(who, later)] }
    let b := if arrivesWho s grid who (b.mask who) then b.countGroup gmax who else b
    enterHeld s grid gmax rest b

/-- The step from phase n to n + 1 (R190): P and D, the cleared counts, and the held arrivals counted anew. -/
def Barrier.nextPhase (s : State) (grid : Nat) (b : Barrier) (G F C : Nat) : Barrier :=
  let keep := b.heldG
  let f := b.heldF.take F
  let c := b.heldC.take C
  let b' : Barrier :=
    { phase := b.phase + 1
      masks := b.masks.filter (fun e => keep.contains e.1)
      arrived := b.heldG.take G
      heldG := b.heldG.drop G
      fcount := f.length
      heldF := b.heldF.drop F
      ccount := c.length
      heldC := b.heldC.drop C
      dmg := f.any (fun x => x) || c.any (fun x => x)
      lastD := b.dmg
      heldM := [] }
  enterHeld s grid G b.heldM b'

/-- Completes phases while their arrivals are full; the fuel bounds the held arrivals. -/
def completePhases : Nat → State → BarRef → Nat × Nat × Nat → State
  | 0, s, _, _ => s
  | n + 1, s, r, d =>
    let b := s.bar r
    if b.arrived.length = d.1 ∧ b.fcount = d.2.1 ∧ b.ccount = d.2.2 ∧ d.1 + d.2.1 + d.2.2 > 0 then
      let s := markDone s r b
      completePhases n (s.setBar r (b.nextPhase s r.grid d.1 d.2.1 d.2.2)) r d
    else s

def Barrier.fuel (b : Barrier) : Nat := 1 + b.heldG.length + b.heldF.length + b.heldC.length + b.heldM.length * 32

def settleBar (s : State) (r : BarRef) (k : Kernel) : State :=
  let d := k.bar r.level r.idx
  completePhases (s.bar r).fuel s r (d.1, d.2.1, d.2.2.1)

/-- Lanes of a group set in its mask (R190, R192). -/
def arriveLanes (s : State) (g : Grp) (level idx : Nat) (m : Word) : State :=
  let r := g.barRef level idx
  let b := s.bar r
  let b := { b with masks := Bank.set 0 b.masks g.who (b.mask g.who ||| m) }
  let b := if arrives (s.grp (2 * g.gid)) (b.mask g.who) then b.countGroup (g.kern.bar level idx).1 g.who else b
  settleBar (s.setBar r b) r g.kern

/-- An arrive link: lanes already set are held for the next phase (R217). One that retires after every lane of its group has exited with
none set still sets its lanes, and so arrives (DESIGN CHOICE, log entry 84). -/
def arriveLink (s : State) (g : Grp) (idx : Nat) (m : Word) : State :=
  let r := g.barRef 0 idx
  let b := s.bar r
  let later := m &&& b.mask g.who
  let s := if later = 0 then s else s.setBar r { b with heldM := b.heldM ++ [(g.who, later)] }
  arriveLanes s g 0 idx (m &&& ~~~ (b.mask g.who))

/-- A feeder arrival, with its damage (R190, R236, R240). -/
def arriveFeeder (s : State) (g : Grp) (level idx : Nat) (dmg : Bool) : State :=
  let r := g.barRef level idx
  let b := s.bar r
  let F := (g.kern.bar level idx).2.1
  let b := if b.fcount < F then { b with fcount := b.fcount + 1, dmg := b.dmg || dmg }
           else { b with heldF := b.heldF ++ [dmg] }
  settleBar (s.setBar r b) r g.kern

/-- A decoder arrival, with its damage (R190, R343). -/
def arriveDecoder (s : State) (g : Grp) (level idx : Nat) (dmg : Bool) : State :=
  let r := g.barRef level idx
  let b := s.bar r
  let C := (g.kern.bar level idx).2.2.1
  let b := if b.ccount < C then { b with ccount := b.ccount + 1, dmg := b.dmg || dmg }
           else { b with heldC := b.heldC ++ [dmg] }
  settleBar (s.setBar r b) r g.kern

/-- After lanes have exited, the arrivals that they leave complete are made (R190). -/
def settleExit (s : State) (k : Nat) : State :=
  let g := s.grp k
  let refs := (List.range 16).map (fun i => (0, i)) ++ (List.range 8).map (fun i => (1, i)) ++ (List.range 4).map (fun i => (2, i))
  refs.foldl (fun s x =>
    let r := g.barRef x.1 x.2
    if (s.bar r).mask g.who = 0 then s else arriveLanes s g x.1 x.2 0) s

/-- The two bits of BSTAT for a barrier: D over P (R32). -/
def Barrier.bstat (b : Barrier) : Nat := b.parity + (if b.lastD then 2 else 0)

/-- BSTAT (Table 1-13). -/
def bstatOf (s : State) (g : Grp) : Dword :=
  let part := fun (level n : Nat) =>
    (List.range n).foldl (fun acc i => acc + (s.bar (g.barRef level i)).bstat * 4 ^ i) 0
  BitVec.ofNat 64 (part 0 16 + part 1 8 * 2 ^ 32 + part 2 4 * 2 ^ 48)

/-! ## Vats (R229 to R231) -/

def State.vat (s : State) (g : Grp) (n : Nat) : Vat := Bank.get {} (s.team g.teamKey).vats n
def State.setVat (s : State) (g : Grp) (n : Nat) (v : Vat) : State :=
  let t := s.team g.teamKey
  s.setTeam g.teamKey { t with vats := Bank.set {} t.vats n v }

def Kernel.vatBytes (k : Kernel) (n : Nat) : Nat := k.vats.getD n 0
/-- Where a vat's region begins in its team's allocation (R229). -/
def Kernel.vatOff (k : Kernel) (n : Nat) : Nat := ((List.range n).map k.vatBytes).foldl (· + ·) 0

/-- One fill unit of a vat completes, a copy's or a decoder's: the n-th makes it full. -/
def fillVat (s : State) (g : Grp) (n : Nat) (dmg dec : Bool) : State :=
  let v := s.vat g n
  let v := { v with filled := v.filled + 1, dmg := v.dmg || dmg, dec := v.dec || dec }
  s.setVat g n (if v.filled = v.n then { v with st := .full } else v)

/-- VATDMG (Table 9-1): the damage of full and draining vats. -/
def vatdmgOf (s : State) (g : Grp) : Dword :=
  BitVec.ofNat 64 ((List.range 64).foldl (fun acc n =>
    let v := s.vat g n
    acc + (if v.dmg && (v.st == .full || v.st == .draining) then 2 ^ n else 0)) 0)

end Sys2Proof.Machine
end

