-- ==== Sys2Proof/Machine/Access.lean ====
section
/-! DEFINITION. Where a data address leads (Table 7-1), the per-lane access checks (Table 7-2, Table 7-3, R170), and the
performing of loads and stores (R171 to R175, R188). -/
namespace Sys2Proof.Machine

/-- A local place: its location, the key tag it is reached under, whether the core's L1 stands before it, the 64 KiB page it
was translated through, and whether its sector streams (R265). -/
structure Place where
  loc  : Nat
  tag  : Nat
  l1   : Bool
  page : Option Nat
  stream : Bool := false
  deriving DecidableEq, Repr, Inhabited

/-- The regions of Table 7-1. -/
inductive Region where
  | global | priv | opstore | cluster | scratch | flag | fabric | none
  deriving DecidableEq, Repr

def regionOf (a : Dword) : Region :=
  if a.getLsbD 63 then .fabric
  else
    let top := bitsOf a 48 16
    if top < 0x80 then .global
    else if top = 0xF0 then .priv
    else if top = 0xF1 then .opstore
    else if top = 0xF2 then .cluster
    else if top = 0xF3 then .scratch
    else if top = 0xF4 then .flag
    else .none

def offsetOf (a : Dword) : Nat := bitsOf a 0 48

/-- The kind of access, for Table 7-2 (read or write) and Table 7-3 (what the flag window allows). -/
structure AccKind where
  need   : Need
  flagOk : Bool
  deriving DecidableEq, Repr

/-- What the checks of Table 7-2 answer. -/
inductive AccRes where
  | ok (p : Place)
  | fabric (peer module : Nat)
  | trap (cause detail : Nat)
  | violation (code phys : Nat)
  deriving DecidableEq, Repr

/-- An untranslated window place inside its extent (checks 2 of Table 7-2): the operand store of the own team, of a team of
the cluster, or the grid's scratchpad on the own die. -/
def windowPlace (s : State) (g : Grp) (r : Region) (off size : Nat) : Option Nat :=
  match r with
  | .opstore =>
    let t := s.team g.teamKey
    if off + size ≤ t.opBytes then some (opLoc t.core (t.opBase + off)) else none
  | .cluster =>
    let i := off / 2 ^ 21
    let o := off % 2 ^ 21
    let t := s.team (teamKey g.grid g.cluster i)
    if i < (s.clus (clusterKey g.grid g.cluster)).teams ∧ o + size ≤ t.opBytes then some (opLoc t.core (t.opBase + o)) else none
  | .scratch =>
    match Bank.get none (s.grid g.grid).scr (dieOf g.core) with
    | some (base, bytes) => if off + size ≤ bytes then some (scrLoc (dieOf g.core) (base + off)) else none
    | none => none
  | _ => none

/-- The virtual address behind byte o of a lane-private slice (R266). -/
def privAddr (s : State) (g : Grp) (l off : Nat) : Dword :=
  (s.ctx g.ctxid).priv + BitVec.ofNat 64 ((g.priv * 64 + (if g.isFeeder then 32 else l)) * 65536 + off)

/-- Checks 5 to 7 of Table 7-2 and R270 for a translated address; `form` says that Table 7-3 allows the form where it matters. -/
def translated (s : State) (g : Grp) (need : Need) (va : Dword) (l1 form : Bool) : AccRes :=
  match translate s g.asker g.ctxid (s.ctx g.ctxid) need va with
  | .noPage => .trap (if need = .write then 6 else 5) 0
  | r => if !form then .trap 7 0 else
    match r with
    | .ok phys key cache => .ok ⟨phys, keyTag s key, l1 && cache != 2, some (va.toNat % 2 ^ 56 / 65536), cache == 1⟩
    | .deny d => .trap 7 d
    | .violation c p => .violation c p
    | .noPage => .trap 5 0

/-- The checks of Table 7-2 in order, for one lane. -/
def checkAccess (s : State) (g : Grp) (l : Nat) (k : AccKind) (ea : Dword) (size : Nat) : AccRes :=
  if ea.toNat % size ≠ 0 then .trap 8 0
  else
    match regionOf ea with
    | .none => .trap 7 1
    | .global => translated s g k.need ea true true
    | .priv => if offsetOf ea < 65536 then translated s g k.need (privAddr s g l (offsetOf ea)) true true else .trap 7 1
    | .flag => if offsetOf ea ≥ 2 ^ 32 then .trap 7 1 else translated s g k.need ea false k.flagOk
    | .fabric =>
      let low := regionOf (ea &&& 0x00FFFFFFFFFFFFFF#64)
      if !(low == .global || (low == .flag && decide (offsetOf ea < 2 ^ 32))) then .trap 7 1
      else
        let c := s.ctx g.ctxid
        let p := bitsOf ea 56 7
        if c.fab = false ∨ c.contract.getLsbD 10 = false then .trap 7 0
        else match Config.peerEntry c.peers p with
          | none => .trap 7 1
          | some m => .fabric p m
    | r => match windowPlace s g r (offsetOf ea) size with
      | some loc => .ok { loc := loc, tag := 0, l1 := false, page := none }
      | none => .trap 7 1

/-! ## Performing -/

/-- A byte of a store that lane l of g has issued and that is not yet performed (R175). -/
def pendingByte (g : Grp) (l loc : Nat) : Option Byte :=
  (g.ops.reverse.findSome? (fun o => match o.body with
    | .store todo _ => (todo.reverse.find? (fun p => p.lane == l && decide (p.loc ≤ loc) && decide (loc < p.loc + p.data.length))).map
        (fun p => p.data.getD (loc - p.loc) 0)
    | _ => none))

/-- Lane l has run past an incomplete fence of cluster scope or wider: a clean copy in its core's L1 may be older than what the
fence's acquire gives (R245, R254). -/
def Grp.readsFresh (g : Grp) (l : Nat) : Bool := g.fences.any (fun f => decide (f.scope ≥ 2) && f.lanes.any (fun x => x.lane == l))

/-- Whether a read of a byte goes through the core's L1. -/
def throughL1 (s : State) (g : Grp) (l : Nat) (l1 : Bool) (loc : Nat) : Bool :=
  l1 && (!g.readsFresh l || (match s.l1Byte g.core loc with
    | some (true, _) => true
    | _ => false))

/-- What lane l of g reads at a place: its own pending stores first, then the core's L1, then the home (R175). -/
def readPlace (s : State) (g : Grp) (l : Nat) (loc tag : Nat) (l1 : Bool) (n : Nat) : List Byte :=
  (List.range n).map (fun i => (pendingByte g l (loc + i)).getD
    (s.readByte (if throughL1 s g l l1 (loc + i) then some g.core else none) tag (loc + i)))
def readPlaceNat (s : State) (g : Grp) (l : Nat) (loc tag : Nat) (l1 : Bool) (n : Nat) : Nat := bytesToNat (readPlace s g l loc tag l1 n)

/-- A device-scope atomic step of a 64-bit word (R154, R161). -/
def stepWord (s : State) (who : Nat × Nat) (core tag loc : Nat) (f : Dword → Dword) : State :=
  let s := s.flushSector core (loc / 256)
  s.writeBytes (some who) (some core) tag loc (natToBytes 8 (f (BitVec.ofNat 64 (s.readNat none tag loc 8))).toNat)

/-- Performs one store: in the core's L1 or at the home; the join increments that wait for it follow. -/
def performStore (s : State) (k core : Nat) (p : PStore) : State :=
  let s := if p.l1 then s.writeBytesL1 (some (k, p.lane)) core p.tag p.loc p.data p.stream
    else s.writeBytes (some (k, p.lane)) (some core) p.tag p.loc p.data
  p.incs.foldl (fun s x => stepWord s (k, p.lane) core p.tag x.1 (fun y => y + BitVec.ofNat 64 x.2)) s

/-- Lane l's share of some operations is performed. -/
def lanePerformed (os : List PendOp) (l : Nat) : Bool :=
  os.all (fun o => match o.body with
    | .store todo _ => !(todo.any (fun p => p.lane == l))
    | .remote rs => rs.all (fun r => r.done || !(r.lanes.any (fun x => x.lane == l)))
    | _ => true)
/-- The older operations of lane l before operation `id` are performed: what a release waits for (R177). -/
def olderPerformed (g : Grp) (id l : Nat) : Bool := lanePerformed (g.ops.takeWhile (fun o => o.id != id)) l

/-- Two stores touch a common byte. -/
def PStore.meets (p q : PStore) : Bool := decide (q.loc < p.loc + p.data.length) && decide (p.loc < q.loc + q.data.length)

/-- No older pending store of the lane touches the same bytes (R175). -/
def noOverlap (g : Grp) (id : Nat) (p : PStore) : Bool :=
  (g.ops.takeWhile (fun o => o.id != id)).all (fun o => match o.body with
    | .store todo _ => !(todo.any (fun q => q.lane == p.lane && p.meets q))
    | _ => true)

/-- What lane l issued as part of operation `id` past an incomplete fence: a store is held, a load speculative (R185). -/
def heldByFence (g : Grp) (id l : Nat) : Bool := g.fences.any (fun f => f.specOps.contains id && f.lanes.any (fun x => x.lane == l))

/-- A store of an operation may be performed now. -/
def storeReady (g : Grp) (o : PendOp) (rel : Option Nat) (p : PStore) : Bool :=
  !heldByFence g o.id p.lane && (if rel.isSome || p.ord then olderPerformed g o.id p.lane else noOverlap g o.id p)

/-- Of the stores of one operation, in lane order, those that `go` picks and those that stay; none passes an earlier one to the
same byte (R171). -/
def splitStores (go : PStore → Bool) : List PStore → List PStore → List PStore × List PStore
  | kept, [] => ([], kept)
  | kept, p :: r =>
    if go p && !kept.any (fun q => p.meets q) then
      let x := splitStores go kept r
      (p :: x.1, x.2)
    else splitStores go (kept ++ [p]) r

/-- The loads that `hit` names are read: no later read changes them (R175). -/
def Grp.fixLoads (g : Grp) (hit : Nat → LPart → Bool) : Grp :=
  { g with ops := g.ops.map (fun (o : PendOp) => match o.body with
      | .load ps => { o with body := .load (ps.map (fun p => if hit o.id p then { p with live := false } else p)) }
      | _ => o) }

/-- Performs the stores of operation `id` that `pick` names and that may be performed; a release at cluster scope or
wider first makes the core's L1 write back (R247), and its lanes' earlier loads come before it (R246). The operation is done when nothing
is left. -/
def performWhere (s : State) (k id : Nat) (pick : PStore → Bool) : State :=
  let g := s.grp k
  match g.findOp id with
  | some o =>
    match o.body with
    | .store todo rel =>
      let x := splitStores (fun p => pick p && storeReady g o rel p) [] todo
      let s := if !x.1.isEmpty && decide (rel.getD 0 ≥ 2) then s.flushCore g.core else s
      let s := x.1.foldl (fun s p => performStore s k g.core p) s
      s.modGrp k (fun g =>
        let g := if rel.isSome then g.fixLoads (fun i q => decide (i < id) && x.1.any (fun p => p.lane == q.lane)) else g
        let g := g.setOp { o with body := .store x.2 rel }
        if x.2.isEmpty then g.finishOp id else g)
    | _ => s
  | none => s

/-- Performs the stores of operation `id` that belong to the lanes of `m`. -/
def performOp (s : State) (k id : Nat) (m : Word) : State := performWhere s k id (fun p => inMask m p.lane)

/-- Piece i of a store that is not yet performed. -/
def todo_ (o : PendOp) (i : Nat) : Option PStore := match o.body with
  | .store todo _ => todo[i]?
  | _ => none

/-- A release of cluster scope or less is performed before its lane's older operations are: parties outside its scope are not ordered by it
(R245, log entry 103). For those inside it is owed what a release does. -/
def performEarly (s : State) (k : Nat) (o : PendOp) (todo : List PStore) (scope : Nat) (p : PStore) : State :=
  let g := s.grp k
  if scope ≥ 3 ∨ heldByFence g o.id p.lane ∨ !noOverlap g o.id p ∨ !p.incs.isEmpty then s
  else
    let left := todo.filter (fun q => q != p)
    (performStore s k g.core p).modGrp k (fun g =>
      let g := { g.setOp { o with body := .store left (some scope) } with owed := g.owed ++ [⟨o.id, p.lane, p.loc, p.data.length, scope⟩] }
      if left.isEmpty then g.finishOp o.id else g)

/-- Turn: one piece of a store is performed by itself: the halves of an ST.Q are independent (R251). -/
def performPart (s : State) (k id i : Nat) : State :=
  match (s.grp k).findOp id with
  | some o => match o.body, todo_ o i with
    | .store todo (some scope), some p =>
      if olderPerformed (s.grp k) id p.lane then performWhere s k id (fun q => q == p) else performEarly s k o todo scope p
    | .store _ none, some p => performWhere s k id (fun q => q == p)
    | _, _ => s
  | none => s

/-- Performs every pending store of the lanes of `m`, oldest first. -/
def drainStores (s : State) (k : Nat) (m : Word) : State :=
  ((s.grp k).ops.map (·.id)).foldl (fun s id => performOp s k id m) s

/-- A scope contains two groups or feeder contexts (Table 10-3). -/
def scopeJoins (scope : Nat) (a b : Grp) : Bool :=
  a.ctxid == b.ctxid && (match scope with
    | 0 => a.gid == b.gid
    | 1 => a.teamKey == b.teamKey
    | 2 => clusterKey a.grid a.cluster == clusterKey b.grid b.cluster
    | _ => true)

/-- What an early release owes the parties of its scope is made good: its lane's older stores are performed and older loads read, and at
cluster scope its core's L1 writes back (R245 to R247); it stays owed while an older operation cannot be performed. -/
def settleOwed (s : State) (k : Nat) (x : Owed) : State :=
  let s := (((s.grp k).ops.filter (fun o => decide (o.id < x.op))).map (·.id)).foldl (fun s id => performOp s k id (laneBit x.lane)) s
  if !lanePerformed ((s.grp k).ops.filter (fun o => decide (o.id < x.op))) x.lane then s
  else
    let s := s.modGrp k (fun g => { g.fixLoads (fun i q => decide (i < x.op) && q.lane == x.lane) with owed := g.owed.filter (fun y => y != x) })
    if x.scope ≥ 2 then s.flushCore (s.grp k).core else s

/-- All that a group still owes is made good where it can be. -/
def settleGrp (s : State) (k : Nat) : State := (s.grp k).owed.foldl (fun s x => settleOwed s k x) s

/-- The early releases that an acquire at scope `sc` of group g would synchronise with (R245). -/
def owedTo (s : State) (g : Grp) (sc : Nat) : List (Nat × Owed) :=
  s.grps.flatMap (fun e => (e.2.owed.filter (fun x => scopeJoins x.scope e.2 g && scopeJoins sc e.2 g)).map (fun x => (e.1, x)))

/-- An acquire of group g makes good what is owed to it. -/
def settleFor (s : State) (g : Grp) (sc : Nat) : State := (owedTo s g sc).foldl (fun s x => settleOwed s x.1 x.2) s
/-- Something that is owed to an acquire cannot be made good yet: it waits. -/
def owedWaits (s : State) (g : Grp) (sc : Nat) : Bool := !(owedTo s g sc).isEmpty && !(owedTo (settleFor s g sc) g sc).isEmpty

/-- Lane l has a store to one of n bytes from loc that is not yet performed. -/
def pendingOver (g : Grp) (l loc n : Nat) : Bool := (List.range n).any (fun i => (pendingByte g l (loc + i)).isSome)

/-- A join increment of lane l waits behind its own store to the counter, which n bytes from loc touch: the lane's next access to them comes
after (R175). -/
def incPending (g : Grp) (l loc n : Nat) : Bool :=
  g.ops.any (fun o => match o.body with
    | .store todo _ => todo.any (fun p => p.lane == l && p.incs.any (fun x => decide (x.1 < loc + n) && decide (loc < x.1 + 8)))
    | _ => false)

/-- Performs lane l's pending stores to any of n bytes from loc (R175), and the lane's others where their order asks for it. -/
def drainOver (s : State) (k l loc n : Nat) : State :=
  if !pendingOver (s.grp k) l loc n then s else
  let s := ((s.grp k).ops.map (·.id)).foldl (fun s id => performWhere s k id (fun p =>
    p.lane == l && decide (p.loc < loc + n) && decide (loc < p.loc + p.data.length))) s
  if pendingOver (s.grp k) l loc n then drainStores s k (laneBit l) else s

/-- The lanes of `m` have no store left to perform and no fabric access unanswered. -/
def drained (g : Grp) (m : Word) : Bool :=
  g.ops.all (fun o => match o.body with
    | .store todo _ => !(todo.any (fun p => inMask m p.lane))
    | _ => true)
def noRemote (g : Grp) (m : Word) : Bool :=
  g.ops.all (fun o => match o.body with
    | .remote rs => rs.all (fun r => r.done || !(r.lanes.any (fun x => inMask m x.lane)))
    | _ => true)

/-- Lane l has nothing left that a release waits for, once its stores are performed (R177). -/
def mayRelease (s : State) (k : Nat) (g : Grp) (l : Nat) : Bool :=
  noRemote g (laneBit l) && drained ((drainStores s k (laneBit l)).grp k) (laneBit l)

/-- The stores and fabric accesses of the lanes of `m` that are not yet performed: context, operation, core. -/
def unperformed (g : Grp) (key : Nat) (m : Word) : List (Nat × Nat × Nat) :=
  (g.ops.filter (fun o => (o.lanes &&& m) != 0 && (match o.body with
    | .store todo _ => todo.any (fun p => inMask m p.lane)
    | .remote rs => rs.any (fun r => !r.done && r.lanes.any (fun x => inMask m x.lane))
    | _ => false))).map (fun o => (key, o.id, g.core))

/-- Operations noted so are performed. -/
def opsPerformed (s : State) (after : List (Nat × Nat × Nat)) : Bool :=
  after.all (fun a => match (s.grp a.1).findOp a.2.1 with
    | none => true
    | some o => match o.body with
      | .store todo _ => todo.isEmpty
      | .remote rs => rs.all (·.done)
      | _ => true)

/-! ## Loads that are read again (R175, R249) -/

/-- The value of a part, as its registers take it: sign-extended to 32 bits for .B.S and .H.S. -/
def extendLoad (sgn : Bool) (size x : Nat) : Nat :=
  if sgn ∧ 2 ^ (8 * size - 1) ≤ x then x + (2 ^ 32 - 2 ^ (8 * size)) else x
def LPart.words (p : LPart) (x : Nat) : List (Nat × Word) :=
  p.data.zipIdx.map (fun d => (d.1.1, BitVec.ofNat 32 (extendLoad p.sgn p.size x / 2 ^ (32 * d.2))))

/-- A part is read. -/
def LPart.read (s : State) (g : Grp) (p : LPart) : LPart :=
  { p with data := p.words (readPlaceNat s g p.lane p.loc p.tag p.l1 p.size) }

/-- Turn: a plain load that has not completed, and that no fence speculates on, is read anew, one piece of it. -/
def reloadPart (s : State) (k id i : Nat) : State :=
  let g := s.grp k
  match g.findOp id with
  | some o => match o.body with
    | .load ps => match ps[i]? with
      | some p =>
        if o.done || !p.live || heldByFence g id p.lane || (s.poisoned (if p.l1 then some g.core else none) p.loc p.size).isSome then s
        else s.setGrp k (g.setOp { o with body := .load (ps.set i (p.read s g)) })
      | none => s
    | _ => s
  | none => s

/-- A release that the lanes of `m` make at once (R246): their stores are performed, and their loads are read. -/
def releaseLanes (s : State) (k : Nat) (m : Word) : State :=
  (drainStores s k m).modGrp k (fun g => g.fixLoads (fun _ p => inMask m p.lane))

/-- What a release at a scope makes visible once the stores are performed (R247). -/
def releaseAt (s : State) (core scope : Nat) : State := if scope ≥ 2 then s.flushCore core else s
/-- What an acquire at a scope drops (R245). -/
def acquireAt (s : State) (core scope : Nat) : State := if scope ≥ 2 then s.dropClean core else s

/-- What a wait that ends on a barrier's phase drops (R193, R194, R216): at team level only what a decoder of the barrier may have
written at the home (R243, R256). -/
def barAcquire (s : State) (g : Grp) (level idx : Nat) : State :=
  if level ≥ 1 ∨ (g.kern.bar level idx).2.2.1 ≠ 0 then s.dropClean g.core else s

/-! ## Register entries of a value -/

/-- The register entries and words of an n-word value at register d of lane l, low word first. -/
def destWords (g : Grp) (d l : Nat) : Nat → Nat → List (Nat × Word)
  | 0, _ => []
  | n + 1, x => (g.vkey d l, BitVec.ofNat 32 x) :: destWords g (d + 1) l n (x / 2 ^ 32)

/-- Writes returned words. -/
def Grp.writeKeys (g : Grp) (ds : List (Nat × Word)) : Grp :=
  { g with v := ds.foldl (fun v x => Bank.set 0 v x.1 x.2) g.v }

/-- Returned data of operation `id` is written to its registers (R174); what lanes held at a later FENCE takes it too, so that
a rollback keeps it (R186). -/
def Grp.returnData (g : Grp) (id : Nat) (ds : List (Nat × Word)) : Grp :=
  { g.writeKeys ds with
    fences := g.fences.map (fun (f : Fence) => if f.specOps.contains id then f
      else { f with regs := ds.foldl (fun v x => Bank.set 0 v x.1 x.2) f.regs }) }

end Sys2Proof.Machine
end

