-- ==== Sys2Proof/Machine/Number.lean ====
section
/-! DEFINITION. Value formats, rounding and the FLAGS conditions of spec/03_number_formats.md (R65 to R79): every result is
the exact value rounded once. -/
namespace Sys2Proof

/-- How the all-ones exponent field is read (Table 3-3): as IEEE 754, as FP8-E4M3 (no infinity, one NaN per sign), or
as FP4-E2M1 (neither). -/
inductive FKind where
  | ieee | e4m3 | fp4
  deriving DecidableEq, Repr

/-- A floating-point format (Table 3-2): exponent and mantissa widths, and the kind of its special encodings. The bias
is 2^(ew-1) - 1 for every format of the table. -/
structure FFmt where
  ew   : Nat
  mw   : Nat
  kind : FKind
  deriving DecidableEq, Repr

def fp64 : FFmt := ⟨11, 52, .ieee⟩
def fp32 : FFmt := ⟨8, 23, .ieee⟩
def fp16 : FFmt := ⟨5, 10, .ieee⟩
def bf16 : FFmt := ⟨8, 7, .ieee⟩
def f8e4 : FFmt := ⟨4, 3, .e4m3⟩
def f8e5 : FFmt := ⟨5, 2, .ieee⟩
def f4e2 : FFmt := ⟨2, 1, .fp4⟩

namespace FFmt
def bias (f : FFmt) : Nat := 2 ^ (f.ew - 1) - 1
def width (f : FFmt) : Nat := 1 + f.ew + f.mw
/-- The exponent of the least significant bit of a subnormal. -/
def qmin (f : FFmt) : Int := 1 - (f.bias : Int) - f.mw
/-- The all-ones exponent field. -/
def eones (f : FFmt) : Nat := 2 ^ f.ew - 1
/-- The largest finite encoding without its sign (Table 3-2). -/
def maxCode (f : FFmt) : Nat :=
  match f.kind with
  | .ieee => (f.eones - 1) * 2 ^ f.mw + (2 ^ f.mw - 1)
  | .e4m3 => f.eones * 2 ^ f.mw + (2 ^ f.mw - 2)
  | .fp4 => f.eones * 2 ^ f.mw + (2 ^ f.mw - 1)
/-- The canonical NaN (Table 3-3); FP4 has none and its NaNCode is +0 (R87). -/
def nanCode (f : FFmt) : Nat :=
  match f.kind with
  | .ieee => f.eones * 2 ^ f.mw + 2 ^ (f.mw - 1)
  | .e4m3 => f.eones * 2 ^ f.mw + (2 ^ f.mw - 1)
  | .fp4 => 0
def signed (f : FFmt) (neg : Bool) (c : Nat) : Nat := if neg then 2 ^ (f.ew + f.mw) + c else c
end FFmt

/-- A value of a format: a NaN (signalling or not), an infinity, or (-1)^neg × m × 2^e. -/
inductive FVal where
  | nan (sig : Bool)
  | inf (neg : Bool)
  | fin (neg : Bool) (m : Nat) (e : Int)
  deriving DecidableEq, Repr

/-- Reads an encoding (R67, R68). -/
def fdecode (f : FFmt) (x : Nat) : FVal :=
  let neg := x / 2 ^ (f.ew + f.mw) % 2 == 1
  let E := x / 2 ^ f.mw % 2 ^ f.ew
  let M := x % 2 ^ f.mw
  let normal : FVal := .fin neg (2 ^ f.mw + M) (f.qmin + (E : Int) - 1)
  if E = 0 then .fin neg M f.qmin
  else if E = f.eones then
    match f.kind with
    | .ieee => if M = 0 then .inf neg else .nan (M / 2 ^ (f.mw - 1) == 0)
    | .e4m3 => if M = 2 ^ f.mw - 1 then .nan false else normal
    | .fp4 => normal
  else normal

/-- An exact real of known sign: (-1)^neg × (m + θ) × 2^e, with θ = 0, or 0 < θ < 1 when `st` is set. A value with `st`
set is given with at least 40 bits below the precision it is rounded to. -/
structure Exact where
  neg : Bool
  m   : Nat
  e   : Int
  st  : Bool
  deriving DecidableEq, Repr

/-! FLAGS bits (Table 1-11). -/
def flIV : Word := 1#32
def flDZ : Word := 2#32
def flOF : Word := 4#32
def flUF : Word := 8#32
def flIX : Word := 16#32
def flSAT : Word := 32#32
def flQOV : Word := 64#32

/-- A result and the FLAGS conditions it raises. -/
structure FRes where
  bits  : Nat
  flags : Word
  deriving DecidableEq, Repr

/-- The next multiple choice of R72: t and the remainder of |x| over the quantum 2^q, and whether the magnitude moves up. -/
structure Quantised where
  r       : Nat
  inexact : Bool
  deriving DecidableEq, Repr

/-- Rounds |x| to a multiple of 2^q under a mode of Table 3-5; `rnd` is the 16-bit value of R76. -/
def quantise (mode rnd : Nat) (x : Exact) (q : Int) : Quantised :=
  let sh := (q - x.e).toNat
  let m := if x.e > q then x.m * 2 ^ (x.e - q).toNat else x.m
  let t := m / 2 ^ sh
  let rem := m % 2 ^ sh
  let inexact := rem != 0 || x.st
  let up :=
    match mode with
    | 0 => decide (2 * rem > 2 ^ sh) || (decide (2 * rem = 2 ^ sh) && (x.st || t % 2 == 1))
    | 1 => false
    | 2 => inexact && x.neg
    | 3 => inexact && !x.neg
    | _ => decide (2 ^ 16 * rem / 2 ^ sh + rnd ≥ 2 ^ 16)
  ⟨if up then t + 1 else t, inexact⟩

/-- The exponent of the leading bit of x. -/
def Exact.lead (x : Exact) : Int := x.e + (Nat.log2 x.m : Int)

/-- The magnitude r × 2^q of format f as an encoding without sign, r at most 2^(mw+1). -/
def packMag (f : FFmt) (r : Nat) (q : Int) : Nat :=
  let r' := if r = 2 ^ (f.mw + 1) then 2 ^ f.mw else r
  let q' := if r = 2 ^ (f.mw + 1) then q + 1 else q
  if r' < 2 ^ f.mw then r' else (q' - f.qmin + 1).toNat * 2 ^ f.mw + (r' - 2 ^ f.mw)

/-- The overflow result of Table 3-6 and R73. -/
def overflowCode (f : FFmt) (mode : Nat) (neg sat : Bool) : Nat :=
  let toMax := sat || f.kind == .fp4 || mode == 1 || (mode == 2 && !neg) || (mode == 3 && neg)
  let c := if toMax then f.maxCode
           else match f.kind with
                | .ieee => f.eones * 2 ^ f.mw
                | _ => f.nanCode
  f.signed neg c

/-- x rounded once into format f (R72 to R76). `sat` selects the saturating overflow, which sets SAT and IX instead of
OF (R73). -/
def froundX (f : FFmt) (mode rnd : Nat) (sat : Bool) (x : Exact) : FRes :=
  if x.m = 0 then ⟨f.signed x.neg 0, 0⟩ else
  let q := max (x.lead - f.mw) f.qmin
  let z := quantise mode rnd x q
  let c := packMag f z.r q
  if c > f.maxCode then
    ⟨overflowCode f mode x.neg sat, if sat then flSAT ||| flIX else flOF ||| flIX⟩
  else
    let q' := x.lead - f.mw
    let z' := if mode = 4 then (quantise 1 0 x q').r else (quantise mode rnd x q').r
    let tiny := decide ((z' : Int) * 2 ^ (q' - f.qmin).toNat < 2 ^ (f.mw + (f.qmin - q').toNat))
    let fl := (if z.inexact then flIX else 0) ||| (if z.inexact && tiny then flUF else 0)
    ⟨f.signed x.neg c, fl⟩

/-- The canonical NaN, with IV when asked for. -/
def fnan (f : FFmt) (iv : Bool) : FRes := ⟨f.nanCode, if iv then flIV else 0⟩

def finf (f : FFmt) (neg : Bool) (fl : Word) : FRes := ⟨f.signed neg (f.eones * 2 ^ f.mw), fl⟩

def FVal.isNan : FVal → Bool
  | .nan _ => true
  | _ => false
def FVal.isSig : FVal → Bool
  | .nan s => s
  | _ => false
def FVal.isZero : FVal → Bool
  | .fin _ 0 _ => true
  | _ => false
def FVal.neg? : FVal → Bool
  | .nan _ => false
  | .inf n => n
  | .fin n _ _ => n

/-- The signed integer of a finite value over the quantum 2^e0, for e0 no larger than its own exponent. -/
def sintAt (neg : Bool) (m : Nat) (e e0 : Int) : Int :=
  let v : Int := (m * 2 ^ (e - e0).toNat : Nat)
  if neg then -v else v

/-- An exact signed sum as an Exact, its zero signed by R72: −0 in mode Down, else +0, unless both addends are zero of
one sign. -/
def exactOf (z : Int) (e : Int) (zneg : Bool) : Exact :=
  if z = 0 then ⟨zneg, 0, e, false⟩ else ⟨decide (z < 0), z.natAbs, e, false⟩

/-- a × b + c with one rounding; FADD is 1 × a + b (R97, R100, and R99 for the packed formats). `prodSig` says
whether some operand of the product is a signalling NaN. -/
def ffmaV (f : FFmt) (mode rnd : Nat) (a b c : FVal) : FRes :=
  let sig := a.isSig || b.isSig || c.isSig
  let bad := match a, b with
    | .inf _, y => y.isZero
    | x, .inf _ => x.isZero
    | _, _ => false
  if bad then fnan f true
  else if a.isNan || b.isNan || c.isNan then fnan f sig
  else
    let pn := a.neg? != b.neg?
    match a, b, c with
    | .fin _ ma ea, .fin _ mb eb, .fin nc mc ec =>
      let pm := ma * mb
      let pe := ea + eb
      let e0 := min pe ec
      let z := sintAt pn pm pe e0 + sintAt nc mc ec e0
      let zneg := if pm = 0 ∧ mc = 0 ∧ pn = nc then pn else mode == 2
      froundX f mode rnd false (exactOf z e0 zneg)
    | .fin .., .fin .., .inf n => finf f n 0
    | _, _, .inf n => if n = pn then finf f n 0 else fnan f true
    | _, _, _ => finf f pn 0

def fone : FVal := .fin false 1 0
def fadd (f : FFmt) (mode rnd a b : Nat) : FRes := ffmaV f mode rnd fone (fdecode f a) (fdecode f b)
/-- The sign bit inverted. -/
def fnegate (f : FFmt) (a : Nat) : Nat :=
  if a / 2 ^ (f.ew + f.mw) % 2 = 1 then a - 2 ^ (f.ew + f.mw) else a + 2 ^ (f.ew + f.mw)
def fsub (f : FFmt) (mode rnd a b : Nat) : FRes := fadd f mode rnd a (fnegate f b)
def ffma (f : FFmt) (mode rnd a b c : Nat) : FRes := ffmaV f mode rnd (fdecode f a) (fdecode f b) (fdecode f c)

def fmul (f : FFmt) (mode rnd a b : Nat) : FRes :=
  let x := fdecode f a
  let y := fdecode f b
  let n := x.neg? != y.neg?
  match x, y with
  | .nan s, w => fnan f (s || w.isSig)
  | w, .nan s => fnan f (s || w.isSig)
  | .inf _, w => if w.isZero then fnan f true else finf f n 0
  | w, .inf _ => if w.isZero then fnan f true else finf f n 0
  | .fin _ ma ea, .fin _ mb eb => froundX f mode rnd false ⟨n, ma * mb, ea + eb, false⟩

/-- ma × 2^ea ÷ (mb × 2^eb) with 64 bits more than either operand has. -/
def exactDiv (neg : Bool) (ma : Nat) (ea : Int) (mb : Nat) (eb : Int) : Exact :=
  let k := Nat.log2 mb + 128
  let n := ma * 2 ^ k
  ⟨neg, n / mb, ea - eb - k, n % mb != 0⟩

def fdivV (f : FFmt) (mode rnd : Nat) (x y : FVal) : FRes :=
  let n := x.neg? != y.neg?
  match x, y with
  | .nan s, w => fnan f (s || w.isSig)
  | w, .nan s => fnan f (s || w.isSig)
  | .inf _, .inf _ => fnan f true
  | .inf _, .fin .. => finf f n 0
  | .fin .., .inf _ => ⟨f.signed n 0, 0⟩
  | .fin _ ma ea, .fin _ mb eb =>
    if mb = 0 then (if ma = 0 then fnan f true else finf f n flDZ)
    else froundX f mode rnd false (exactDiv n ma ea mb eb)
def fdiv (f : FFmt) (mode rnd a b : Nat) : FRes := fdivV f mode rnd (fdecode f a) (fdecode f b)

/-- a < b for values that are not NaN, with −0 below +0 (Table 4-3). -/
def fltV (zeroOrder : Bool) : FVal → FVal → Bool
  | .nan _, _ => false
  | _, .nan _ => false
  | .inf n, .inf n' => n && !n'
  | .inf n, .fin .. => n
  | .fin .., .inf n => !n
  | .fin n m e, .fin n' m' e' =>
    if m = 0 ∧ m' = 0 then zeroOrder && n && !n'
    else let e0 := min e e'; decide (sintAt n m e e0 < sintAt n' m' e' e0)

def feqV : FVal → FVal → Bool
  | .inf n, .inf n' => n == n'
  | .fin n m e, .fin n' m' e' => let e0 := min e e'; decide (sintAt n m e e0 = sintAt n' m' e' e0)
  | _, _ => false

/-- FMIN and FMAX (R98, Table 4-3). -/
def fminmax (f : FFmt) (isMax : Bool) (a b : Nat) : FRes :=
  let x := fdecode f a
  let y := fdecode f b
  let iv := if x.isSig || y.isSig then flIV else 0
  match x.isNan, y.isNan with
  | true, true => ⟨f.nanCode, iv⟩
  | true, false => ⟨b, iv⟩
  | false, true => ⟨a, iv⟩
  | false, false => ⟨if isMax then (if fltV true x y then b else a) else (if fltV true y x then b else a), 0⟩

/-- FCMP (R102, Table 4-4): cc 0 EQ, 1 NE, 2 LT, 3 LE, 4 GT, 5 GE, 6 ORD, 7 UN. -/
def fcompare (f : FFmt) (cc a b : Nat) : Bool × Word :=
  let x := fdecode f a
  let y := fdecode f b
  let un := x.isNan || y.isNan
  let sig := x.isSig || y.isSig
  let quiet := if sig then flIV else 0
  let loud := if un then flIV else 0
  match cc with
  | 0 => (!un && feqV x y, quiet)
  | 1 => (un || !feqV x y, quiet)
  | 2 => (!un && fltV false x y, loud)
  | 3 => (!un && (fltV false x y || feqV x y), loud)
  | 4 => (!un && fltV false y x, loud)
  | 5 => (!un && (fltV false y x || feqV x y), loud)
  | 6 => (!un, quiet)
  | _ => (un, quiet)

/-- FCLASS (Table 4-2). -/
def fclass (f : FFmt) (a : Nat) : Nat :=
  match fdecode f a with
  | .inf true => 1
  | .inf false => 128
  | .nan true => 256
  | .nan false => 512
  | .fin n m _ =>
    let sub := decide (m < 2 ^ f.mw)
    if m = 0 then (if n then 8 else 16)
    else if sub then (if n then 4 else 32)
    else (if n then 2 else 64)

/-! Conversions (R77, R78). -/

/-- Into a floating-point format, with SAT as R104 gives it. -/
def fconv (g : FFmt) (mode rnd : Nat) (sat : Bool) (x : FVal) : FRes :=
  match x with
  | .nan s =>
    match g.kind with
    | .fp4 => ⟨0, flIV⟩
    | _ => ⟨g.nanCode, if s then flIV else 0⟩
  | .inf n =>
    match g.kind with
    | .ieee => if sat then ⟨g.signed n g.maxCode, flSAT⟩ else finf g n 0
    | .e4m3 => if sat then ⟨g.signed n g.maxCode, flSAT⟩ else ⟨g.signed n g.nanCode, flIV⟩
    | .fp4 => ⟨g.signed n g.maxCode, flIV⟩
  | .fin n m e => froundX g mode rnd sat ⟨n, m, e, false⟩

/-- An integer type: its width and whether it is signed (Table 3-4). -/
structure IFmt where
  w   : Nat
  sgn : Bool
  deriving DecidableEq, Repr

def IFmt.lo (t : IFmt) : Int := if t.sgn then -(2 ^ (t.w - 1) : Nat) else 0
def IFmt.hi (t : IFmt) : Int := if t.sgn then (2 ^ (t.w - 1) : Nat) - 1 else (2 ^ t.w : Nat) - 1
/-- The value of the low w bits of x. -/
def IFmt.val (t : IFmt) (x : Nat) : Int :=
  let y : Int := (x % 2 ^ t.w : Nat)
  if t.sgn ∧ 2 * y ≥ (2 ^ t.w : Nat) then y - (2 ^ t.w : Nat) else y
/-- The low w bits of the two's complement of z. -/
def IFmt.code (t : IFmt) (z : Int) : Nat := (z % (2 ^ t.w : Nat)).toNat

def clampI (t : IFmt) (z : Int) : Int × Bool :=
  if z < t.lo then (t.lo, true) else if z > t.hi then (t.hi, true) else (z, false)

/-- Floating point to integer (R78). -/
def ftoi (t : IFmt) (mode rnd : Nat) (x : FVal) : FRes :=
  match x with
  | .nan _ => ⟨0, flIV⟩
  | .inf n => ⟨t.code (if n then t.lo else t.hi), flSAT⟩
  | .fin n m e =>
    let z := quantise mode rnd ⟨n, m, e, false⟩ 0
    let v : Int := if n then -(z.r : Int) else z.r
    let c := clampI t v
    ⟨t.code c.1, if c.2 then flSAT else if z.inexact then flIX else 0⟩

/-- Integer to integer (R78): wraps, or clamps with SAT. -/
def itoi (t : IFmt) (sat : Bool) (z : Int) : FRes :=
  if sat then let c := clampI t z; ⟨t.code c.1, if c.2 then flSAT else 0⟩ else ⟨t.code z, 0⟩

/-- Integer to floating point: rounded under R72 and R73. -/
def itof (g : FFmt) (mode rnd : Nat) (sat : Bool) (z : Int) : FRes :=
  froundX g mode rnd sat ⟨decide (z < 0), z.natAbs, 0, false⟩

/-- StepGen (R75): the next SRSEED and the 16-bit random value. -/
def stepGen (s : Word) : Word × Nat :=
  let s := if s = 0 then 1 else s
  let s := s ^^^ (s <<< 13)
  let s := s ^^^ (s >>> 17)
  let s := s ^^^ (s <<< 5)
  (s, s.toNat % 2 ^ 16)

/-- ToFP32 of a value of a format: exact for every format at most as wide as FP32 (R77). -/
def toFp32 (f : FFmt) (x : Nat) : FRes := fconv fp32 0 0 false (fdecode f x)

end Sys2Proof
end

