-- ==== Sys2Proof/Machine/Special.lean ====
section
/-! DEFINITION. The special functions of R107 and R108: the exact value of the function rounded once to nearest-even, from
integer arithmetic with more than 250 bits beyond the FP32 precision. -/
namespace Sys2Proof

/-- Fractional bits of the fixed-point values below. -/
def sfBits : Nat := 480

/-- π ÷ 2 in units of 2^-640. -/
def halfPi640 : Nat :=
  0x1921fb54442d18469898cc51701b839a252049c1114cf98e804177d4c76273644a29410f31c6809bbdf2a33679a748636605614dbe4be286e9fc26adadaa3848bc90b6aecc4bcfd8de89885d34c6fdad6
/-- ln 2 in units of 2^-480. -/
def ln2q : Nat :=
  0xb17217f7d1cf79abc9e3b39803f2f6af40f343267298b62d8a0d175b8baafa2be7b876206debac98559552fb4afa1b10ed2eae35c138214427573b29

/-- m × 2^e as a fixed-point number of b fractional bits (truncated). -/
def toFixed (b m : Nat) (e : Int) : Nat :=
  let s := e + b
  if s < 0 then m / 2 ^ (-s).toNat else m * 2 ^ s.toNat

/-- Σ t^k ÷ k! from k on, the current term given: n terms of the exponential series. -/
def expSeries (b t : Nat) : Nat → Nat → Nat → Nat
  | 0, _, _ => 0
  | n + 1, k, term => term + expSeries b t n (k + 1) (term * t / 2 ^ b / (k + 1))

/-- e^t − 1 for t in [0, 1), b fractional bits. -/
def expm1Fixed (b t : Nat) : Nat := expSeries b t 120 1 t

/-- Σ ± t^k ÷ k! in steps of two: the sine and cosine series over the square of t. -/
def trigSeries (b t2 : Nat) : Nat → Nat → Int → Int
  | 0, _, _ => 0
  | n + 1, k, term => term + trigSeries b t2 n (k + 2) (-(term * t2 / 2 ^ b / ((k + 1) * (k + 2))))

/-- Σ t^(2i+1) ÷ (2i+1). -/
def atanhSeries (b t2 : Nat) : Nat → Nat → Nat → Nat
  | 0, _, _ => 0
  | n + 1, k, pw => pw / k + atanhSeries b t2 n (k + 2) (pw * t2 / 2 ^ b)

/-- The integer square root, by bits from 2^i down. -/
def isqrtBits (n : Nat) : Nat → Nat → Nat
  | 0, r => if (r + 1) * (r + 1) ≤ n then r + 1 else r
  | i + 1, r => isqrtBits n i (if (r + 2 ^ (i + 1)) * (r + 2 ^ (i + 1)) ≤ n then r + 2 ^ (i + 1) else r)

def isqrt (n : Nat) : Nat := isqrtBits n (Nat.log2 n / 2 + 1) 0

/-- √(m × 2^e), exact or with `st`. -/
def exactSqrt (m : Nat) (e : Int) : Exact :=
  let e2 := if e % 2 = 0 then e else e - 1
  let m2 := if e % 2 = 0 then m else 2 * m
  let n := m2 * 2 ^ 256
  let r := isqrt n
  ⟨false, r, (e2 - 256) / 2, r * r != n⟩

/-- The fixed-point value n (b fractional bits), known to be irrational. -/
def irrational (neg : Bool) (b n : Nat) : Exact := ⟨neg, n, -(b : Int), true⟩

/-- 2^x for x = ±m × 2^e, |x| < 1024. -/
def exactExp2 (neg : Bool) (m : Nat) (e : Int) : Exact :=
  let X := toFixed sfBits m e
  let one := 2 ^ sfBits
  let fl := X / one
  let fr := X % one
  let n : Int := if neg then (if fr = 0 then -(fl : Int) else -(fl : Int) - 1) else fl
  let f := if neg ∧ fr ≠ 0 then one - fr else fr
  if fr = 0 then ⟨false, 1, n, false⟩
  else ⟨false, one + expm1Fixed sfBits (f * ln2q / one), n - sfBits, true⟩

/-- log2 of m × 2^e, m > 0. -/
def exactLog2 (m : Nat) (e : Int) : Exact :=
  let L := Nat.log2 m
  let k : Int := e + L
  if m = 2 ^ L then ⟨decide (k < 0), k.natAbs, 0, false⟩
  else
    let one := 2 ^ sfBits
    let num := (m - 2 ^ L) * one
    let t := num / (m + 2 ^ L)
    let lnz := 2 * atanhSeries sfBits (t * t / one) 170 1 t
    let z : Int := k * one + (lnz * one / ln2q : Nat)
    irrational (decide (z < 0)) sfBits z.natAbs

/-- Sine and cosine of m × 2^e in fixed point, 640 fractional bits: (sin, cos), signed. -/
def sinCosFixed (m : Nat) (e : Int) : Int × Int :=
  let X := toFixed 640 m e
  -- The quotient by π/2 can have 130 bits; the constant is scaled down to 480 bits after the reduction.
  let q := X / halfPi640
  let r := (X - q * halfPi640) / 2 ^ 160
  let one : Nat := 2 ^ sfBits
  let r2 := r * r / one
  let s := trigSeries sfBits r2 60 1 r
  let c := trigSeries sfBits r2 60 0 one
  match q % 4 with
  | 0 => (s, c)
  | 1 => (c, -s)
  | 2 => (-s, -c)
  | _ => (-c, s)

/-- e^(2t) − 1 and e^(2t) + 1 give tanh t, t = m × 2^e with 0 < t < 32. -/
def exactTanh (neg : Bool) (m : Nat) (e : Int) : Exact :=
  let one := 2 ^ sfBits
  let X := 2 * toFixed sfBits m e
  let n := X / ln2q
  let r := X % ln2q
  let em1 := expm1Fixed sfBits r
  let num := if n = 0 then em1 else (one + em1) * 2 ^ n - one
  let den := num + 2 * one
  irrational neg (2 * sfBits) (num * 2 ^ (2 * sfBits) / den)

/-- An Exact rounded to FP32 nearest-even: every special function's result (R108). -/
def sfRound (x : Exact) : FRes := froundX fp32 0 0 false x

/-- SIN and COS of a finite nonzero value. -/
def sfSin (neg : Bool) (m : Nat) (e : Int) : FRes :=
  -- Below 2^-40 the exact sine lies within x³/6 of x, far inside half a unit of x, and is not x.
  if e + (Nat.log2 m : Int) < -40 then sfRound ⟨neg, m * 2 ^ 64, e - 64, true⟩
  else
    let s := (sinCosFixed m e).1
    sfRound (irrational (decide (s < 0) != neg) sfBits s.natAbs)

def sfCos (m : Nat) (e : Int) : FRes :=
  if e + (Nat.log2 m : Int) < -40 then sfRound ⟨false, 2 ^ 64 - 1, -64, true⟩
  else
    let c := (sinCosFixed m e).2
    sfRound (irrational (decide (c < 0)) sfBits c.natAbs)

/-- The functions of major 17, by fn (Table 2-4): 0 RCP, 1 RSQ, 2 SQRT, 3 EXP2, 4 LOG2, 5 SIN, 6 COS, 7 TANH. -/
def specialFn (fn : Nat) (a : Nat) : FRes :=
  match fdecode fp32 a with
  | .nan s => fnan fp32 s
  | .inf n =>
    match fn with
    | 0 => ⟨fp32.signed n 0, 0⟩
    | 1 => if n then fnan fp32 true else ⟨0, 0⟩
    | 2 => if n then fnan fp32 true else ⟨a, 0⟩
    | 3 => if n then ⟨0, 0⟩ else ⟨a, 0⟩
    | 4 => if n then fnan fp32 true else ⟨a, 0⟩
    | 7 => ⟨fp32.signed n 0x3F800000, 0⟩
    | _ => fnan fp32 true
  | .fin n m e =>
    if m = 0 then
      match fn with
      | 0 => finf fp32 n flDZ
      | 1 => finf fp32 n flDZ
      | 2 => ⟨a, 0⟩
      | 3 => ⟨0x3F800000, 0⟩
      | 4 => finf fp32 true flDZ
      | 6 => ⟨0x3F800000, 0⟩
      | _ => ⟨a, 0⟩
    else
      match fn with
      | 0 => sfRound (exactDiv n 1 0 m e)
      | 1 => if n then fnan fp32 true else
               let r := exactSqrt m e
               sfRound (let d := exactDiv false 1 0 r.m r.e; { d with st := d.st || r.st })
      | 2 => if n then fnan fp32 true else sfRound (exactSqrt m e)
      | 3 => if e + (Nat.log2 m : Int) ≥ 9 then
               (if n then sfRound ⟨false, 1, -1000, false⟩ else sfRound ⟨false, 1, 1000, false⟩)
             else if e + (Nat.log2 m : Int) < -60 then
               sfRound (if n then ⟨false, 2 ^ 64 - 1, -64, true⟩ else ⟨false, 2 ^ 64, -64, true⟩)
             else sfRound (exactExp2 n m e)
      | 4 => if n then fnan fp32 true else sfRound (exactLog2 m e)
      | 5 => sfSin n m e
      | 6 => sfCos m e
      | _ => if e + (Nat.log2 m : Int) ≥ 5 then sfRound ⟨n, 2 ^ 64 - 1, -64, true⟩
             else if e + (Nat.log2 m : Int) < -40 then sfRound ⟨n, m * 2 ^ 64, e - 64, true⟩
             else sfRound (exactTanh n m e)

end Sys2Proof
end

