-- ==== Sys2Proof/Machine/Fabric.lean ====
section
/-! DEFINITION. Messages between modules (R355), the requests that fabric accesses make (R356), their performing at this
module for a peer, and what a response or refusal does to the group that waits (R172, R356, R357). -/
namespace Sys2Proof.Machine

/-! ## Messages -/

/-- The 16-byte units after the header of a message (Table 16-2, at most 255): its data, and for what has none a unit for each access, lane
or number it carries. Beside the header the spec gives no layout (DESIGN CHOICE, log entry 47). -/
def bodySize : MsgBody → Nat
  | .request r => match r.kind with
    | .read => r.accs.length
    | _ => 2 * r.accs.length
  | .response _ vals => Nat.max 1 vals.length
  | .refusal _ lanes => lanes.length
  | .chunk _ _ c => (c.payload.length + 15) / 16
  | .start _ _ _ _ d => 3 + (d.length + 15) / 16
  | .write _ _ d | .bytes _ d | .chunkPart d => (d.length + 15) / 16
  | _ => 1
def bodyUnits (b : MsgBody) : Nat := Nat.min 255 (bodySize b)

/-- INFO of a message (Table 16-2): bits [55:0] of the fabric address, with the access size above them; for a chunk the channel above bits
[55:0] of its label. How the two share the field is not said (DESIGN CHOICE, log entry 47). -/
def msgInfo (addr : Dword) (top : Nat) : Dword := (addr &&& 0x00FFFFFFFFFFFFFF#64) ||| BitVec.ofNat 64 (top % 256 * 2 ^ 56)

/-- Queues a message to a module under the pair's next MSGNO (R355, Table 16-2); one to this module itself needs no link. `addr` and `top`
make its INFO. -/
def State.sendMsg (s : State) (dst kind ctxid : Nat) (addr : Dword) (top : Nat) (body : MsgBody) : State :=
  let f := s.fabric
  let n := Bank.get 0 f.txNext dst
  let m : Message := ⟨f.self, dst, BitVec.ofNat 32 n, BitVec.ofNat 8 kind, bodyUnits body, BitVec.ofNat 16 ctxid, msgInfo addr top, body⟩
  { s with fabric := { f with
      txNext := Bank.set 0 f.txNext dst ((n + 1) % 2 ^ 32)
      outbox := if dst = f.self then f.outbox else f.outbox ++ [m]
      heldRx := if dst = f.self then f.heldRx ++ [m] else f.heldRx } }

/-- KIND of a request (Table 16-2). -/
def reqKind (k : RemoteKind) : Nat :=
  match k with
  | .read => 1
  | .write => 3
  | .sigf => 3
  | _ => 5

/-- One lane's share of a fabric access: the module, the peer view of the address (bits [55:0]), its size, its data and
expected value, and the registers its answer goes to. -/
structure Share where
  lane   : Nat
  module : Nat
  addr   : Dword
  size   : Nat
  data   : BitVec 128
  exp    : Dword
  keys   : List Nat
  sgn    : Bool
  deriving DecidableEq, Repr

/-- The shares that go in one message: one peer, one 256-byte sector (R356). -/
def Share.sector (x : Share) : Nat × Nat := (x.module, x.addr.toNat % 2 ^ 56 / 256)

/-- Sends the request messages of an issue, one per sector in the order of its lowest lane, and answers what the group
must wait for. -/
def sendRequests (s : State) (ctxid : Nat) (kind : RemoteKind) (acq : Bool) : List (Nat × Nat) → List Share → List ROut → State × List ROut
  | [], _, acc => (s, acc)
  | sec :: rest, shares, acc =>
    let mine := shares.filter (fun x => x.sector == sec)
    let id := s.fabric.nextReq
    let accs := mine.map (fun x => (⟨x.lane, x.addr &&& 0x00FFFFFFFFFFFFFF#64, x.size, x.data, x.exp⟩ : RemoteAcc))
    let s := { s with fabric := { s.fabric with nextReq := id + 1 } }
    let first := mine.head?.elim (0, 0) (fun x => (x.addr, x.size))
    let s := s.sendMsg sec.1 (reqKind kind) ctxid first.1 first.2 (.request ⟨id, kind, accs⟩)
    let out : ROut := ⟨id, acq, sec.1, mine.map (fun x => ⟨x.lane, x.keys, x.size, x.sgn, x.addr⟩), false⟩
    sendRequests s ctxid kind acq rest shares (acc ++ [out])

/-- Issues the fabric shares of a word; `acq`: an LDA's (R177). -/
def issueRemote (s : State) (k : Nat) (kind : RemoteKind) (acq : Bool) (shares : List Share) : State :=
  if shares.isEmpty then s else
  let g := s.grp k
  let r := sendRequests s g.ctxid kind acq (shares.map Share.sector).eraseDups shares []
  r.1.modGrp k (fun g => g.addOp .rm (maskOf (shares.map (·.lane))) (.remote r.2))

/-! ## Atomic operations (Table 7-7), here because a peer performs them too -/

def halves (f : Nat → Nat → Nat) (m x : Nat) : Nat :=
  f (m % 65536) (x % 65536) + f (m / 65536) (x / 65536) * 65536

/-- Op(op, m, x) on a word of n bits: nearest-even, no flag, whatever RMODE holds (R180). -/
def atomOp (n fn : Nat) (m x : BitVec n) : BitVec n :=
  match fn with
  | 0 => m + x
  | 1 => if m.slt x then m else x
  | 2 => if m.slt x then x else m
  | 3 => if m.ult x then m else x
  | 4 => if m.ult x then x else m
  | 5 => m &&& x
  | 6 => m ||| x
  | 7 => m ^^^ x
  | 8 => x
  | 9 => BitVec.ofNat n (Sys2Proof.fadd fp32 0 0 m.toNat x.toNat).bits
  | 10 => BitVec.ofNat n (halves (fun a b => (Sys2Proof.fadd bf16 0 0 a b).bits) m.toNat x.toNat)
  | 11 => BitVec.ofNat n (fminmax fp32 false m.toNat x.toNat).bits
  | _ => BitVec.ofNat n (fminmax fp32 true m.toNat x.toNat).bits

/-- The new word of an atomic kind: the operation, compare-and-swap with the expected value, or the bounded increment
(R180, R181). -/
def remoteOp (n : Nat) (k : RemoteKind) (m x e : BitVec n) : BitVec n :=
  match k with
  | .atom fn => atomOp n fn m x
  | .cas => if m = e then x else m
  | .incb => if m.ult x then m + 1 else m
  | _ => x

/-! ## Performing a peer's request at this module (R356) -/

/-- Whether Table 7-3 allows the access in the flag window. -/
def remoteFlagOk (k : RemoteKind) (size : Nat) : Bool :=
  match k with
  | .read => size == 8
  | .write => false
  | .sigf => true
  | .atom fn => size == 8 && decide (fn ≤ 8)
  | _ => size == 8

/-- A violation or a poisoned word met by a peer's access (R270, R276): an entry of this module's black box; the answer, with no
cause and the violation's number, freezes the group that asked (R387, log entry 79). -/
def peerViolation (s : State) (ctxid code addr : Nat) : State × (BitVec 128 ⊕ (Nat × Nat)) :=
  (s.bboxAdd (if code = 2 then 2 else 1) (masterCode 1 0) ctxid (Config.violationCode code) addr, .inr (0, code))

/-- One access (checks 5 to 7 of Table 7-2): its value, or the cause and DETAIL of a refusal. -/
def performAcc (s : State) (ctxid : Nat) (k : RemoteKind) (a : RemoteAcc) : State × (BitVec 128 ⊕ (Nat × Nat)) :=
  let need : Need := match k with
    | .read => .read
    | _ => .write
  match translate s whoPeer ctxid (s.ctx ctxid) need a.addr with
  | .noPage => (s, .inr (if need = .write then 6 else 5, 0))
  | r => if regionOf a.addr == .flag && !remoteFlagOk k a.size then (s, .inr (7, 0)) else
    match r with
    | .noPage => (s, .inr (5, 0))
    | .deny d => (s, .inr (7, d))
    | .violation c p => peerViolation s ctxid c p
    | .ok phys key _ =>
      let tag := keyTag s key
      let old := s.readNat none tag phys a.size
      match k with
      | .write | .sigf => (s.writeBytes none none tag phys (natToBytes a.size a.data.toNat), .inl 0)
      | _ => match s.poisoned none phys a.size with
        | some p => peerViolation s ctxid 2 p
        | none =>
          if k = .read then (s, .inl (BitVec.ofNat 128 old)) else
          let n := 8 * a.size
          let new := remoteOp n k (BitVec.ofNat n old) (BitVec.ofNat n a.data.toNat) (BitVec.ofNat n a.exp.toNat)
          (s.writeBytes none none tag phys (natToBytes a.size new.toNat), .inl (BitVec.ofNat 128 old))

/-- Where an address that names this module itself leads (R169), if a walk finds its page. -/
def selfPhys (s : State) (ctxid : Nat) (addr : Dword) : Option Nat :=
  match translate s whoPeer ctxid (s.ctx ctxid) .read (addr &&& 0x00FFFFFFFFFFFFFF#64) with
  | .ok phys _ _ => some phys
  | _ => none

/-- Lane l has an unanswered access to one of n bytes from loc under a fabric address of this module itself: its next access to them comes
after (R175, R246). -/
def selfPending (s : State) (g : Grp) (l loc n : Nat) : Bool :=
  g.ops.any (fun o => match o.body with
    | .remote rs => rs.any (fun r => !r.done && r.peer == s.fabric.self && r.lanes.any (fun x => x.lane == l &&
        (match selfPhys s g.ctxid x.addr with
         | some p => decide (p < loc + n) && decide (loc < p + x.size)
         | none => false)))
    | _ => false)

/-- The accesses of a message in ascending lane order: the values returned and the lanes refused. -/
def performAccs (s : State) (ctxid : Nat) (k : RemoteKind) :
    List RemoteAcc → State × List (Nat × BitVec 128) × List (Nat × Nat × Nat)
  | [] => (s, [], [])
  | a :: rest =>
    let r := performAcc s ctxid k a
    let t := performAccs r.1 ctxid k rest
    match r.2 with
    | .inl v => (t.1, (a.lane, v) :: t.2.1, t.2.2)
    | .inr (c, d) => (t.1, t.2.1, (a.lane, c, d) :: t.2.2)

/-- The operation that waits for request `id`. -/
def findRequest (g : Grp) (id : Nat) : Option (PendOp × List ROut × ROut) :=
  g.ops.findSome? (fun o => match o.body with
    | .remote rs => (rs.find? (fun r => r.id == id && !r.done)).map (fun r => (o, rs, r))
    | _ => none)

/-- The group or feeder context that waits for request `id`. -/
def askerOf (s : State) (id : Nat) : Option Nat := (s.grps.find? (fun e => (findRequest e.2 id).isSome)).map (·.1)

/-- A core's L1 gives up the sectors that an access reaches past it, under a fabric address of its own module (R248). -/
def State.flushAccs (s : State) (ctxid : Nat) (core : Nat) (accs : List RemoteAcc) : State :=
  accs.foldl (fun s a => match selfPhys s ctxid a.addr with
    | some p => s.flushSector core (p / 256)
    | none => s) s

/-- Serves a request: the response with its values, and the refusal of the lanes that were refused. -/
def serveRequest (s : State) (m : Message) (q : RemoteReq) : State :=
  let s := match (if m.src = s.fabric.self then askerOf s q.id else none) with
    | some k => s.flushAccs m.ctxid.toNat (s.grp k).core q.accs
    | none => s
  let r := performAccs s m.ctxid.toNat q.kind q.accs
  let s := r.1
  let kind := match q.kind with
    | .read => 2
    | .write | .sigf => 4
    | _ => 6
  let s := if r.2.2.isEmpty then s else s.sendMsg m.src 7 m.ctxid.toNat m.info 0 (.refusal q.id r.2.2)
  if r.2.1.isEmpty then s else s.sendMsg m.src kind m.ctxid.toNat m.info 0 (.response q.id r.2.1)

/-! ## Answers (R172, R356) -/

/-- The words a lane's answer writes: as a load of its size would. -/
def answerWords (x : RLane) (v : BitVec 128) : List (Nat × Word) :=
  let n := v.toNat % 2 ^ (8 * x.size)
  let n := if x.sgn ∧ x.size < 4 ∧ 2 ^ (8 * x.size - 1) ≤ n then n + (2 ^ 32 - 2 ^ (8 * x.size)) else n
  x.keys.zipIdx.map (fun k => (k.1, BitVec.ofNat 32 (n / 2 ^ (32 * k.2))))

/-- Lanes of request `id` of operation `op` are answered; the request is closed when none is left, the operation when every
request is (Table 7-11). -/
def answerLanes (g : Grp) (op : PendOp) (id : Nat) (rs : List ROut) (ls : List Nat) : Grp :=
  let rs' := rs.map (fun (r : ROut) => if r.id = id then
      let left := r.lanes.filter (fun x => !ls.contains x.lane)
      { r with lanes := left, done := left.isEmpty }
    else r)
  let g := g.setOp { op with body := .remote rs' }
  if rs'.all (·.done) then g.finishOp op.id else g

/-- A response: each answered lane's data goes to its registers; an acquire drops what it must (R177). -/
def onResponse (s : State) (id : Nat) (vals : List (Nat × BitVec 128)) : State :=
  match askerOf s id with
  | none => s
  | some k => match findRequest (s.grp k) id with
    | none => s
    | some (o, rs, r) =>
      let ds := r.lanes.flatMap (fun x => match vals.find? (fun v => v.1 == x.lane) with
        | some v => answerWords x v.2
        | none => [])
      let s := if r.acq then s.dropClean (s.grp k).core else s
      s.modGrp k (fun g => answerLanes (g.returnData o.id ds) o id rs (vals.map (·.1)))

/-- A violation that a context's access met at a peer freezes the context (R387, log entry 79). -/
def State.peerFreeze (s : State) (k code : Nat) : State :=
  (s.haltGrp k 5 (Config.violationCode code)).modGrp k (fun g => { g with frozen := true })

/-- A refusal: the lane will trap at the next instruction it issues, TADDR holding the fabric address (R172); a violation at the
peer freezes the group. -/
def onRefusal (s : State) (id : Nat) (lanes : List (Nat × Nat × Nat)) : State :=
  match askerOf s id with
  | none => s
  | some k => match findRequest (s.grp k) id with
    | none => s
    | some (o, rs, r) =>
      let s := s.modGrp k (fun g =>
        let g := r.lanes.foldl (fun g x => match lanes.find? (fun y => y.1 == x.lane && y.2.1 != 0) with
          | some y => g.modLane x.lane (fun z => { z with refusals := z.refusals ++ [⟨y.2.1, y.2.2, x.addr⟩] })
          | none => g) g
        answerLanes g o id rs (lanes.map (·.1)))
      match lanes.find? (fun y => y.2.1 == 0) with
      | some y => s.peerFreeze k y.2.2
      | none => s

/-! ## Blocks read at another module (R226, R356) -/

/-- A module has answered a group's read of a block: with its bytes, or with a refusal; a violation there freezes the group. -/
def onBlock (s : State) (id : Nat) (answer : List Byte ⊕ (Nat × Nat)) : State :=
  match s.grps.find? (fun e => e.2.fetched.any (fun x => x.id == id)) with
  | none => s
  | some e =>
    let s := s.modGrp e.1 (fun g => { g with fetched := g.fetched.map (fun x => if x.id = id then match answer with
        | .inl b => { x with data := some b }
        | .inr r => { x with refused := some r }
      else x) })
    match answer with
    | .inr (0, code) => s.peerFreeze e.1 code
    | _ => s

end Sys2Proof.Machine
end

