-- ==== Sys2Proof/Decode.lean ====
section
/-! DEFINITION. The decoder and the encoder: the 32-bit words of Tables 2-1, 2-4 and 2-10 (spec/02_encoding_assembly.md) and
the 64-bit Fjarmar words of Tables 13-2 to 13-5 (spec/13_link_sequencers.md). A word is matched on its fixed bits; the
rules its field values must obey (R46, R57) are decode traps of its meaning (Machine/Operands.lean). -/
namespace Sys2Proof

/-- Major opcode 0 (Table 2-4). -/
def decodeMajor0 (u : Bool) (fn : BitVec 3) (pl : BitVec 22) : Option Instr :=
  match fn.toNat with
  | 0 => if pl = 0#22 then some (.nop u) else none
  | 1 => if !u then some (.hintImm pl) else none
  | 2 => if pl.extractLsb' 5 17 = 0#17 then some (.hintSched u (pl.extractLsb' 4 1) (pl.extractLsb' 0 4)) else none
  | 3 => if !u ∧ pl.extractLsb' 0 13 = 0#13 then some (.hintMod (pl.extractLsb' 19 3) (pl.extractLsb' 16 3) (pl.extractLsb' 15 1) (pl.extractLsb' 13 2)) else none
  | _ => none

/-- Major opcode 1 (Table 2-4). -/
def decodeMajor1 (u : Bool) (fn : BitVec 4) (d : BitVec 6) (a : BitVec 6) (b : BitVec 6) (p : BitVec 3) : Option Instr :=
  match fn.toNat with
  | 0 => some (.add u d a b p)
  | 1 => some (.sub u d a b p)
  | 2 => some (.mul u d a b p)
  | 3 => some (.mulhi u d a b p)
  | 4 => some (.mulhiu u d a b p)
  | 5 => some (.mad u d a b p)
  | 6 => some (.and u d a b p)
  | 7 => some (.or u d a b p)
  | 8 => some (.xor u d a b p)
  | 9 => some (.andn u d a b p)
  | 10 => some (.min u d a b p)
  | 11 => some (.max u d a b p)
  | 12 => some (.minu u d a b p)
  | 13 => some (.maxu u d a b p)
  | _ => none

/-- Major opcode 2 (Table 2-4). -/
def decodeMajor2 (u : Bool) (fn : BitVec 4) (d : BitVec 6) (a : BitVec 6) (b : BitVec 6) (p : BitVec 3) : Option Instr :=
  match fn.toNat with
  | 0 => some (.add64 u d a b p)
  | 1 => some (.sub64 u d a b p)
  | 2 => some (.mul64 u d a b p)
  | 3 => some (.mulhi64 u d a b p)
  | 4 => some (.mulhiu64 u d a b p)
  | 5 => some (.mad64 u d a b p)
  | 6 => some (.and64 u d a b p)
  | 7 => some (.or64 u d a b p)
  | 8 => some (.xor64 u d a b p)
  | 9 => some (.andn64 u d a b p)
  | 10 => some (.min64 u d a b p)
  | 11 => some (.max64 u d a b p)
  | 12 => some (.minu64 u d a b p)
  | 13 => some (.maxu64 u d a b p)
  | _ => none

/-- Major opcode 3 (Table 2-4). -/
def decodeMajor3 (u : Bool) (fn : BitVec 4) (d : BitVec 6) (a : BitVec 6) (b : BitVec 6) (p : BitVec 3) : Option Instr :=
  match fn.toNat with
  | 0 => some (.shl u d a b p)
  | 1 => some (.shr u d a b p)
  | 2 => some (.sar u d a b p)
  | 3 => some (.rot u d a b p)
  | 4 => if b = 0#6 then some (.abs u d a p) else none
  | 5 => if b = 0#6 then some (.clz u d a p) else none
  | 6 => if b = 0#6 then some (.popc u d a p) else none
  | 7 => if b = 0#6 then some (.brev u d a p) else none
  | 8 => some (.bfx u d a b p)
  | 9 => some (.bfi u d a b p)
  | 10 => some (.permb u d a b p)
  | 11 => some (.div u d a b p)
  | 12 => some (.divu u d a b p)
  | 13 => some (.rem u d a b p)
  | 14 => some (.remu u d a b p)
  | _ => none

/-- Major opcode 4 (Table 2-4). -/
def decodeMajor4 (u : Bool) (fn : BitVec 4) (d : BitVec 6) (a : BitVec 6) (b : BitVec 6) (p : BitVec 3) : Option Instr :=
  match fn.toNat with
  | 0 => some (.shl64 u d a b p)
  | 1 => some (.shr64 u d a b p)
  | 2 => some (.sar64 u d a b p)
  | 3 => some (.rot64 u d a b p)
  | 4 => if b = 0#6 then some (.abs64 u d a p) else none
  | 5 => if b = 0#6 then some (.clz64 u d a p) else none
  | 6 => if b = 0#6 then some (.popc64 u d a p) else none
  | 7 => if b = 0#6 then some (.brev64 u d a p) else none
  | 8 => some (.bfx64 u d a b p)
  | 9 => some (.bfi64 u d a b p)
  | 10 => some (.permb64 u d a b p)
  | 11 => some (.div64 u d a b p)
  | 12 => some (.divu64 u d a b p)
  | 13 => some (.rem64 u d a b p)
  | 14 => some (.remu64 u d a b p)
  | _ => none

/-- Major opcode 5 (Table 2-4). -/
def decodeMajor5 (u : Bool) (fn : BitVec 3) (d : BitVec 6) (a : BitVec 6) (i : BitVec 7) (p : BitVec 3) : Option Instr :=
  match fn.toNat with
  | 0 => some (.addi u d a i p)
  | 1 => some (.muli u d a i p)
  | 2 => some (.andi u d a i p)
  | 3 => some (.ori u d a i p)
  | 4 => some (.xori u d a i p)
  | 5 => some (.shli u d a i p)
  | 6 => some (.shri u d a i p)
  | 7 => some (.sari u d a i p)
  | _ => none

/-- Major opcode 6 (Table 2-4). -/
def decodeMajor6 (u : Bool) (fn : BitVec 3) (d : BitVec 6) (a : BitVec 6) (i : BitVec 7) (p : BitVec 3) : Option Instr :=
  match fn.toNat with
  | 0 => some (.addi64 u d a i p)
  | 1 => some (.muli64 u d a i p)
  | 2 => some (.andi64 u d a i p)
  | 3 => some (.ori64 u d a i p)
  | 4 => some (.xori64 u d a i p)
  | 5 => some (.shli64 u d a i p)
  | 6 => some (.shri64 u d a i p)
  | 7 => some (.sari64 u d a i p)
  | _ => none

/-- Major opcode 7 (Table 2-4). -/
def decodeMajor7 (u : Bool) (fn : BitVec 3) (d : BitVec 6) (a : BitVec 6) (i : BitVec 7) (p : BitVec 3) : Option Instr :=
  match fn.toNat with
  | 0 => if a = 0#6 then some (.movi u d i p) else none
  | 1 => if a = 0#6 then some (.movi64 u d i p) else none
  | _ => none

/-- Major opcode 8 (Table 2-4). -/
def decodeMajor8 (u : Bool) (fn : BitVec 4) (d : BitVec 6) (a : BitVec 6) (b : BitVec 6) (p : BitVec 3) : Option Instr :=
  match fn.toNat with
  | 0 => some (.fadd u d a b p)
  | 1 => some (.fsub u d a b p)
  | 2 => some (.fmul u d a b p)
  | 3 => some (.ffma u d a b p)
  | 4 => some (.fmin u d a b p)
  | 5 => some (.fmax u d a b p)
  | 6 => some (.fsgnJ u d a b p)
  | 7 => some (.fsgnN u d a b p)
  | 8 => some (.fsgnX u d a b p)
  | 9 => if b = 0#6 then some (.fclass u d a p) else none
  | 10 => some (.fdiv u d a b p)
  | _ => none

/-- Major opcode 9 (Table 2-4). -/
def decodeMajor9 (u : Bool) (fn : BitVec 4) (d : BitVec 6) (a : BitVec 6) (b : BitVec 6) (p : BitVec 3) : Option Instr :=
  match fn.toNat with
  | 0 => some (.hadd2 u (fn.extractLsb' 0 1) d a b p)
  | 1 => some (.hadd2 u (fn.extractLsb' 0 1) d a b p)
  | 2 => some (.hmul2 u (fn.extractLsb' 0 1) d a b p)
  | 3 => some (.hmul2 u (fn.extractLsb' 0 1) d a b p)
  | 4 => some (.hfma2 u (fn.extractLsb' 0 1) d a b p)
  | 5 => some (.hfma2 u (fn.extractLsb' 0 1) d a b p)
  | 6 => some (.hmin2 u (fn.extractLsb' 0 1) d a b p)
  | 7 => some (.hmin2 u (fn.extractLsb' 0 1) d a b p)
  | 8 => some (.hmax2 u (fn.extractLsb' 0 1) d a b p)
  | 9 => some (.hmax2 u (fn.extractLsb' 0 1) d a b p)
  | _ => none

/-- Major opcode 10 (Table 2-4). -/
def decodeMajor10 (u : Bool) (fn : BitVec 4) (d : BitVec 6) (a : BitVec 6) (b : BitVec 6) (p : BitVec 3) : Option Instr :=
  match fn.toNat with
  | 0 => some (.dadd u d a b p)
  | 1 => some (.dmul u d a b p)
  | 2 => some (.dfma u d a b p)
  | _ => none

/-- Major opcode 11 (Table 2-4). -/
def decodeMajor11 (u : Bool) (fn : BitVec 4) (d : BitVec 6) (a : BitVec 6) (b : BitVec 6) (p : BitVec 3) : Option Instr :=
  match fn.toNat with
  | _ => if d.extractLsb' 3 3 = 0#3 then some (.icmp u fn (d.extractLsb' 0 3) a b p) else none

/-- Major opcode 12 (Table 2-4). -/
def decodeMajor12 (u : Bool) (fn : BitVec 4) (d : BitVec 6) (a : BitVec 6) (b : BitVec 6) (p : BitVec 3) : Option Instr :=
  match fn.toNat with
  | _ => if d.extractLsb' 3 3 = 0#3 then some (.icmp64 u fn (d.extractLsb' 0 3) a b p) else none

/-- Major opcode 13 (Table 2-4). -/
def decodeMajor13 (u : Bool) (fn : BitVec 4) (d : BitVec 6) (a : BitVec 6) (b : BitVec 6) (p : BitVec 3) : Option Instr :=
  match fn.toNat with
  | 0 => if d.extractLsb' 4 2 = 0#2 then some (.fcmp u (fn.extractLsb' 0 3) (d.extractLsb' 3 1) (d.extractLsb' 0 3) a b p) else none
  | 1 => if d.extractLsb' 4 2 = 0#2 then some (.fcmp u (fn.extractLsb' 0 3) (d.extractLsb' 3 1) (d.extractLsb' 0 3) a b p) else none
  | 2 => if d.extractLsb' 4 2 = 0#2 then some (.fcmp u (fn.extractLsb' 0 3) (d.extractLsb' 3 1) (d.extractLsb' 0 3) a b p) else none
  | 3 => if d.extractLsb' 4 2 = 0#2 then some (.fcmp u (fn.extractLsb' 0 3) (d.extractLsb' 3 1) (d.extractLsb' 0 3) a b p) else none
  | 4 => if d.extractLsb' 4 2 = 0#2 then some (.fcmp u (fn.extractLsb' 0 3) (d.extractLsb' 3 1) (d.extractLsb' 0 3) a b p) else none
  | 5 => if d.extractLsb' 4 2 = 0#2 then some (.fcmp u (fn.extractLsb' 0 3) (d.extractLsb' 3 1) (d.extractLsb' 0 3) a b p) else none
  | 6 => if d.extractLsb' 4 2 = 0#2 then some (.fcmp u (fn.extractLsb' 0 3) (d.extractLsb' 3 1) (d.extractLsb' 0 3) a b p) else none
  | 7 => if d.extractLsb' 4 2 = 0#2 then some (.fcmp u (fn.extractLsb' 0 3) (d.extractLsb' 3 1) (d.extractLsb' 0 3) a b p) else none
  | _ => none

/-- Major opcode 14 (Table 2-4). -/
def decodeMajor14 (u : Bool) (fn : BitVec 4) (d : BitVec 6) (a : BitVec 6) (b : BitVec 6) (p : BitVec 3) : Option Instr :=
  match fn.toNat with
  | 0 => if d.extractLsb' 3 3 = 0#3 ∧ a.extractLsb' 3 3 = 0#3 ∧ b.extractLsb' 3 3 = 0#3 then some (.plog u (fn.extractLsb' 0 3) (d.extractLsb' 0 3) (a.extractLsb' 0 3) (b.extractLsb' 0 3) p) else none
  | 1 => if d.extractLsb' 3 3 = 0#3 ∧ a.extractLsb' 3 3 = 0#3 ∧ b.extractLsb' 3 3 = 0#3 then some (.plog u (fn.extractLsb' 0 3) (d.extractLsb' 0 3) (a.extractLsb' 0 3) (b.extractLsb' 0 3) p) else none
  | 2 => if d.extractLsb' 3 3 = 0#3 ∧ a.extractLsb' 3 3 = 0#3 ∧ b.extractLsb' 3 3 = 0#3 then some (.plog u (fn.extractLsb' 0 3) (d.extractLsb' 0 3) (a.extractLsb' 0 3) (b.extractLsb' 0 3) p) else none
  | 3 => if d.extractLsb' 3 3 = 0#3 ∧ a.extractLsb' 3 3 = 0#3 ∧ b.extractLsb' 3 3 = 0#3 then some (.plog u (fn.extractLsb' 0 3) (d.extractLsb' 0 3) (a.extractLsb' 0 3) (b.extractLsb' 0 3) p) else none
  | 4 => if d.extractLsb' 3 3 = 0#3 ∧ a.extractLsb' 3 3 = 0#3 ∧ b.extractLsb' 3 3 = 0#3 then some (.plog u (fn.extractLsb' 0 3) (d.extractLsb' 0 3) (a.extractLsb' 0 3) (b.extractLsb' 0 3) p) else none
  | 5 => if d.extractLsb' 3 3 = 0#3 ∧ a.extractLsb' 3 3 = 0#3 ∧ b.extractLsb' 3 3 = 0#3 then some (.plog u (fn.extractLsb' 0 3) (d.extractLsb' 0 3) (a.extractLsb' 0 3) (b.extractLsb' 0 3) p) else none
  | 6 => if d.extractLsb' 3 3 = 0#3 ∧ a.extractLsb' 3 3 = 0#3 ∧ b.extractLsb' 3 3 = 0#3 then some (.plog u (fn.extractLsb' 0 3) (d.extractLsb' 0 3) (a.extractLsb' 0 3) (b.extractLsb' 0 3) p) else none
  | 7 => if d.extractLsb' 3 3 = 0#3 ∧ a.extractLsb' 3 3 = 0#3 ∧ b.extractLsb' 3 3 = 0#3 then some (.plog u (fn.extractLsb' 0 3) (d.extractLsb' 0 3) (a.extractLsb' 0 3) (b.extractLsb' 0 3) p) else none
  | 8 => some (.sel u (fn.extractLsb' 0 3) d a b p)
  | 9 => some (.sel u (fn.extractLsb' 0 3) d a b p)
  | 10 => some (.sel u (fn.extractLsb' 0 3) d a b p)
  | 11 => some (.sel u (fn.extractLsb' 0 3) d a b p)
  | 12 => some (.sel u (fn.extractLsb' 0 3) d a b p)
  | 13 => some (.sel u (fn.extractLsb' 0 3) d a b p)
  | 14 => some (.sel u (fn.extractLsb' 0 3) d a b p)
  | 15 => some (.sel u (fn.extractLsb' 0 3) d a b p)
  | _ => none

/-- Major opcode 15 (Table 2-4). -/
def decodeMajor15 (u : Bool) (fn : BitVec 4) (d : BitVec 6) (a : BitVec 6) (b : BitVec 6) (p : BitVec 3) : Option Instr :=
  match fn.toNat with
  | _ => if b.extractLsb' 0 1 = 0#1 then some (.cvt u fn d a (b.extractLsb' 2 4) (b.extractLsb' 1 1) p) else none

/-- Major opcode 16 (Table 2-4). -/
def decodeMajor16 (u : Bool) (fn : BitVec 4) (d : BitVec 6) (a : BitVec 6) (b : BitVec 6) (p : BitVec 3) : Option Instr :=
  match fn.toNat with
  | 0 => some (.cvtpk u (fn.extractLsb' 0 3) d a b p)
  | 1 => some (.cvtpk u (fn.extractLsb' 0 3) d a b p)
  | 2 => some (.cvtpk u (fn.extractLsb' 0 3) d a b p)
  | 3 => some (.cvtpk u (fn.extractLsb' 0 3) d a b p)
  | 4 => some (.cvtpk u (fn.extractLsb' 0 3) d a b p)
  | 5 => some (.cvtpk u (fn.extractLsb' 0 3) d a b p)
  | 6 => some (.cvtpk u (fn.extractLsb' 0 3) d a b p)
  | 7 => some (.cvtpk u (fn.extractLsb' 0 3) d a b p)
  | 8 => if b.extractLsb' 3 3 = 0#3 then some (.cvtupk u (fn.extractLsb' 0 3) d a (b.extractLsb' 0 3) p) else none
  | 9 => if b.extractLsb' 3 3 = 0#3 then some (.cvtupk u (fn.extractLsb' 0 3) d a (b.extractLsb' 0 3) p) else none
  | 10 => if b.extractLsb' 3 3 = 0#3 then some (.cvtupk u (fn.extractLsb' 0 3) d a (b.extractLsb' 0 3) p) else none
  | 11 => if b.extractLsb' 3 3 = 0#3 then some (.cvtupk u (fn.extractLsb' 0 3) d a (b.extractLsb' 0 3) p) else none
  | 12 => if b.extractLsb' 3 3 = 0#3 then some (.cvtupk u (fn.extractLsb' 0 3) d a (b.extractLsb' 0 3) p) else none
  | 13 => if b.extractLsb' 3 3 = 0#3 then some (.cvtupk u (fn.extractLsb' 0 3) d a (b.extractLsb' 0 3) p) else none
  | 14 => if b.extractLsb' 3 3 = 0#3 then some (.cvtupk u (fn.extractLsb' 0 3) d a (b.extractLsb' 0 3) p) else none
  | 15 => if b.extractLsb' 3 3 = 0#3 then some (.cvtupk u (fn.extractLsb' 0 3) d a (b.extractLsb' 0 3) p) else none
  | _ => none

/-- Major opcode 17 (Table 2-4). -/
def decodeMajor17 (u : Bool) (fn : BitVec 4) (d : BitVec 6) (a : BitVec 6) (b : BitVec 6) (p : BitVec 3) : Option Instr :=
  match fn.toNat with
  | 0 => if b = 0#6 then some (.rcp u d a p) else none
  | 1 => if b = 0#6 then some (.rsq u d a p) else none
  | 2 => if b = 0#6 then some (.sqrt u d a p) else none
  | 3 => if b = 0#6 then some (.exp2 u d a p) else none
  | 4 => if b = 0#6 then some (.log2 u d a p) else none
  | 5 => if b = 0#6 then some (.sin u d a p) else none
  | 6 => if b = 0#6 then some (.cos u d a p) else none
  | 7 => if b = 0#6 then some (.tanh u d a p) else none
  | _ => none

/-- Major opcode 18 (Table 2-4). -/
def decodeMajor18 (u : Bool) (fn : BitVec 4) (d : BitVec 6) (a : BitVec 6) (b : BitVec 6) (p : BitVec 3) : Option Instr :=
  match fn.toNat with
  | 0 => some (.shfl u (fn.extractLsb' 0 2) d a b p)
  | 1 => some (.shfl u (fn.extractLsb' 0 2) d a b p)
  | 2 => some (.shfl u (fn.extractLsb' 0 2) d a b p)
  | 3 => some (.shfl u (fn.extractLsb' 0 2) d a b p)
  | 4 => if b.extractLsb' 5 1 = 0#1 then some (.shflImm u (fn.extractLsb' 0 2) d a (b.extractLsb' 0 5) p) else none
  | 5 => if b.extractLsb' 5 1 = 0#1 then some (.shflImm u (fn.extractLsb' 0 2) d a (b.extractLsb' 0 5) p) else none
  | 6 => if b.extractLsb' 5 1 = 0#1 then some (.shflImm u (fn.extractLsb' 0 2) d a (b.extractLsb' 0 5) p) else none
  | 7 => if b.extractLsb' 5 1 = 0#1 then some (.shflImm u (fn.extractLsb' 0 2) d a (b.extractLsb' 0 5) p) else none
  | _ => none

/-- Major opcode 19 (Table 2-4). -/
def decodeMajor19 (u : Bool) (fn : BitVec 4) (d : BitVec 6) (a : BitVec 6) (b : BitVec 6) (p : BitVec 3) : Option Instr :=
  match fn.toNat with
  | 0 => if d.extractLsb' 3 3 = 0#3 ∧ a.extractLsb' 3 3 = 0#3 ∧ b = 0#6 then some (.voteAll u (d.extractLsb' 0 3) (a.extractLsb' 0 3) p) else none
  | 1 => if d.extractLsb' 3 3 = 0#3 ∧ a.extractLsb' 3 3 = 0#3 ∧ b = 0#6 then some (.voteAny u (d.extractLsb' 0 3) (a.extractLsb' 0 3) p) else none
  | 2 => if a.extractLsb' 3 3 = 0#3 ∧ b = 0#6 then some (.voteBallot u d (a.extractLsb' 0 3) p) else none
  | 3 => if d.extractLsb' 3 3 = 0#3 ∧ a.extractLsb' 3 3 = 0#3 ∧ b = 0#6 then some (.voteUni u (d.extractLsb' 0 3) (a.extractLsb' 0 3) p) else none
  | 4 => if b = 0#6 then some (.matchLanes u d a p) else none
  | 5 => if d = 0#6 ∧ a = 0#6 ∧ b.extractLsb' 3 3 = 0#3 then some (.partset u (b.extractLsb' 0 3) p) else none
  | _ => none

/-- Major opcode 20 (Table 2-4). -/
def decodeMajor20 (u : Bool) (fn : BitVec 4) (d : BitVec 6) (a : BitVec 6) (b : BitVec 6) (p : BitVec 3) : Option Instr :=
  match fn.toNat with
  | 0 => if b.extractLsb' 1 5 = 0#5 then some (.vred u (fn.extractLsb' 0 3) d a (b.extractLsb' 0 1) p) else none
  | 1 => if b.extractLsb' 1 5 = 0#5 then some (.vred u (fn.extractLsb' 0 3) d a (b.extractLsb' 0 1) p) else none
  | 2 => if b.extractLsb' 1 5 = 0#5 then some (.vred u (fn.extractLsb' 0 3) d a (b.extractLsb' 0 1) p) else none
  | 3 => if b.extractLsb' 1 5 = 0#5 then some (.vred u (fn.extractLsb' 0 3) d a (b.extractLsb' 0 1) p) else none
  | 4 => if b.extractLsb' 1 5 = 0#5 then some (.vred u (fn.extractLsb' 0 3) d a (b.extractLsb' 0 1) p) else none
  | 5 => if b.extractLsb' 1 5 = 0#5 then some (.vred u (fn.extractLsb' 0 3) d a (b.extractLsb' 0 1) p) else none
  | 6 => if b.extractLsb' 1 5 = 0#5 then some (.vred u (fn.extractLsb' 0 3) d a (b.extractLsb' 0 1) p) else none
  | 7 => if b.extractLsb' 1 5 = 0#5 then some (.vred u (fn.extractLsb' 0 3) d a (b.extractLsb' 0 1) p) else none
  | 8 => if b.extractLsb' 2 4 = 0#4 then some (.vscan u (fn.extractLsb' 0 3) d a (b.extractLsb' 1 1) (b.extractLsb' 0 1) p) else none
  | 9 => if b.extractLsb' 2 4 = 0#4 then some (.vscan u (fn.extractLsb' 0 3) d a (b.extractLsb' 1 1) (b.extractLsb' 0 1) p) else none
  | 10 => if b.extractLsb' 2 4 = 0#4 then some (.vscan u (fn.extractLsb' 0 3) d a (b.extractLsb' 1 1) (b.extractLsb' 0 1) p) else none
  | 11 => if b.extractLsb' 2 4 = 0#4 then some (.vscan u (fn.extractLsb' 0 3) d a (b.extractLsb' 1 1) (b.extractLsb' 0 1) p) else none
  | 12 => if b.extractLsb' 2 4 = 0#4 then some (.vscan u (fn.extractLsb' 0 3) d a (b.extractLsb' 1 1) (b.extractLsb' 0 1) p) else none
  | 13 => if b.extractLsb' 2 4 = 0#4 then some (.vscan u (fn.extractLsb' 0 3) d a (b.extractLsb' 1 1) (b.extractLsb' 0 1) p) else none
  | 14 => if b.extractLsb' 2 4 = 0#4 then some (.vscan u (fn.extractLsb' 0 3) d a (b.extractLsb' 1 1) (b.extractLsb' 0 1) p) else none
  | 15 => if b.extractLsb' 2 4 = 0#4 then some (.vscan u (fn.extractLsb' 0 3) d a (b.extractLsb' 1 1) (b.extractLsb' 0 1) p) else none
  | _ => none

/-- Major opcode 21 (Table 2-4). -/
def decodeMajor21 (u : Bool) (fn : BitVec 4) (d : BitVec 6) (a : BitVec 6) (b : BitVec 6) (p : BitVec 3) : Option Instr :=
  match fn.toNat with
  | 0 => if b = 0#6 then some (.mov u d a p) else none
  | 1 => if b = 0#6 then some (.mov64 u d a p) else none
  | 2 => if a.extractLsb' 5 1 = 0#1 ∧ b = 0#6 then some (.movs u d (a.extractLsb' 0 5) p) else none
  | 3 => if a.extractLsb' 5 1 = 0#1 ∧ b = 0#6 then some (.movsHi u d (a.extractLsb' 0 5) p) else none
  | 4 => if a.extractLsb' 5 1 = 0#1 ∧ b = 0#6 then some (.movs64 u d (a.extractLsb' 0 5) p) else none
  | 5 => if d.extractLsb' 5 1 = 0#1 ∧ b.extractLsb' 5 1 = 0#1 then some (.rdlane u (d.extractLsb' 0 5) a (b.extractLsb' 0 5) p) else none
  | 6 => if d.extractLsb' 5 1 = 0#1 ∧ b.extractLsb' 5 1 = 0#1 then some (.rdlane64 u (d.extractLsb' 0 5) a (b.extractLsb' 0 5) p) else none
  | _ => none

/-- Major opcode 22 (Table 2-4). -/
def decodeMajor22 (u : Bool) (fn : BitVec 4) (d : BitVec 6) (a : BitVec 6) (b : BitVec 6) (p : BitVec 3) : Option Instr :=
  match fn.toNat with
  | 0 => if d.extractLsb' 5 1 = 0#1 ∧ a.extractLsb' 5 1 = 0#1 ∧ b.extractLsb' 5 1 = 0#1 then some (.sadd u (d.extractLsb' 0 5) (a.extractLsb' 0 5) (b.extractLsb' 0 5) p) else none
  | 1 => if d.extractLsb' 5 1 = 0#1 ∧ a.extractLsb' 5 1 = 0#1 ∧ b.extractLsb' 5 1 = 0#1 then some (.ssub u (d.extractLsb' 0 5) (a.extractLsb' 0 5) (b.extractLsb' 0 5) p) else none
  | 2 => if d.extractLsb' 5 1 = 0#1 ∧ a.extractLsb' 5 1 = 0#1 ∧ b.extractLsb' 5 1 = 0#1 then some (.smul u (d.extractLsb' 0 5) (a.extractLsb' 0 5) (b.extractLsb' 0 5) p) else none
  | 3 => if d.extractLsb' 5 1 = 0#1 ∧ a.extractLsb' 5 1 = 0#1 ∧ b.extractLsb' 5 1 = 0#1 then some (.sand u (d.extractLsb' 0 5) (a.extractLsb' 0 5) (b.extractLsb' 0 5) p) else none
  | 4 => if d.extractLsb' 5 1 = 0#1 ∧ a.extractLsb' 5 1 = 0#1 ∧ b.extractLsb' 5 1 = 0#1 then some (.sor u (d.extractLsb' 0 5) (a.extractLsb' 0 5) (b.extractLsb' 0 5) p) else none
  | 5 => if d.extractLsb' 5 1 = 0#1 ∧ a.extractLsb' 5 1 = 0#1 ∧ b.extractLsb' 5 1 = 0#1 then some (.sxor u (d.extractLsb' 0 5) (a.extractLsb' 0 5) (b.extractLsb' 0 5) p) else none
  | 6 => if d.extractLsb' 5 1 = 0#1 ∧ a.extractLsb' 5 1 = 0#1 ∧ b.extractLsb' 5 1 = 0#1 then some (.sshl u (d.extractLsb' 0 5) (a.extractLsb' 0 5) (b.extractLsb' 0 5) p) else none
  | 7 => if d.extractLsb' 5 1 = 0#1 ∧ a.extractLsb' 5 1 = 0#1 ∧ b.extractLsb' 5 1 = 0#1 then some (.sshr u (d.extractLsb' 0 5) (a.extractLsb' 0 5) (b.extractLsb' 0 5) p) else none
  | 8 => if d.extractLsb' 3 3 = 0#3 ∧ a.extractLsb' 5 1 = 0#1 ∧ b.extractLsb' 5 1 = 0#1 then some (.scmp u (fn.extractLsb' 0 3) (d.extractLsb' 0 3) (a.extractLsb' 0 5) (b.extractLsb' 0 5) p) else none
  | 9 => if d.extractLsb' 3 3 = 0#3 ∧ a.extractLsb' 5 1 = 0#1 ∧ b.extractLsb' 5 1 = 0#1 then some (.scmp u (fn.extractLsb' 0 3) (d.extractLsb' 0 3) (a.extractLsb' 0 5) (b.extractLsb' 0 5) p) else none
  | 10 => if d.extractLsb' 3 3 = 0#3 ∧ a.extractLsb' 5 1 = 0#1 ∧ b.extractLsb' 5 1 = 0#1 then some (.scmp u (fn.extractLsb' 0 3) (d.extractLsb' 0 3) (a.extractLsb' 0 5) (b.extractLsb' 0 5) p) else none
  | 11 => if d.extractLsb' 3 3 = 0#3 ∧ a.extractLsb' 5 1 = 0#1 ∧ b.extractLsb' 5 1 = 0#1 then some (.scmp u (fn.extractLsb' 0 3) (d.extractLsb' 0 3) (a.extractLsb' 0 5) (b.extractLsb' 0 5) p) else none
  | 12 => if d.extractLsb' 3 3 = 0#3 ∧ a.extractLsb' 5 1 = 0#1 ∧ b.extractLsb' 5 1 = 0#1 then some (.scmp u (fn.extractLsb' 0 3) (d.extractLsb' 0 3) (a.extractLsb' 0 5) (b.extractLsb' 0 5) p) else none
  | 13 => if d.extractLsb' 3 3 = 0#3 ∧ a.extractLsb' 5 1 = 0#1 ∧ b.extractLsb' 5 1 = 0#1 then some (.scmp u (fn.extractLsb' 0 3) (d.extractLsb' 0 3) (a.extractLsb' 0 5) (b.extractLsb' 0 5) p) else none
  | 14 => if d.extractLsb' 3 3 = 0#3 ∧ a.extractLsb' 5 1 = 0#1 ∧ b.extractLsb' 5 1 = 0#1 then some (.scmp u (fn.extractLsb' 0 3) (d.extractLsb' 0 3) (a.extractLsb' 0 5) (b.extractLsb' 0 5) p) else none
  | 15 => if d.extractLsb' 3 3 = 0#3 ∧ a.extractLsb' 5 1 = 0#1 ∧ b.extractLsb' 5 1 = 0#1 then some (.scmp u (fn.extractLsb' 0 3) (d.extractLsb' 0 3) (a.extractLsb' 0 5) (b.extractLsb' 0 5) p) else none
  | _ => none

/-- Major opcode 23 (Table 2-4). -/
def decodeMajor23 (u : Bool) (fn : BitVec 3) (d : BitVec 6) (a : BitVec 6) (i : BitVec 7) (p : BitVec 3) : Option Instr :=
  match fn.toNat with
  | 0 => if d.extractLsb' 5 1 = 0#1 ∧ a.extractLsb' 5 1 = 0#1 then some (.saddi u (d.extractLsb' 0 5) (a.extractLsb' 0 5) i p) else none
  | _ => none

/-- Major opcode 24 (Table 2-4). -/
def decodeMajor24 (u : Bool) (fn : BitVec 3) (d : BitVec 6) (a : BitVec 6) (i : BitVec 7) (p : BitVec 3) : Option Instr :=
  match fn.toNat with
  | _ => some (.ld u fn d a i p)

/-- Major opcode 25 (Table 2-4). -/
def decodeMajor25 (u : Bool) (fn : BitVec 3) (d : BitVec 6) (a : BitVec 6) (i : BitVec 7) (p : BitVec 3) : Option Instr :=
  match fn.toNat with
  | _ => some (.st u fn d a i p)

/-- Major opcode 26 (Table 2-4). -/
def decodeMajor26 (u : Bool) (fn : BitVec 3) (d : BitVec 6) (a : BitVec 6) (i : BitVec 7) (p : BitVec 3) : Option Instr :=
  match fn.toNat with
  | _ => some (.lda u fn d a (i.extractLsb' 6 1) (i.extractLsb' 0 6) p)

/-- Major opcode 27 (Table 2-4). -/
def decodeMajor27 (u : Bool) (fn : BitVec 3) (d : BitVec 6) (a : BitVec 6) (i : BitVec 7) (p : BitVec 3) : Option Instr :=
  match fn.toNat with
  | _ => some (.stl u fn d a (i.extractLsb' 6 1) (i.extractLsb' 0 6) p)

/-- Major opcode 28 (Table 2-4). -/
def decodeMajor28 (u : Bool) (fn : BitVec 4) (d : BitVec 6) (a : BitVec 6) (b : BitVec 6) (p : BitVec 3) : Option Instr :=
  match fn.toNat with
  | _ => some (.atomTeam u fn d (a.extractLsb' 1 5) (a.extractLsb' 0 1) b p)

/-- Major opcode 29 (Table 2-4). -/
def decodeMajor29 (u : Bool) (fn : BitVec 4) (d : BitVec 6) (a : BitVec 6) (b : BitVec 6) (p : BitVec 3) : Option Instr :=
  match fn.toNat with
  | _ => some (.atomCluster u fn d (a.extractLsb' 1 5) (a.extractLsb' 0 1) b p)

/-- Major opcode 30 (Table 2-4). -/
def decodeMajor30 (u : Bool) (fn : BitVec 4) (d : BitVec 6) (a : BitVec 6) (b : BitVec 6) (p : BitVec 3) : Option Instr :=
  match fn.toNat with
  | _ => some (.atomDevice u fn d (a.extractLsb' 1 5) (a.extractLsb' 0 1) b p)

/-- Major opcode 31 (Table 2-4). -/
def decodeMajor31 (u : Bool) (fn : BitVec 4) (d : BitVec 6) (a : BitVec 6) (b : BitVec 6) (p : BitVec 3) : Option Instr :=
  match fn.toNat with
  | _ => some (.atomFabric u fn d (a.extractLsb' 1 5) (a.extractLsb' 0 1) b p)

/-- Major opcode 32 (Table 2-4). -/
def decodeMajor32 (u : Bool) (fn : BitVec 4) (d : BitVec 6) (a : BitVec 6) (b : BitVec 6) (p : BitVec 3) : Option Instr :=
  match fn.toNat with
  | _ => if d.extractLsb' 4 2 = 0#2 then some (.red u fn (d.extractLsb' 3 1) (d.extractLsb' 0 3) a b p) else none

/-- Major opcode 33 (Table 2-4). -/
def decodeMajor33 (u : Bool) (fn : BitVec 4) (d : BitVec 6) (a : BitVec 6) (b : BitVec 6) (p : BitVec 3) : Option Instr :=
  match fn.toNat with
  | _ => some (.atomcas u (fn.extractLsb' 3 1) (fn.extractLsb' 0 3) d a b p)

/-- Major opcode 34 (Table 2-4). -/
def decodeMajor34 (u : Bool) (fn : BitVec 4) (d : BitVec 6) (a : BitVec 6) (b : BitVec 6) (p : BitVec 3) : Option Instr :=
  match fn.toNat with
  | _ => some (.atomincb u (fn.extractLsb' 3 1) (fn.extractLsb' 0 3) d a b p)

/-- Major opcode 35 (Table 2-4). -/
def decodeMajor35 (u : Bool) (fn : BitVec 4) (d : BitVec 6) (a : BitVec 6) (b : BitVec 6) (p : BitVec 3) : Option Instr :=
  match fn.toNat with
  | 0 => if d = 0#6 then some (.sigf u (fn.extractLsb' 0 3) a b p) else none
  | 1 => if d = 0#6 then some (.sigf u (fn.extractLsb' 0 3) a b p) else none
  | 2 => if d = 0#6 then some (.sigf u (fn.extractLsb' 0 3) a b p) else none
  | 3 => if d = 0#6 then some (.sigf u (fn.extractLsb' 0 3) a b p) else none
  | 4 => if d = 0#6 then some (.sigf u (fn.extractLsb' 0 3) a b p) else none
  | 5 => if d = 0#6 then some (.sigf u (fn.extractLsb' 0 3) a b p) else none
  | 6 => if d = 0#6 then some (.sigf u (fn.extractLsb' 0 3) a b p) else none
  | 7 => if d = 0#6 then some (.sigf u (fn.extractLsb' 0 3) a b p) else none
  | _ => none

/-- Major opcode 36 (Table 2-4). -/
def decodeMajor36 (u : Bool) (fn : BitVec 4) (d : BitVec 6) (a : BitVec 6) (b : BitVec 6) (p : BitVec 3) : Option Instr :=
  match fn.toNat with
  | _ => if d = 0#6 ∧ a = 0#6 ∧ b = 0#6 then some (.fence u fn p) else none

/-- Major opcode 37 (Table 2-4). -/
def decodeMajor37 (u : Bool) (l : BitVec 5) (s : BitVec 5) (t : BitVec 5) (r : BitVec 5) (c : BitVec 5) : Option Instr :=
  some (.wait u l s t r c)

/-- Major opcode 38 (Table 2-4). -/
def decodeMajor38 (u : Bool) (fn : BitVec 3) (d : BitVec 6) (a : BitVec 6) (i : BitVec 7) (p : BitVec 3) : Option Instr :=
  match fn.toNat with
  | 0 => if d = 0#6 ∧ a = 0#6 ∧ i.extractLsb' 0 1 = 0#1 then some (.barv u (i.extractLsb' 5 2) (i.extractLsb' 1 4) p) else none
  | 1 => if d = 0#6 ∧ a = 0#6 then some (.barw u (i.extractLsb' 5 2) (i.extractLsb' 1 4) (i.extractLsb' 0 1) p) else none
  | 2 => if d = 0#6 ∧ a = 0#6 ∧ i.extractLsb' 0 1 = 0#1 then some (.bars u (i.extractLsb' 5 2) (i.extractLsb' 1 4) p) else none
  | 3 => if a = 0#6 ∧ i.extractLsb' 0 1 = 0#1 then some (.barst u d (i.extractLsb' 5 2) (i.extractLsb' 1 4) p) else none
  | _ => none

/-- Major opcode 39 (Table 2-4). -/
def decodeMajor39 (u : Bool) (fn : BitVec 3) (off : BitVec 19) (p : BitVec 3) : Option Instr :=
  match fn.toNat with
  | 0 => if u then some (.bra off p) else none
  | 1 => if u then some (.bru off p) else none
  | 2 => if u then some (.call off p) else none
  | _ => none

/-- Major opcode 40 (Table 2-4). -/
def decodeMajor40 (u : Bool) (fn : BitVec 4) (d : BitVec 6) (a : BitVec 6) (b : BitVec 6) (p : BitVec 3) : Option Instr :=
  match fn.toNat with
  | 0 => if u ∧ d = 0#6 ∧ b = 0#6 then some (.callr a p) else none
  | 1 => if u ∧ d = 0#6 ∧ a = 0#6 ∧ b = 0#6 then some (.ret p) else none
  | 2 => if u ∧ d = 0#6 ∧ b = 0#6 then some (.jmpr a p) else none
  | 3 => if u ∧ d = 0#6 ∧ a = 0#6 ∧ b = 0#6 then some (.exit p) else none
  | _ => none

/-- Major opcode 41 (Table 2-4). -/
def decodeMajor41 (u : Bool) (fn : BitVec 4) (d : BitVec 6) (a : BitVec 6) (b : BitVec 6) (p : BitVec 3) : Option Instr :=
  match fn.toNat with
  | 0 => if d = 0#6 ∧ a = 0#6 ∧ b.extractLsb' 3 3 = 0#3 then some (.rjenrol u (b.extractLsb' 0 3) p) else none
  | 1 => if d = 0#6 ∧ a = 0#6 ∧ b.extractLsb' 3 3 = 0#3 then some (.rjpark u (b.extractLsb' 0 3) p) else none
  | 2 => if d = 0#6 ∧ a = 0#6 ∧ b.extractLsb' 3 3 = 0#3 then some (.rjout u (b.extractLsb' 0 3) p) else none
  | 3 => if a = 0#6 ∧ b.extractLsb' 3 3 = 0#3 then some (.rjget u d (b.extractLsb' 0 3) p) else none
  | _ => none

/-- Major opcode 42 (Table 2-4). -/
def decodeMajor42 (u : Bool) (fn : BitVec 4) (d : BitVec 6) (a : BitVec 6) (b : BitVec 6) (p : BitVec 3) : Option Instr :=
  match fn.toNat with
  | 0 => some (.spawn u d a b p)
  | 1 => some (.spawnb u d a b p)
  | 2 => if a = 0#6 ∧ b = 0#6 then some (.take u d p) else none
  | 3 => if d = 0#6 ∧ a = 0#6 ∧ b = 0#6 then some (.endt u p) else none
  | 4 => if d = 0#6 ∧ b = 0#6 then some (.tjoin u a p) else none
  | 5 => if d = 0#6 ∧ a = 0#6 ∧ b.extractLsb' 2 4 = 0#4 then some (.role u (b.extractLsb' 0 2) p) else none
  | 6 => if d.extractLsb' 5 1 = 0#1 ∧ a.extractLsb' 5 1 = 0#1 then some (.launch u (d.extractLsb' 0 5) (a.extractLsb' 0 5) b p) else none
  | _ => none

/-- Major opcode 43 (Table 2-4). -/
def decodeMajor43 (u : Bool) (fn : BitVec 4) (d : BitVec 6) (a : BitVec 6) (b : BitVec 6) (p : BitVec 3) : Option Instr :=
  match fn.toNat with
  | 0 => if d = 0#6 then some (.tmma u a b p) else none
  | 1 => if d = 0#6 ∧ b = 0#6 then some (.tzero u a p) else none
  | 2 => if d = 0#6 ∧ b = 0#6 then some (.tacld u a p) else none
  | 3 => if d = 0#6 ∧ b = 0#6 then some (.tacst u a p) else none
  | 4 => if d = 0#6 then some (.tquant u a b p) else none
  | 5 => if a = 0#6 ∧ b = 0#6 then some (.tlend u d p) else none
  | _ => none

/-- Major opcode 44 (Table 2-4). -/
def decodeMajor44 (u : Bool) (fn : BitVec 4) (d : BitVec 6) (a : BitVec 6) (b : BitVec 6) (p : BitVec 3) : Option Instr :=
  match fn.toNat with
  | 0 => if d = 0#6 ∧ b = 0#6 then some (.vchain u a p) else none
  | _ => none

/-- Major opcode 45 (Table 2-4). -/
def decodeMajor45 (u : Bool) (fn : BitVec 4) (d : BitVec 6) (a : BitVec 6) (b : BitVec 6) (p : BitVec 3) : Option Instr :=
  match fn.toNat with
  | 0 => if d = 0#6 ∧ a = 0#6 then some (.vatwait u b p) else none
  | 1 => if d = 0#6 ∧ a = 0#6 then some (.vattake u b p) else none
  | 2 => if d = 0#6 ∧ a = 0#6 then some (.vatfree u b p) else none
  | _ => none

/-- Major opcode 46 (Table 2-4). -/
def decodeMajor46 (u : Bool) (fn : BitVec 4) (d : BitVec 6) (a : BitVec 6) (b : BitVec 6) (p : BitVec 3) : Option Instr :=
  match fn.toNat with
  | 0 => some (.cpy u d a b p)
  | 1 => if a = 0#6 ∧ b.extractLsb' 2 4 = 0#4 then some (.cpya u d (b.extractLsb' 0 2) p) else none
  | 2 => if b = 0#6 then some (.cpyg u d a p) else none
  | 3 => some (.cpyx u d a b p)
  | 4 => if b.extractLsb' 3 3 = 0#3 then some (.cbload u d a (b.extractLsb' 0 3) p) else none
  | 5 => if d = 0#6 ∧ a = 0#6 ∧ b.extractLsb' 5 1 = 0#1 then some (.qpush u (b.extractLsb' 3 2) (b.extractLsb' 0 3) p) else none
  | 6 => if d = 0#6 ∧ b.extractLsb' 2 4 = 0#4 then some (.aaset u a (b.extractLsb' 0 2) p) else none
  | 7 => if d = 0#6 then some (.vatarm u a b p) else none
  | 8 => if d = 0#6 ∧ a = 0#6 ∧ b = 0#6 then some (.cpyabort u p) else none
  | 9 => if b = 0#6 then some (.decsub u d a p) else none
  | 10 => if b = 0#6 then some (.rshd u d a p) else none
  | _ => none

/-- Major opcode 47 (Table 2-4). -/
def decodeMajor47 (u : Bool) (fn : BitVec 4) (d : BitVec 6) (csr : BitVec 12) (p : BitVec 3) : Option Instr :=
  match fn.toNat with
  | 0 => some (.csrr u d csr p)
  | 1 => some (.csrw u d csr p)
  | 2 => if csr.extractLsb' 4 8 = 0#8 then some (.feat u d (csr.extractLsb' 0 4) p) else none
  | 3 => if d = 0#6 ∧ csr.extractLsb' 8 4 = 0#4 then some (.trap u (csr.extractLsb' 0 8) p) else none
  | 4 => if u ∧ d = 0#6 ∧ csr = 0#12 then some (.tret p) else none
  | 5 => if d = 0#6 ∧ csr.extractLsb' 8 4 = 0#4 then some (.brk u (csr.extractLsb' 0 8) p) else none
  | _ => none

/-- The decoder of instruction words: the row whose fixed bits the word holds, none for every other word. -/
def decodeWord (w : BitVec 32) : Option Instr :=
  let u := w.extractLsb' 31 1 == 1#1
  match (w.extractLsb' 25 6).toNat with
  | 0 => decodeMajor0 u (w.extractLsb' 22 3) (w.extractLsb' 0 22)
  | 1 => decodeMajor1 u (w.extractLsb' 21 4) (w.extractLsb' 15 6) (w.extractLsb' 9 6) (w.extractLsb' 3 6) (w.extractLsb' 0 3)
  | 2 => decodeMajor2 u (w.extractLsb' 21 4) (w.extractLsb' 15 6) (w.extractLsb' 9 6) (w.extractLsb' 3 6) (w.extractLsb' 0 3)
  | 3 => decodeMajor3 u (w.extractLsb' 21 4) (w.extractLsb' 15 6) (w.extractLsb' 9 6) (w.extractLsb' 3 6) (w.extractLsb' 0 3)
  | 4 => decodeMajor4 u (w.extractLsb' 21 4) (w.extractLsb' 15 6) (w.extractLsb' 9 6) (w.extractLsb' 3 6) (w.extractLsb' 0 3)
  | 5 => decodeMajor5 u (w.extractLsb' 22 3) (w.extractLsb' 16 6) (w.extractLsb' 10 6) (w.extractLsb' 3 7) (w.extractLsb' 0 3)
  | 6 => decodeMajor6 u (w.extractLsb' 22 3) (w.extractLsb' 16 6) (w.extractLsb' 10 6) (w.extractLsb' 3 7) (w.extractLsb' 0 3)
  | 7 => decodeMajor7 u (w.extractLsb' 22 3) (w.extractLsb' 16 6) (w.extractLsb' 10 6) (w.extractLsb' 3 7) (w.extractLsb' 0 3)
  | 8 => decodeMajor8 u (w.extractLsb' 21 4) (w.extractLsb' 15 6) (w.extractLsb' 9 6) (w.extractLsb' 3 6) (w.extractLsb' 0 3)
  | 9 => decodeMajor9 u (w.extractLsb' 21 4) (w.extractLsb' 15 6) (w.extractLsb' 9 6) (w.extractLsb' 3 6) (w.extractLsb' 0 3)
  | 10 => decodeMajor10 u (w.extractLsb' 21 4) (w.extractLsb' 15 6) (w.extractLsb' 9 6) (w.extractLsb' 3 6) (w.extractLsb' 0 3)
  | 11 => decodeMajor11 u (w.extractLsb' 21 4) (w.extractLsb' 15 6) (w.extractLsb' 9 6) (w.extractLsb' 3 6) (w.extractLsb' 0 3)
  | 12 => decodeMajor12 u (w.extractLsb' 21 4) (w.extractLsb' 15 6) (w.extractLsb' 9 6) (w.extractLsb' 3 6) (w.extractLsb' 0 3)
  | 13 => decodeMajor13 u (w.extractLsb' 21 4) (w.extractLsb' 15 6) (w.extractLsb' 9 6) (w.extractLsb' 3 6) (w.extractLsb' 0 3)
  | 14 => decodeMajor14 u (w.extractLsb' 21 4) (w.extractLsb' 15 6) (w.extractLsb' 9 6) (w.extractLsb' 3 6) (w.extractLsb' 0 3)
  | 15 => decodeMajor15 u (w.extractLsb' 21 4) (w.extractLsb' 15 6) (w.extractLsb' 9 6) (w.extractLsb' 3 6) (w.extractLsb' 0 3)
  | 16 => decodeMajor16 u (w.extractLsb' 21 4) (w.extractLsb' 15 6) (w.extractLsb' 9 6) (w.extractLsb' 3 6) (w.extractLsb' 0 3)
  | 17 => decodeMajor17 u (w.extractLsb' 21 4) (w.extractLsb' 15 6) (w.extractLsb' 9 6) (w.extractLsb' 3 6) (w.extractLsb' 0 3)
  | 18 => decodeMajor18 u (w.extractLsb' 21 4) (w.extractLsb' 15 6) (w.extractLsb' 9 6) (w.extractLsb' 3 6) (w.extractLsb' 0 3)
  | 19 => decodeMajor19 u (w.extractLsb' 21 4) (w.extractLsb' 15 6) (w.extractLsb' 9 6) (w.extractLsb' 3 6) (w.extractLsb' 0 3)
  | 20 => decodeMajor20 u (w.extractLsb' 21 4) (w.extractLsb' 15 6) (w.extractLsb' 9 6) (w.extractLsb' 3 6) (w.extractLsb' 0 3)
  | 21 => decodeMajor21 u (w.extractLsb' 21 4) (w.extractLsb' 15 6) (w.extractLsb' 9 6) (w.extractLsb' 3 6) (w.extractLsb' 0 3)
  | 22 => decodeMajor22 u (w.extractLsb' 21 4) (w.extractLsb' 15 6) (w.extractLsb' 9 6) (w.extractLsb' 3 6) (w.extractLsb' 0 3)
  | 23 => decodeMajor23 u (w.extractLsb' 22 3) (w.extractLsb' 16 6) (w.extractLsb' 10 6) (w.extractLsb' 3 7) (w.extractLsb' 0 3)
  | 24 => decodeMajor24 u (w.extractLsb' 22 3) (w.extractLsb' 16 6) (w.extractLsb' 10 6) (w.extractLsb' 3 7) (w.extractLsb' 0 3)
  | 25 => decodeMajor25 u (w.extractLsb' 22 3) (w.extractLsb' 16 6) (w.extractLsb' 10 6) (w.extractLsb' 3 7) (w.extractLsb' 0 3)
  | 26 => decodeMajor26 u (w.extractLsb' 22 3) (w.extractLsb' 16 6) (w.extractLsb' 10 6) (w.extractLsb' 3 7) (w.extractLsb' 0 3)
  | 27 => decodeMajor27 u (w.extractLsb' 22 3) (w.extractLsb' 16 6) (w.extractLsb' 10 6) (w.extractLsb' 3 7) (w.extractLsb' 0 3)
  | 28 => decodeMajor28 u (w.extractLsb' 21 4) (w.extractLsb' 15 6) (w.extractLsb' 9 6) (w.extractLsb' 3 6) (w.extractLsb' 0 3)
  | 29 => decodeMajor29 u (w.extractLsb' 21 4) (w.extractLsb' 15 6) (w.extractLsb' 9 6) (w.extractLsb' 3 6) (w.extractLsb' 0 3)
  | 30 => decodeMajor30 u (w.extractLsb' 21 4) (w.extractLsb' 15 6) (w.extractLsb' 9 6) (w.extractLsb' 3 6) (w.extractLsb' 0 3)
  | 31 => decodeMajor31 u (w.extractLsb' 21 4) (w.extractLsb' 15 6) (w.extractLsb' 9 6) (w.extractLsb' 3 6) (w.extractLsb' 0 3)
  | 32 => decodeMajor32 u (w.extractLsb' 21 4) (w.extractLsb' 15 6) (w.extractLsb' 9 6) (w.extractLsb' 3 6) (w.extractLsb' 0 3)
  | 33 => decodeMajor33 u (w.extractLsb' 21 4) (w.extractLsb' 15 6) (w.extractLsb' 9 6) (w.extractLsb' 3 6) (w.extractLsb' 0 3)
  | 34 => decodeMajor34 u (w.extractLsb' 21 4) (w.extractLsb' 15 6) (w.extractLsb' 9 6) (w.extractLsb' 3 6) (w.extractLsb' 0 3)
  | 35 => decodeMajor35 u (w.extractLsb' 21 4) (w.extractLsb' 15 6) (w.extractLsb' 9 6) (w.extractLsb' 3 6) (w.extractLsb' 0 3)
  | 36 => decodeMajor36 u (w.extractLsb' 21 4) (w.extractLsb' 15 6) (w.extractLsb' 9 6) (w.extractLsb' 3 6) (w.extractLsb' 0 3)
  | 37 => decodeMajor37 u (w.extractLsb' 20 5) (w.extractLsb' 15 5) (w.extractLsb' 10 5) (w.extractLsb' 5 5) (w.extractLsb' 0 5)
  | 38 => decodeMajor38 u (w.extractLsb' 22 3) (w.extractLsb' 16 6) (w.extractLsb' 10 6) (w.extractLsb' 3 7) (w.extractLsb' 0 3)
  | 39 => decodeMajor39 u (w.extractLsb' 22 3) (w.extractLsb' 3 19) (w.extractLsb' 0 3)
  | 40 => decodeMajor40 u (w.extractLsb' 21 4) (w.extractLsb' 15 6) (w.extractLsb' 9 6) (w.extractLsb' 3 6) (w.extractLsb' 0 3)
  | 41 => decodeMajor41 u (w.extractLsb' 21 4) (w.extractLsb' 15 6) (w.extractLsb' 9 6) (w.extractLsb' 3 6) (w.extractLsb' 0 3)
  | 42 => decodeMajor42 u (w.extractLsb' 21 4) (w.extractLsb' 15 6) (w.extractLsb' 9 6) (w.extractLsb' 3 6) (w.extractLsb' 0 3)
  | 43 => decodeMajor43 u (w.extractLsb' 21 4) (w.extractLsb' 15 6) (w.extractLsb' 9 6) (w.extractLsb' 3 6) (w.extractLsb' 0 3)
  | 44 => decodeMajor44 u (w.extractLsb' 21 4) (w.extractLsb' 15 6) (w.extractLsb' 9 6) (w.extractLsb' 3 6) (w.extractLsb' 0 3)
  | 45 => decodeMajor45 u (w.extractLsb' 21 4) (w.extractLsb' 15 6) (w.extractLsb' 9 6) (w.extractLsb' 3 6) (w.extractLsb' 0 3)
  | 46 => decodeMajor46 u (w.extractLsb' 21 4) (w.extractLsb' 15 6) (w.extractLsb' 9 6) (w.extractLsb' 3 6) (w.extractLsb' 0 3)
  | 47 => decodeMajor47 u (w.extractLsb' 21 4) (w.extractLsb' 15 6) (w.extractLsb' 3 12) (w.extractLsb' 0 3)
  | _ => none

/-- The word of an instruction that has one (Table 2-1). -/
def encodeWord : Instr → Option (BitVec 32)
  | .add u d a b p => some (BitVec.ofBool u ++ 1#6 ++ 0#4 ++ d ++ a ++ b ++ p)
  | .sub u d a b p => some (BitVec.ofBool u ++ 1#6 ++ 1#4 ++ d ++ a ++ b ++ p)
  | .mul u d a b p => some (BitVec.ofBool u ++ 1#6 ++ 2#4 ++ d ++ a ++ b ++ p)
  | .mulhi u d a b p => some (BitVec.ofBool u ++ 1#6 ++ 3#4 ++ d ++ a ++ b ++ p)
  | .mulhiu u d a b p => some (BitVec.ofBool u ++ 1#6 ++ 4#4 ++ d ++ a ++ b ++ p)
  | .mad u d a b p => some (BitVec.ofBool u ++ 1#6 ++ 5#4 ++ d ++ a ++ b ++ p)
  | .and u d a b p => some (BitVec.ofBool u ++ 1#6 ++ 6#4 ++ d ++ a ++ b ++ p)
  | .or u d a b p => some (BitVec.ofBool u ++ 1#6 ++ 7#4 ++ d ++ a ++ b ++ p)
  | .xor u d a b p => some (BitVec.ofBool u ++ 1#6 ++ 8#4 ++ d ++ a ++ b ++ p)
  | .andn u d a b p => some (BitVec.ofBool u ++ 1#6 ++ 9#4 ++ d ++ a ++ b ++ p)
  | .min u d a b p => some (BitVec.ofBool u ++ 1#6 ++ 10#4 ++ d ++ a ++ b ++ p)
  | .max u d a b p => some (BitVec.ofBool u ++ 1#6 ++ 11#4 ++ d ++ a ++ b ++ p)
  | .minu u d a b p => some (BitVec.ofBool u ++ 1#6 ++ 12#4 ++ d ++ a ++ b ++ p)
  | .maxu u d a b p => some (BitVec.ofBool u ++ 1#6 ++ 13#4 ++ d ++ a ++ b ++ p)
  | .add64 u d a b p => some (BitVec.ofBool u ++ 2#6 ++ 0#4 ++ d ++ a ++ b ++ p)
  | .sub64 u d a b p => some (BitVec.ofBool u ++ 2#6 ++ 1#4 ++ d ++ a ++ b ++ p)
  | .mul64 u d a b p => some (BitVec.ofBool u ++ 2#6 ++ 2#4 ++ d ++ a ++ b ++ p)
  | .mulhi64 u d a b p => some (BitVec.ofBool u ++ 2#6 ++ 3#4 ++ d ++ a ++ b ++ p)
  | .mulhiu64 u d a b p => some (BitVec.ofBool u ++ 2#6 ++ 4#4 ++ d ++ a ++ b ++ p)
  | .mad64 u d a b p => some (BitVec.ofBool u ++ 2#6 ++ 5#4 ++ d ++ a ++ b ++ p)
  | .and64 u d a b p => some (BitVec.ofBool u ++ 2#6 ++ 6#4 ++ d ++ a ++ b ++ p)
  | .or64 u d a b p => some (BitVec.ofBool u ++ 2#6 ++ 7#4 ++ d ++ a ++ b ++ p)
  | .xor64 u d a b p => some (BitVec.ofBool u ++ 2#6 ++ 8#4 ++ d ++ a ++ b ++ p)
  | .andn64 u d a b p => some (BitVec.ofBool u ++ 2#6 ++ 9#4 ++ d ++ a ++ b ++ p)
  | .min64 u d a b p => some (BitVec.ofBool u ++ 2#6 ++ 10#4 ++ d ++ a ++ b ++ p)
  | .max64 u d a b p => some (BitVec.ofBool u ++ 2#6 ++ 11#4 ++ d ++ a ++ b ++ p)
  | .minu64 u d a b p => some (BitVec.ofBool u ++ 2#6 ++ 12#4 ++ d ++ a ++ b ++ p)
  | .maxu64 u d a b p => some (BitVec.ofBool u ++ 2#6 ++ 13#4 ++ d ++ a ++ b ++ p)
  | .shl u d a b p => some (BitVec.ofBool u ++ 3#6 ++ 0#4 ++ d ++ a ++ b ++ p)
  | .shr u d a b p => some (BitVec.ofBool u ++ 3#6 ++ 1#4 ++ d ++ a ++ b ++ p)
  | .sar u d a b p => some (BitVec.ofBool u ++ 3#6 ++ 2#4 ++ d ++ a ++ b ++ p)
  | .rot u d a b p => some (BitVec.ofBool u ++ 3#6 ++ 3#4 ++ d ++ a ++ b ++ p)
  | .abs u d a p => some (BitVec.ofBool u ++ 3#6 ++ 4#4 ++ d ++ a ++ 0#6 ++ p)
  | .clz u d a p => some (BitVec.ofBool u ++ 3#6 ++ 5#4 ++ d ++ a ++ 0#6 ++ p)
  | .popc u d a p => some (BitVec.ofBool u ++ 3#6 ++ 6#4 ++ d ++ a ++ 0#6 ++ p)
  | .brev u d a p => some (BitVec.ofBool u ++ 3#6 ++ 7#4 ++ d ++ a ++ 0#6 ++ p)
  | .bfx u d a b p => some (BitVec.ofBool u ++ 3#6 ++ 8#4 ++ d ++ a ++ b ++ p)
  | .bfi u d a b p => some (BitVec.ofBool u ++ 3#6 ++ 9#4 ++ d ++ a ++ b ++ p)
  | .permb u d a b p => some (BitVec.ofBool u ++ 3#6 ++ 10#4 ++ d ++ a ++ b ++ p)
  | .div u d a b p => some (BitVec.ofBool u ++ 3#6 ++ 11#4 ++ d ++ a ++ b ++ p)
  | .divu u d a b p => some (BitVec.ofBool u ++ 3#6 ++ 12#4 ++ d ++ a ++ b ++ p)
  | .rem u d a b p => some (BitVec.ofBool u ++ 3#6 ++ 13#4 ++ d ++ a ++ b ++ p)
  | .remu u d a b p => some (BitVec.ofBool u ++ 3#6 ++ 14#4 ++ d ++ a ++ b ++ p)
  | .shl64 u d a b p => some (BitVec.ofBool u ++ 4#6 ++ 0#4 ++ d ++ a ++ b ++ p)
  | .shr64 u d a b p => some (BitVec.ofBool u ++ 4#6 ++ 1#4 ++ d ++ a ++ b ++ p)
  | .sar64 u d a b p => some (BitVec.ofBool u ++ 4#6 ++ 2#4 ++ d ++ a ++ b ++ p)
  | .rot64 u d a b p => some (BitVec.ofBool u ++ 4#6 ++ 3#4 ++ d ++ a ++ b ++ p)
  | .abs64 u d a p => some (BitVec.ofBool u ++ 4#6 ++ 4#4 ++ d ++ a ++ 0#6 ++ p)
  | .clz64 u d a p => some (BitVec.ofBool u ++ 4#6 ++ 5#4 ++ d ++ a ++ 0#6 ++ p)
  | .popc64 u d a p => some (BitVec.ofBool u ++ 4#6 ++ 6#4 ++ d ++ a ++ 0#6 ++ p)
  | .brev64 u d a p => some (BitVec.ofBool u ++ 4#6 ++ 7#4 ++ d ++ a ++ 0#6 ++ p)
  | .bfx64 u d a b p => some (BitVec.ofBool u ++ 4#6 ++ 8#4 ++ d ++ a ++ b ++ p)
  | .bfi64 u d a b p => some (BitVec.ofBool u ++ 4#6 ++ 9#4 ++ d ++ a ++ b ++ p)
  | .permb64 u d a b p => some (BitVec.ofBool u ++ 4#6 ++ 10#4 ++ d ++ a ++ b ++ p)
  | .div64 u d a b p => some (BitVec.ofBool u ++ 4#6 ++ 11#4 ++ d ++ a ++ b ++ p)
  | .divu64 u d a b p => some (BitVec.ofBool u ++ 4#6 ++ 12#4 ++ d ++ a ++ b ++ p)
  | .rem64 u d a b p => some (BitVec.ofBool u ++ 4#6 ++ 13#4 ++ d ++ a ++ b ++ p)
  | .remu64 u d a b p => some (BitVec.ofBool u ++ 4#6 ++ 14#4 ++ d ++ a ++ b ++ p)
  | .addi u d a i p => some (BitVec.ofBool u ++ 5#6 ++ 0#3 ++ d ++ a ++ i ++ p)
  | .muli u d a i p => some (BitVec.ofBool u ++ 5#6 ++ 1#3 ++ d ++ a ++ i ++ p)
  | .andi u d a i p => some (BitVec.ofBool u ++ 5#6 ++ 2#3 ++ d ++ a ++ i ++ p)
  | .ori u d a i p => some (BitVec.ofBool u ++ 5#6 ++ 3#3 ++ d ++ a ++ i ++ p)
  | .xori u d a i p => some (BitVec.ofBool u ++ 5#6 ++ 4#3 ++ d ++ a ++ i ++ p)
  | .shli u d a i p => some (BitVec.ofBool u ++ 5#6 ++ 5#3 ++ d ++ a ++ i ++ p)
  | .shri u d a i p => some (BitVec.ofBool u ++ 5#6 ++ 6#3 ++ d ++ a ++ i ++ p)
  | .sari u d a i p => some (BitVec.ofBool u ++ 5#6 ++ 7#3 ++ d ++ a ++ i ++ p)
  | .addi64 u d a i p => some (BitVec.ofBool u ++ 6#6 ++ 0#3 ++ d ++ a ++ i ++ p)
  | .muli64 u d a i p => some (BitVec.ofBool u ++ 6#6 ++ 1#3 ++ d ++ a ++ i ++ p)
  | .andi64 u d a i p => some (BitVec.ofBool u ++ 6#6 ++ 2#3 ++ d ++ a ++ i ++ p)
  | .ori64 u d a i p => some (BitVec.ofBool u ++ 6#6 ++ 3#3 ++ d ++ a ++ i ++ p)
  | .xori64 u d a i p => some (BitVec.ofBool u ++ 6#6 ++ 4#3 ++ d ++ a ++ i ++ p)
  | .shli64 u d a i p => some (BitVec.ofBool u ++ 6#6 ++ 5#3 ++ d ++ a ++ i ++ p)
  | .shri64 u d a i p => some (BitVec.ofBool u ++ 6#6 ++ 6#3 ++ d ++ a ++ i ++ p)
  | .sari64 u d a i p => some (BitVec.ofBool u ++ 6#6 ++ 7#3 ++ d ++ a ++ i ++ p)
  | .movi u d i p => some (BitVec.ofBool u ++ 7#6 ++ 0#3 ++ d ++ 0#6 ++ i ++ p)
  | .movi64 u d i p => some (BitVec.ofBool u ++ 7#6 ++ 1#3 ++ d ++ 0#6 ++ i ++ p)
  | .fadd u d a b p => some (BitVec.ofBool u ++ 8#6 ++ 0#4 ++ d ++ a ++ b ++ p)
  | .fsub u d a b p => some (BitVec.ofBool u ++ 8#6 ++ 1#4 ++ d ++ a ++ b ++ p)
  | .fmul u d a b p => some (BitVec.ofBool u ++ 8#6 ++ 2#4 ++ d ++ a ++ b ++ p)
  | .ffma u d a b p => some (BitVec.ofBool u ++ 8#6 ++ 3#4 ++ d ++ a ++ b ++ p)
  | .fmin u d a b p => some (BitVec.ofBool u ++ 8#6 ++ 4#4 ++ d ++ a ++ b ++ p)
  | .fmax u d a b p => some (BitVec.ofBool u ++ 8#6 ++ 5#4 ++ d ++ a ++ b ++ p)
  | .fsgnJ u d a b p => some (BitVec.ofBool u ++ 8#6 ++ 6#4 ++ d ++ a ++ b ++ p)
  | .fsgnN u d a b p => some (BitVec.ofBool u ++ 8#6 ++ 7#4 ++ d ++ a ++ b ++ p)
  | .fsgnX u d a b p => some (BitVec.ofBool u ++ 8#6 ++ 8#4 ++ d ++ a ++ b ++ p)
  | .fclass u d a p => some (BitVec.ofBool u ++ 8#6 ++ 9#4 ++ d ++ a ++ 0#6 ++ p)
  | .fdiv u d a b p => some (BitVec.ofBool u ++ 8#6 ++ 10#4 ++ d ++ a ++ b ++ p)
  | .hadd2 u t d a b p => some (BitVec.ofBool u ++ 9#6 ++ (0#3 ++ t) ++ d ++ a ++ b ++ p)
  | .hmul2 u t d a b p => some (BitVec.ofBool u ++ 9#6 ++ (1#3 ++ t) ++ d ++ a ++ b ++ p)
  | .hfma2 u t d a b p => some (BitVec.ofBool u ++ 9#6 ++ (2#3 ++ t) ++ d ++ a ++ b ++ p)
  | .hmin2 u t d a b p => some (BitVec.ofBool u ++ 9#6 ++ (3#3 ++ t) ++ d ++ a ++ b ++ p)
  | .hmax2 u t d a b p => some (BitVec.ofBool u ++ 9#6 ++ (4#3 ++ t) ++ d ++ a ++ b ++ p)
  | .dadd u d a b p => some (BitVec.ofBool u ++ 10#6 ++ 0#4 ++ d ++ a ++ b ++ p)
  | .dmul u d a b p => some (BitVec.ofBool u ++ 10#6 ++ 1#4 ++ d ++ a ++ b ++ p)
  | .dfma u d a b p => some (BitVec.ofBool u ++ 10#6 ++ 2#4 ++ d ++ a ++ b ++ p)
  | .icmp u c q a b p => some (BitVec.ofBool u ++ 11#6 ++ c ++ (0#3 ++ q) ++ a ++ b ++ p)
  | .icmp64 u c q a b p => some (BitVec.ofBool u ++ 12#6 ++ c ++ (0#3 ++ q) ++ a ++ b ++ p)
  | .fcmp u c t q a b p => some (BitVec.ofBool u ++ 13#6 ++ (0#1 ++ c) ++ (0#2 ++ t ++ q) ++ a ++ b ++ p)
  | .plog u o q a b p => some (BitVec.ofBool u ++ 14#6 ++ (0#1 ++ o) ++ (0#3 ++ q) ++ (0#3 ++ a) ++ (0#3 ++ b) ++ p)
  | .sel u s d a b p => some (BitVec.ofBool u ++ 14#6 ++ (1#1 ++ s) ++ d ++ a ++ b ++ p)
  | .cvt u t d a e k p => some (BitVec.ofBool u ++ 15#6 ++ t ++ d ++ a ++ (e ++ k ++ 0#1) ++ p)
  | .cvtpk u t d a b p => some (BitVec.ofBool u ++ 16#6 ++ (0#1 ++ t) ++ d ++ a ++ b ++ p)
  | .cvtupk u t d a k p => some (BitVec.ofBool u ++ 16#6 ++ (1#1 ++ t) ++ d ++ a ++ (0#3 ++ k) ++ p)
  | .rcp u d a p => some (BitVec.ofBool u ++ 17#6 ++ 0#4 ++ d ++ a ++ 0#6 ++ p)
  | .rsq u d a p => some (BitVec.ofBool u ++ 17#6 ++ 1#4 ++ d ++ a ++ 0#6 ++ p)
  | .sqrt u d a p => some (BitVec.ofBool u ++ 17#6 ++ 2#4 ++ d ++ a ++ 0#6 ++ p)
  | .exp2 u d a p => some (BitVec.ofBool u ++ 17#6 ++ 3#4 ++ d ++ a ++ 0#6 ++ p)
  | .log2 u d a p => some (BitVec.ofBool u ++ 17#6 ++ 4#4 ++ d ++ a ++ 0#6 ++ p)
  | .sin u d a p => some (BitVec.ofBool u ++ 17#6 ++ 5#4 ++ d ++ a ++ 0#6 ++ p)
  | .cos u d a p => some (BitVec.ofBool u ++ 17#6 ++ 6#4 ++ d ++ a ++ 0#6 ++ p)
  | .tanh u d a p => some (BitVec.ofBool u ++ 17#6 ++ 7#4 ++ d ++ a ++ 0#6 ++ p)
  | .shfl u m d a b p => some (BitVec.ofBool u ++ 18#6 ++ (0#2 ++ m) ++ d ++ a ++ b ++ p)
  | .shflImm u m d a n p => some (BitVec.ofBool u ++ 18#6 ++ (1#2 ++ m) ++ d ++ a ++ (0#1 ++ n) ++ p)
  | .voteAll u q s p => some (BitVec.ofBool u ++ 19#6 ++ 0#4 ++ (0#3 ++ q) ++ (0#3 ++ s) ++ 0#6 ++ p)
  | .voteAny u q s p => some (BitVec.ofBool u ++ 19#6 ++ 1#4 ++ (0#3 ++ q) ++ (0#3 ++ s) ++ 0#6 ++ p)
  | .voteBallot u d s p => some (BitVec.ofBool u ++ 19#6 ++ 2#4 ++ d ++ (0#3 ++ s) ++ 0#6 ++ p)
  | .voteUni u q s p => some (BitVec.ofBool u ++ 19#6 ++ 3#4 ++ (0#3 ++ q) ++ (0#3 ++ s) ++ 0#6 ++ p)
  | .matchLanes u d a p => some (BitVec.ofBool u ++ 19#6 ++ 4#4 ++ d ++ a ++ 0#6 ++ p)
  | .partset u k p => some (BitVec.ofBool u ++ 19#6 ++ 5#4 ++ 0#6 ++ 0#6 ++ (0#3 ++ k) ++ p)
  | .vred u o d a t p => some (BitVec.ofBool u ++ 20#6 ++ (0#1 ++ o) ++ d ++ a ++ (0#5 ++ t) ++ p)
  | .vscan u o d a e t p => some (BitVec.ofBool u ++ 20#6 ++ (1#1 ++ o) ++ d ++ a ++ (0#4 ++ e ++ t) ++ p)
  | .mov u d a p => some (BitVec.ofBool u ++ 21#6 ++ 0#4 ++ d ++ a ++ 0#6 ++ p)
  | .mov64 u d a p => some (BitVec.ofBool u ++ 21#6 ++ 1#4 ++ d ++ a ++ 0#6 ++ p)
  | .movs u d a p => some (BitVec.ofBool u ++ 21#6 ++ 2#4 ++ d ++ (0#1 ++ a) ++ 0#6 ++ p)
  | .movsHi u d a p => some (BitVec.ofBool u ++ 21#6 ++ 3#4 ++ d ++ (0#1 ++ a) ++ 0#6 ++ p)
  | .movs64 u d a p => some (BitVec.ofBool u ++ 21#6 ++ 4#4 ++ d ++ (0#1 ++ a) ++ 0#6 ++ p)
  | .rdlane u d a n p => some (BitVec.ofBool u ++ 21#6 ++ 5#4 ++ (0#1 ++ d) ++ a ++ (0#1 ++ n) ++ p)
  | .rdlane64 u d a n p => some (BitVec.ofBool u ++ 21#6 ++ 6#4 ++ (0#1 ++ d) ++ a ++ (0#1 ++ n) ++ p)
  | .sadd u d a b p => some (BitVec.ofBool u ++ 22#6 ++ 0#4 ++ (0#1 ++ d) ++ (0#1 ++ a) ++ (0#1 ++ b) ++ p)
  | .ssub u d a b p => some (BitVec.ofBool u ++ 22#6 ++ 1#4 ++ (0#1 ++ d) ++ (0#1 ++ a) ++ (0#1 ++ b) ++ p)
  | .smul u d a b p => some (BitVec.ofBool u ++ 22#6 ++ 2#4 ++ (0#1 ++ d) ++ (0#1 ++ a) ++ (0#1 ++ b) ++ p)
  | .sand u d a b p => some (BitVec.ofBool u ++ 22#6 ++ 3#4 ++ (0#1 ++ d) ++ (0#1 ++ a) ++ (0#1 ++ b) ++ p)
  | .sor u d a b p => some (BitVec.ofBool u ++ 22#6 ++ 4#4 ++ (0#1 ++ d) ++ (0#1 ++ a) ++ (0#1 ++ b) ++ p)
  | .sxor u d a b p => some (BitVec.ofBool u ++ 22#6 ++ 5#4 ++ (0#1 ++ d) ++ (0#1 ++ a) ++ (0#1 ++ b) ++ p)
  | .sshl u d a b p => some (BitVec.ofBool u ++ 22#6 ++ 6#4 ++ (0#1 ++ d) ++ (0#1 ++ a) ++ (0#1 ++ b) ++ p)
  | .sshr u d a b p => some (BitVec.ofBool u ++ 22#6 ++ 7#4 ++ (0#1 ++ d) ++ (0#1 ++ a) ++ (0#1 ++ b) ++ p)
  | .scmp u c q a b p => some (BitVec.ofBool u ++ 22#6 ++ (1#1 ++ c) ++ (0#3 ++ q) ++ (0#1 ++ a) ++ (0#1 ++ b) ++ p)
  | .saddi u d a i p => some (BitVec.ofBool u ++ 23#6 ++ 0#3 ++ (0#1 ++ d) ++ (0#1 ++ a) ++ i ++ p)
  | .ld u s d a o p => some (BitVec.ofBool u ++ 24#6 ++ s ++ d ++ a ++ o ++ p)
  | .st u s d a o p => some (BitVec.ofBool u ++ 25#6 ++ s ++ d ++ a ++ o ++ p)
  | .lda u s d a z o p => some (BitVec.ofBool u ++ 26#6 ++ s ++ d ++ a ++ (z ++ o) ++ p)
  | .stl u s d a z o p => some (BitVec.ofBool u ++ 27#6 ++ s ++ d ++ a ++ (z ++ o) ++ p)
  | .atomTeam u f d a w b p => some (BitVec.ofBool u ++ 28#6 ++ f ++ d ++ (a ++ w) ++ b ++ p)
  | .atomCluster u f d a w b p => some (BitVec.ofBool u ++ 29#6 ++ f ++ d ++ (a ++ w) ++ b ++ p)
  | .atomDevice u f d a w b p => some (BitVec.ofBool u ++ 30#6 ++ f ++ d ++ (a ++ w) ++ b ++ p)
  | .atomFabric u f d a w b p => some (BitVec.ofBool u ++ 31#6 ++ f ++ d ++ (a ++ w) ++ b ++ p)
  | .red u f w s a b p => some (BitVec.ofBool u ++ 32#6 ++ f ++ (0#2 ++ w ++ s) ++ a ++ b ++ p)
  | .atomcas u w s d a b p => some (BitVec.ofBool u ++ 33#6 ++ (w ++ s) ++ d ++ a ++ b ++ p)
  | .atomincb u w s d a b p => some (BitVec.ofBool u ++ 34#6 ++ (w ++ s) ++ d ++ a ++ b ++ p)
  | .sigf u s a b p => some (BitVec.ofBool u ++ 35#6 ++ (0#1 ++ s) ++ 0#6 ++ a ++ b ++ p)
  | .fence u s p => some (BitVec.ofBool u ++ 36#6 ++ s ++ 0#6 ++ 0#6 ++ 0#6 ++ p)
  | .wait u l s t r c => some (BitVec.ofBool u ++ 37#6 ++ l ++ s ++ t ++ r ++ c)
  | .barv u l i p => some (BitVec.ofBool u ++ 38#6 ++ 0#3 ++ 0#6 ++ 0#6 ++ (l ++ i ++ 0#1) ++ p)
  | .barw u l i q p => some (BitVec.ofBool u ++ 38#6 ++ 1#3 ++ 0#6 ++ 0#6 ++ (l ++ i ++ q) ++ p)
  | .bars u l i p => some (BitVec.ofBool u ++ 38#6 ++ 2#3 ++ 0#6 ++ 0#6 ++ (l ++ i ++ 0#1) ++ p)
  | .barst u d l i p => some (BitVec.ofBool u ++ 38#6 ++ 3#3 ++ d ++ 0#6 ++ (l ++ i ++ 0#1) ++ p)
  | .bra o p => some (1#1 ++ 39#6 ++ 0#3 ++ o ++ p)
  | .bru o p => some (1#1 ++ 39#6 ++ 1#3 ++ o ++ p)
  | .call o p => some (1#1 ++ 39#6 ++ 2#3 ++ o ++ p)
  | .callr a p => some (1#1 ++ 40#6 ++ 0#4 ++ 0#6 ++ a ++ 0#6 ++ p)
  | .ret p => some (1#1 ++ 40#6 ++ 1#4 ++ 0#6 ++ 0#6 ++ 0#6 ++ p)
  | .jmpr a p => some (1#1 ++ 40#6 ++ 2#4 ++ 0#6 ++ a ++ 0#6 ++ p)
  | .exit p => some (1#1 ++ 40#6 ++ 3#4 ++ 0#6 ++ 0#6 ++ 0#6 ++ p)
  | .rjenrol u j p => some (BitVec.ofBool u ++ 41#6 ++ 0#4 ++ 0#6 ++ 0#6 ++ (0#3 ++ j) ++ p)
  | .rjpark u j p => some (BitVec.ofBool u ++ 41#6 ++ 1#4 ++ 0#6 ++ 0#6 ++ (0#3 ++ j) ++ p)
  | .rjout u j p => some (BitVec.ofBool u ++ 41#6 ++ 2#4 ++ 0#6 ++ 0#6 ++ (0#3 ++ j) ++ p)
  | .rjget u d j p => some (BitVec.ofBool u ++ 41#6 ++ 3#4 ++ d ++ 0#6 ++ (0#3 ++ j) ++ p)
  | .spawn u d a b p => some (BitVec.ofBool u ++ 42#6 ++ 0#4 ++ d ++ a ++ b ++ p)
  | .spawnb u d a b p => some (BitVec.ofBool u ++ 42#6 ++ 1#4 ++ d ++ a ++ b ++ p)
  | .take u d p => some (BitVec.ofBool u ++ 42#6 ++ 2#4 ++ d ++ 0#6 ++ 0#6 ++ p)
  | .endt u p => some (BitVec.ofBool u ++ 42#6 ++ 3#4 ++ 0#6 ++ 0#6 ++ 0#6 ++ p)
  | .tjoin u a p => some (BitVec.ofBool u ++ 42#6 ++ 4#4 ++ 0#6 ++ a ++ 0#6 ++ p)
  | .role u k p => some (BitVec.ofBool u ++ 42#6 ++ 5#4 ++ 0#6 ++ 0#6 ++ (0#4 ++ k) ++ p)
  | .launch u d a q p => some (BitVec.ofBool u ++ 42#6 ++ 6#4 ++ (0#1 ++ d) ++ (0#1 ++ a) ++ q ++ p)
  | .tmma u a b p => some (BitVec.ofBool u ++ 43#6 ++ 0#4 ++ 0#6 ++ a ++ b ++ p)
  | .tzero u a p => some (BitVec.ofBool u ++ 43#6 ++ 1#4 ++ 0#6 ++ a ++ 0#6 ++ p)
  | .tacld u a p => some (BitVec.ofBool u ++ 43#6 ++ 2#4 ++ 0#6 ++ a ++ 0#6 ++ p)
  | .tacst u a p => some (BitVec.ofBool u ++ 43#6 ++ 3#4 ++ 0#6 ++ a ++ 0#6 ++ p)
  | .tquant u a b p => some (BitVec.ofBool u ++ 43#6 ++ 4#4 ++ 0#6 ++ a ++ b ++ p)
  | .tlend u d p => some (BitVec.ofBool u ++ 43#6 ++ 5#4 ++ d ++ 0#6 ++ 0#6 ++ p)
  | .vchain u a p => some (BitVec.ofBool u ++ 44#6 ++ 0#4 ++ 0#6 ++ a ++ 0#6 ++ p)
  | .vatwait u v p => some (BitVec.ofBool u ++ 45#6 ++ 0#4 ++ 0#6 ++ 0#6 ++ v ++ p)
  | .vattake u v p => some (BitVec.ofBool u ++ 45#6 ++ 1#4 ++ 0#6 ++ 0#6 ++ v ++ p)
  | .vatfree u v p => some (BitVec.ofBool u ++ 45#6 ++ 2#4 ++ 0#6 ++ 0#6 ++ v ++ p)
  | .cpy u d a b p => some (BitVec.ofBool u ++ 46#6 ++ 0#4 ++ d ++ a ++ b ++ p)
  | .cpya u d s p => some (BitVec.ofBool u ++ 46#6 ++ 1#4 ++ d ++ 0#6 ++ (0#4 ++ s) ++ p)
  | .cpyg u d a p => some (BitVec.ofBool u ++ 46#6 ++ 2#4 ++ d ++ a ++ 0#6 ++ p)
  | .cpyx u d a b p => some (BitVec.ofBool u ++ 46#6 ++ 3#4 ++ d ++ a ++ b ++ p)
  | .cbload u d a k p => some (BitVec.ofBool u ++ 46#6 ++ 4#4 ++ d ++ a ++ (0#3 ++ k) ++ p)
  | .qpush u s q p => some (BitVec.ofBool u ++ 46#6 ++ 5#4 ++ 0#6 ++ 0#6 ++ (0#1 ++ s ++ q) ++ p)
  | .aaset u a s p => some (BitVec.ofBool u ++ 46#6 ++ 6#4 ++ 0#6 ++ a ++ (0#4 ++ s) ++ p)
  | .vatarm u a v p => some (BitVec.ofBool u ++ 46#6 ++ 7#4 ++ 0#6 ++ a ++ v ++ p)
  | .cpyabort u p => some (BitVec.ofBool u ++ 46#6 ++ 8#4 ++ 0#6 ++ 0#6 ++ 0#6 ++ p)
  | .decsub u d a p => some (BitVec.ofBool u ++ 46#6 ++ 9#4 ++ d ++ a ++ 0#6 ++ p)
  | .rshd u d a p => some (BitVec.ofBool u ++ 46#6 ++ 10#4 ++ d ++ a ++ 0#6 ++ p)
  | .csrr u d c p => some (BitVec.ofBool u ++ 47#6 ++ 0#4 ++ d ++ c ++ p)
  | .csrw u a c p => some (BitVec.ofBool u ++ 47#6 ++ 1#4 ++ a ++ c ++ p)
  | .feat u d n p => some (BitVec.ofBool u ++ 47#6 ++ 2#4 ++ d ++ (0#8 ++ n) ++ p)
  | .trap u n p => some (BitVec.ofBool u ++ 47#6 ++ 3#4 ++ 0#6 ++ (0#4 ++ n) ++ p)
  | .tret p => some (1#1 ++ 47#6 ++ 4#4 ++ 0#6 ++ 0#12 ++ p)
  | .brk u n p => some (BitVec.ofBool u ++ 47#6 ++ 5#4 ++ 0#6 ++ (0#4 ++ n) ++ p)
  | .nop u => some (BitVec.ofBool u ++ 0#6 ++ 0#3 ++ 0#22)
  | .hintImm y => some (0#1 ++ 0#6 ++ 1#3 ++ y)
  | .hintSched u w h => some (BitVec.ofBool u ++ 0#6 ++ 2#3 ++ (0#17 ++ w ++ h))
  | .hintMod r q m c => some (0#1 ++ 0#6 ++ 3#3 ++ (r ++ q ++ m ++ c ++ 0#13))
  | _ => none

/-- The decoder of Fjarmar words (Table 13-2): none where the word faults with code 0x40, DETAIL 0: a reserved opcode
or modifier, or a reserved field that is not zero (R296, R298, R301). -/
def decodeChunk (w : BitVec 64) : Option Instr :=
  let md := w.extractLsb' 54 4
  let d := w.extractLsb' 50 4
  let a := w.extractLsb' 46 4
  let b := w.extractLsb' 42 4
  let ch := w.extractLsb' 38 4
  let rs := w.extractLsb' 32 6
  let imm := w.extractLsb' 0 32
  let csr := w.extractLsb' 0 12
  let f := w.extractLsb' 0 4
  let op := w.extractLsb' 4 4
  let fw := w.extractLsb' 8 4
  if rs ≠ 0 then none else
  match (w.extractLsb' 58 6).toNat with
  | 1 =>
    if md = 0#4 ∧ imm = 0 then some (.xmit d a b ch) else
    none
  | 2 =>
    if md = 0#4 ∧ imm = 0 then some (.recv d a b ch) else
    none
  | 3 =>
    if md.extractLsb' 1 3 = 0#3 ∧ w.extractLsb' 8 24 = 0#24 ∧ op.toNat < 3 ∧ f.toNat < 3 then some (.comb (md.extractLsb' 0 1) op f d a b ch) else
    none
  | 4 =>
    if md.extractLsb' 1 3 = 0#3 ∧ w.extractLsb' 12 20 = 0#20 ∧ op.toNat < 3 ∧ f.toNat < 3 then some (.cfwd (md.extractLsb' 0 1) fw op f d a b ch) else
    none
  | 5 =>
    if md.toNat < 3 ∧ d = 0 ∧ ch = 0 ∧ imm = 0 then some (.waitf md a b) else
    none
  | 6 =>
    if md = 0#4 ∧ d = 0 ∧ ch = 0 ∧ imm = 0 then some (.chunkSigf a b) else
    if md = 1#4 ∧ d = 0 ∧ ch = 0 ∧ imm = 0 then some (.chunkSigfAdd a b) else
    none
  | 7 =>
    if md = 0#4 ∧ a = 0 ∧ b = 0 ∧ ch = 0 then some (.loop d imm) else
    none
  | 8 =>
    if md = 0#4 ∧ a = 0 ∧ b = 0 ∧ ch = 0 then some (.chunkMovi d imm) else
    if md = 1#4 ∧ a = 0 ∧ b = 0 ∧ ch = 0 then some (.chunkMoviHi d imm) else
    none
  | 9 =>
    if md = 0#4 ∧ ch = 0 then some (.chunkAddi d a b imm) else
    if md = 1#4 ∧ ch = 0 then some (.chunkAddiN d a b imm) else
    none
  | 10 =>
    if md = 0#4 ∧ d = 0 ∧ b = 0 ∧ ch = 0 then some (.bnz a imm) else
    none
  | 11 =>
    if md = 0#4 ∧ d = 0 ∧ b = 0 ∧ imm = 0 then some (.bind a ch) else
    none
  | 12 =>
    if md = 0#4 ∧ d = 0 ∧ a = 0 ∧ b = 0 ∧ ch = 0 ∧ imm = 0 then some (.chunkHalt) else
    none
  | 13 =>
    if md = 0#4 ∧ d = 0 ∧ a = 0 ∧ b = 0 ∧ ch = 0 ∧ imm = 0 then some (.yield) else
    none
  | 14 =>
    if md = 0#4 ∧ a = 0 ∧ b = 0 ∧ ch = 0 ∧ w.extractLsb' 12 20 = 0#20 then some (.chunkCsrr d csr) else
    none
  | 15 =>
    if md = 0#4 ∧ d = 0 ∧ b = 0 ∧ ch = 0 ∧ w.extractLsb' 12 20 = 0#20 then some (.chunkCsrw a csr) else
    none
  | _ => none

/-- The Fjarmar word of a chunk instruction (Table 13-2). -/
def encodeChunk : Instr → Option (BitVec 64)
  | .chunkMovi d imm => some (8#6 ++ 0#4 ++ d ++ 0#4 ++ 0#4 ++ 0#4 ++ 0#6 ++ imm)
  | .chunkMoviHi d imm => some (8#6 ++ 1#4 ++ d ++ 0#4 ++ 0#4 ++ 0#4 ++ 0#6 ++ imm)
  | .chunkAddi d a b imm => some (9#6 ++ 0#4 ++ d ++ a ++ b ++ 0#4 ++ 0#6 ++ imm)
  | .chunkAddiN d a b imm => some (9#6 ++ 1#4 ++ d ++ a ++ b ++ 0#4 ++ 0#6 ++ imm)
  | .loop d imm => some (7#6 ++ 0#4 ++ d ++ 0#4 ++ 0#4 ++ 0#4 ++ 0#6 ++ imm)
  | .bnz a imm => some (10#6 ++ 0#4 ++ 0#4 ++ a ++ 0#4 ++ 0#4 ++ 0#6 ++ imm)
  | .yield => some (13#6 ++ 0#4 ++ 0#4 ++ 0#4 ++ 0#4 ++ 0#4 ++ 0#6 ++ 0#32)
  | .chunkHalt => some (12#6 ++ 0#4 ++ 0#4 ++ 0#4 ++ 0#4 ++ 0#4 ++ 0#6 ++ 0#32)
  | .chunkCsrr d csr => some (14#6 ++ 0#4 ++ d ++ 0#4 ++ 0#4 ++ 0#4 ++ 0#6 ++ 0#20 ++ csr)
  | .chunkCsrw a csr => some (15#6 ++ 0#4 ++ 0#4 ++ a ++ 0#4 ++ 0#4 ++ 0#6 ++ 0#20 ++ csr)
  | .bind a ch => some (11#6 ++ 0#4 ++ 0#4 ++ a ++ 0#4 ++ ch ++ 0#6 ++ 0#32)
  | .waitf cc a b => some (5#6 ++ cc ++ 0#4 ++ a ++ b ++ 0#4 ++ 0#6 ++ 0#32)
  | .chunkSigf a b => some (6#6 ++ 0#4 ++ 0#4 ++ a ++ b ++ 0#4 ++ 0#6 ++ 0#32)
  | .chunkSigfAdd a b => some (6#6 ++ 1#4 ++ 0#4 ++ a ++ b ++ 0#4 ++ 0#6 ++ 0#32)
  | .xmit d a b ch => some (1#6 ++ 0#4 ++ d ++ a ++ b ++ ch ++ 0#6 ++ 0#32)
  | .recv d a b ch => some (2#6 ++ 0#4 ++ d ++ a ++ b ++ ch ++ 0#6 ++ 0#32)
  | .comb m op f d a b ch => some (3#6 ++ (0#3 ++ m) ++ d ++ a ++ b ++ ch ++ 0#6 ++ 0#24 ++ op ++ f)
  | .cfwd m fw op f d a b ch => some (4#6 ++ (0#3 ++ m) ++ d ++ a ++ b ++ ch ++ 0#6 ++ 0#20 ++ fw ++ op ++ f)
  | _ => none

/-- The words of an instruction, first word first: one 32-bit word, or the two halves of a Fjarmar word; none for a
host command or an event. -/
def encode (i : Instr) : List (BitVec 32) :=
  match encodeWord i, encodeChunk i with
  | some w, _ => [w]
  | _, some x => [x.extractLsb' 0 32, x.extractLsb' 32 32]
  | _, _ => []

/-- The instruction that a list of words stands for: one instruction word, or the two halves of a Fjarmar word. -/
def decodeWords (ws : List (BitVec 32)) : Option Instr :=
  match ws with
  | [w] => decodeWord w
  | [lo, hi] => decodeChunk (hi ++ lo)
  | _ => none

/-- The instruction of a row of spec/opcode_table.json whose bits are w: a row of up to 32 bits is an instruction word, a
longer one a Fjarmar word. -/
def decodeTableWord (nbits w : Nat) : Option Instr :=
  if nbits ≤ 32 then decodeWord (BitVec.ofNat 32 w) else decodeChunk (BitVec.ofNat 64 w)

end Sys2Proof
end

