-- ==== Sys2Proof/Machine/Operands.lean ====
section
/-! DEFINITION. What a word names and which field values it may hold: the register rules of Table 2-2, the field limits, the
prefix rules (R48 to R50), the feeder's words (R223), and the decode checks of Table 2-11 in their order. -/
namespace Sys2Proof.Machine

/-- A v operand: its first register, how many registers it takes, and the multiple its number must be. -/
structure Opnd where
  reg   : Nat
  len   : Nat
  align : Nat
  deriving DecidableEq, Repr

/-- The v registers a word reads, in the order a, b, d (R24), and the one it writes. -/
structure Use where
  src : List Opnd
  dst : Option Opnd
  deriving DecidableEq, Repr

def r1 (n : BitVec 6) : Opnd := ⟨n.toNat, 1, 1⟩
def r2 (n : BitVec 6) : Opnd := ⟨n.toNat, 2, 2⟩
def r4 (n : BitVec 6) : Opnd := ⟨n.toNat, 4, 4⟩
/-- 32 or 64 bits by a width bit (Table 7-6). -/
def rw (w : BitVec 1) (n : BitVec 6) : Opnd := if w = 1#1 then r2 n else r1 n
/-- The 64-bit types of Table 2-8: F64, S64, UI64. -/
def wideType (t : BitVec 4) : Bool := t == 3#4 || t == 10#4 || t == 14#4

/-- The status and control registers (Tables 1-3, 9-1, 11-5). -/
def csrKnown (c : BitVec 12) : Bool :=
  [0x000, 0x001, 0x002, 0x003, 0x004, 0x005, 0x006, 0x007, 0x008, 0x010, 0x011, 0x012, 0x013, 0x014, 0x020, 0x021,
   0x022, 0x023, 0x024, 0x030, 0x031, 0x032, 0x033, 0x040, 0x050, 0x051, 0x060].contains c.toNat
def csrWritable (c : BitVec 12) : Bool :=
  [0x010, 0x011, 0x012, 0x013, 0x014, 0x020, 0x023, 0x033, 0x050, 0x060].contains c.toNat
/-- The 64-bit registers: BSTAT, SCALEH, VATDMG, TADDR, TPC, CYCLE, CFAULT, TLBINV. -/
def csrWide (c : BitVec 12) : Bool :=
  [0x022, 0x023, 0x024, 0x032, 0x033, 0x040, 0x051, 0x060].contains c.toNat

/-- The run-boundary flag B of a word (R42); a control transfer always carries it (R44). -/
def bFlag (i : Instr) : Bool :=
  match i with
  | .add u _ _ _ _ | .sub u _ _ _ _ | .mul u _ _ _ _ | .mulhi u _ _ _ _ | .mulhiu u _ _ _ _ | .mad u _ _ _ _
  | .and u _ _ _ _ | .or u _ _ _ _ | .xor u _ _ _ _ | .andn u _ _ _ _ | .min u _ _ _ _ | .max u _ _ _ _
  | .minu u _ _ _ _ | .maxu u _ _ _ _ | .add64 u _ _ _ _ | .sub64 u _ _ _ _ | .mul64 u _ _ _ _ | .mulhi64 u _ _ _ _
  | .mulhiu64 u _ _ _ _ | .mad64 u _ _ _ _ | .and64 u _ _ _ _ | .or64 u _ _ _ _ | .xor64 u _ _ _ _
  | .andn64 u _ _ _ _ | .min64 u _ _ _ _ | .max64 u _ _ _ _ | .minu64 u _ _ _ _ | .maxu64 u _ _ _ _ | .shl u _ _ _ _
  | .shr u _ _ _ _ | .sar u _ _ _ _ | .rot u _ _ _ _ | .abs u _ _ _ | .clz u _ _ _ | .popc u _ _ _ | .brev u _ _ _
  | .bfx u _ _ _ _ | .bfi u _ _ _ _ | .permb u _ _ _ _ | .div u _ _ _ _ | .divu u _ _ _ _ | .rem u _ _ _ _
  | .remu u _ _ _ _ | .shl64 u _ _ _ _ | .shr64 u _ _ _ _ | .sar64 u _ _ _ _ | .rot64 u _ _ _ _ | .abs64 u _ _ _
  | .clz64 u _ _ _ | .popc64 u _ _ _ | .brev64 u _ _ _ | .bfx64 u _ _ _ _ | .bfi64 u _ _ _ _ | .permb64 u _ _ _ _
  | .div64 u _ _ _ _ | .divu64 u _ _ _ _ | .rem64 u _ _ _ _ | .remu64 u _ _ _ _ | .addi u _ _ _ _ | .muli u _ _ _ _
  | .andi u _ _ _ _ | .ori u _ _ _ _ | .xori u _ _ _ _ | .shli u _ _ _ _ | .shri u _ _ _ _ | .sari u _ _ _ _
  | .addi64 u _ _ _ _ | .muli64 u _ _ _ _ | .andi64 u _ _ _ _ | .ori64 u _ _ _ _ | .xori64 u _ _ _ _
  | .shli64 u _ _ _ _ | .shri64 u _ _ _ _ | .sari64 u _ _ _ _ | .movi u _ _ _ | .movi64 u _ _ _ | .fadd u _ _ _ _
  | .fsub u _ _ _ _ | .fmul u _ _ _ _ | .ffma u _ _ _ _ | .fmin u _ _ _ _ | .fmax u _ _ _ _ | .fsgnJ u _ _ _ _
  | .fsgnN u _ _ _ _ | .fsgnX u _ _ _ _ | .fclass u _ _ _ | .fdiv u _ _ _ _ | .hadd2 u _ _ _ _ _ | .hmul2 u _ _ _ _ _
  | .hfma2 u _ _ _ _ _ | .hmin2 u _ _ _ _ _ | .hmax2 u _ _ _ _ _ | .dadd u _ _ _ _ | .dmul u _ _ _ _
  | .dfma u _ _ _ _ | .icmp u _ _ _ _ _ | .icmp64 u _ _ _ _ _ | .fcmp u _ _ _ _ _ _ | .plog u _ _ _ _ _
  | .sel u _ _ _ _ _ | .cvt u _ _ _ _ _ _ | .cvtpk u _ _ _ _ _ | .cvtupk u _ _ _ _ _ | .rcp u _ _ _ | .rsq u _ _ _
  | .sqrt u _ _ _ | .exp2 u _ _ _ | .log2 u _ _ _ | .sin u _ _ _ | .cos u _ _ _ | .tanh u _ _ _ | .shfl u _ _ _ _ _
  | .shflImm u _ _ _ _ _ | .voteAll u _ _ _ | .voteAny u _ _ _ | .voteBallot u _ _ _ | .voteUni u _ _ _
  | .matchLanes u _ _ _ | .partset u _ _ | .vred u _ _ _ _ _ | .vscan u _ _ _ _ _ _ | .mov u _ _ _ | .mov64 u _ _ _
  | .movs u _ _ _ | .movsHi u _ _ _ | .movs64 u _ _ _ | .rdlane u _ _ _ _ | .rdlane64 u _ _ _ _ | .sadd u _ _ _ _
  | .ssub u _ _ _ _ | .smul u _ _ _ _ | .sand u _ _ _ _ | .sor u _ _ _ _ | .sxor u _ _ _ _ | .sshl u _ _ _ _
  | .sshr u _ _ _ _ | .scmp u _ _ _ _ _ | .saddi u _ _ _ _ | .ld u _ _ _ _ _ | .st u _ _ _ _ _ | .lda u _ _ _ _ _ _
  | .stl u _ _ _ _ _ _ | .atomTeam u _ _ _ _ _ _ | .atomCluster u _ _ _ _ _ _ | .atomDevice u _ _ _ _ _ _
  | .atomFabric u _ _ _ _ _ _ | .red u _ _ _ _ _ _ | .atomcas u _ _ _ _ _ _ | .atomincb u _ _ _ _ _ _
  | .sigf u _ _ _ _ | .fence u _ _ | .wait u _ _ _ _ _ | .barv u _ _ _ | .barw u _ _ _ _ | .bars u _ _ _
  | .barst u _ _ _ _ | .rjenrol u _ _ | .rjpark u _ _ | .rjout u _ _ | .rjget u _ _ _ | .spawn u _ _ _ _
  | .spawnb u _ _ _ _ | .take u _ _ | .endt u _ | .tjoin u _ _ | .role u _ _ | .launch u _ _ _ _ | .tmma u _ _ _
  | .tzero u _ _ | .tacld u _ _ | .tacst u _ _ | .tquant u _ _ _ | .tlend u _ _ | .vchain u _ _ | .vatwait u _ _
  | .vattake u _ _ | .vatfree u _ _ | .cpy u _ _ _ _ | .cpya u _ _ _ | .cpyg u _ _ _ | .cpyx u _ _ _ _
  | .cbload u _ _ _ _ | .qpush u _ _ _ | .aaset u _ _ _ | .vatarm u _ _ _ | .cpyabort u _ | .decsub u _ _ _
  | .rshd u _ _ _ | .csrr u _ _ _ | .csrw u _ _ _ | .feat u _ _ _ | .trap u _ _ | .brk u _ _ | .nop u
  | .hintSched u _ _ => u
  | .hintImm _ | .hintMod _ _ _ _ => false
  | _ => true

/-- The guard predicate index (R42); formats W and H carry none. -/
def guardOf (i : Instr) : Nat :=
  match i with
  | .add _ _ _ _ p | .sub _ _ _ _ p | .mul _ _ _ _ p | .mulhi _ _ _ _ p | .mulhiu _ _ _ _ p | .mad _ _ _ _ p
  | .and _ _ _ _ p | .or _ _ _ _ p | .xor _ _ _ _ p | .andn _ _ _ _ p | .min _ _ _ _ p | .max _ _ _ _ p
  | .minu _ _ _ _ p | .maxu _ _ _ _ p | .add64 _ _ _ _ p | .sub64 _ _ _ _ p | .mul64 _ _ _ _ p | .mulhi64 _ _ _ _ p
  | .mulhiu64 _ _ _ _ p | .mad64 _ _ _ _ p | .and64 _ _ _ _ p | .or64 _ _ _ _ p | .xor64 _ _ _ _ p
  | .andn64 _ _ _ _ p | .min64 _ _ _ _ p | .max64 _ _ _ _ p | .minu64 _ _ _ _ p | .maxu64 _ _ _ _ p | .shl _ _ _ _ p
  | .shr _ _ _ _ p | .sar _ _ _ _ p | .rot _ _ _ _ p | .abs _ _ _ p | .clz _ _ _ p | .popc _ _ _ p | .brev _ _ _ p
  | .bfx _ _ _ _ p | .bfi _ _ _ _ p | .permb _ _ _ _ p | .div _ _ _ _ p | .divu _ _ _ _ p | .rem _ _ _ _ p
  | .remu _ _ _ _ p | .shl64 _ _ _ _ p | .shr64 _ _ _ _ p | .sar64 _ _ _ _ p | .rot64 _ _ _ _ p | .abs64 _ _ _ p
  | .clz64 _ _ _ p | .popc64 _ _ _ p | .brev64 _ _ _ p | .bfx64 _ _ _ _ p | .bfi64 _ _ _ _ p | .permb64 _ _ _ _ p
  | .div64 _ _ _ _ p | .divu64 _ _ _ _ p | .rem64 _ _ _ _ p | .remu64 _ _ _ _ p | .addi _ _ _ _ p | .muli _ _ _ _ p
  | .andi _ _ _ _ p | .ori _ _ _ _ p | .xori _ _ _ _ p | .shli _ _ _ _ p | .shri _ _ _ _ p | .sari _ _ _ _ p
  | .addi64 _ _ _ _ p | .muli64 _ _ _ _ p | .andi64 _ _ _ _ p | .ori64 _ _ _ _ p | .xori64 _ _ _ _ p
  | .shli64 _ _ _ _ p | .shri64 _ _ _ _ p | .sari64 _ _ _ _ p | .movi _ _ _ p | .movi64 _ _ _ p | .fadd _ _ _ _ p
  | .fsub _ _ _ _ p | .fmul _ _ _ _ p | .ffma _ _ _ _ p | .fmin _ _ _ _ p | .fmax _ _ _ _ p | .fsgnJ _ _ _ _ p
  | .fsgnN _ _ _ _ p | .fsgnX _ _ _ _ p | .fclass _ _ _ p | .fdiv _ _ _ _ p | .hadd2 _ _ _ _ _ p | .hmul2 _ _ _ _ _ p
  | .hfma2 _ _ _ _ _ p | .hmin2 _ _ _ _ _ p | .hmax2 _ _ _ _ _ p | .dadd _ _ _ _ p | .dmul _ _ _ _ p
  | .dfma _ _ _ _ p | .icmp _ _ _ _ _ p | .icmp64 _ _ _ _ _ p | .fcmp _ _ _ _ _ _ p | .plog _ _ _ _ _ p
  | .sel _ _ _ _ _ p | .cvt _ _ _ _ _ _ p | .cvtpk _ _ _ _ _ p | .cvtupk _ _ _ _ _ p | .rcp _ _ _ p | .rsq _ _ _ p
  | .sqrt _ _ _ p | .exp2 _ _ _ p | .log2 _ _ _ p | .sin _ _ _ p | .cos _ _ _ p | .tanh _ _ _ p | .shfl _ _ _ _ _ p
  | .shflImm _ _ _ _ _ p | .voteAll _ _ _ p | .voteAny _ _ _ p | .voteBallot _ _ _ p | .voteUni _ _ _ p
  | .matchLanes _ _ _ p | .partset _ _ p | .vred _ _ _ _ _ p | .vscan _ _ _ _ _ _ p | .mov _ _ _ p | .mov64 _ _ _ p
  | .movs _ _ _ p | .movsHi _ _ _ p | .movs64 _ _ _ p | .rdlane _ _ _ _ p | .rdlane64 _ _ _ _ p | .sadd _ _ _ _ p
  | .ssub _ _ _ _ p | .smul _ _ _ _ p | .sand _ _ _ _ p | .sor _ _ _ _ p | .sxor _ _ _ _ p | .sshl _ _ _ _ p
  | .sshr _ _ _ _ p | .scmp _ _ _ _ _ p | .saddi _ _ _ _ p | .ld _ _ _ _ _ p | .st _ _ _ _ _ p | .lda _ _ _ _ _ _ p
  | .stl _ _ _ _ _ _ p | .atomTeam _ _ _ _ _ _ p | .atomCluster _ _ _ _ _ _ p | .atomDevice _ _ _ _ _ _ p
  | .atomFabric _ _ _ _ _ _ p | .red _ _ _ _ _ _ p | .atomcas _ _ _ _ _ _ p | .atomincb _ _ _ _ _ _ p
  | .sigf _ _ _ _ p | .fence _ _ p | .barv _ _ _ p | .barw _ _ _ _ p | .bars _ _ _ p | .barst _ _ _ _ p | .bra _ p
  | .bru _ p | .call _ p | .callr _ p | .ret p | .jmpr _ p | .exit p | .rjenrol _ _ p | .rjpark _ _ p | .rjout _ _ p
  | .rjget _ _ _ p | .spawn _ _ _ _ p | .spawnb _ _ _ _ p | .take _ _ p | .endt _ p | .tjoin _ _ p | .role _ _ p
  | .launch _ _ _ _ p | .tmma _ _ _ p | .tzero _ _ p | .tacld _ _ p | .tacst _ _ p | .tquant _ _ _ p | .tlend _ _ p
  | .vchain _ _ p | .vatwait _ _ p | .vattake _ _ p | .vatfree _ _ p | .cpy _ _ _ _ p | .cpya _ _ _ p | .cpyg _ _ _ p
  | .cpyx _ _ _ _ p | .cbload _ _ _ _ p | .qpush _ _ _ p | .aaset _ _ _ p | .vatarm _ _ _ p | .cpyabort _ p
  | .decsub _ _ _ p | .rshd _ _ _ p | .csrr _ _ _ p | .csrw _ _ _ p | .feat _ _ _ p | .trap _ _ p | .tret p
  | .brk _ _ p => p.toNat
  | _ => 0

/-- The major opcode (Table 2-4). -/
def majorOf (i : Instr) : Nat :=
  match i with
  | .add _ _ _ _ _ | .sub _ _ _ _ _ | .mul _ _ _ _ _ | .mulhi _ _ _ _ _ | .mulhiu _ _ _ _ _ | .mad _ _ _ _ _
  | .and _ _ _ _ _ | .or _ _ _ _ _ | .xor _ _ _ _ _ | .andn _ _ _ _ _ | .min _ _ _ _ _ | .max _ _ _ _ _
  | .minu _ _ _ _ _ | .maxu _ _ _ _ _ => 1
  | .add64 _ _ _ _ _ | .sub64 _ _ _ _ _ | .mul64 _ _ _ _ _ | .mulhi64 _ _ _ _ _ | .mulhiu64 _ _ _ _ _
  | .mad64 _ _ _ _ _ | .and64 _ _ _ _ _ | .or64 _ _ _ _ _ | .xor64 _ _ _ _ _ | .andn64 _ _ _ _ _ | .min64 _ _ _ _ _
  | .max64 _ _ _ _ _ | .minu64 _ _ _ _ _ | .maxu64 _ _ _ _ _ => 2
  | .shl _ _ _ _ _ | .shr _ _ _ _ _ | .sar _ _ _ _ _ | .rot _ _ _ _ _ | .abs _ _ _ _ | .clz _ _ _ _ | .popc _ _ _ _
  | .brev _ _ _ _ | .bfx _ _ _ _ _ | .bfi _ _ _ _ _ | .permb _ _ _ _ _ | .div _ _ _ _ _ | .divu _ _ _ _ _
  | .rem _ _ _ _ _ | .remu _ _ _ _ _ => 3
  | .shl64 _ _ _ _ _ | .shr64 _ _ _ _ _ | .sar64 _ _ _ _ _ | .rot64 _ _ _ _ _ | .abs64 _ _ _ _ | .clz64 _ _ _ _
  | .popc64 _ _ _ _ | .brev64 _ _ _ _ | .bfx64 _ _ _ _ _ | .bfi64 _ _ _ _ _ | .permb64 _ _ _ _ _ | .div64 _ _ _ _ _
  | .divu64 _ _ _ _ _ | .rem64 _ _ _ _ _ | .remu64 _ _ _ _ _ => 4
  | .addi _ _ _ _ _ | .muli _ _ _ _ _ | .andi _ _ _ _ _ | .ori _ _ _ _ _ | .xori _ _ _ _ _ | .shli _ _ _ _ _
  | .shri _ _ _ _ _ | .sari _ _ _ _ _ => 5
  | .addi64 _ _ _ _ _ | .muli64 _ _ _ _ _ | .andi64 _ _ _ _ _ | .ori64 _ _ _ _ _ | .xori64 _ _ _ _ _
  | .shli64 _ _ _ _ _ | .shri64 _ _ _ _ _ | .sari64 _ _ _ _ _ => 6
  | .movi _ _ _ _ | .movi64 _ _ _ _ => 7
  | .fadd _ _ _ _ _ | .fsub _ _ _ _ _ | .fmul _ _ _ _ _ | .ffma _ _ _ _ _ | .fmin _ _ _ _ _ | .fmax _ _ _ _ _
  | .fsgnJ _ _ _ _ _ | .fsgnN _ _ _ _ _ | .fsgnX _ _ _ _ _ | .fclass _ _ _ _ | .fdiv _ _ _ _ _ => 8
  | .hadd2 _ _ _ _ _ _ | .hmul2 _ _ _ _ _ _ | .hfma2 _ _ _ _ _ _ | .hmin2 _ _ _ _ _ _ | .hmax2 _ _ _ _ _ _ => 9
  | .dadd _ _ _ _ _ | .dmul _ _ _ _ _ | .dfma _ _ _ _ _ => 10
  | .icmp _ _ _ _ _ _ => 11
  | .icmp64 _ _ _ _ _ _ => 12
  | .fcmp _ _ _ _ _ _ _ => 13
  | .plog _ _ _ _ _ _ | .sel _ _ _ _ _ _ => 14
  | .cvt _ _ _ _ _ _ _ => 15
  | .cvtpk _ _ _ _ _ _ | .cvtupk _ _ _ _ _ _ => 16
  | .rcp _ _ _ _ | .rsq _ _ _ _ | .sqrt _ _ _ _ | .exp2 _ _ _ _ | .log2 _ _ _ _ | .sin _ _ _ _ | .cos _ _ _ _
  | .tanh _ _ _ _ => 17
  | .shfl _ _ _ _ _ _ | .shflImm _ _ _ _ _ _ => 18
  | .voteAll _ _ _ _ | .voteAny _ _ _ _ | .voteBallot _ _ _ _ | .voteUni _ _ _ _ | .matchLanes _ _ _ _
  | .partset _ _ _ => 19
  | .vred _ _ _ _ _ _ | .vscan _ _ _ _ _ _ _ => 20
  | .mov _ _ _ _ | .mov64 _ _ _ _ | .movs _ _ _ _ | .movsHi _ _ _ _ | .movs64 _ _ _ _ | .rdlane _ _ _ _ _
  | .rdlane64 _ _ _ _ _ => 21
  | .sadd _ _ _ _ _ | .ssub _ _ _ _ _ | .smul _ _ _ _ _ | .sand _ _ _ _ _ | .sor _ _ _ _ _ | .sxor _ _ _ _ _
  | .sshl _ _ _ _ _ | .sshr _ _ _ _ _ | .scmp _ _ _ _ _ _ => 22
  | .saddi _ _ _ _ _ => 23
  | .ld _ _ _ _ _ _ => 24
  | .st _ _ _ _ _ _ => 25
  | .lda _ _ _ _ _ _ _ => 26
  | .stl _ _ _ _ _ _ _ => 27
  | .atomTeam _ _ _ _ _ _ _ => 28
  | .atomCluster _ _ _ _ _ _ _ => 29
  | .atomDevice _ _ _ _ _ _ _ => 30
  | .atomFabric _ _ _ _ _ _ _ => 31
  | .red _ _ _ _ _ _ _ => 32
  | .atomcas _ _ _ _ _ _ _ => 33
  | .atomincb _ _ _ _ _ _ _ => 34
  | .sigf _ _ _ _ _ => 35
  | .fence _ _ _ => 36
  | .wait _ _ _ _ _ _ => 37
  | .barv _ _ _ _ | .barw _ _ _ _ _ | .bars _ _ _ _ | .barst _ _ _ _ _ => 38
  | .bra _ _ | .bru _ _ | .call _ _ => 39
  | .callr _ _ | .ret _ | .jmpr _ _ | .exit _ => 40
  | .rjenrol _ _ _ | .rjpark _ _ _ | .rjout _ _ _ | .rjget _ _ _ _ => 41
  | .spawn _ _ _ _ _ | .spawnb _ _ _ _ _ | .take _ _ _ | .endt _ _ | .tjoin _ _ _ | .role _ _ _ | .launch _ _ _ _ _ => 42
  | .tmma _ _ _ _ | .tzero _ _ _ | .tacld _ _ _ | .tacst _ _ _ | .tquant _ _ _ _ | .tlend _ _ _ => 43
  | .vchain _ _ _ => 44
  | .vatwait _ _ _ | .vattake _ _ _ | .vatfree _ _ _ => 45
  | .cpy _ _ _ _ _ | .cpya _ _ _ _ | .cpyg _ _ _ _ | .cpyx _ _ _ _ _ | .cbload _ _ _ _ _ | .qpush _ _ _ _
  | .aaset _ _ _ _ | .vatarm _ _ _ _ | .cpyabort _ _ | .decsub _ _ _ _ | .rshd _ _ _ _ => 46
  | .csrr _ _ _ _ | .csrw _ _ _ _ | .feat _ _ _ _ | .trap _ _ _ | .tret _ | .brk _ _ _ => 47
  | _ => 0

/-- The v registers a word names (Tables 2-2 and 2-10). -/
def useOf (i : Instr) : Use :=
  match i with
  | .add _ d a b _ | .sub _ d a b _ | .mul _ d a b _ | .mulhi _ d a b _ | .mulhiu _ d a b _ | .and _ d a b _
  | .or _ d a b _ | .xor _ d a b _ | .andn _ d a b _ | .min _ d a b _ | .max _ d a b _ | .minu _ d a b _
  | .maxu _ d a b _ | .shl _ d a b _ | .shr _ d a b _ | .sar _ d a b _ | .rot _ d a b _ | .bfx _ d a b _
  | .permb _ d a b _ | .div _ d a b _ | .divu _ d a b _ | .rem _ d a b _ | .remu _ d a b _ | .fadd _ d a b _
  | .fsub _ d a b _ | .fmul _ d a b _ | .fmin _ d a b _ | .fmax _ d a b _ | .fsgnJ _ d a b _ | .fsgnN _ d a b _
  | .fsgnX _ d a b _ | .fdiv _ d a b _ | .hadd2 _ _ d a b _ | .hmul2 _ _ d a b _ | .hmin2 _ _ d a b _
  | .hmax2 _ _ d a b _ | .sel _ _ d a b _ | .shfl _ _ d a b _ | .cvtpk _ _ d a b _ => ⟨[r1 a, r1 b], some (r1 d)⟩
  | .mad _ d a b _ | .bfi _ d a b _ | .ffma _ d a b _ | .hfma2 _ _ d a b _ => ⟨[r1 a, r1 b, r1 d], some (r1 d)⟩
  | .abs _ d a _ | .clz _ d a _ | .popc _ d a _ | .brev _ d a _ | .fclass _ d a _ | .cvtupk _ _ d a _ _
  | .rcp _ d a _ | .rsq _ d a _ | .sqrt _ d a _ | .exp2 _ d a _ | .log2 _ d a _ | .sin _ d a _ | .cos _ d a _
  | .tanh _ d a _ | .shflImm _ _ d a _ _ | .matchLanes _ d a _ | .vred _ _ d a _ _ | .vscan _ _ d a _ _ _
  | .mov _ d a _ | .addi _ d a _ _ | .muli _ d a _ _ | .andi _ d a _ _ | .ori _ d a _ _ | .xori _ d a _ _
  | .shli _ d a _ _ | .shri _ d a _ _ | .sari _ d a _ _ => ⟨[r1 a], some (r1 d)⟩
  | .add64 _ d a b _ | .sub64 _ d a b _ | .mul64 _ d a b _ | .mulhi64 _ d a b _ | .mulhiu64 _ d a b _
  | .and64 _ d a b _ | .or64 _ d a b _ | .xor64 _ d a b _ | .andn64 _ d a b _ | .min64 _ d a b _ | .max64 _ d a b _
  | .minu64 _ d a b _ | .maxu64 _ d a b _ | .shl64 _ d a b _ | .shr64 _ d a b _ | .sar64 _ d a b _ | .rot64 _ d a b _
  | .bfx64 _ d a b _ | .permb64 _ d a b _ | .div64 _ d a b _ | .divu64 _ d a b _ | .rem64 _ d a b _
  | .remu64 _ d a b _ | .dadd _ d a b _ | .dmul _ d a b _ => ⟨[r2 a, r2 b], some (r2 d)⟩
  | .mad64 _ d a b _ | .bfi64 _ d a b _ | .dfma _ d a b _ => ⟨[r2 a, r2 b, r2 d], some (r2 d)⟩
  | .abs64 _ d a _ | .clz64 _ d a _ | .popc64 _ d a _ | .brev64 _ d a _ | .mov64 _ d a _ | .addi64 _ d a _ _
  | .muli64 _ d a _ _ | .andi64 _ d a _ _ | .ori64 _ d a _ _ | .xori64 _ d a _ _ | .shli64 _ d a _ _
  | .shri64 _ d a _ _ | .sari64 _ d a _ _ => ⟨[r2 a], some (r2 d)⟩
  | .movi _ d _ _ | .movs _ d _ _ | .movsHi _ d _ _ | .voteBallot _ d _ _ | .barst _ d _ _ _ | .rjget _ d _ _
  | .feat _ d _ _ => ⟨[], some (r1 d)⟩
  | .movi64 _ d _ _ | .movs64 _ d _ _ => ⟨[], some (r2 d)⟩
  | .icmp _ _ _ a b _ => ⟨[r1 a, r1 b], none⟩
  | .icmp64 _ _ _ a b _ => ⟨[r2 a, r2 b], none⟩
  | .fcmp _ _ t _ a b _ => if t = 1#1 then ⟨[r2 a, r2 b], none⟩ else ⟨[r1 a, r1 b], none⟩
  | .cvt _ t d a e _ _ => ⟨[if wideType e then r2 a else r1 a], some (if wideType t then r2 d else r1 d)⟩
  | .rdlane _ _ a _ _ => ⟨[r1 a], none⟩
  | .rdlane64 _ _ a _ _ => ⟨[r2 a], none⟩
  | .ld _ s d a _ _ => ⟨[r2 a], some (if s = 3#3 then r2 d else if s = 4#3 then r4 d else r1 d)⟩
  | .st _ s d a _ _ => ⟨[r2 a, if s = 3#3 then r2 d else if s = 4#3 then r4 d else r1 d], none⟩
  | .lda _ _ d a z _ _ => ⟨[r2 a], some (if z = 1#1 then r2 d else r1 d)⟩
  | .stl _ _ d a z _ _ => ⟨[r2 a, if z = 1#1 then r2 d else r1 d], none⟩
  | .atomTeam _ _ d a w b _ | .atomCluster _ _ d a w b _ | .atomDevice _ _ d a w b _ | .atomFabric _ _ d a w b _ => ⟨[⟨2 * a.toNat, 2, 2⟩, rw w b], some (rw w d)⟩
  | .red _ _ w _ a b _ => ⟨[r2 a, rw w b], none⟩
  | .atomcas _ w _ d a b _ => ⟨[r2 a, rw w b, rw w d], some (rw w d)⟩
  | .atomincb _ w _ d a b _ => ⟨[r2 a, rw w b], some (rw w d)⟩
  | .sigf _ _ a b _ => ⟨[r2 a, r2 b], none⟩
  | .callr a _ => ⟨[r2 a], some ⟨63, 1, 1⟩⟩
  | .call _ _ => ⟨[], some ⟨63, 1, 1⟩⟩
  | .ret _ => ⟨[⟨63, 1, 1⟩], none⟩
  | .jmpr a _ | .tjoin _ a _ | .vchain _ a _ | .tzero _ a _ | .tacld _ a _ | .tacst _ a _ => ⟨[r2 a], none⟩
  | .spawn _ d a b _ => ⟨[r2 a, r2 b, r2 d], none⟩
  | .spawnb _ d a b _ => ⟨[r2 a, r4 b, r2 d], none⟩
  | .take _ d _ => ⟨[], some ⟨d.toNat, 6, 4⟩⟩
  | .tmma _ a b _ | .tquant _ a b _ => ⟨[r2 a, r1 b], none⟩
  | .tlend _ d _ => ⟨[⟨d.toNat, 32, 16⟩], none⟩
  | .cpy _ d a b _ => ⟨[r2 a, r1 b, r2 d], none⟩
  | .cpya _ d _ _ => ⟨[r2 d], none⟩
  | .cpyg _ d a _ => ⟨[r2 a, r2 d], none⟩
  | .cpyx _ d a b _ => ⟨[r2 a, r2 b, r2 d], none⟩
  | .cbload _ d a _ _ => ⟨[r2 a, r1 d], none⟩
  | .aaset _ a _ _ => ⟨[r2 a], none⟩
  | .vatarm _ a _ _ => ⟨[r1 a], none⟩
  | .decsub _ d a _ | .rshd _ d a _ => ⟨[r2 a], some (r1 d)⟩
  | .csrr _ d c _ => ⟨[], some (if csrWide c then r2 d else r1 d)⟩
  | .csrw _ a c _ => ⟨[if csrWide c then r2 a else r1 a], none⟩
  | _ => ⟨[], none⟩

/-- A destination predicate field, which must not be 0 (Table 2-2). -/
def pdOf (i : Instr) : Option Nat :=
  match i with
  | .icmp _ _ q _ _ _ | .icmp64 _ _ q _ _ _ | .fcmp _ _ _ q _ _ _ | .plog _ _ q _ _ _ | .voteAll _ q _ _
  | .voteAny _ q _ _ | .voteUni _ q _ _ | .scmp _ _ q _ _ _ => some q.toNat
  | _ => none

/-- Accepts a wide immediate (Table 2-7). -/
def wideImm (i : Instr) : Bool :=
  match i with
  | .addi _ _ _ _ _ | .muli _ _ _ _ _ | .andi _ _ _ _ _ | .ori _ _ _ _ _ | .xori _ _ _ _ _ | .addi64 _ _ _ _ _
  | .muli64 _ _ _ _ _ | .andi64 _ _ _ _ _ | .ori64 _ _ _ _ _ | .xori64 _ _ _ _ _ | .movi _ _ _ _ | .movi64 _ _ _ _
  | .saddi _ _ _ _ _ | .ld _ _ _ _ _ _ | .st _ _ _ _ _ _ | .lda _ _ _ _ _ _ _ | .stl _ _ _ _ _ _ _ => true
  | _ => false

/-- Accepts HINT.MOD RND (Table 2-5, R91). -/
def takesRnd (i : Instr) : Bool :=
  match i with
  | .fadd _ _ _ _ _ | .fsub _ _ _ _ _ | .fmul _ _ _ _ _ | .ffma _ _ _ _ _ | .fdiv _ _ _ _ _ | .hadd2 _ _ _ _ _ _
  | .hmul2 _ _ _ _ _ _ | .hfma2 _ _ _ _ _ _ | .dadd _ _ _ _ _ | .dmul _ _ _ _ _ | .dfma _ _ _ _ _
  | .cvt _ _ _ _ _ _ _ | .cvtpk _ _ _ _ _ _ => true
  | _ => false

/-- Accepts HINT.MOD PD (Table 2-5). -/
def takesPd (i : Instr) : Bool :=
  match i with
  | .shfl _ _ _ _ _ _ | .shflImm _ _ _ _ _ _ | .vred _ _ _ _ _ _ | .vscan _ _ _ _ _ _ _ | .matchLanes _ _ _ _ => true
  | _ => false

/-- Accepts HINT.MOD CACHE (Table 2-5). -/
def takesCache (i : Instr) : Bool :=
  match i with
  | .ld _ _ _ _ _ _ | .st _ _ _ _ _ _ | .lda _ _ _ _ _ _ _ | .stl _ _ _ _ _ _ _ => true
  | _ => false

/-- ROLE's index (R166). -/
def roleOf (i : Instr) : Option Nat :=
  match i with
  | .role _ k _ => some k.toNat
  | _ => none

/-! ## Check 2 of Table 2-11: reserved codes and field limits -/

/-- A barrier field out of its limits (R191): level 3, an index beyond the level, a barrier not declared, or an arrival on
one declared with G = 0. -/
def badBarrier (k : Kernel) (level idx : Nat) (arrival : Bool) : Bool :=
  decide (level = 3) || decide (idx ≥ (match level with
    | 0 => 16
    | 1 => 8
    | _ => 4)) || !k.declared level idx || (arrival && (k.bar level idx).1 == 0)

/-- A bad atomic form (R179). -/
def badAtomic (f : BitVec 4) (w : BitVec 1) : Bool :=
  decide (f.toNat ≥ 13) || (w == 1#1 && decide (9 ≤ f.toNat))
def badScope (s : BitVec 3) : Bool := s == 0#3 || decide (s.toNat ≥ 5)

def when (b : Bool) (d : Nat) : Option Nat := if b then some d else none

/-- The DETAIL of check 2 that a word's own fields raise, if any: 0x00 reserved, 0x05 out of limits, 0x06 register number. -/
def limitTrap (k : Kernel) (i : Instr) : Option Nat :=
  match i with
  | .shli _ _ _ x _ | .shri _ _ _ x _ | .sari _ _ _ x _ => when (decide (x.toNat ≥ 32)) 5
  | .shli64 _ _ _ x _ | .shri64 _ _ _ x _ | .sari64 _ _ _ x _ => when (decide (x.toNat ≥ 64)) 5
  | .icmp _ c _ _ _ _ | .icmp64 _ c _ _ _ _ => when (decide (c.toNat ≥ 10)) 0
  | .plog _ o _ _ b _ => when (decide (o.toNat ≥ 5) || (o == 4#3 && b != 0#3)) 0
  | .cvt _ t _ _ e _ _ => when (t == 15#4 || e == 15#4) 0
  | .cvtupk _ t _ _ x _ =>
    when (decide (x.toNat ≥ (match t.toNat with
      | 0 => 2
      | 1 => 2
      | 2 => 4
      | 3 => 4
      | 5 => 4
      | _ => 8))) 5
  | .partset _ x _ => when (decide (x.toNat ≥ 5)) 5
  | .vred _ o _ _ t _ | .vscan _ o _ _ _ t _ => when (t == 1#1 && decide (o.toNat ≥ 3)) 0
  | .ld _ s _ _ _ _ => when (s == 7#3) 0
  | .st _ s _ _ _ _ => when (decide (s.toNat ≥ 5)) 0
  | .lda _ s _ _ _ _ _ | .stl _ s _ _ _ _ _ => when (decide (s.toNat ≥ 5)) 0
  | .atomTeam _ f _ _ w _ _ | .atomCluster _ f _ _ w _ _ | .atomDevice _ f _ _ w _ _ | .atomFabric _ f _ _ w _ _ =>
    when (badAtomic f w) 0
  | .red _ f w s _ _ _ => when (badAtomic f w || f == 8#4 || badScope s) 0
  | .atomcas _ _ s _ _ _ _ | .atomincb _ _ s _ _ _ _ => when (badScope s) 0
  | .sigf _ s _ _ _ => when (badScope s) 0
  | .fence _ s _ => when (decide (s.toNat ≥ 5)) 0
  | .barv _ l x _ | .bars _ l x _ => when (badBarrier k l.toNat x.toNat true) 5
  | .barw _ l x _ _ | .barst _ _ l x _ => when (badBarrier k l.toNat x.toNat false) 5
  | .csrr _ _ c _ => when (!csrKnown c) 6
  | .csrw _ _ c _ => when (!csrWritable c) 6
  | .hintMod r _ _ c => when (decide (r.toNat ≥ 6) || c == 3#2) 0
  | _ => none

/-! ## Check 3: prefix groups (R48 to R50, R178) -/

/-- PROMOTE goes with LDA at cluster or device scope only (R178). -/
def takesPromote (i : Instr) : Bool :=
  match i with
  | .lda _ s _ _ _ _ _ => s == 2#3 || s == 3#3
  | _ => false

def prefixBad (q : Prefix) (i : Instr) : Bool :=
  match i with
  | .hintImm _ => decide (q.imms.length ≥ 2)
  | .hintMod _ _ _ _ => q.hasMod || !q.imms.isEmpty
  | _ => (!q.imms.isEmpty && !wideImm i) || (q.rnd != 0 && !takesRnd i) || (q.pd != 0 && !takesPd i) ||
         (q.promote && !takesPromote i) || (q.cache != 0 && !takesCache i) ||
         (match i with
          | .nop _ | .hintSched _ _ _ => q.hasMod || !q.imms.isEmpty
          | _ => false)

def isPrefix (i : Instr) : Bool :=
  match i with
  | .hintImm _ | .hintMod _ _ _ _ => true
  | _ => false

def isTransfer (i : Instr) : Bool :=
  match i with
  | .bra _ _ | .bru _ _ | .call _ _ | .callr _ _ | .ret _ | .jmpr _ _ | .exit _ | .tret _ => true
  | _ => false

/-! ## Check 5: words that a context may not hold -/

/-- A word or register that a feeder section may not hold (R223). -/
def feederBars (i : Instr) : Bool :=
  let m := majorOf i
  match i with
  | .barv _ _ _ _ | .bars _ _ _ _ => true
  | .rdlane _ _ _ n _ | .rdlane64 _ _ _ n _ => n != 0#5
  | .csrw _ _ c _ => [0x010, 0x011, 0x012, 0x013, 0x014, 0x023].contains c.toNat
  | _ => !(decide (m ≤ 7) || [11, 12, 14].contains m || (decide (21 ≤ m) && decide (m ≤ 40)) || m == 46 || m == 47)

/-- CPBIND and CFAULT belong to feeder contexts (R225). -/
def feederCsr (i : Instr) : Bool :=
  match i with
  | .csrr _ _ c _ | .csrw _ _ c _ => c == 0x050#12 || c == 0x051#12
  | _ => false

def writesPart (i : Instr) : Bool :=
  match i with
  | .partset _ _ _ => true
  | .csrw _ _ c _ => c == 0x010#12
  | _ => false

def contextTrap (g : Grp) (i : Instr) : Option Nat :=
  if !g.isFeeder && majorOf i == 46 then some 0
  else if (g.isFeeder && feederBars i) || (!g.isFeeder && feederCsr i) then some 3
  else if !g.isFeeder && g.kern.compat && writesPart i then some 1
  else none

/-! ## Checks 6 to 8: registers and queues -/

def Opnd.hitsQueue (o : Opnd) : Bool := decide (o.reg ≤ 55) && decide (48 < o.reg + o.len)
def Opnd.top (o : Opnd) : Nat := o.reg + o.len - 1

/-- Check 6: a misaligned register, a destination predicate 0, an s register above 31, or a q register written. -/
def fieldBad (g : Grp) (i : Instr) : Bool :=
  let u := useOf i
  (u.src ++ u.dst.toList).any (fun o => o.reg % o.align != 0) || pdOf i == some 0 ||
    (g.qwinOn && u.dst.toList.any Opnd.hitsQueue)

/-- Check 7: a register at or above the window, or a role index out of range. -/
def windowTrap (g : Grp) (i : Instr) : Option Nat :=
  let u := useOf i
  if (u.src ++ u.dst.toList).any (fun o => decide (o.top ≥ g.win)) then some 0
  else match roleOf i with
    | some k => when (decide (k ≥ g.nroles)) 1
    | none => none

/-- Check 8: queue misuse (R24). -/
def queueTrap (g : Grp) (standing : Word) (i : Instr) : Option Nat :=
  if !g.qwinOn then none else
  let u := useOf i
  if u.src.any (fun o => o.len == 1 && o.hitsQueue) && g.live.any (fun l => !inMask standing l) then some 0
  else when (u.src.any (fun o => o.len != 1 && o.hitsQueue)) 1

/-! ## The decode checks -/

/-- How a word failed to decode but for one field: an s register field with bit 5 set, B clear on a transfer, or B set on a
prefix. -/
structure Marred where
  sfield : Bool := false
  bclear : Bool := false
  bset   : Bool := false
  deriving DecidableEq, Repr

/-- The decode trap a word raises where it stands (Table 2-11): cause and DETAIL. Check 1 is made lane by lane
(`overRun`), check 2 for a word that is no instruction by `undecoded`. -/
def decodeTrap (g : Grp) (standing : Word) (q : Prefix) (bad : Marred) (i : Instr) : Option (Nat × Nat) :=
  match limitTrap g.kern i with
  | some d => some (1, d)
  | none =>
    if prefixBad q i || bad.bset then some (1, 2)
    else if bad.bclear then some (1, 3)
    else match contextTrap g i with
      | some d => some (2, d)
      | none =>
        if bad.sfield || fieldBad g i then some (1, 4)
        else match windowTrap g i with
          | some d => some (0x0E, d)
          | none => match queueTrap g standing i with
            | some d => some (0x0D, d)
            | none => none

/-- A word with the bits cleared that an s register field must leave zero (Table 2-2). -/
def clearSFields (w : Word) : Word :=
  let m := (w.toNat / 2 ^ 25) % 64
  let fn := (w.toNat / 2 ^ 21) % 16
  if m = 21 ∧ 2 ≤ fn ∧ fn ≤ 4 then w &&& ~~~ (1#32 <<< 14)
  else if m = 21 ∧ 5 ≤ fn then w &&& ~~~ (1#32 <<< 20)
  else if m = 22 ∧ fn < 8 then w &&& ~~~ ((1#32 <<< 20) ||| (1#32 <<< 14) ||| (1#32 <<< 8))
  else if m = 22 then w &&& ~~~ ((1#32 <<< 14) ||| (1#32 <<< 8))
  else if m = 23 then w &&& ~~~ ((1#32 <<< 21) ||| (1#32 <<< 15))
  else if m = 42 ∧ fn = 6 then w &&& ~~~ ((1#32 <<< 20) ||| (1#32 <<< 14))
  else w

/-- A word as an instruction, or as one but for the marks of `Marred`; none for a reserved encoding. -/
def decodeMarred (w : Word) : Option (Instr × Marred) :=
  match decodeWord w with
  | some i => some (i, {})
  | none =>
    let w1 := clearSFields w
    let s := decide (w1 ≠ w)
    match decodeWord w1 with
    | some i => some (i, { sfield := s })
    | none => match decodeWord (w1 ^^^ (1#32 <<< 31)) with
      | some i => some (i, { sfield := s, bclear := isTransfer i, bset := isPrefix i })
      | none => none

/-! ## Features (R369) -/

/-- The lowest feature bit that a word carries and the context's contract lacks. -/
def missingFeature (c : BitVec 512) (q : Prefix) (i : Instr) : Option Nat :=
  let lacks := fun (b : Nat) => !c.getLsbD b
  let fp4t : Bool := match i with
    | .cvt _ t _ _ e _ _ => t == 6#4 || e == 6#4
    | .cvtpk _ t _ _ _ _ => t == 4#3
    | .cvtupk _ t _ _ _ _ => t == 4#3
    | _ => false
  let fp64t : Bool := match i with
    | .dadd _ _ _ _ _ | .dmul _ _ _ _ _ | .dfma _ _ _ _ _ => true
    | .fcmp _ _ t _ _ _ _ => t == 1#1
    | .cvt _ t _ _ e _ _ => t == 3#4 || e == 3#4
    | _ => false
  let book : Bool := match i with
    | .cbload _ _ _ _ _ | .cpyx _ _ _ _ _ => true
    | _ => false
  let resh : Bool := match i with
    | .rshd _ _ _ _ => true
    | _ => false
  if fp64t && lacks 1 then some 1
  else if fp4t && lacks 2 then some 2
  else if book && lacks 5 then some 5
  else if resh && lacks 7 then some 7
  else when (q.rnd == 5 && lacks 9) 9

/-! ## Immediates (R49, R55) -/

/-- The 64-bit immediate of a word with a 7-bit field and the prefix words before it. -/
def immOf (q : Prefix) (imm : BitVec 7) : Dword :=
  match q.imms with
  | [] => imm.signExtend 64
  | [h1] => (h1 ++ imm).signExtend 64
  | h2 :: h1 :: _ => (h2 ++ h1 ++ imm).signExtend 64

/-- The offset of LDA and STL: 6 bits, or 28 or 50 with prefixes. -/
def off6Of (q : Prefix) (o : BitVec 6) : Dword :=
  match q.imms with
  | [] => o.signExtend 64
  | [h1] => (h1 ++ o).signExtend 64
  | h2 :: h1 :: _ => (h2 ++ h1 ++ o).signExtend 64

end Sys2Proof.Machine
end

