-- ==== Sys2Proof/Machine/Issue.lean ====
section
/-! DEFINITION. One issue of one word by the lanes that stand at it: decode traps, stalls, operand-queue pops, the guard, the
choice of the trap that is taken (R132, R133, R136), the effects on the lanes that complete, and their advance (R121). -/
namespace Sys2Proof.Machine

/-- What an instruction's meaning is given: the group as it stands at the issue (its queues already popped), the lanes
that stand at the word, Act, the word's group address and the address of the next word, its modifiers, and the queue entries
that replace its operands (in the order of `useOf`). -/
structure View where
  key    : Nat
  g      : Grp
  lanes  : Word
  act    : Word
  pc     : Dword
  next   : Dword
  pre    : Prefix
  popped : List (Option (Bank Word))
  deriving DecidableEq, Repr

/-- Operand `idx` of the word, register n: the popped entry where it names a queue (R24). -/
def View.opnd (w : View) (idx n l : Nat) : Word :=
  match w.popped.getD idx none with
  | some e => Bank.get 0 e l
  | none => w.g.rv n l

/-- What happens to one lane: it completes (and moves to the next word, or to a target); it takes effect but stays (a park);
it waits with no effect; it traps with cause, DETAIL and TADDR, with `resume` where TPC names a later word and the
instruction completes; a trap found after other lanes took effect (R133); or a violation. -/
inductive LaneOut where
  | ok
  | goto (t : Dword)
  | hold
  | wait
  | trap (cause detail : Nat) (addr : Dword) (resume : Option Dword)
  | late (cause detail : Nat) (addr : Dword)
  | violation (code phys : Nat)
  deriving DecidableEq, Repr

/-- The meaning of one word: what becomes of each lane of Act, then the effect on the lanes that complete. -/
structure Meaning where
  outs : List (Nat × LaneOut)
  eff  : Word → State → State

/-! ## Choosing the trap -/

def LaneOut.trapCode : LaneOut → Option Nat
  | .trap c d _ _ => some (c * 256 + d)
  | .late c d _ => some (c * 256 + d)
  | _ => none

/-- The lowest cause and, within it, the lowest DETAIL (R132). -/
def bestTrap (outs : List (Nat × LaneOut)) : Option Nat :=
  (outs.filterMap (fun o => o.2.trapCode)).min?

def takersOf (outs : List (Nat × LaneOut)) (code : Nat) : List (Nat × LaneOut) :=
  outs.filter (fun o => o.2.trapCode == some code)

def LaneOut.addr : LaneOut → Dword
  | .trap _ _ a _ => a
  | .late _ _ a => a
  | _ => 0
def LaneOut.resume : LaneOut → Option Dword
  | .trap _ _ _ r => r
  | _ => none
def LaneOut.violates : LaneOut → Option (Nat × Nat)
  | .violation c p => some (c, p)
  | _ => none
def LaneOut.isLate : LaneOut → Bool
  | .late _ _ _ => true
  | _ => false
def LaneOut.completes : LaneOut → Bool
  | .ok => true
  | .goto _ => true
  | .hold => true
  | _ => false

/-- A single-stepped lane that completes a word and moves on traps with 0x0C, TPC holding its next word (R146); a lane that
exits or parks has none yet. -/
def stepTraps (g : Grp) (next : Dword) (outs : List (Nat × LaneOut)) : List (Nat × LaneOut) :=
  outs.map (fun o =>
    if (g.lane o.1).stepArm then
      (o.1, match o.2 with
        | .ok => .trap 0x0C 0 0 (some next)
        | .goto t => .trap 0x0C 0 0 (some t)
        | x => x)
    else o)

/-! ## Moving lanes -/

/-- A lane completes a word: `n` words more in its run, which ends where `ends` says so (R43, R121). -/
def Lane.advance (x : Lane) (ends : Bool) (n : Nat) (mates : Word) (pc : Dword) : Lane :=
  { x with pc := pc, waiting := false, held := false, stopped := none, bkPass := false,
           run := if ends then 0 else x.run + n, parity := if ends then false else x.parity,
           sub := if ends then 0 else if x.sub = 0 then mates else x.sub }

/-- The words of the group up to and with this one. -/
def View.words (w : View) : Nat := (w.next - w.pc).toNat / 4

/-- Moves one lane as its outcome says. -/
def moveLane (w : View) (ends : Bool) (g : Grp) (o : Nat × LaneOut) : Grp :=
  match o.2 with
  | .ok => g.modLane o.1 (fun x => x.advance ends w.words w.lanes w.next)
  | .goto t => g.modLane o.1 (fun x => x.advance true w.words w.lanes t)
  | .wait => g.modLane o.1 (fun x => { x with waiting := true, stopped := some x.pc })
  | _ => g

def moveLanes (g : Grp) (w : View) (ends : Bool) (outs : List (Nat × LaneOut)) : Grp := outs.foldl (moveLane w ends) g

def clearCur (s : State) : State := { s with cur := {} }

/-- The issue has no effect and its lanes stand. `blocks`: the word blocks until a condition holds elsewhere, and they wait
(R18, R140); a word that only awaits its operands or a fence (R174, Table 7-9) makes no lane wait. -/
def stall (s : State) (key : Nat) (lanes : Word) (blocks : Bool) : State :=
  { s.modGrp key (fun g => g.modLanes (lanesOf lanes) (fun _ x => { x with waiting := blocks, held := false, stopped := some x.pc })) with
    cur := { stalled := true } }

/-- The issue is held because other lanes are trapped or a fence is open (R133, R138). -/
def holdIssue (s : State) (key : Nat) (lanes : Word) : State :=
  { s.modGrp key (fun g => g.modLanes (lanesOf lanes) (fun _ x => { x with waiting := false, held := true, stopped := some x.pc })) with
    cur := { stalled := true } }

/-- Lanes of an incomplete fence (R185). -/
def Grp.fenced (g : Grp) (m : Word) : Bool := g.fences.any (fun f => f.lanes.any (fun x => inMask m x.lane))

/-- The lanes of Act that complete the word, among some outcomes. -/
def View.done (w : View) (os : List (Nat × LaneOut)) : Word :=
  maskOf ((os.filter (fun o => o.2.completes || o.2.resume.isSome)).map (·.1)) &&& w.act

/-- The lanes of `os` that complete take their effect and move on. -/
def finish (w : View) (ends : Bool) (m : Meaning) (os : List (Nat × LaneOut)) (s : State) : State :=
  (m.eff (w.done os) s).modGrp w.key (fun g => moveLanes g w ends os)

/-- A trap in lanes that are already trapped (R136): the group halts. What the rules let stand stands: the pushes of lower lanes
before a spill fault (R155), the instruction that a single step completed (R146); else the issue has no effect (log entry 73). -/
def haltIssue (s0 s : State) (w : View) (ends : Bool) (m : Meaning) (takers others : List (Nat × LaneOut)) (cause : Nat) : State :=
  if takers.all (fun o => o.2.isLate) then trapInTrap (finish w ends m others s) w.key cause
  else if cause = 0x0C then
    trapInTrap ((finish w ends m (others ++ takers) s).modGrp w.key (fun g =>
      takers.foldl (fun g o => g.modLane o.1 (fun x => { x with pc := o.2.resume.getD x.pc, run := 0, sub := 0 })) g)) w.key cause
  else trapInTrap s0 w.key cause

/-- The registers of the lanes in which a trapping issue has not completed are poisoned as they were (R276). -/
def Grp.keepPoison (g : Grp) (old : List Nat) (done : Word) : Grp :=
  { g with poison := (g.poison ++ old.filter (fun k => !inMask done (k % 32))).eraseDups }

/-- Carries out an issue whose outcomes are known: the trap that is taken, if any, the effects, the moves. `s` has popped the
operand queues and `s0` has not: an issue that is held has had no effect (R133, R138). A violation past an incomplete fence is held as a
trap is (R254). -/
def commit (s0 s : State) (w : View) (ends : Bool) (m : Meaning) : State :=
  match m.outs.findSome? (fun o => o.2.violates) with
  | some (c, p) => if (s.grp w.key).fenced w.lanes then holdIssue s0 w.key w.lanes else s0.freezeGrp w.key c p (if c = 2 then 2 else 1)
  | none =>
    let outs := stepTraps w.g w.next m.outs
    match bestTrap outs with
    | none => finish w ends m outs s
    | some code =>
      let takers := takersOf outs code
      let mask := maskOf (takers.map (·.1))
      let others := outs.filter (fun o => o.2.trapCode == none)
      let tl := (s.grp w.key).tlanes
      if (s.grp w.key).fenced mask then holdIssue s0 w.key w.lanes
      else if mask &&& tl ≠ 0 then haltIssue s0 s w ends m takers others (code / 256)
      else if tl ≠ 0 then
        if takers.all (fun o => o.2.isLate) then
          holdIssue (finish w ends m others s) w.key mask
        else holdIssue s0 w.key w.lanes
      else
        let served := others ++ takers.filter (fun o => o.2.resume.isSome)
        let s := (finish w ends m served s).modGrp w.key (fun g => g.keepPoison (s0.grp w.key).poison (w.done served))
        takeTrap s w.key mask (code / 256) (code % 256)
          (fun l => match takers.find? (fun o => o.1 == l) with
            | some o => o.2.resume.getD w.pc
            | none => w.pc)
          (fun l => match takers.find? (fun o => o.1 == l) with
            | some o => o.2.addr
            | none => 0)

/-- A trap of lanes that stand where it arises: it waits for an incomplete fence or for other trapped lanes (R133, R138), halts
a group whose trapped lanes meet it (R136), or is taken. `standing` are the lanes that then stand and wait; `addr` gives each lane's TADDR;
`clear` takes the cause away once the trap is taken. -/
def meetTrap (s : State) (key : Nat) (m standing : Word) (cause detail : Nat) (pc : Dword) (addr : Nat → Dword) (clear : Grp → Grp) : State :=
  let s := clearCur s
  let g := s.grp key
  if g.fenced m then holdIssue s key standing
  else if m &&& g.tlanes ≠ 0 then trapInTrap s key cause
  else if g.tlanes ≠ 0 then holdIssue s key standing
  else takeTrap (s.setGrp key (clear g)) key m cause detail (fun _ => pc) addr

/-- The lanes that stand at the word of `m` beside those of `m` (R58, log entry 74): at the same address, trapped as they are,
before the same fence, and with no trap of their own that comes before the word. -/
def Grp.standingWith (g : Grp) (m : Word) (pc : Dword) : Word :=
  m ||| maskOf (g.live.filter (fun l =>
    let x := g.lane l
    x.pc == pc && x.parked.isNone && !x.stepDue && x.refusals.isEmpty && (inMask g.tlanes l == (m &&& g.tlanes != 0)) &&
      (g.fenced (laneBit l) == g.fenced m)))

/-- Lanes whose run would reach its 25th word with `n` words more (R43). -/
def overRun (g : Grp) (lanes : Word) (n : Nat) : Word :=
  maskOf ((lanesOf lanes).filter (fun l => decide ((g.lane l).run + n > 24)))

/-- The issue's lanes, and those beside them, that may go on for `n` words more take a decode trap (R58); the others meet check 1
of Table 2-11 first. -/
def trapAll (s : State) (n : Nat) (cause detail : Nat) (addr : Dword) : State :=
  let c := s.cur
  let g := s.grp c.key
  let m := g.standingWith c.lanes c.pc
  let m := m &&& ~~~ overRun g m n
  meetTrap s c.key m m cause detail c.pc (fun _ => addr) id

/-- The 25th word of a run (R43): the lanes that would reach it, among those that stand at the word. -/
def trapOver (s : State) (n : Nat) : State :=
  let c := s.cur
  let g := s.grp c.key
  let m := overRun g (g.standingWith c.lanes c.pc) n
  meetTrap s c.key m m 1 1 c.pc (fun _ => 0) id

/-! ## Stalls before the effect -/

/-- How a word may pass an incomplete fence (Table 7-9). -/
inductive Spec where
  | runs | stores | waits
  deriving DecidableEq, Repr

def specOf (i : Instr) : Spec :=
  match i with
  | .ld _ _ _ _ _ _ => .runs
  | .st _ _ _ _ _ _ | .stl _ _ _ _ _ _ _ => .stores
  | .rdlane _ _ _ _ _ | .rdlane64 _ _ _ _ _ => .waits
  | _ => if majorOf i ≤ 21 then .runs else .waits

/-- Registers of lane l that a word names and that await returned data or a queued result. -/
def awaitsAny (g : Grp) (i : Instr) (l : Nat) : Bool :=
  let u := useOf i
  (u.src ++ u.dst.toList).any (fun o => (List.range o.len).any (fun k =>
    g.awaits (g.vkey (o.reg + k) l) || g.sfq.any (fun q => q.keys.any (fun x => x.1 == g.vkey (o.reg + k) l))))

/-- The store hold of 16 entries is full (R185): an entry holds what one issue stores (DESIGN CHOICE, log entry 92). -/
def holdFull (g : Grp) : Bool :=
  decide ((g.ops.filter (fun o => match o.body with
    | .store todo _ => todo.any (fun p => heldByFence g o.id p.lane)
    | _ => false)).length ≥ 16)

/-- Lane l awaits the answer of an LDA at a fabric address: no memory operation of its own passes it (R177). -/
def acqPending (g : Grp) (l : Nat) : Bool :=
  g.ops.any (fun o => match o.body with
    | .remote rs => rs.any (fun r => r.acq && !r.done && r.lanes.any (fun x => x.lane == l))
    | _ => false)

/-- The words that perform or order memory operations: majors 24 to 36, 38, and 42 to 46. -/
def memoryWord (i : Instr) : Bool :=
  let m := majorOf i
  (decide (24 ≤ m) && decide (m ≤ 36)) || m == 38 || (decide (42 ≤ m) && decide (m ≤ 46))

/-- A word at which the lanes of an incomplete fence wait (Table 7-9). -/
def fenceWaits (g : Grp) (i : Instr) : Bool :=
  match specOf i with
  | .runs => false
  | .stores => holdFull g
  | .waits => true

/-- The issue must wait: Table 7-9, a register still awaited (R92, R174), or an acquire not yet answered (R177). -/
def mustStall (g : Grp) (standing act : Word) (i : Instr) : Bool :=
  (g.fenced standing && fenceWaits g i) ||
  (lanesOf act).any (fun l => awaitsAny g i l || (memoryWord i && acqPending g l))

/-! ## Operand queues (R24) -/

def Grp.queue (g : Grp) (k : Nat) : List (Bank Word) := Bank.get [] g.queues k

/-- Pops an entry for each operand that names a queue, in the order a, b, d; none while some queue is empty. -/
def popQueues (on : Bool) : Grp → List Opnd → Option (List (Option (Bank Word)) × Grp)
  | g, [] => some ([], g)
  | g, o :: r =>
    if on && o.len == 1 && o.hitsQueue then
      match g.queue (o.reg - 48) with
      | [] => none
      | e :: rest =>
        (popQueues on { g with queues := Bank.set [] g.queues (o.reg - 48) rest } r).map
          (fun x => (some e :: x.1, x.2))
    else (popQueues on g r).map (fun x => (none :: x.1, x.2))

/-- The lanes of Act (R11): those that stand at the word and whose guard is true. -/
def actOf (g : Grp) (lanes : Word) (i : Instr) : Word :=
  maskOf ((lanesOf lanes).filter (fun l => g.pr (guardOf i) l))

/-- The lanes that a mask leaves outside Act complete the word with no effect (R121). -/
def idleOuts (lanes act : Word) : List (Nat × LaneOut) :=
  (lanesOf (lanes &&& ~~~ act)).map (fun l => (l, LaneOut.ok))

/-- The register entries of the lanes of a mask that operands name. -/
def opndKeys (g : Grp) (os : List Opnd) (m : Word) : List Nat :=
  os.flatMap (fun o => (List.range o.len).flatMap (fun k => (lanesOf m).map (g.vkey (o.reg + k))))

/-- A poisoned register that the lanes of Act read (R276). -/
def poisonedSrc (g : Grp) (act : Word) (i : Instr) : Option Nat :=
  if g.poison.isEmpty then none else (opndKeys g (useOf i).src act).find? (fun k => g.poison.contains k)

/-- A fence takes the entries that an issue with lanes outside it pops for popped, whatever becomes of the fence (R186). -/
def Fence.keepPops (f : Fence) (old new : Bank (List (Bank Word))) (lanes : Word) : Fence :=
  if f.coversAll lanes then f
  else { f with queues := (List.range 8).foldl (fun b k =>
      let q := Bank.get [] f.queues k
      Bank.set [] b k (q.take (q.length - (Bank.get [] old k).length) ++ Bank.get [] new k)) f.queues }

/-- The group as a word finds it once its queues are popped: the incomplete fences of other lanes have noted what it popped, and the
registers it writes are poisoned no longer (R276). `old` are the queues before. -/
def Grp.enterWord (g : Grp) (old : Bank (List (Bank Word))) (lanes act : Word) (i : Instr) : Grp :=
  { g with
    fences := g.fences.map (fun f => f.keepPops old g.queues lanes)
    poison := if g.poison.isEmpty then g.poison else g.poison.filter (fun k => !(opndKeys g (useOf i).dst.toList act).contains k) }

/-- The lanes that have run past an incomplete fence. -/
def Grp.fencedLanes (g : Grp) (m : Word) : Word := maskOf ((lanesOf m).filter (fun l => g.fenced (laneBit l)))

/-- Lanes past an incomplete fence wait at the word and those beside them, which passed it outside Act, go on without them (R185). -/
def splitFence (s : State) (i : Instr) : State :=
  let c := s.cur
  let g := s.grp c.key
  let late := if g.fences.isEmpty || !fenceWaits g i then 0 else g.fencedLanes c.lanes
  if late = 0 ∨ late = c.lanes then s
  else { s.modGrp c.key (fun g => g.modLanes (lanesOf late) (fun _ x => { x with waiting := false, held := false, stopped := some x.pc })) with
         cur := { c with lanes := c.lanes &&& ~~~ late } }

/-- The address of the word after the current one. -/
def Cur.next (c : Cur) : Dword := c.pc + BitVec.ofNat 64 (4 * (c.pos + 1))

/-- An issue with an operand from a queue that would make a lane wait: it has no effect, and pops nothing (R24, R140). -/
def View.holdsBack (w : View) (outs : List (Nat × LaneOut)) : Bool :=
  w.popped.any Option.isSome && outs.any (fun o => o.2 == .wait)

/-- Issues a word that is no prefix (R57, R89, R121, R132). A word that no lane stands at does nothing. -/
def issueCore (s0 : State) (bad : Marred) (i : Instr) (m : View → State → Meaning) : State :=
  let s := splitFence s0 i
  let c := s.cur
  let g := s.grp c.key
  if c.lanes = 0 then s
  else if c.pos = 0 ∧ overRun g c.lanes 1 ≠ 0 then trapOver s 1
  else match decodeTrap g c.lanes c.pre bad i with
    | some (cause, detail) => trapAll s (c.pos + 1) cause detail 0
    | none =>
      let act := actOf g c.lanes i
      if mustStall g c.lanes act i then stall s c.key c.lanes false
      else match popQueues g.qwinOn g (useOf i).src with
        | none => stall s c.key c.lanes true
        | some (popped, g1) =>
          match poisonedSrc g act i with
          | some r => if g.fenced c.lanes then holdIssue s c.key c.lanes else (clearCur s).freezeGrp c.key 2 (regPoisonLoc c.key r) 2
          | none =>
          let g' := g1.enterWord g.queues c.lanes act i
          let w : View := ⟨c.key, g', c.lanes, act, c.pc, c.next, c.pre, popped⟩
          let s' := clearCur (s.setGrp c.key g')
          match missingFeature (s.ctx g.ctxid).contract c.pre i with
          | some b => commit (clearCur s) s' w (bFlag i) ⟨(lanesOf act).map (fun l => (l, .trap 0x0A b 0 none)) ++ idleOuts c.lanes act, fun _ s => s⟩
          | none =>
            let r := m w s'
            if w.holdsBack r.outs then stall s c.key c.lanes true
            else commit (clearCur s) s' w (bFlag i) ⟨r.outs ++ idleOuts c.lanes act, r.eff⟩

/-! ## Sampling (R381) -/

/-- Where the tag of a quadrant and context stands. -/
def sampleKey (g : Grp) : Nat := (g.core * 4 + g.quad) * 65536 + g.ctxid % 65536

/-- The reasons of Table 12-6 that a word itself brings, where no counter, entry or fence holds it back. -/
def wordStall (i : Instr) : Nat :=
  match i with
  | .take .. | .spawn .. | .spawnb .. | .cbload .. | .tlend .. | .csrw .. => 9
  | _ => 5

/-- A word that waits on a counter: WAIT, TJOIN, ROLE, or one whose class stands at 63 (R29). -/
def counterStall (g : Grp) (i : Instr) : Bool :=
  match i with
  | .wait .. | .tjoin .. | .role .. => true
  | _ =>
    let m := majorOf i
    (decide (24 ≤ m) && decide (m ≤ 35) && (!g.room .ld || !g.room .st || !g.room .rm)) || ((m == 43 || m == 44) && !g.room .tl) ||
      (m == 46 && !g.room .cp)

/-- The first reason of Table 12-6 that applies to lanes that stand at a word and do not issue it (R288). -/
def stallReason (g : Grp) (lanes : Word) (i : Instr) : Nat :=
  if g.halted || (lanesOf lanes).any (fun l => (g.lane l).held && g.tlanes != 0) then 1
  else if g.live.any (fun l => (g.lane l).parked.isSome) then 2
  else match i with
    | .barw .. | .bars .. => 3
    | .vatwait .. | .vattake .. | .vatarm .. => 4
    | _ =>
      if (lanesOf (actOf g lanes i)).any (fun l => awaitsAny g i l || (memoryWord i && acqPending g l)) || counterStall g i then 5
      else if (popQueues g.qwinOn g (useOf i).src).isNone then 6
      else if g.fenced lanes then 7
      else match i with
        | .barv .. => 3
        | _ => wordStall i

/-- STALL of a record: one of the reasons the word has met, the longest; 0 where it has met none (log entry 10). -/
def stallShown (s : State) (g : Grp) : Nat := if g.stalls.isEmpty then 0 else g.stalls.getD (Config.sampleInfo s.free 0 % g.stalls.length) 0

/-- The record of a tagged issue (Table 18-4); which stall was the longest, the level of a word that touches memory, and the latencies are
free values. -/
def sampleRecord (s : State) (g : Grp) (c : Cur) (act : Word) (memory trapped : Bool) : List Byte :=
  let free := fun (i : Nat) (n : Nat) => natToBytes n (Config.sampleInfo s.free i)
  [1, BitVec.ofNat 8 (stallShown s g)] ++
  [if memory then BitVec.ofNat 8 (1 + Config.sampleInfo s.free 1 % 8) else 0, if trapped then 2 else 0] ++
  natToBytes 4 (g.groupId 0).toNat ++ natToBytes 2 (g.core % 128) ++ natToBytes 2 g.grid ++ natToBytes 4 act.toNat ++
  natToBytes 8 (c.pc + BitVec.ofNat 64 (4 * c.pos)).toNat ++ natToBytes 4 c.word.toNat ++ natToBytes 4 0 ++
  natToBytes 8 (s.cycleOf g.core).toNat ++ (List.range 5).flatMap (fun i => free (2 + i) 2) ++ natToBytes 14 0

/-- The tag that a quadrant and context carry is on its next issue (R381). -/
def tagged (s : State) (g : Grp) : Bool := (Bank.get (false, 0) s.sample (sampleKey g)).1

/-- Lanes of an issue have trapped in it. -/
def newlyTrapped (g g' : Grp) (lanes : Word) : Bool := lanes &&& g'.tlanes &&& ~~~ g.tlanes != 0 || (g'.halted && !g.halted)

/-- A tagged word that has issued yields its record, kept while it can still be undone (R186). -/
def recordSample (s s' : State) (act : Word) (memory : Bool) : State :=
  let c := s.cur
  let g := s.grp c.key
  let r := sampleRecord s g c act memory (newlyTrapped g (s'.grp c.key) c.lanes)
  let s' := { s' with free := s'.free + 1, sample := Bank.set (false, 0) s'.sample (sampleKey g) (false, 1) }
  let s' := s'.modGrp c.key (fun g => { g with stalls := [] })
  match g.fences.find? (fun f => f.lanes.any (fun x => inMask c.lanes x.lane)) with
  | some f => s'.modGrp c.key (fun g => { g with samples := g.samples ++ [(some f.id, r)] })
  | none => s'.traceAdd g.ctxid r

/-- An issue of a traced context: a tagged word yields its record, one that stalls notes why, and an untagged one widens the gap to the
next tag, which comes by itself where the gap could grow past 3P/2. -/
def sampled (s : State) (i : Instr) (s' : State) : State :=
  let c := s.cur
  let g := s.grp c.key
  if !(s.ctx g.ctxid).trace.on then s'
  else
    let stalled := s'.cur.stalled || (lanesOf c.lanes).all (fun l => ((s'.grp c.key).lane l).waiting)
    if tagged s g then
      if stalled then s'.modGrp c.key (fun g' => { g' with stalls := g'.stalls ++ [stallReason g c.lanes i] })
      else recordSample s s' (actOf g c.lanes i) (memoryWord i)
    else if stalled then s'
    else
      let n := (Bank.get (false, 0) s'.sample (sampleKey g)).2 + 1
      { s' with sample := Bank.set (false, 0) s'.sample (sampleKey g) (decide (3 * (s.ctx g.ctxid).trace.period < 2 * (n + 1)), n) }

/-- A tagged word that is never executed, for its fetch or its encoding (R381). -/
def sampledTrap (s s' : State) : State :=
  if (s.ctx (s.grp s.cur.key).ctxid).trace.on && tagged s (s.grp s.cur.key) then recordSample s s' s.cur.lanes false else s'

/-- Issues a word that is no prefix; a tagged issue is sampled. -/
def issueState (s : State) (bad : Marred) (i : Instr) (m : View → State → Meaning) : State := sampled s i (issueCore s bad i m)

/-- What a meaning answers. -/
abbrev Res := Host.Outcome State Fault Refusal

/-- The meaning of a word that decodes. -/
def issue (i : Instr) (s : State) (m : View → State → Meaning) : Res :=
  .next (issueState s {} i m)

/-- A meaning in which every lane of Act completes. -/
def allOk (w : View) (eff : Word → State → State) : Meaning :=
  ⟨(lanesOf w.act).map (fun l => (l, LaneOut.ok)), eff⟩

/-- A meaning that only writes the issuing group's own registers, lane by lane. -/
def perLane (w : View) (f : Grp → Nat → Grp) : Meaning :=
  allOk w (fun done s => s.modGrp w.key (fun g => (lanesOf done).foldl f g))

/-- A group write: once per issue, and not when Act is empty (R90). -/
def once (w : View) (f : Word → Grp → Grp) : Meaning :=
  allOk w (fun done s => if done = 0 then s else s.modGrp w.key (f done))

end Sys2Proof.Machine
end

