-- ==== Sys2Proof/Machine/Flags.lean ====
section
/-! DEFINITION. FLAGS (R31, R79), the dynamic rounding mode (R91), the stochastic generator of a lane (R75, R76), and the
operand forms of the register-only families: each writes its result and raises its flags in the lanes that complete. -/
namespace Sys2Proof.Machine

/-- FLAGS bits are sticky (R31). -/
def Grp.raise (g : Grp) (l : Nat) (fl : Word) : Grp :=
  if fl = 0 then g else g.modLane l (fun x => { x with flags := x.flags ||| fl })

/-- The dynamic rounding mode (R91): RND − 1 where a prefix sets it, else RMODE.RM. -/
def dynMode (w : View) : Nat := if w.pre.rnd ≠ 0 then w.pre.rnd - 1 else w.g.rmode.toNat % 8

/-- One step of lane l's generator where the mode is stochastic (R75): the 16-bit value, and the group after it. -/
def stepLane (g : Grp) (l mode : Nat) : Nat × Grp :=
  if mode = 4 then
    let r := stepGen (g.lane l).srseed
    (r.2, g.modLane l (fun x => { x with srseed := r.1 }))
  else (0, g)

/-! ## Forms on 32-bit registers: operand 0 is a, 1 is b, 2 the accumulator in d (R45) -/

def un32 (d a : BitVec 6) (f : Word → Word × Word) (w : View) (_ : State) : Meaning :=
  perLane w (fun g l =>
    let r := f (w.opnd 0 a.toNat l)
    (g.wv d.toNat l r.1).raise l r.2)

def bin32 (d a b : BitVec 6) (f : Word → Word → Word × Word) (w : View) (_ : State) : Meaning :=
  perLane w (fun g l =>
    let r := f (w.opnd 0 a.toNat l) (w.opnd 1 b.toNat l)
    (g.wv d.toNat l r.1).raise l r.2)

def acc32 (d a b : BitVec 6) (f : Word → Word → Word → Word × Word) (w : View) (_ : State) : Meaning :=
  perLane w (fun g l =>
    let r := f (w.opnd 0 a.toNat l) (w.opnd 1 b.toNat l) (w.opnd 2 d.toNat l)
    (g.wv d.toNat l r.1).raise l r.2)

/-! ## Forms on pairs (R23); a pair never names a queue (R24) -/

def un64 (d a : BitVec 6) (f : Dword → Dword × Word) (w : View) (_ : State) : Meaning :=
  perLane w (fun g l =>
    let r := f (w.g.rv64 a.toNat l)
    (g.wv64 d.toNat l r.1).raise l r.2)

def bin64 (d a b : BitVec 6) (f : Dword → Dword → Dword × Word) (w : View) (_ : State) : Meaning :=
  perLane w (fun g l =>
    let r := f (w.g.rv64 a.toNat l) (w.g.rv64 b.toNat l)
    (g.wv64 d.toNat l r.1).raise l r.2)

def acc64 (d a b : BitVec 6) (f : Dword → Dword → Dword → Dword × Word) (w : View) (_ : State) : Meaning :=
  perLane w (fun g l =>
    let r := f (w.g.rv64 a.toNat l) (w.g.rv64 b.toNat l) (w.g.rv64 d.toNat l)
    (g.wv64 d.toNat l r.1).raise l r.2)

/-! ## Forms that round under the dynamic mode: f is given the mode and the 16-bit random value -/

def FRes.w32 (r : FRes) : Word := BitVec.ofNat 32 r.bits
def FRes.w64 (r : FRes) : Dword := BitVec.ofNat 64 r.bits

def round32 (d : BitVec 6) (f : Nat → Nat → Nat → FRes) (w : View) (_ : State) : Meaning :=
  perLane w (fun g l =>
    let r := stepLane g l (dynMode w)
    let x := f l (dynMode w) r.1
    (r.2.wv d.toNat l (FRes.w32 x)).raise l x.flags)

def round64 (d : BitVec 6) (f : Nat → Nat → Nat → FRes) (w : View) (_ : State) : Meaning :=
  perLane w (fun g l =>
    let r := stepLane g l (dynMode w)
    let x := f l (dynMode w) r.1
    (r.2.wv64 d.toNat l (FRes.w64 x)).raise l x.flags)

/-- Two results rounded one after the other, element 0 first (R75, R99). -/
def pair16 (lo hi : FRes) (width : Nat) : FRes := ⟨lo.bits + hi.bits * 2 ^ width, lo.flags ||| hi.flags⟩

def round32x2 (d : BitVec 6) (width : Nat) (f : Nat → Nat → Nat → Nat → FRes) (w : View) (_ : State) : Meaning :=
  perLane w (fun g l =>
    let r0 := stepLane g l (dynMode w)
    let r1 := stepLane r0.2 l (dynMode w)
    let x := pair16 (f 0 l (dynMode w) r0.1) (f 1 l (dynMode w) r1.1) width
    (r1.2.wv d.toNat l (FRes.w32 x)).raise l x.flags)

/-- Results that go through the special-function and conversion queue (R92): flags and generator step at issue, the words
are written in order by QUEUED_RESULT_WRITE. -/
def queued (w : View) (f : Grp → Nat → Grp × List (Nat × Word)) : Meaning :=
  allOk w (fun done s => if done = 0 then s else s.modGrp w.key (fun g =>
    let r := (lanesOf done).foldl (fun (acc : Grp × List (Nat × Word)) l =>
      let x := f acc.1 l
      (x.1, acc.2 ++ x.2)) (g, [])
    { r.1 with sfq := r.1.sfq ++ [⟨r.2⟩] }))

/-- A destination predicate written per lane. -/
def setPred (q : BitVec 3) (f : Nat → Bool × Word) (w : View) (_ : State) : Meaning :=
  perLane w (fun g l => let r := f l; (g.wp q.toNat l r.1).raise l r.2)

end Sys2Proof.Machine
end

