-- ==== Sys2Proof/Machine/Integer.lean ====
section
/-! DEFINITION. The integer families: majors 1 to 7 (R93 to R95, Table 4-1). -/
namespace Sys2Proof.Machine

/-! ## The operations on W-bit values, W = 32 or 64 (Table 4-1) -/

/-- No flag is raised. -/
def quiet {n : Nat} (x : BitVec n) : BitVec n × Word := (x, 0)

/-- The high half of a signed or unsigned product. -/
def mulHiS {n : Nat} (x y : BitVec n) : BitVec n := BitVec.ofInt n (x.toInt * y.toInt / 2 ^ n)
def mulHiU {n : Nat} (x y : BitVec n) : BitVec n := BitVec.ofNat n (x.toNat * y.toNat / 2 ^ n)

def minS {n : Nat} (x y : BitVec n) : BitVec n := if x.slt y then x else y
def maxS {n : Nat} (x y : BitVec n) : BitVec n := if x.slt y then y else x
def minU {n : Nat} (x y : BitVec n) : BitVec n := if x.ult y then x else y
def maxU {n : Nat} (x y : BitVec n) : BitVec n := if x.ult y then y else x

/-- Shift counts and field controls are read from y[31:0]. -/
def ctl {n : Nat} (y : BitVec n) : Nat := y.toNat % 2 ^ 32

def shlW {n : Nat} (x : BitVec n) (k : Nat) : BitVec n := if k ≥ n then 0 else x <<< k
def shrW {n : Nat} (x : BitVec n) (k : Nat) : BitVec n := if k ≥ n then 0 else x >>> k
def sarW {n : Nat} (x : BitVec n) (k : Nat) : BitVec n := if k ≥ n then (if x.msb then BitVec.allOnes n else 0) else x.sshiftRight k
def rotW {n : Nat} (x : BitVec n) (k : Nat) : BitVec n := x.rotateLeft (k % n)

/-- ABS saturates the most negative value and sets SAT. -/
def absW {n : Nat} (x : BitVec n) : BitVec n × Word :=
  if x = BitVec.ofNat n (2 ^ (n - 1)) then (BitVec.ofNat n (2 ^ (n - 1) - 1), flSAT)
  else (if x.msb then -x else x, 0)

def clzW {n : Nat} (x : BitVec n) : BitVec n := BitVec.ofNat n (if x = 0 then n else n - 1 - Nat.log2 x.toNat)
def popcW {n : Nat} (x : BitVec n) : BitVec n := BitVec.ofNat n ((List.range n).filter (fun i => x.getLsbD i)).length
def brevW {n : Nat} (x : BitVec n) : BitVec n := x.reverse

/-- The field a control word names: its position and its length, none when it is empty. -/
def fieldOf (n y : Nat) : Option (Nat × Nat) :=
  let pos := y % 256
  let len := y / 256 % 256
  if pos ≥ n ∨ len = 0 then none else some (pos, min len (n - pos))

def bfxW {n : Nat} (x y : BitVec n) : BitVec n :=
  match fieldOf n (ctl y) with
  | none => 0
  | some (pos, m) => BitVec.ofNat n (x.toNat / 2 ^ pos % 2 ^ m)
def bfiW {n : Nat} (x y c : BitVec n) : BitVec n :=
  match fieldOf n (ctl y) with
  | none => c
  | some (pos, m) =>
    let mask := BitVec.ofNat n ((2 ^ m - 1) * 2 ^ pos)
    (c &&& ~~~ mask) ||| BitVec.ofNat n (x.toNat % 2 ^ m * 2 ^ pos)

/-- Byte i of PERMB's result for the nibble k that selects it. -/
def permByte (n x k : Nat) : Nat :=
  if k / 8 % 2 = 1 then 0
  else if n = 32 then
    let b := x / 2 ^ (8 * (k % 4)) % 256
    if k / 4 % 2 = 1 then (if b ≥ 128 then 255 else 0) else b
  else x / 2 ^ (8 * (k % 8)) % 256
def permbW {n : Nat} (x y : BitVec n) : BitVec n :=
  BitVec.ofNat n ((List.range (n / 8)).foldl (fun acc i => acc + permByte n x.toNat (ctl y / 2 ^ (4 * i) % 16) * 2 ^ (8 * i)) 0)

/-! ## Division (R94): never traps; division by zero sets DZ -/

def divS {n : Nat} (x y : BitVec n) : BitVec n × Word :=
  if y = 0 then (BitVec.allOnes n, flDZ) else (BitVec.ofInt n (x.toInt.tdiv y.toInt), 0)
def remS {n : Nat} (x y : BitVec n) : BitVec n × Word :=
  if y = 0 then (x, flDZ) else (BitVec.ofInt n (x.toInt.tmod y.toInt), 0)
def divU {n : Nat} (x y : BitVec n) : BitVec n × Word :=
  if y = 0 then (BitVec.allOnes n, flDZ) else (x / y, 0)
def remU {n : Nat} (x y : BitVec n) : BitVec n × Word :=
  if y = 0 then (x, flDZ) else (x % y, 0)

/-! ## The instructions -/

/-- ADD (R93). -/
def execAdd (u : Bool) (d a b : BitVec 6) (p : BitVec 3) (s : State) : Res :=
  issue (.add u d a b p) s (bin32 d a b (fun x y => quiet (x + y)))

/-- SUB (R93). -/
def execSub (u : Bool) (d a b : BitVec 6) (p : BitVec 3) (s : State) : Res :=
  issue (.sub u d a b p) s (bin32 d a b (fun x y => quiet (x - y)))

/-- MUL (R93). -/
def execMul (u : Bool) (d a b : BitVec 6) (p : BitVec 3) (s : State) : Res :=
  issue (.mul u d a b p) s (bin32 d a b (fun x y => quiet (x * y)))

/-- MULHI (R93). -/
def execMulhi (u : Bool) (d a b : BitVec 6) (p : BitVec 3) (s : State) : Res :=
  issue (.mulhi u d a b p) s (bin32 d a b (fun x y => quiet (mulHiS x y)))

/-- MULHIU (R93). -/
def execMulhiu (u : Bool) (d a b : BitVec 6) (p : BitVec 3) (s : State) : Res :=
  issue (.mulhiu u d a b p) s (bin32 d a b (fun x y => quiet (mulHiU x y)))

/-- MAD (R93). -/
def execMad (u : Bool) (d a b : BitVec 6) (p : BitVec 3) (s : State) : Res :=
  issue (.mad u d a b p) s (acc32 d a b (fun x y c => quiet (x * y + c)))

/-- AND (R93). -/
def execAnd (u : Bool) (d a b : BitVec 6) (p : BitVec 3) (s : State) : Res :=
  issue (.and u d a b p) s (bin32 d a b (fun x y => quiet (x &&& y)))

/-- OR (R93). -/
def execOr (u : Bool) (d a b : BitVec 6) (p : BitVec 3) (s : State) : Res :=
  issue (.or u d a b p) s (bin32 d a b (fun x y => quiet (x ||| y)))

/-- XOR (R93). -/
def execXor (u : Bool) (d a b : BitVec 6) (p : BitVec 3) (s : State) : Res :=
  issue (.xor u d a b p) s (bin32 d a b (fun x y => quiet (x ^^^ y)))

/-- ANDN (R93). -/
def execAndn (u : Bool) (d a b : BitVec 6) (p : BitVec 3) (s : State) : Res :=
  issue (.andn u d a b p) s (bin32 d a b (fun x y => quiet (x &&& ~~~ y)))

/-- MIN (R93). -/
def execMin (u : Bool) (d a b : BitVec 6) (p : BitVec 3) (s : State) : Res :=
  issue (.min u d a b p) s (bin32 d a b (fun x y => quiet (minS x y)))

/-- MAX (R93). -/
def execMax (u : Bool) (d a b : BitVec 6) (p : BitVec 3) (s : State) : Res :=
  issue (.max u d a b p) s (bin32 d a b (fun x y => quiet (maxS x y)))

/-- MINU (R93). -/
def execMinu (u : Bool) (d a b : BitVec 6) (p : BitVec 3) (s : State) : Res :=
  issue (.minu u d a b p) s (bin32 d a b (fun x y => quiet (minU x y)))

/-- MAXU (R93). -/
def execMaxu (u : Bool) (d a b : BitVec 6) (p : BitVec 3) (s : State) : Res :=
  issue (.maxu u d a b p) s (bin32 d a b (fun x y => quiet (maxU x y)))

/-- SHL (R93). -/
def execShl (u : Bool) (d a b : BitVec 6) (p : BitVec 3) (s : State) : Res :=
  issue (.shl u d a b p) s (bin32 d a b (fun x y => quiet (shlW x (ctl y))))

/-- SHR (R93). -/
def execShr (u : Bool) (d a b : BitVec 6) (p : BitVec 3) (s : State) : Res :=
  issue (.shr u d a b p) s (bin32 d a b (fun x y => quiet (shrW x (ctl y))))

/-- SAR (R93). -/
def execSar (u : Bool) (d a b : BitVec 6) (p : BitVec 3) (s : State) : Res :=
  issue (.sar u d a b p) s (bin32 d a b (fun x y => quiet (sarW x (ctl y))))

/-- ROT (R93). -/
def execRot (u : Bool) (d a b : BitVec 6) (p : BitVec 3) (s : State) : Res :=
  issue (.rot u d a b p) s (bin32 d a b (fun x y => quiet (rotW x (ctl y))))

/-- ABS (R93). -/
def execAbs (u : Bool) (d a : BitVec 6) (p : BitVec 3) (s : State) : Res :=
  issue (.abs u d a p) s (un32 d a absW)

/-- CLZ (R93). -/
def execClz (u : Bool) (d a : BitVec 6) (p : BitVec 3) (s : State) : Res :=
  issue (.clz u d a p) s (un32 d a (fun x => quiet (clzW x)))

/-- POPC (R93). -/
def execPopc (u : Bool) (d a : BitVec 6) (p : BitVec 3) (s : State) : Res :=
  issue (.popc u d a p) s (un32 d a (fun x => quiet (popcW x)))

/-- BREV (R93). -/
def execBrev (u : Bool) (d a : BitVec 6) (p : BitVec 3) (s : State) : Res :=
  issue (.brev u d a p) s (un32 d a (fun x => quiet (brevW x)))

/-- BFX (R93). -/
def execBfx (u : Bool) (d a b : BitVec 6) (p : BitVec 3) (s : State) : Res :=
  issue (.bfx u d a b p) s (bin32 d a b (fun x y => quiet (bfxW x y)))

/-- BFI (R93). -/
def execBfi (u : Bool) (d a b : BitVec 6) (p : BitVec 3) (s : State) : Res :=
  issue (.bfi u d a b p) s (acc32 d a b (fun x y c => quiet (bfiW x y c)))

/-- PERMB (R93). -/
def execPermb (u : Bool) (d a b : BitVec 6) (p : BitVec 3) (s : State) : Res :=
  issue (.permb u d a b p) s (bin32 d a b (fun x y => quiet (permbW x y)))

/-- DIV (R94). -/
def execDiv (u : Bool) (d a b : BitVec 6) (p : BitVec 3) (s : State) : Res :=
  issue (.div u d a b p) s (bin32 d a b (fun x y => divS x y))

/-- DIVU (R94). -/
def execDivu (u : Bool) (d a b : BitVec 6) (p : BitVec 3) (s : State) : Res :=
  issue (.divu u d a b p) s (bin32 d a b (fun x y => divU x y))

/-- REM (R94). -/
def execRem (u : Bool) (d a b : BitVec 6) (p : BitVec 3) (s : State) : Res :=
  issue (.rem u d a b p) s (bin32 d a b (fun x y => remS x y))

/-- REMU (R94). -/
def execRemu (u : Bool) (d a b : BitVec 6) (p : BitVec 3) (s : State) : Res :=
  issue (.remu u d a b p) s (bin32 d a b (fun x y => remU x y))

/-- ADD.64 (R93). -/
def execAdd64 (u : Bool) (d a b : BitVec 6) (p : BitVec 3) (s : State) : Res :=
  issue (.add64 u d a b p) s (bin64 d a b (fun x y => quiet (x + y)))

/-- SUB.64 (R93). -/
def execSub64 (u : Bool) (d a b : BitVec 6) (p : BitVec 3) (s : State) : Res :=
  issue (.sub64 u d a b p) s (bin64 d a b (fun x y => quiet (x - y)))

/-- MUL.64 (R93). -/
def execMul64 (u : Bool) (d a b : BitVec 6) (p : BitVec 3) (s : State) : Res :=
  issue (.mul64 u d a b p) s (bin64 d a b (fun x y => quiet (x * y)))

/-- MULHI.64 (R93). -/
def execMulhi64 (u : Bool) (d a b : BitVec 6) (p : BitVec 3) (s : State) : Res :=
  issue (.mulhi64 u d a b p) s (bin64 d a b (fun x y => quiet (mulHiS x y)))

/-- MULHIU.64 (R93). -/
def execMulhiu64 (u : Bool) (d a b : BitVec 6) (p : BitVec 3) (s : State) : Res :=
  issue (.mulhiu64 u d a b p) s (bin64 d a b (fun x y => quiet (mulHiU x y)))

/-- MAD.64 (R93). -/
def execMad64 (u : Bool) (d a b : BitVec 6) (p : BitVec 3) (s : State) : Res :=
  issue (.mad64 u d a b p) s (acc64 d a b (fun x y c => quiet (x * y + c)))

/-- AND.64 (R93). -/
def execAnd64 (u : Bool) (d a b : BitVec 6) (p : BitVec 3) (s : State) : Res :=
  issue (.and64 u d a b p) s (bin64 d a b (fun x y => quiet (x &&& y)))

/-- OR.64 (R93). -/
def execOr64 (u : Bool) (d a b : BitVec 6) (p : BitVec 3) (s : State) : Res :=
  issue (.or64 u d a b p) s (bin64 d a b (fun x y => quiet (x ||| y)))

/-- XOR.64 (R93). -/
def execXor64 (u : Bool) (d a b : BitVec 6) (p : BitVec 3) (s : State) : Res :=
  issue (.xor64 u d a b p) s (bin64 d a b (fun x y => quiet (x ^^^ y)))

/-- ANDN.64 (R93). -/
def execAndn64 (u : Bool) (d a b : BitVec 6) (p : BitVec 3) (s : State) : Res :=
  issue (.andn64 u d a b p) s (bin64 d a b (fun x y => quiet (x &&& ~~~ y)))

/-- MIN.64 (R93). -/
def execMin64 (u : Bool) (d a b : BitVec 6) (p : BitVec 3) (s : State) : Res :=
  issue (.min64 u d a b p) s (bin64 d a b (fun x y => quiet (minS x y)))

/-- MAX.64 (R93). -/
def execMax64 (u : Bool) (d a b : BitVec 6) (p : BitVec 3) (s : State) : Res :=
  issue (.max64 u d a b p) s (bin64 d a b (fun x y => quiet (maxS x y)))

/-- MINU.64 (R93). -/
def execMinu64 (u : Bool) (d a b : BitVec 6) (p : BitVec 3) (s : State) : Res :=
  issue (.minu64 u d a b p) s (bin64 d a b (fun x y => quiet (minU x y)))

/-- MAXU.64 (R93). -/
def execMaxu64 (u : Bool) (d a b : BitVec 6) (p : BitVec 3) (s : State) : Res :=
  issue (.maxu64 u d a b p) s (bin64 d a b (fun x y => quiet (maxU x y)))

/-- SHL.64 (R93). -/
def execShl64 (u : Bool) (d a b : BitVec 6) (p : BitVec 3) (s : State) : Res :=
  issue (.shl64 u d a b p) s (bin64 d a b (fun x y => quiet (shlW x (ctl y))))

/-- SHR.64 (R93). -/
def execShr64 (u : Bool) (d a b : BitVec 6) (p : BitVec 3) (s : State) : Res :=
  issue (.shr64 u d a b p) s (bin64 d a b (fun x y => quiet (shrW x (ctl y))))

/-- SAR.64 (R93). -/
def execSar64 (u : Bool) (d a b : BitVec 6) (p : BitVec 3) (s : State) : Res :=
  issue (.sar64 u d a b p) s (bin64 d a b (fun x y => quiet (sarW x (ctl y))))

/-- ROT.64 (R93). -/
def execRot64 (u : Bool) (d a b : BitVec 6) (p : BitVec 3) (s : State) : Res :=
  issue (.rot64 u d a b p) s (bin64 d a b (fun x y => quiet (rotW x (ctl y))))

/-- ABS.64 (R93). -/
def execAbs64 (u : Bool) (d a : BitVec 6) (p : BitVec 3) (s : State) : Res :=
  issue (.abs64 u d a p) s (un64 d a absW)

/-- CLZ.64 (R93). -/
def execClz64 (u : Bool) (d a : BitVec 6) (p : BitVec 3) (s : State) : Res :=
  issue (.clz64 u d a p) s (un64 d a (fun x => quiet (clzW x)))

/-- POPC.64 (R93). -/
def execPopc64 (u : Bool) (d a : BitVec 6) (p : BitVec 3) (s : State) : Res :=
  issue (.popc64 u d a p) s (un64 d a (fun x => quiet (popcW x)))

/-- BREV.64 (R93). -/
def execBrev64 (u : Bool) (d a : BitVec 6) (p : BitVec 3) (s : State) : Res :=
  issue (.brev64 u d a p) s (un64 d a (fun x => quiet (brevW x)))

/-- BFX.64 (R93). -/
def execBfx64 (u : Bool) (d a b : BitVec 6) (p : BitVec 3) (s : State) : Res :=
  issue (.bfx64 u d a b p) s (bin64 d a b (fun x y => quiet (bfxW x y)))

/-- BFI.64 (R93). -/
def execBfi64 (u : Bool) (d a b : BitVec 6) (p : BitVec 3) (s : State) : Res :=
  issue (.bfi64 u d a b p) s (acc64 d a b (fun x y c => quiet (bfiW x y c)))

/-- PERMB.64 (R93). -/
def execPermb64 (u : Bool) (d a b : BitVec 6) (p : BitVec 3) (s : State) : Res :=
  issue (.permb64 u d a b p) s (bin64 d a b (fun x y => quiet (permbW x y)))

/-- DIV.64 (R94). -/
def execDiv64 (u : Bool) (d a b : BitVec 6) (p : BitVec 3) (s : State) : Res :=
  issue (.div64 u d a b p) s (bin64 d a b (fun x y => divS x y))

/-- DIVU.64 (R94). -/
def execDivu64 (u : Bool) (d a b : BitVec 6) (p : BitVec 3) (s : State) : Res :=
  issue (.divu64 u d a b p) s (bin64 d a b (fun x y => divU x y))

/-- REM.64 (R94). -/
def execRem64 (u : Bool) (d a b : BitVec 6) (p : BitVec 3) (s : State) : Res :=
  issue (.rem64 u d a b p) s (bin64 d a b (fun x y => remS x y))

/-- REMU.64 (R94). -/
def execRemu64 (u : Bool) (d a b : BitVec 6) (p : BitVec 3) (s : State) : Res :=
  issue (.remu64 u d a b p) s (bin64 d a b (fun x y => remU x y))

/-! ## Immediate forms (R95): y is the immediate of R49, or its low 32 bits -/

def imm32 (d a : BitVec 6) (i : BitVec 7) (f : Word → Word → Word) (w : View) (s : State) : Meaning :=
  un32 d a (fun x => quiet (f x ((immOf w.pre i).extractLsb' 0 32))) w s
def imm64 (d a : BitVec 6) (i : BitVec 7) (f : Dword → Dword → Dword) (w : View) (s : State) : Meaning :=
  un64 d a (fun x => quiet (f x (immOf w.pre i))) w s

/-- ADDI (R95). -/
def execAddi (u : Bool) (d a : BitVec 6) (i : BitVec 7) (p : BitVec 3) (s : State) : Res :=
  issue (.addi u d a i p) s (imm32 d a i (fun x y => x + y))

/-- MULI (R95). -/
def execMuli (u : Bool) (d a : BitVec 6) (i : BitVec 7) (p : BitVec 3) (s : State) : Res :=
  issue (.muli u d a i p) s (imm32 d a i (fun x y => x * y))

/-- ANDI (R95). -/
def execAndi (u : Bool) (d a : BitVec 6) (i : BitVec 7) (p : BitVec 3) (s : State) : Res :=
  issue (.andi u d a i p) s (imm32 d a i (fun x y => x &&& y))

/-- ORI (R95). -/
def execOri (u : Bool) (d a : BitVec 6) (i : BitVec 7) (p : BitVec 3) (s : State) : Res :=
  issue (.ori u d a i p) s (imm32 d a i (fun x y => x ||| y))

/-- XORI (R95). -/
def execXori (u : Bool) (d a : BitVec 6) (i : BitVec 7) (p : BitVec 3) (s : State) : Res :=
  issue (.xori u d a i p) s (imm32 d a i (fun x y => x ^^^ y))

/-- SHLI (R95). -/
def execShli (u : Bool) (d a : BitVec 6) (i : BitVec 7) (p : BitVec 3) (s : State) : Res :=
  issue (.shli u d a i p) s (un32 d a (fun x => quiet (shlW x i.toNat)))

/-- SHRI (R95). -/
def execShri (u : Bool) (d a : BitVec 6) (i : BitVec 7) (p : BitVec 3) (s : State) : Res :=
  issue (.shri u d a i p) s (un32 d a (fun x => quiet (shrW x i.toNat)))

/-- SARI (R95). -/
def execSari (u : Bool) (d a : BitVec 6) (i : BitVec 7) (p : BitVec 3) (s : State) : Res :=
  issue (.sari u d a i p) s (un32 d a (fun x => quiet (sarW x i.toNat)))

/-- ADDI.64 (R95). -/
def execAddi64 (u : Bool) (d a : BitVec 6) (i : BitVec 7) (p : BitVec 3) (s : State) : Res :=
  issue (.addi64 u d a i p) s (imm64 d a i (fun x y => x + y))

/-- MULI.64 (R95). -/
def execMuli64 (u : Bool) (d a : BitVec 6) (i : BitVec 7) (p : BitVec 3) (s : State) : Res :=
  issue (.muli64 u d a i p) s (imm64 d a i (fun x y => x * y))

/-- ANDI.64 (R95). -/
def execAndi64 (u : Bool) (d a : BitVec 6) (i : BitVec 7) (p : BitVec 3) (s : State) : Res :=
  issue (.andi64 u d a i p) s (imm64 d a i (fun x y => x &&& y))

/-- ORI.64 (R95). -/
def execOri64 (u : Bool) (d a : BitVec 6) (i : BitVec 7) (p : BitVec 3) (s : State) : Res :=
  issue (.ori64 u d a i p) s (imm64 d a i (fun x y => x ||| y))

/-- XORI.64 (R95). -/
def execXori64 (u : Bool) (d a : BitVec 6) (i : BitVec 7) (p : BitVec 3) (s : State) : Res :=
  issue (.xori64 u d a i p) s (imm64 d a i (fun x y => x ^^^ y))

/-- SHLI.64 (R95). -/
def execShli64 (u : Bool) (d a : BitVec 6) (i : BitVec 7) (p : BitVec 3) (s : State) : Res :=
  issue (.shli64 u d a i p) s (un64 d a (fun x => quiet (shlW x i.toNat)))

/-- SHRI.64 (R95). -/
def execShri64 (u : Bool) (d a : BitVec 6) (i : BitVec 7) (p : BitVec 3) (s : State) : Res :=
  issue (.shri64 u d a i p) s (un64 d a (fun x => quiet (shrW x i.toNat)))

/-- SARI.64 (R95). -/
def execSari64 (u : Bool) (d a : BitVec 6) (i : BitVec 7) (p : BitVec 3) (s : State) : Res :=
  issue (.sari64 u d a i p) s (un64 d a (fun x => quiet (sarW x i.toNat)))

/-- MOVI (R95). -/
def execMovi (u : Bool) (d : BitVec 6) (i : BitVec 7) (p : BitVec 3) (s : State) : Res :=
  issue (.movi u d i p) s (fun w _ => perLane w (fun g l => g.wv d.toNat l ((immOf w.pre i).extractLsb' 0 32)))

/-- MOVI.64 (R95). -/
def execMovi64 (u : Bool) (d : BitVec 6) (i : BitVec 7) (p : BitVec 3) (s : State) : Res :=
  issue (.movi64 u d i p) s (fun w _ => perLane w (fun g l => g.wv64 d.toNat l (immOf w.pre i)))

end Sys2Proof.Machine
end

