-- ==== Sys2Proof/Machine/Float.lean ====
section
/-! DEFINITION. Floating-point arithmetic: majors 8 to 10 (R97 to R100), and the special functions of major 17 (R107, R108). -/
namespace Sys2Proof.Machine

/-- The operand values as numbers. -/
def View.n32 (w : View) (idx : Nat) (r : BitVec 6) (l : Nat) : Nat := (w.opnd idx r.toNat l).toNat
def View.n64 (w : View) (r : BitVec 6) (l : Nat) : Nat := (w.g.rv64 r.toNat l).toNat

/-- A 32-bit result that is not rounded. -/
def exact32 (d : BitVec 6) (f : Nat → FRes) (w : View) (_ : State) : Meaning :=
  perLane w (fun g l => (g.wv d.toNat l (FRes.w32 (f l))).raise l (f l).flags)

/-- FADD (R97). -/
def execFadd (u : Bool) (d a b : BitVec 6) (p : BitVec 3) (s : State) : Res :=
  issue (.fadd u d a b p) s (fun w s => round32 d (fun l m r => Sys2Proof.fadd fp32 m r (w.n32 0 a l) (w.n32 1 b l)) w s)

/-- FSUB (R97). -/
def execFsub (u : Bool) (d a b : BitVec 6) (p : BitVec 3) (s : State) : Res :=
  issue (.fsub u d a b p) s (fun w s => round32 d (fun l m r => Sys2Proof.fsub fp32 m r (w.n32 0 a l) (w.n32 1 b l)) w s)

/-- FMUL (R97). -/
def execFmul (u : Bool) (d a b : BitVec 6) (p : BitVec 3) (s : State) : Res :=
  issue (.fmul u d a b p) s (fun w s => round32 d (fun l m r => Sys2Proof.fmul fp32 m r (w.n32 0 a l) (w.n32 1 b l)) w s)

/-- FFMA (R97). -/
def execFfma (u : Bool) (d a b : BitVec 6) (p : BitVec 3) (s : State) : Res :=
  issue (.ffma u d a b p) s (fun w s => round32 d (fun l m r => Sys2Proof.ffma fp32 m r (w.n32 0 a l) (w.n32 1 b l) (w.n32 2 d l)) w s)

/-- FMIN (R98). -/
def execFmin (u : Bool) (d a b : BitVec 6) (p : BitVec 3) (s : State) : Res :=
  issue (.fmin u d a b p) s (fun w s => exact32 d (fun l => fminmax fp32 false (w.n32 0 a l) (w.n32 1 b l)) w s)

/-- FMAX (R98). -/
def execFmax (u : Bool) (d a b : BitVec 6) (p : BitVec 3) (s : State) : Res :=
  issue (.fmax u d a b p) s (fun w s => exact32 d (fun l => fminmax fp32 true (w.n32 0 a l) (w.n32 1 b l)) w s)

/-- Bits [30:0] of x with a sign of its own (Table 4-2). -/
def withSign (x : Word) (sg : Bool) : Word × Word := quiet ((x &&& 0x7FFFFFFF#32) ||| (if sg then 0x80000000#32 else 0))

/-- FSGN.J (R97). -/
def execFsgnJ (u : Bool) (d a b : BitVec 6) (p : BitVec 3) (s : State) : Res :=
  issue (.fsgnJ u d a b p) s (bin32 d a b (fun x y => withSign x y.msb))

/-- FSGN.N (R97). -/
def execFsgnN (u : Bool) (d a b : BitVec 6) (p : BitVec 3) (s : State) : Res :=
  issue (.fsgnN u d a b p) s (bin32 d a b (fun x y => withSign x (!y.msb)))

/-- FSGN.X (R97). -/
def execFsgnX (u : Bool) (d a b : BitVec 6) (p : BitVec 3) (s : State) : Res :=
  issue (.fsgnX u d a b p) s (bin32 d a b (fun x y => withSign x (x.msb != y.msb)))

/-- FCLASS (R97). -/
def execFclass (u : Bool) (d a : BitVec 6) (p : BitVec 3) (s : State) : Res :=
  issue (.fclass u d a p) s (fun w s => exact32 d (fun l => ⟨Sys2Proof.fclass fp32 (w.n32 0 a l), 0⟩) w s)

/-- FDIV (R97). -/
def execFdiv (u : Bool) (d a b : BitVec 6) (p : BitVec 3) (s : State) : Res :=
  issue (.fdiv u d a b p) s (fun w s => round32 d (fun l m r => Sys2Proof.fdiv fp32 m r (w.n32 0 a l) (w.n32 1 b l)) w s)

/-- The element format of a packed word and its element i (R99). -/
def packFmt (t : BitVec 1) : FFmt := if t = 1#1 then bf16 else fp16
def elem16 (x i : Nat) : Nat := x / 2 ^ (16 * i) % 65536

def packed (d a b : BitVec 6) (f : Nat → Nat → Nat → Nat → Nat → FRes) (w : View) (s : State) : Meaning :=
  round32x2 d 16 (fun i l m r => f m r (elem16 (w.n32 0 a l) i) (elem16 (w.n32 1 b l) i) (elem16 (w.n32 2 d l) i)) w s

/-- HMIN2 and HMAX2 round nothing and step no generator (R98). -/
def packedMinMax (isMax : Bool) (t : BitVec 1) (d a b : BitVec 6) (w : View) (s : State) : Meaning :=
  exact32 d (fun l => pair16 (fminmax (packFmt t) isMax (elem16 (w.n32 0 a l) 0) (elem16 (w.n32 1 b l) 0))
    (fminmax (packFmt t) isMax (elem16 (w.n32 0 a l) 1) (elem16 (w.n32 1 b l) 1)) 16) w s

/-- HADD2.type (R99). -/
def execHadd2 (u : Bool) (t : BitVec 1) (d a b : BitVec 6) (p : BitVec 3) (s : State) : Res :=
  issue (.hadd2 u t d a b p) s (packed d a b (fun m r x y _ => Sys2Proof.fadd (packFmt t) m r x y))

/-- HMUL2.type (R99). -/
def execHmul2 (u : Bool) (t : BitVec 1) (d a b : BitVec 6) (p : BitVec 3) (s : State) : Res :=
  issue (.hmul2 u t d a b p) s (packed d a b (fun m r x y _ => Sys2Proof.fmul (packFmt t) m r x y))

/-- HFMA2.type (R99). -/
def execHfma2 (u : Bool) (t : BitVec 1) (d a b : BitVec 6) (p : BitVec 3) (s : State) : Res :=
  issue (.hfma2 u t d a b p) s (packed d a b (fun m r x y c => Sys2Proof.ffma (packFmt t) m r x y c))

/-- HMIN2.type (R99). -/
def execHmin2 (u : Bool) (t : BitVec 1) (d a b : BitVec 6) (p : BitVec 3) (s : State) : Res :=
  issue (.hmin2 u t d a b p) s (packedMinMax false t d a b)

/-- HMAX2.type (R99). -/
def execHmax2 (u : Bool) (t : BitVec 1) (d a b : BitVec 6) (p : BitVec 3) (s : State) : Res :=
  issue (.hmax2 u t d a b p) s (packedMinMax true t d a b)

/-- DADD (R100). -/
def execDadd (u : Bool) (d a b : BitVec 6) (p : BitVec 3) (s : State) : Res :=
  issue (.dadd u d a b p) s (fun w s => round64 d (fun l m r => Sys2Proof.fadd fp64 m r (w.n64 a l) (w.n64 b l)) w s)

/-- DMUL (R100). -/
def execDmul (u : Bool) (d a b : BitVec 6) (p : BitVec 3) (s : State) : Res :=
  issue (.dmul u d a b p) s (fun w s => round64 d (fun l m r => Sys2Proof.fmul fp64 m r (w.n64 a l) (w.n64 b l)) w s)

/-- DFMA (R100). -/
def execDfma (u : Bool) (d a b : BitVec 6) (p : BitVec 3) (s : State) : Res :=
  issue (.dfma u d a b p) s (fun w s => round64 d (fun l m r => Sys2Proof.ffma fp64 m r (w.n64 a l) (w.n64 b l) (w.n64 d l)) w s)

/-- A special function: nearest-even whatever RMODE holds, its result through the queue (R92, R108). -/
def special (f : Nat → FRes) (d a : BitVec 6) (w : View) (_ : State) : Meaning :=
  queued w (fun g l =>
    let r := f (w.n32 0 a l)
    (g.raise l r.flags, [(g.vkey d.toNat l, FRes.w32 r)]))

/-- RCP (R107). -/
def execRcp (u : Bool) (d a : BitVec 6) (p : BitVec 3) (s : State) : Res :=
  issue (.rcp u d a p) s (special (specialFn 0) d a)

/-- RSQ (R107). -/
def execRsq (u : Bool) (d a : BitVec 6) (p : BitVec 3) (s : State) : Res :=
  issue (.rsq u d a p) s (special (specialFn 1) d a)

/-- SQRT (R107). -/
def execSqrt (u : Bool) (d a : BitVec 6) (p : BitVec 3) (s : State) : Res :=
  issue (.sqrt u d a p) s (special (specialFn 2) d a)

/-- EXP2 (R107). -/
def execExp2 (u : Bool) (d a : BitVec 6) (p : BitVec 3) (s : State) : Res :=
  issue (.exp2 u d a p) s (special (specialFn 3) d a)

/-- LOG2 (R107). -/
def execLog2 (u : Bool) (d a : BitVec 6) (p : BitVec 3) (s : State) : Res :=
  issue (.log2 u d a p) s (special (specialFn 4) d a)

/-- SIN (R107). -/
def execSin (u : Bool) (d a : BitVec 6) (p : BitVec 3) (s : State) : Res :=
  issue (.sin u d a p) s (special (specialFn 5) d a)

/-- COS (R107). -/
def execCos (u : Bool) (d a : BitVec 6) (p : BitVec 3) (s : State) : Res :=
  issue (.cos u d a p) s (special (specialFn 6) d a)

/-- TANH (R107). -/
def execTanh (u : Bool) (d a : BitVec 6) (p : BitVec 3) (s : State) : Res :=
  issue (.tanh u d a p) s (special (specialFn 7) d a)

end Sys2Proof.Machine
end

