-- ==== Sys2Proof/Machine/Compare.lean ====
section
/-! DEFINITION. Compare, predicate logic and select: majors 11 to 14 (R101 to R103); conversions: majors 15 and 16 (R104 to R106). -/
namespace Sys2Proof.Machine

/-- ICMP's relation (Table 2-4, major 11). -/
def icmpRel {n : Nat} (cc : Nat) (x y : BitVec n) : Bool :=
  match cc with
  | 0 => x == y
  | 1 => x != y
  | 2 => x.slt y
  | 3 => x.sle y
  | 4 => y.slt x
  | 5 => y.sle x
  | 6 => x.ult y
  | 7 => x.ule y
  | 8 => y.ult x
  | _ => y.ule x

/-- ICMP.cc (R101). -/
def execIcmp (u : Bool) (c : BitVec 4) (q : BitVec 3) (a b : BitVec 6) (p : BitVec 3) (s : State) : Res :=
  issue (.icmp u c q a b p) s (fun w s => setPred q (fun l => (icmpRel c.toNat (w.opnd 0 a.toNat l) (w.opnd 1 b.toNat l), 0)) w s)

/-- ICMP.cc.64 (R101). -/
def execIcmp64 (u : Bool) (c : BitVec 4) (q : BitVec 3) (a b : BitVec 6) (p : BitVec 3) (s : State) : Res :=
  issue (.icmp64 u c q a b p) s (fun w s => setPred q (fun l => (icmpRel c.toNat (w.g.rv64 a.toNat l) (w.g.rv64 b.toNat l), 0)) w s)

/-- FCMP.cc (R102). -/
def execFcmp (u : Bool) (c : BitVec 3) (t : BitVec 1) (q : BitVec 3) (a b : BitVec 6) (p : BitVec 3) (s : State) : Res :=
  issue (.fcmp u c t q a b p) s (fun w s => setPred q (fun l =>
    if t = 1#1 then fcompare fp64 c.toNat (w.n64 a l) (w.n64 b l) else fcompare fp32 c.toNat (w.n32 0 a l) (w.n32 1 b l)) w s)

/-- PLOG's operation: 0 AND, 1 OR, 2 XOR, 3 ANDN, 4 NOT. -/
def plogOp (op : Nat) (x y : Bool) : Bool :=
  match op with
  | 0 => x && y
  | 1 => x || y
  | 2 => x != y
  | 3 => x && !y
  | _ => !x

/-- PLOG.op (R103). -/
def execPlog (u : Bool) (o q a b p : BitVec 3) (s : State) : Res :=
  issue (.plog u o q a b p) s (fun w s => setPred q (fun l => (plogOp o.toNat (w.g.pr a.toNat l) (w.g.pr b.toNat l), 0)) w s)

/-- SEL (R103): v[a] where the selector predicate is true, else v[b]. -/
def execSel (u : Bool) (sel : BitVec 3) (d a b : BitVec 6) (p : BitVec 3) (s : State) : Res :=
  issue (.sel u sel d a b p) s (fun w _ => perLane w (fun g l =>
    g.wv d.toNat l (if w.g.pr sel.toNat l then w.opnd 0 a.toNat l else w.opnd 1 b.toNat l)))

/-! ## Conversions -/

/-- The types of Table 2-8: a floating-point format or an integer type. -/
inductive STy where
  | flt (f : FFmt)
  | int (t : IFmt)
  deriving DecidableEq, Repr

def styOf (code : Nat) : STy :=
  match code with
  | 0 => .flt fp32
  | 1 => .flt fp16
  | 2 => .flt bf16
  | 3 => .flt fp64
  | 4 => .flt f8e4
  | 5 => .flt f8e5
  | 6 => .flt f4e2
  | 7 => .int ⟨8, true⟩
  | 8 => .int ⟨16, true⟩
  | 9 => .int ⟨32, true⟩
  | 10 => .int ⟨64, true⟩
  | 11 => .int ⟨8, false⟩
  | 12 => .int ⟨16, false⟩
  | 13 => .int ⟨32, false⟩
  | _ => .int ⟨64, false⟩

def STy.width : STy → Nat
  | .flt f => f.width
  | .int t => t.w
def STy.signed : STy → Bool
  | .flt _ => false
  | .int t => t.sgn

/-- Converts the low bits x of a register from one type to another (R104, R77, R78). -/
def convert (dst src : STy) (mode rnd : Nat) (sat : Bool) (x : Nat) : FRes :=
  let x := x % 2 ^ src.width
  match dst, src with
  | .int t, .int u => if t = u then ⟨x, 0⟩ else itoi t sat (u.val x)
  | .int t, .flt f => ftoi t mode rnd (fdecode f x)
  | .flt g, .int u => itof g mode rnd sat (u.val x)
  | .flt g, .flt f =>
    if g = f then
      match fdecode f x with
      | .nan sg => ⟨f.nanCode, if sg then flIV else 0⟩
      | _ => ⟨x, 0⟩
    else fconv g mode rnd sat (fdecode f x)

/-- How a destination narrower than its register stands in it: zero above, or copies of the sign (R104). -/
def widen (t : STy) (width : Nat) (x : Nat) : Nat :=
  if t.signed ∧ t.width < width ∧ 2 ^ (t.width - 1) ≤ x then x + (2 ^ width - 2 ^ t.width) else x

/-- The words of an n-bit register value. -/
def cvtWords (g : Grp) (wide : Bool) (d l x : Nat) : List (Nat × Word) := destWords g d l (if wide then 2 else 1) x

/-- CVT.dst.src (R104). -/
def execCvt (u : Bool) (t : BitVec 4) (d a : BitVec 6) (e : BitVec 4) (k : BitVec 1) (p : BitVec 3) (s : State) : Res :=
  issue (.cvt u t d a e k p) s (fun w _ => queued w (fun g l =>
    let st := stepLane g l (dynMode w)
    let x := if wideType e then (w.g.rv64 a.toNat l).toNat else (w.opnd 0 a.toNat l).toNat
    let r := convert (styOf t.toNat) (styOf e.toNat) (dynMode w) st.1 (k == 1#1) x
    (st.2.raise l r.flags,
      cvtWords g (wideType t) d.toNat l (widen (styOf t.toNat) (if wideType t then 64 else 32) r.bits))))

/-- The element types of CVTPK and CVTUPK (Table 2-4, major 16). -/
def pkTy (t : Nat) : STy :=
  match t with
  | 0 => .flt fp16
  | 1 => .flt bf16
  | 2 => .flt f8e4
  | 3 => .flt f8e5
  | 4 => .flt f4e2
  | 5 => .int ⟨8, true⟩
  | 6 => .int ⟨4, true⟩
  | _ => .int ⟨4, false⟩

/-- CVTPK.type (R105). -/
def execCvtpk (u : Bool) (t : BitVec 3) (d a b : BitVec 6) (p : BitVec 3) (s : State) : Res :=
  issue (.cvtpk u t d a b p) s (fun w _ => queued w (fun g l =>
    let ty := pkTy t.toNat
    let s0 := stepLane g l (dynMode w)
    let s1 := stepLane s0.2 l (dynMode w)
    let e0 := convert ty (.flt fp32) (dynMode w) s0.1 false (w.n32 0 a l)
    let e1 := convert ty (.flt fp32) (dynMode w) s1.1 false (w.n32 1 b l)
    let r := pair16 e0 e1 ty.width
    (s1.2.raise l r.flags, [(g.vkey d.toNat l, FRes.w32 r)])))

/-- CVTUPK.type (R106). -/
def execCvtupk (u : Bool) (t : BitVec 3) (d a : BitVec 6) (k p : BitVec 3) (s : State) : Res :=
  issue (.cvtupk u t d a k p) s (fun w _ => queued w (fun g l =>
    let ty := pkTy t.toNat
    let x := w.n32 0 a l / 2 ^ (ty.width * k.toNat) % 2 ^ ty.width
    let r : FRes := match ty with
      | .flt f => toFp32 f x
      | .int u => ⟨(⟨32, true⟩ : IFmt).code (u.val x), 0⟩
    (g.raise l r.flags, [(g.vkey d.toNat l, FRes.w32 r)])))

end Sys2Proof.Machine
end

