-- ==== Sys2Proof/Machine/Lanes.lean ====
section
/-! DEFINITION. Lane operations, moves and the scalar ALU: majors 18 to 23 (R96, R109 to R116). -/
namespace Sys2Proof.Machine

/-- The tile size of PART (Table 1-7). -/
def tileSize (g : Grp) : Nat := 32 / 2 ^ (g.part.toNat % 8)
def tileBase (S l : Nat) : Nat := l - l % S
/-- The participants of l's tile, ascending (R110). -/
def tileMates (w : View) (l : Nat) : List Nat :=
  (lanesOf w.act).filter (fun c => tileBase (tileSize w.g) c == tileBase (tileSize w.g) l)
/-- A tile-relative mask (R110). -/
def tileMask (w : View) (l : Nat) (cs : List Nat) : Word :=
  maskOf (cs.map (fun c => c - tileBase (tileSize w.g) l))

/-! ## SHFL (R111) -/

/-- The source lane of a mode, none outside the tile: 0 IDX, 1 UP, 2 DOWN, 3 XOR. -/
def shflSrc (S l mode n : Nat) : Option Nat :=
  let T := tileBase S l
  match mode with
  | 0 => if n < S then some (T + n) else none
  | 1 => if n ≤ l - T then some (l - n) else none
  | 2 => if n < T + S - l then some (l + n) else none
  | _ => if n < 32 ∧ tileBase S (l ^^^ n) = T then some (l ^^^ n) else none

def shuffle (mode : Nat) (d a : BitVec 6) (n : View → Nat → Nat) (w : View) (_ : State) : Meaning :=
  perLane w (fun g l =>
    let src := (shflSrc (tileSize w.g) l mode (n w l)).filter (fun c => inMask w.act c)
    (g.wv d.toNat l (w.opnd 0 a.toNat (src.getD l))).wp w.pre.pd l src.isSome)

/-- SHFL.mode (R111). -/
def execShfl (u : Bool) (m : BitVec 2) (d a b : BitVec 6) (p : BitVec 3) (s : State) : Res :=
  issue (.shfl u m d a b p) s (shuffle m.toNat d a (fun w l => (w.opnd 1 b.toNat l).toNat))

/-- SHFL.mode (R111). -/
def execShflImm (u : Bool) (m : BitVec 2) (d a : BitVec 6) (n : BitVec 5) (p : BitVec 3) (s : State) : Res :=
  issue (.shflImm u m d a n p) s (shuffle m.toNat d a (fun _ _ => n.toNat))

/-! ## Votes and MATCH (R112, R113) -/

/-- VOTE.ALL (R112). -/
def execVoteAll (u : Bool) (q ps p : BitVec 3) (s : State) : Res :=
  issue (.voteAll u q ps p) s (fun w s => setPred q (fun l => ((tileMates w l).all (fun c => w.g.pr ps.toNat c), 0)) w s)

/-- VOTE.ANY (R112). -/
def execVoteAny (u : Bool) (q ps p : BitVec 3) (s : State) : Res :=
  issue (.voteAny u q ps p) s (fun w s => setPred q (fun l => ((tileMates w l).any (fun c => w.g.pr ps.toNat c), 0)) w s)

/-- VOTE.BALLOT (R112). -/
def execVoteBallot (u : Bool) (d : BitVec 6) (ps p : BitVec 3) (s : State) : Res :=
  issue (.voteBallot u d ps p) s (fun w _ => perLane w (fun g l =>
    g.wv d.toNat l (tileMask w l ((tileMates w l).filter (fun c => w.g.pr ps.toNat c)))))

/-- VOTE.UNI (R112). -/
def execVoteUni (u : Bool) (q ps p : BitVec 3) (s : State) : Res :=
  issue (.voteUni u q ps p) s (fun w s => setPred q (fun l =>
    ((tileMates w l).all (fun c => w.g.pr ps.toNat c == w.g.pr ps.toNat l), 0)) w s)

/-- MATCH (R113). -/
def execMatchLanes (u : Bool) (d a : BitVec 6) (p : BitVec 3) (s : State) : Res :=
  issue (.matchLanes u d a p) s (fun w _ => perLane w (fun g l =>
    let same := (tileMates w l).filter (fun c => w.opnd 0 a.toNat c == w.opnd 0 a.toNat l)
    (g.wv d.toNat l (tileMask w l same)).wp w.pre.pd l (same.length == (tileMates w l).length)))

/-- PARTSET (R114). -/
def execPartset (u : Bool) (k p : BitVec 3) (s : State) : Res :=
  issue (.partset u k p) s (fun w _ => once w (fun done g => g.setPart done (k.setWidth 32)))

/-! ## Reductions and scans (R115, R116) -/

/-- The identity of an operation (Table 4-6); `fp` selects FADD, FMIN, FMAX. -/
def redIdentity (fp : Bool) (op : Nat) : Word :=
  if fp then
    match op with
    | 0 => 0
    | 1 => 0x7F800000#32
    | _ => 0xFF800000#32
  else
    match op with
    | 1 => 0x7FFFFFFF#32
    | 2 => 0x80000000#32
    | 3 => 0xFFFFFFFF#32
    | 5 => 0xFFFFFFFF#32
    | _ => 0

/-- One combining step. -/
def redCombine (fp : Bool) (op : Nat) (x y : Word) : Word × Word :=
  if fp then
    let r := match op with
      | 0 => Sys2Proof.fadd fp32 0 0 x.toNat y.toNat
      | 1 => fminmax fp32 false x.toNat y.toNat
      | _ => fminmax fp32 true x.toNat y.toNat
    (FRes.w32 r, r.flags)
  else
    quiet (match op with
      | 0 => x + y
      | 1 => minS x y
      | 2 => maxS x y
      | 3 => minU x y
      | 4 => maxU x y
      | 5 => x &&& y
      | 6 => x ||| y
      | _ => x ^^^ y)

/-- The first value of a combination: a NaN becomes canonical, IV if it signalled. -/
def redFirst (fp : Bool) (x : Word) : Word × Word :=
  if fp then
    match fdecode fp32 x.toNat with
    | .nan sg => (BitVec.ofNat 32 fp32.nanCode, if sg then flIV else 0)
    | _ => (x, 0)
  else (x, 0)

/-- Combines values strictly in order; the flags are those of every step. -/
def redFold (fp : Bool) (op : Nat) : List Word → Word × Word
  | [] => (redIdentity fp op, 0)
  | x :: rest => rest.foldl (fun acc y =>
      let r := redCombine fp op acc.1 y
      (r.1, acc.2 ||| r.2)) (redFirst fp x)

def reduce (fp : Bool) (op : Nat) (d a : BitVec 6) (keep : Nat → Nat → Bool) (w : View) (_ : State) : Meaning :=
  perLane w (fun g l =>
    let cs := (tileMates w l).filter (keep l)
    let r := redFold fp op (cs.map (fun c => w.opnd 0 a.toNat c))
    ((g.wv d.toNat l r.1).raise l r.2).wp w.pre.pd l (!cs.isEmpty))

/-- VRED.op (R115). -/
def execVred (u : Bool) (o : BitVec 3) (d a : BitVec 6) (t : BitVec 1) (p : BitVec 3) (s : State) : Res :=
  issue (.vred u o d a t p) s (reduce (t == 1#1) o.toNat d a (fun _ _ => true))

/-- VSCAN.op (R115). -/
def execVscan (u : Bool) (o : BitVec 3) (d a : BitVec 6) (e t : BitVec 1) (p : BitVec 3) (s : State) : Res :=
  issue (.vscan u o d a e t p) s (reduce (t == 1#1) o.toNat d a (fun l c => if e = 1#1 then decide (c < l) else decide (c ≤ l)))

/-! ## Moves (R109) -/

/-- MOV (R109). -/
def execMov (u : Bool) (d a : BitVec 6) (p : BitVec 3) (s : State) : Res :=
  issue (.mov u d a p) s (un32 d a quiet)

/-- MOV.64 (R109). -/
def execMov64 (u : Bool) (d a : BitVec 6) (p : BitVec 3) (s : State) : Res :=
  issue (.mov64 u d a p) s (un64 d a quiet)

/-- MOVS (R109). -/
def execMovs (u : Bool) (d : BitVec 6) (a : BitVec 5) (p : BitVec 3) (s : State) : Res :=
  issue (.movs u d a p) s (fun w _ => perLane w (fun g l => g.wv d.toNat l ((w.g.rs a.toNat).extractLsb' 0 32)))

/-- MOVS.HI (R109). -/
def execMovsHi (u : Bool) (d : BitVec 6) (a : BitVec 5) (p : BitVec 3) (s : State) : Res :=
  issue (.movsHi u d a p) s (fun w _ => perLane w (fun g l => g.wv d.toNat l ((w.g.rs a.toNat).extractLsb' 32 32)))

/-- MOVS.64 (R109). -/
def execMovs64 (u : Bool) (d : BitVec 6) (a : BitVec 5) (p : BitVec 3) (s : State) : Res :=
  issue (.movs64 u d a p) s (fun w _ => perLane w (fun g l => g.wv64 d.toNat l (w.g.rs a.toNat)))

/-- RDLANE (R109). -/
def execRdlane (u : Bool) (d : BitVec 5) (a : BitVec 6) (n : BitVec 5) (p : BitVec 3) (s : State) : Res :=
  issue (.rdlane u d a n p) s (fun w _ => once w (fun _ g =>
    g.ws d.toNat (if inMask w.act n.toNat then (w.opnd 0 a.toNat n.toNat).setWidth 64 else 0)))

/-- RDLANE.64 (R109). -/
def execRdlane64 (u : Bool) (d : BitVec 5) (a : BitVec 6) (n : BitVec 5) (p : BitVec 3) (s : State) : Res :=
  issue (.rdlane64 u d a n p) s (fun w _ => once w (fun _ g =>
    g.ws d.toNat (if inMask w.act n.toNat then w.g.rv64 a.toNat n.toNat else 0)))

/-! ## Scalar ALU (R96) -/

def scalar2 (d a b : BitVec 5) (f : Dword → Dword → Dword) (w : View) (_ : State) : Meaning :=
  once w (fun _ g => g.ws d.toNat (f (w.g.rs a.toNat) (w.g.rs b.toNat)))

/-- SADD (R96). -/
def execSadd (u : Bool) (d a b : BitVec 5) (p : BitVec 3) (s : State) : Res :=
  issue (.sadd u d a b p) s (scalar2 d a b (fun x y => x + y))

/-- SSUB (R96). -/
def execSsub (u : Bool) (d a b : BitVec 5) (p : BitVec 3) (s : State) : Res :=
  issue (.ssub u d a b p) s (scalar2 d a b (fun x y => x - y))

/-- SMUL (R96). -/
def execSmul (u : Bool) (d a b : BitVec 5) (p : BitVec 3) (s : State) : Res :=
  issue (.smul u d a b p) s (scalar2 d a b (fun x y => x * y))

/-- SAND (R96). -/
def execSand (u : Bool) (d a b : BitVec 5) (p : BitVec 3) (s : State) : Res :=
  issue (.sand u d a b p) s (scalar2 d a b (fun x y => x &&& y))

/-- SOR (R96). -/
def execSor (u : Bool) (d a b : BitVec 5) (p : BitVec 3) (s : State) : Res :=
  issue (.sor u d a b p) s (scalar2 d a b (fun x y => x ||| y))

/-- SXOR (R96). -/
def execSxor (u : Bool) (d a b : BitVec 5) (p : BitVec 3) (s : State) : Res :=
  issue (.sxor u d a b p) s (scalar2 d a b (fun x y => x ^^^ y))

/-- SSHL (R96). -/
def execSshl (u : Bool) (d a b : BitVec 5) (p : BitVec 3) (s : State) : Res :=
  issue (.sshl u d a b p) s (scalar2 d a b (fun x y => shlW x y.toNat))

/-- SSHR (R96). -/
def execSshr (u : Bool) (d a b : BitVec 5) (p : BitVec 3) (s : State) : Res :=
  issue (.sshr u d a b p) s (scalar2 d a b (fun x y => shrW x y.toNat))

/-- SCMP's relation: 0 EQ, 1 NE, 2 LT, 3 LE, 4 GT, 5 GE signed, 6 LTU, 7 GEU. -/
def scmpRel (cc : Nat) (x y : Dword) : Bool :=
  match cc with
  | 6 => x.ult y
  | 7 => y.ule x
  | _ => icmpRel cc x y

/-- SCMP.cc (R96). -/
def execScmp (u : Bool) (c q : BitVec 3) (a b : BitVec 5) (p : BitVec 3) (s : State) : Res :=
  issue (.scmp u c q a b p) s (fun w s => setPred q (fun _ => (scmpRel c.toNat (w.g.rs a.toNat) (w.g.rs b.toNat), 0)) w s)

/-- SADDI (R96). -/
def execSaddi (u : Bool) (d a : BitVec 5) (i : BitVec 7) (p : BitVec 3) (s : State) : Res :=
  issue (.saddi u d a i p) s (fun w _ => once w (fun _ g => g.ws d.toNat (w.g.rs a.toNat + immOf w.pre i)))

end Sys2Proof.Machine
end

