-- ==== Sys2Proof/Machine/Control.lean ====
section
/-! DEFINITION. Control transfers and rejoin: majors 39 to 41 (R121 to R131), and the hints of major 0 (R47 to R52). -/
namespace Sys2Proof.Machine

/-- PC of a transfer: the address of its own word (R56, R123), the last of its prefix group. -/
def View.at (w : View) : Dword := w.next - 4

/-- The target of a C-format word (R56). -/
def relTarget (w : View) (off : BitVec 19) : Dword := w.at + (off.signExtend 64) * 4

/-- The checks on a target (R124): alignment, and for a call the caller's 4 GiB region. -/
def checkTarget (w : View) (isCall : Bool) (t : Dword) : LaneOut :=
  if t.toNat % 4 ≠ 0 then .trap 8 1 t none
  else if isCall && t.extractLsb' 32 32 != w.next.extractLsb' 32 32 then .trap 1 7 t none
  else .goto t

/-- A transfer of the lanes of Act, each to its own target; a call writes v63 (R123). -/
def transfer (isCall : Bool) (target : View → Nat → Dword) (w : View) (_ : State) : Meaning :=
  ⟨(lanesOf w.act).map (fun l => (l, checkTarget w isCall (target w l))),
   fun done s => if isCall then s.modGrp w.key (fun g =>
     (lanesOf done).foldl (fun g l => g.wv 63 l (w.next.extractLsb' 0 32)) g) else s⟩

/-- BRA (R123). -/
def execBra (o : BitVec 19) (p : BitVec 3) (s : State) : Res :=
  issue (.bra o p) s (transfer false (fun w _ => relTarget w o))

/-- BRU (R125). -/
def execBru (o : BitVec 19) (p : BitVec 3) (s : State) : Res :=
  issue (.bru o p) s (transfer false (fun w _ => relTarget w o))

/-- CALL (R123). -/
def execCall (o : BitVec 19) (p : BitVec 3) (s : State) : Res :=
  issue (.call o p) s (transfer true (fun w _ => relTarget w o))

/-- CALLR (R123). -/
def execCallr (a : BitVec 6) (p : BitVec 3) (s : State) : Res :=
  issue (.callr a p) s (transfer true (fun w l => w.g.rv64 a.toNat l))

/-- JMPR (R123). -/
def execJmpr (a : BitVec 6) (p : BitVec 3) (s : State) : Res :=
  issue (.jmpr a p) s (transfer false (fun w l => w.g.rv64 a.toNat l))

/-- RET (R123). -/
def execRet (p : BitVec 3) (s : State) : Res :=
  issue (.ret p) s (transfer false (fun w l => w.at.extractLsb' 32 32 ++ w.g.rv 63 l))

/-- The rejoin deadlock (R130): every lane that has not exited is parked and no mask can release; every parked lane then traps
with TPC at its RJPARK. -/
def checkDeadlock (s : State) (k : Nat) : State :=
  let g := s.grp k
  let live := g.live
  if live.isEmpty || g.tlanes != 0 || g.halted || live.any (fun l => (g.lane l).parked.isNone || (g.lane l).waiting) ||
     (List.range 8).any (fun n => g.releases n) then s
  else takeTrap s k (maskOf live) 1 8 (fun l => (g.lane l).pc) (fun _ => 0)

/-- Lanes leave for good (R126): out of the rejoin masks, TLANES and the census; releases and arrivals follow. -/
def exitLanes (s : State) (k : Nat) (m : Word) : State :=
  if m = 0 then s else
  let s := s.modGrp k (fun g =>
    let g := g.modLanes (lanesOf m) (fun _ x => { x with exited := true, task := none, waiting := false, resv := none, bars := [] })
    ((({ g with tlanes := g.tlanes &&& ~~~ m }).unhold).strikeOut m).evalReleases)
  let g := s.grp k
  if g.isFeeder then s else settleExit s k

/-- EXIT (R126). -/
def execExit (p : BitVec 3) (s : State) : Res :=
  issue (.exit p) s (fun w _ =>
    ⟨(lanesOf w.act).map (fun l => (l, if noRemote w.g (laneBit l) then .hold else .wait)),
     fun done s => checkDeadlock (exitLanes s w.key done) w.key⟩)

/-! ## Rejoin masks (R127 to R130) -/

/-- RJENROL (R127). -/
def execRjenrol (u : Bool) (j p : BitVec 3) (s : State) : Res :=
  issue (.rjenrol u j p) s (fun w _ => once w (fun done g => (g.wj j.toNat (g.rj j.toNat ||| done)).evalRelease j.toNat))

/-- RJPARK (R127). -/
def execRjpark (u : Bool) (j p : BitVec 3) (s : State) : Res :=
  issue (.rjpark u j p) s (fun w _ =>
    let n := j.toNat
    ⟨(lanesOf w.act).map (fun l => (l, if inMask (w.g.rj n) l then .hold else .ok)),
     fun done s =>
       let s := s.modGrp w.key (fun g =>
         (g.modLanes ((lanesOf done).filter (fun l => inMask (w.g.rj n) l)) (fun _ x =>
           { x with parked := some n, unpark := w.next, waiting := false, bkPass := false, run := if u then 0 else x.run + w.words })).evalRelease n)
       checkDeadlock s w.key⟩)

/-- RJOUT (R127). -/
def execRjout (u : Bool) (j p : BitVec 3) (s : State) : Res :=
  issue (.rjout u j p) s (fun w _ => once w (fun done g => (g.wj j.toNat (g.rj j.toNat &&& ~~~ done)).evalRelease j.toNat))

/-- RJGET (R127). -/
def execRjget (u : Bool) (d : BitVec 6) (j p : BitVec 3) (s : State) : Res :=
  issue (.rjget u d j p) s (fun w _ => perLane w (fun g l => g.wv d.toNat l (w.g.rj j.toNat)))

/-! ## Hints and prefixes (R47 to R52) -/

/-- NOP (R47). -/
def execNop (u : Bool) (s : State) : Res :=
  issue (.nop u) s (fun w _ => allOk w (fun _ s => s))

/-- HINT.SCHED (R51). -/
def execHintSched (u : Bool) (y : BitVec 1) (h : BitVec 4) (s : State) : Res :=
  issue (.hintSched u y h) s (fun w _ => allOk w (fun _ s => s))

/-- The word at an address in a context, if it can be fetched. -/
def peekWord (s : State) (g : Grp) (a : Dword) : Option Word :=
  match translate s g.asker g.ctxid (s.ctx g.ctxid) .exec a with
  | .ok phys key cache => (codeWord s g.core (cache != 2) (keyTag s key) phys).toOption
  | _ => none

/-- A word is a HINT.IMM (1) or a HINT.MOD (3), whatever its payload (Table 2-3). -/
def hintKind (w : Word) : Nat := if w.extractLsb' 25 7 = 0#7 then (w.extractLsb' 22 3).toNat else 0

/-- The words of a prefix group from address a on, `imms` words HINT.IMM before it: up to the instruction, or to the word that
breaks the order of R48 (which is no group's). -/
def groupTail (s : State) (g : Grp) : Nat → Nat → Dword → Nat
  | 0, _, _ => 1
  | n + 1, imms, a =>
    if (peekWord s g a).elim 0 hintKind = 1 ∧ imms < 2 then groupTail s g n (imms + 1) (a + 4) + 1 else 1

/-- The words of the prefix group that starts at an address, the instruction included (R43, R48); 1 where no prefix stands there. -/
def groupLen (s : State) (g : Grp) (pc : Dword) : Nat :=
  match (peekWord s g pc).elim 0 hintKind with
  | 1 => groupTail s g 2 1 (pc + 4) + 1
  | 3 => groupTail s g 3 0 (pc + 4) + 1
  | _ => 1

/-- A prefix word: after the checks of Table 2-11 its bits join the group, which no other issue enters (R52). -/
def prefixWord (i : Instr) (s : State) (f : Prefix → Prefix) : State :=
  let c := s.cur
  let g := s.grp c.key
  if c.lanes = 0 then s
  else if c.pos = 0 ∧ overRun g c.lanes (groupLen s g c.pc) ≠ 0 then trapOver s (groupLen s g c.pc)
  else match decodeTrap g c.lanes c.pre {} i with
    | some (cause, detail) => trapAll s (groupLen s g c.pc) cause detail 0
    | none => { s with cur := { c with pos := c.pos + 1, pre := f c.pre } }

/-- HINT.IMM (R49). -/
def execHintImm (y : BitVec 22) (s : State) : Res :=
  .next (prefixWord (.hintImm y) s (fun q => { q with imms := q.imms ++ [y] }))

/-- HINT.MOD (R50). -/
def execHintMod (r q : BitVec 3) (m : BitVec 1) (c : BitVec 2) (s : State) : Res :=
  .next (prefixWord (.hintMod r q m c) s (fun x =>
    { x with hasMod := true, rnd := r.toNat, pd := q.toNat, promote := m == 1#1, cache := c.toNat }))

end Sys2Proof.Machine
end

