-- ==== Sys2Proof/Machine/System.lean ====
section
/-! DEFINITION. The system instructions of major 47 and the status and control registers (R30, R137, R141 to R146, R272). -/
namespace Sys2Proof.Machine

/-- CNT (Table 1-12). -/
def cntOf (g : Grp) : Dword :=
  BitVec.ofNat 64 (g.count .ld + g.count .st * 2 ^ 6 + g.count .tl * 2 ^ 12 + g.count .rm * 2 ^ 18 + g.count .cp * 2 ^ 24)

/-- WIN (Table 1-6); a feeder context describes its own window (R223). -/
def winOf (g : Grp) : Dword :=
  if g.isFeeder then 3
  else BitVec.ofNat 64 ((g.shown.elim g.bases (·.2)).getD g.role 0 * 2 ^ 6 + g.role * 2 ^ 4 + g.kern.wsizes.getD g.role 0)

/-- The value of a status and control register for lane l (Tables 1-3, 9-1, 11-5), zero-extended. PART, QWIN, RMODE, TRAPEN and
SCALEH in a feeder context are its own copies, which hold the launch values (log entry 75). -/
def readCsr (s : State) (g : Grp) (l : Nat) (c : BitVec 12) : Dword :=
  match c.toNat with
  | 0x000 => BitVec.ofNat 64 (if g.kern.compat then l % 16 else l)
  | 0x001 => BitVec.ofNat 64 (l / 16)
  | 0x002 => (g.groupId l).setWidth 64
  | 0x003 => BitVec.ofNat 64 g.team
  | 0x004 => BitVec.ofNat 64 g.cluster
  | 0x005 => BitVec.ofNat 64 (g.grid % 65536)
  | 0x006 => BitVec.ofNat 64 (coreIdOf g.core)
  | 0x007 => BitVec.ofNat 64 (dieOf g.core)
  | 0x008 => winOf g
  | 0x010 => g.part.setWidth 64
  | 0x011 => g.qwin.setWidth 64
  | 0x012 => g.rmode.setWidth 64
  | 0x013 => (g.lane l).srseed.setWidth 64
  | 0x014 => g.trapen.setWidth 64
  | 0x020 => (g.lane l).flags.setWidth 64
  | 0x021 => cntOf g
  | 0x022 => bstatOf s g
  | 0x023 => g.scaleh
  | 0x024 => vatdmgOf s g
  | 0x030 => g.tcause.setWidth 64
  | 0x031 => g.tlanes.setWidth 64
  | 0x032 => (g.lane l).taddr
  | 0x033 => (g.lane l).tpc
  | 0x040 => s.cycleOf g.core
  | 0x050 => g.cpbind.setWidth 64
  | 0x051 => g.cfault
  | _ => g.tlbinv

/-- CSRR (R142). -/
def execCsrr (u : Bool) (d : BitVec 6) (c : BitVec 12) (p : BitVec 3) (s : State) : Res :=
  issue (.csrr u d c p) s (fun w s => perLane w (fun g l =>
    let x := readCsr s w.g l c
    if csrWide c then g.wv64 d.toNat l x else g.wv d.toNat l (x.extractLsb' 0 32)))

/-- A value that sets a reserved field or a reserved code of a writable register (R30, R143). -/
def csrReserved (c : BitVec 12) (x : Dword) : Bool :=
  match c.toNat with
  | 0x010 => decide (x.toNat ≥ 5)
  | 0x011 => decide (x.toNat ≥ 2)
  | 0x012 => decide (x.toNat ≥ 5)
  | 0x014 => decide (x.toNat ≥ 2)
  | 0x020 => decide (x.toNat ≥ 128)
  | 0x023 => decide (x.toNat ≥ 2 ^ 19)
  | 0x033 => decide (x.toNat % 4 ≠ 0)
  | 0x050 => decide (x.toNat ≥ 2 ^ 18) || bitsOf x 7 4 != 0 || bitsOf x 15 2 == 3
  | 0x060 => decide (x.toNat ≥ 2 ^ 56) || bitsOf x 4 12 != 0 || bitsOf x 1 1 != 0
  | _ => false

/-- SRSEED, FLAGS and TPC are lane registers; the others belong to the group or the feeder context. -/
def csrPerLane (c : BitVec 12) : Bool := c == 0x013#12 || c == 0x020#12 || c == 0x033#12

/-- Starts an invalidation (R272): BUSY, and the accesses of the writer that come first. -/
def startTlbinv (s : State) (k : Nat) (v : Dword) : State :=
  s.modGrp k (fun g => { g with
    tlbinv := (v &&& 0x00FFFFFFFFFF000C#64) ||| 1
    tlbAfter := (g.ops.filter (fun o => !o.done)).map (·.id) })

/-- What a value with no reserved field or code does to a lane of Act: the traps of R24 and R369, or a wait on TLBINV.BUSY. -/
def csrwOut (w : View) (s : State) (c : BitVec 12) (x : Dword) : LaneOut :=
  if c = 0x012#12 ∧ x = 4 ∧ (s.ctx w.g.ctxid).contract.getLsbD 9 = false then .trap 0x0A 9 0 none
  else if c = 0x011#12 ∧ x = 1 ∧ w.g.win < 64 then .trap 0x0D 2 0 none
  else if c = 0x060#12 ∧ w.g.tlbinv.getLsbD 0 then .wait
  else .ok

/-- The write of a group register by the lanes of `m` (R143). -/
def writeCsr (s : State) (k : Nat) (m : Word) (c : BitVec 12) (x : Dword) : State :=
  let y := x.extractLsb' 0 32
  match c.toNat with
  | 0x010 => s.modGrp k (fun g => g.setPart m y)
  | 0x011 => s.modGrp k (fun g => { g with qwin := y })
  | 0x012 => s.modGrp k (fun g => { g with rmode := y })
  | 0x014 => s.modGrp k (fun g => { g with trapen := y })
  | 0x023 => s.modGrp k (fun g => { g with scaleh := x })
  | 0x050 => s.modGrp k (fun g => { g with cpbind := y })
  | _ => startTlbinv s k x

def writeLaneCsr (g : Grp) (l : Nat) (c : BitVec 12) (x : Dword) : Grp :=
  g.modLane l (fun y => match c.toNat with
    | 0x013 => { y with srseed := x.extractLsb' 0 32 }
    | 0x020 => { y with flags := x.extractLsb' 0 32 }
    | _ => { y with tpc := x })

/-- The value lane l gives a CSRW. -/
def csrwValue (w : View) (c : BitVec 12) (a : BitVec 6) (l : Nat) : Dword :=
  if csrWide c then w.g.rv64 a.toNat l else (w.opnd 0 a.toNat l).setWidth 64

/-- CSRW (R143): a reserved value in any lane that is read traps every lane of Act (R30). -/
def execCsrw (u : Bool) (a : BitVec 6) (c : BitVec 12) (p : BitVec 3) (s : State) : Res :=
  issue (.csrw u a c p) s (fun w s =>
    let val := fun (l : Nat) => csrwValue w c a (if csrPerLane c then l else (lowest w.act).getD l)
    let bad := (lanesOf w.act).any (fun l => csrReserved c (val l))
    ⟨(lanesOf w.act).map (fun l => (l, if bad then .trap 1 6 0 none else csrwOut w s c (val l))),
     fun done s =>
       if done = 0 then s
       else if csrPerLane c then s.modGrp w.key (fun g =>
         (lanesOf done).foldl (fun g l => writeLaneCsr g l c (val l)) g)
       else writeCsr s w.key done c (val 0)⟩)

/-- FEAT (R144). -/
def execFeat (u : Bool) (d : BitVec 6) (n : BitVec 4) (p : BitVec 3) (s : State) : Res :=
  issue (.feat u d n p) s (fun w s => perLane w (fun g l => g.wv d.toNat l ((s.ctx w.g.ctxid).contract.extractLsb' (32 * n.toNat) 32)))

/-- TRAP (R145). -/
def execTrap (u : Bool) (n : BitVec 8) (p : BitVec 3) (s : State) : Res :=
  issue (.trap u n p) s (fun w _ => ⟨(lanesOf w.act).map (fun l => (l, .trap 0x20 n.toNat 0 (some w.next))), fun _ s => s⟩)

/-- A TRET of a feeder context resumes the copy whose fault it reported (R240). -/
def resumeCopy (g : Grp) : Grp :=
  match g.cfOp with
  | none => g
  | some id =>
    { g with cfOp := none, ops := g.ops.map (fun (o : PendOp) => if o.id ≠ id then o else match o.body with
        | .copy c => { o with body := .copy { c with fault := none } }
        | _ => o) }

/-- TRET (R137). -/
def execTret (p : BitVec 3) (s : State) : Res :=
  issue (.tret p) s (fun w s =>
    ⟨(lanesOf w.act).map (fun l => (l, if inMask (s.grp w.key).tlanes l then .hold else .trap 2 2 0 none)),
     fun done s => if done = 0 then s else (returnTrap s w.key done).modGrp w.key (fun g =>
       (if g.isFeeder then resumeCopy g else g).modLanes (lanesOf done) (fun _ x => { x with stepDue := x.stepArm }))⟩)

/-- BRK (R145). -/
def execBrk (u : Bool) (n : BitVec 8) (p : BitVec 3) (s : State) : Res :=
  issue (.brk u n p) s (fun w _ => ⟨(lanesOf w.act).map (fun l => (l, .trap 0x0B n.toNat 0 none)), fun _ s => s⟩)

end Sys2Proof.Machine
end

