-- ==== Sys2Proof/Machine/MemInstr.lean ====
section
/-! DEFINITION. Loads, stores, atomics and flag writes: majors 24 to 35 (R173 to R183), and the completion of loads and stores (R174, R188). -/
namespace Sys2Proof.Machine

/-- Where one lane's access leads. -/
def laneAcc (s : State) (w : View) (k : AccKind) (size : Nat) (ea : Nat → Dword) (l : Nat) : AccRes :=
  checkAccess s w.g l k (ea l) size

/-- What an access makes of its lane: a poisoned word that is read freezes its reader (R276). -/
def accOut (s : State) (g : Grp) (reads : Bool) (size : Nat) (ea : Dword) (r : AccRes) : LaneOut :=
  match r with
  | .ok p => if reads then
      match s.poisoned (if p.l1 then some g.core else none) p.loc size with
      | some a => .violation 2 a
      | none => .ok
    else .ok
  | .fabric _ _ => .ok
  | .trap c d => .trap c d ea none
  | .violation c p => .violation c p

def AccRes.isLocal : AccRes → Bool
  | .ok _ => true
  | _ => false
def AccRes.isFabric : AccRes → Bool
  | .fabric _ _ => true
  | _ => false

/-- Program order of one lane to one byte, where the lane reaches it both locally and under a fabric address of its own module (R169, R175,
R246): a local access waits for the fabric one's answer, a fabric one for what cannot be performed yet (DEDUCED, log entry 91). -/
def selfWaits (s : State) (w : View) (size : Nat) (ea : Dword) (l : Nat) (r : AccRes) : Bool :=
  match r with
  | .ok p => selfPending s w.g l p.loc size || incPending w.g l p.loc size
  | .fabric _ m => m == s.fabric.self && (match selfPhys s w.g.ctxid ea with
      | some p => pendingOver ((drainOver s w.key l p size).grp w.key) l p size || incPending w.g l p size
      | none => false)
  | _ => false

/-- The outcomes of an issue that accesses memory: all its lanes wait while a counter it would raise stands at 63 (R29), or
while it would pass an incomplete fence with a fabric access (Table 7-9). A release at a fabric address waits until what its lane
issued before is performed (R177, R244). -/
def memOuts (s : State) (w : View) (cls : Cls) (k : AccKind) (reads release : Bool) (size : Nat) (ea : Nat → Dword) :
    List (Nat × LaneOut) :=
  let ls := lanesOf w.act
  let rs := ls.map (fun l => (l, laneAcc s w k size ea l))
  let outs := rs.map (fun x =>
    (x.1, if x.2.isFabric && release && !mayRelease s w.key w.g x.1 then .wait
          else if selfWaits s w size (ea x.1) x.1 x.2 then .wait else accOut s w.g reads size (ea x.1) x.2))
  if (rs.any (fun x => x.2.isLocal) && !w.g.room cls) ||
     (rs.any (fun x => x.2.isFabric) && (!w.g.room .rm || w.g.fenced w.lanes))
  then ls.map (fun l => (l, .wait)) else outs

/-- The lanes of `done` with their local places. -/
def placesOf (s : State) (w : View) (k : AccKind) (size : Nat) (ea : Nat → Dword) (done : Word) : List (Nat × Place) :=
  (lanesOf done).filterMap (fun l => match laneAcc s w k size ea l with
    | .ok p => some (l, p)
    | _ => none)

/-- The fabric shares of `done` (R356). -/
def sharesOf (s : State) (w : View) (k : AccKind) (size : Nat) (ea : Nat → Dword) (done : Word)
    (data : Nat → BitVec 128) (exp : Nat → Dword) (keys : Nat → List Nat) (sgn : Bool) : List Share :=
  (lanesOf done).filterMap (fun l => match laneAcc s w k size ea l with
    | .fabric _ m => some ⟨l, m, ea l, size, data l, exp l, keys l, sgn⟩
    | _ => none)

/-- Marks an operation issued past an incomplete fence: it, and the sectors that the fence's lanes read, belong to the fence's speculation
(R185). -/
def noteSpec (g : Grp) (lanes : Word) (id : Nat) (sectors : List (Nat × Nat)) : Grp :=
  { g with fences := g.fences.map (fun (f : Fence) =>
      if f.lanes.any (fun x => inMask lanes x.lane) then
        { f with specOps := f.specOps ++ [id]
                 sectors := f.sectors ++ sectors.filter (fun x => f.lanes.any (fun y => y.lane == x.1)) }
      else f) }

/-- Issues a counted local operation. -/
def issueOp (s : State) (k : Nat) (cls : Cls) (lanes : Word) (body : OpBody) (sectors : List (Nat × Nat)) : State :=
  s.modGrp k (fun g => noteSpec (g.addOp cls lanes body) lanes g.nextOp sectors)

/-! ## Loads and stores (R173, Table 7-4) -/

def loadSize (sz : BitVec 3) : Nat :=
  match sz.toNat with
  | 0 => 1
  | 1 => 2
  | 2 => 4
  | 3 => 8
  | 4 => 16
  | 5 => 1
  | _ => 2
def loadSigned (sz : BitVec 3) : Bool := decide (sz.toNat ≥ 5)
/-- Registers of a value of some bytes. -/
def wordsOf (size : Nat) : Nat := (size + 3) / 4

def keysOf (g : Grp) (d l n : Nat) : List Nat := (List.range n).map (fun i => g.vkey (d + i) l)

/-- What a plain load or store may do in the flag window (Table 7-3): only a 64-bit load. -/
def loadKind (size : Nat) : AccKind := ⟨.read, size == 8⟩
def storeKind : AccKind := ⟨.write, false⟩

/-- The registers of an n-byte value of lane l, as one number (operand `idx`, register d). -/
def dataOf (w : View) (idx d l n : Nat) : Nat :=
  if n ≤ 4 then (w.opnd idx d l).toNat % 2 ^ (8 * n)
  else ((List.range (wordsOf n)).map (fun i => (w.g.rv (d + i) l).toNat * 2 ^ (32 * i))).foldl (· + ·) 0

/-- The address of an M-format word: the pair and the offset times the access size (R173). -/
def baseOff (w : View) (a : BitVec 6) (off : Dword) (size l : Nat) : Dword :=
  w.g.rv64 a.toNat l + off * BitVec.ofNat 64 size

/-- The single-copy-atomic pieces of an access of some bytes: its 8-byte halves where it has 16 (R251). Each piece: offset, bytes,
first register. -/
def piecesOf (size : Nat) : List (Nat × Nat × Nat) := if size = 16 then [(0, 8, 0), (8, 8, 2)] else [(0, size, 0)]

/-- The parts of a load of lane l from a place into registers from d on. -/
def partsOf (g : Grp) (size : Nat) (sgn plain : Bool) (d l : Nat) (p : Place) : List LPart :=
  (piecesOf size).map (fun c => ⟨l, p.loc + c.1, p.tag, p.l1, p.page, c.2.1, sgn,
    (List.range (wordsOf c.2.1)).map (fun i => (g.vkey (d + c.2.2 + i) l, 0)), plain⟩)

/-- An access of lane l to n bytes from loc settles the lane's earlier loads of any of them (R175). -/
def settleLoads (g : Grp) (ps : List (Nat × Place)) (n : Nat) : Grp :=
  g.fixLoads (fun _ q => ps.any (fun x => x.1 == q.lane && decide (q.loc < x.2.loc + n) && decide (x.2.loc < q.loc + q.size)))

/-- The hint CACHE = 1 marks the lines of global memory as streaming (R176). -/
def hinted (s : State) (w : View) (ea : Nat → Dword) (size : Nat) (ps : List (Nat × Place)) : State :=
  if w.pre.cache != 1 then s else
  { s with streams := (ps.filter (fun x => x.2.l1 && regionOf (ea x.1) == .global)).foldl (fun b x =>
      (sectorsOf x.2.loc size).foldl (fun b y => Bank.set false b (streamKey w.g.core y) true) b) s.streams }

/-- Before an access under a fabric address of its own module, a lane's local accesses to the same bytes take effect, and the core's L1 gives
up the sector (R175, R246, R248). -/
def selfBefore (s : State) (w : View) (shares : List Share) : State :=
  shares.foldl (fun s x => match (if x.module = s.fabric.self then selfPhys s w.g.ctxid x.addr else none) with
    | some p => ((drainOver s w.key x.lane p x.size).flushSector w.g.core (p / 256)).modGrp w.key
        (fun g => settleLoads g [(x.lane, { loc := p, tag := 0, l1 := false, page := none })] x.size)
    | none => s) s

/-- A load: read at issue, or anew until it completes where it is `plain` (R175, R249); registers are written at LOAD_COMPLETION
(R174). An LDA, which is not, is an acquire. -/
def loadMeaning (size : Nat) (sgn plain : Bool) (k : AccKind) (d : BitVec 6) (ea : View → Nat → Dword)
    (pre : View → State → State) (w : View) (s0 : State) : Meaning :=
  ⟨memOuts s0 w .ld k true false size (ea w),
   fun done s =>
    let s := if done = 0 then s else pre w s
    let ps := placesOf s w k size (ea w) done
    let g := s.grp w.key
    let parts := (ps.flatMap (fun x => partsOf g size sgn plain d.toNat x.1 x.2)).map (fun p => p.read s g)
    let s' := if ps.isEmpty then s
      else issueOp (s.setGrp w.key (settleLoads g ps size)) w.key .ld (maskOf (ps.map (·.1))) (.load parts)
        (ps.flatMap (fun x => (sectorsOf x.2.loc size).map (fun y => (x.1, y))))
    let s' := selfBefore (hinted s' w (ea w) size ps) w (sharesOf s w k size (ea w) done (fun _ => 0) (fun _ => 0) (fun _ => []) sgn)
    issueRemote s' w.key .read (!plain) (sharesOf s w k size (ea w) done (fun _ => 0) (fun _ => 0)
      (fun l => keysOf g d.toNat l (wordsOf size)) sgn)⟩

/-- What a fabric release does first (R177, R244, R246, R247): the lanes' stores are performed, their loads are read, and their core's L1
writes back. -/
def releaseRemote (s : State) (w : View) (shares : List Share) : State :=
  if shares.isEmpty then s else (releaseLanes s w.key (maskOf (shares.map (·.lane)))).flushCore w.g.core

/-- A CACHE hint applies to global memory; in the windows it is ignored (R176). -/
def takesHint (w : View) (ea : Dword) (n : Nat) : Bool := w.pre.cache == n && regionOf ea == .global

/-- A store: its bytes wait to be performed (R188), in program order where it passes an incomplete fence (R185); `rel` is the
scope of a release; `home` says that it is performed at the home slice, as with a CACHE hint of 2 (R176). -/
def storeMeaning (size : Nat) (k : AccKind) (rel : Option Nat) (home : Bool) (rk : RemoteKind)
    (data : View → Nat → Nat) (ea : View → Nat → Dword) (w : View) (s0 : State) : Meaning :=
  ⟨memOuts s0 w .st k false rel.isSome size (ea w),
   fun done s =>
    let ps := placesOf s w k size (ea w) done
    let sh := sharesOf s w k size (ea w) done (fun l => BitVec.ofNat 128 (data w l)) (fun _ => 0) (fun _ => []) false
    let todo := ps.flatMap (fun x => (piecesOf size).map (fun c => (⟨x.1, x.2.loc + c.1, x.2.tag,
      x.2.l1 && !home && !takesHint w (ea w x.1) 2, x.2.page, ((natToBytes size (data w x.1)).drop c.1).take c.2.1,
      w.g.fenced (laneBit x.1), x.2.stream || takesHint w (ea w x.1) 1, []⟩ : PStore)))
    let s' := if ps.isEmpty then s
      else issueOp (s.modGrp w.key (fun g => settleLoads g ps size)) w.key .st (maskOf (ps.map (·.1))) (.store todo rel) []
    let s' := if rel.isSome then releaseRemote s' w sh else s'
    issueRemote (selfBefore s' w sh) w.key rk false sh⟩

/-- LD.sz (R173). -/
def execLd (u : Bool) (sz : BitVec 3) (d a : BitVec 6) (o : BitVec 7) (p : BitVec 3) (s : State) : Res :=
  issue (.ld u sz d a o p) s (fun w => loadMeaning (loadSize sz) (loadSigned sz) true (loadKind (loadSize sz)) d
    (fun w l => baseOff w a (immOf w.pre o) (loadSize sz) l) (fun _ s => s) w)

/-- ST.sz (R173). -/
def execSt (u : Bool) (sz : BitVec 3) (d a : BitVec 6) (o : BitVec 7) (p : BitVec 3) (s : State) : Res :=
  issue (.st u sz d a o p) s (storeMeaning (loadSize sz) storeKind none false .write
    (fun w l => dataOf w 1 d.toNat l (loadSize sz)) (fun w l => baseOff w a (immOf w.pre o) (loadSize sz) l))

/-! ## Acquire loads and release stores (R177, R178) -/

def accSize (z : BitVec 1) : Nat := if z = 1#1 then 8 else 4

/-- An LDA first has what early releases owe it; at cluster scope or wider it drops its core's clean copies, so that it reads at the home
slice what its core has not itself written (R245, R252); with PROMOTE every L1 writes back first (R178, R247, R253). -/
def ldaBefore (sc : Nat) (w : View) (s : State) : State :=
  let s := settleFor s w.g sc
  if sc < 2 then s else acquireAt (if w.pre.promote then s.flushAll else s) w.g.core sc

/-- LDA.sz.scope (R177): an acquire at its scope; what the lane loads later is read later, and at a fabric address waits for the
answer (`acqPending`). -/
def execLda (u : Bool) (sc : BitVec 3) (d a : BitVec 6) (z : BitVec 1) (o : BitVec 6) (p : BitVec 3) (s : State) : Res :=
  issue (.lda u sc d a z o p) s (fun w s0 =>
    let m := loadMeaning (accSize z) false false (loadKind (accSize z)) d (fun w l => baseOff w a (off6Of w.pre o) (accSize z) l)
      (ldaBefore sc.toNat) w s0
    if owedWaits s0 w.g sc.toNat then ⟨m.outs.map (fun x => if x.2 = .ok then (x.1, .wait) else x), m.eff⟩ else m)

/-- STL.sz.scope (R177): performed only after every earlier operation of its lane, at its scope. -/
def execStl (u : Bool) (sc : BitVec 3) (d a : BitVec 6) (z : BitVec 1) (o : BitVec 6) (p : BitVec 3) (s : State) : Res :=
  issue (.stl u sc d a z o p) s (storeMeaning (accSize z) storeKind (some sc.toNat) (decide (sc.toNat ≥ 2)) .write
    (fun w l => dataOf w 1 d.toNat l (accSize z)) (fun w l => baseOff w a (off6Of w.pre o) (accSize z) l))

/-! ## Atomics (R179 to R182) -/

/-- The forms Table 7-3 allows in the flag window: 64-bit integer, device or fabric scope. -/
def atomFlagOk (wide : Bool) (fn sc : Nat) : Bool := wide && decide (fn ≤ 8) && decide (sc ≥ 3)

/-- Performs one lane's atomic at its place: team scope in the core's L1, wider at the home slice (Table 7-1); answers the old
value. A lane's own pending stores to the word come first (R175); of other bytes it orders none (R182). -/
def atomAt (s : State) (k core sc size : Nat) (rk : RemoteKind) (l : Nat) (pl : Place) (x e : Nat) : State × Nat :=
  let s := if pl.l1 && decide (sc ≥ 2) then s.flushSector core (pl.loc / 256) else s
  let c := if pl.l1 && decide (sc < 2) then some core else none
  let old := s.readNat c pl.tag pl.loc size
  let n := 8 * size
  let new := remoteOp n rk (BitVec.ofNat n old) (BitVec.ofNat n x) (BitVec.ofNat n e)
  let s := if pl.l1 && decide (sc < 2) then s.writeBytesL1 (some (k, l)) core pl.tag pl.loc (natToBytes size new.toNat) pl.stream
           else s.writeBytes (some (k, l)) (some core) pl.tag pl.loc (natToBytes size new.toNat)
  (s, old)

/-- A private slice's atomics are performed in the core's L1 at every scope (Table 7-1). -/
def atomScope (ea : Dword) (sc : Nat) : Nat := if regionOf ea == .priv then 1 else sc

/-- The lanes in ascending order, each reading what the one before left (R171). -/
def atomLanes (w : View) (sc size : Nat) (rk : RemoteKind) (ea : Nat → Dword) (x e : Nat → Nat) :
    List (Nat × Place) → State → State × List (Nat × Nat)
  | [], s => (s, [])
  | (l, pl) :: rest, s =>
    let r := atomAt s w.key w.g.core (atomScope (ea l) sc) size rk l pl (x l) (e l)
    let t := atomLanes w sc size rk ea x e rest r.1
    (t.1, (l, r.2) :: t.2)

/-- A lane whose pending stores to the word cannot be performed yet waits (R175). -/
def atomWaits (s : State) (w : View) (k : AccKind) (size : Nat) (ea : Nat → Dword) (l : Nat) : Bool :=
  match laneAcc s w k size ea l with
  | .ok p => pendingOver ((drainOver s w.key l p.loc size).grp w.key) l p.loc size
  | _ => false

/-- An atomic: performed at issue, its returned value written at LOAD_COMPLETION; a RED returns none and counts in ST. -/
def atomMeaning (wide : Bool) (sc : Nat) (fn : Nat) (rk : RemoteKind) (dest : Option (BitVec 6)) (a : Nat)
    (x e : View → Nat → Nat) (w : View) (s0 : State) : Meaning :=
  let size := if wide then 8 else 4
  let k : AccKind := ⟨.write, atomFlagOk wide fn sc⟩
  let ea := fun (l : Nat) => w.g.rv64 a l
  let cls := if dest.isSome then Cls.ld else Cls.st
  let outs := memOuts s0 w cls k true false size ea
  ⟨outs.map (fun o => if o.2 = .ok ∧ atomWaits s0 w k size ea o.1 then (o.1, .wait) else o),
   fun done s =>
    let ps := placesOf s w k size ea done
    let sh := sharesOf s w k size ea done (fun l => BitVec.ofNat 128 (x w l)) (fun l => BitVec.ofNat 64 (e w l))
      (fun l => match dest with
        | some d => keysOf (s.grp w.key) d.toNat l (wordsOf size)
        | none => []) false
    let s := ps.foldl (fun s x => drainOver s w.key x.1 x.2.loc size) s
    let s := s.modGrp w.key (fun g => settleLoads g ps size)
    let r := atomLanes w sc size rk ea (x w) (e w) ps s
    let body : OpBody := match dest with
      | some d => .load (r.2.map (fun y => ⟨y.1, 0, 0, false, none, size, false,
          destWords (s.grp w.key) d.toNat y.1 (wordsOf size) y.2, false⟩))
      | none => .store [] none
    let s := if ps.isEmpty then r.1 else issueOp r.1 w.key cls (maskOf (ps.map (·.1))) body []
    issueRemote (selfBefore s w sh) w.key rk false sh⟩

/-- ATOM.op.TEAM (R180). -/
def execAtomTeam (u : Bool) (f : BitVec 4) (d : BitVec 6) (a : BitVec 5) (w : BitVec 1) (b : BitVec 6) (p : BitVec 3) (s : State) : Res :=
  issue (.atomTeam u f d a w b p) s (atomMeaning (w == 1#1) 1 f.toNat (.atom f.toNat) (some d) (2 * a.toNat)
    (fun x l => dataOf x 1 b.toNat l (if w = 1#1 then 8 else 4)) (fun _ _ => 0))

/-- ATOM.op.CLUSTER (R180). -/
def execAtomCluster (u : Bool) (f : BitVec 4) (d : BitVec 6) (a : BitVec 5) (w : BitVec 1) (b : BitVec 6) (p : BitVec 3) (s : State) : Res :=
  issue (.atomCluster u f d a w b p) s (atomMeaning (w == 1#1) 2 f.toNat (.atom f.toNat) (some d) (2 * a.toNat)
    (fun x l => dataOf x 1 b.toNat l (if w = 1#1 then 8 else 4)) (fun _ _ => 0))

/-- ATOM.op.DEVICE (R180). -/
def execAtomDevice (u : Bool) (f : BitVec 4) (d : BitVec 6) (a : BitVec 5) (w : BitVec 1) (b : BitVec 6) (p : BitVec 3) (s : State) : Res :=
  issue (.atomDevice u f d a w b p) s (atomMeaning (w == 1#1) 3 f.toNat (.atom f.toNat) (some d) (2 * a.toNat)
    (fun x l => dataOf x 1 b.toNat l (if w = 1#1 then 8 else 4)) (fun _ _ => 0))

/-- ATOM.op.FABRIC (R180). -/
def execAtomFabric (u : Bool) (f : BitVec 4) (d : BitVec 6) (a : BitVec 5) (w : BitVec 1) (b : BitVec 6) (p : BitVec 3) (s : State) : Res :=
  issue (.atomFabric u f d a w b p) s (atomMeaning (w == 1#1) 4 f.toNat (.atom f.toNat) (some d) (2 * a.toNat)
    (fun x l => dataOf x 1 b.toNat l (if w = 1#1 then 8 else 4)) (fun _ _ => 0))

/-- RED.op.scope (R180). -/
def execRed (u : Bool) (f : BitVec 4) (w : BitVec 1) (sc : BitVec 3) (a b : BitVec 6) (p : BitVec 3) (s : State) : Res :=
  issue (.red u f w sc a b p) s (atomMeaning (w == 1#1) sc.toNat f.toNat (.atom f.toNat) none a.toNat
    (fun x l => dataOf x 1 b.toNat l (if w = 1#1 then 8 else 4)) (fun _ _ => 0))

/-- ATOMCAS.scope (R181): the expected value stands in v[d], the new one in v[b]. -/
def execAtomcas (u : Bool) (w : BitVec 1) (sc : BitVec 3) (d a b : BitVec 6) (p : BitVec 3) (s : State) : Res :=
  issue (.atomcas u w sc d a b p) s (atomMeaning (w == 1#1) sc.toNat 0 .cas (some d) a.toNat
    (fun x l => dataOf x 1 b.toNat l (if w = 1#1 then 8 else 4))
    (fun x l => dataOf x 2 d.toNat l (if w = 1#1 then 8 else 4)))

/-- ATOMINCB.scope (R181): v[b] is the bound. -/
def execAtomincb (u : Bool) (w : BitVec 1) (sc : BitVec 3) (d a b : BitVec 6) (p : BitVec 3) (s : State) : Res :=
  issue (.atomincb u w sc d a b p) s (atomMeaning (w == 1#1) sc.toNat 0 .incb (some d) a.toNat
    (fun x l => dataOf x 1 b.toNat l (if w = 1#1 then 8 else 4)) (fun _ _ => 0))

/-! ## SIGF (R183) -/

/-- SIGF's address lies in the flag window, or is a fabric address into it; any other traps before Table 7-2's later checks. -/
def sigfPlaced (ea : Dword) : Bool :=
  match regionOf ea with
  | .flag => decide (offsetOf ea < 2 ^ 32)
  | .fabric => regionOf (ea &&& 0x00FFFFFFFFFFFFFF#64) == .flag && decide (offsetOf ea < 2 ^ 32)
  | _ => false

/-- SIGF.scope (R183): a 64-bit flag write, a release at its scope. -/
def execSigf (u : Bool) (sc : BitVec 3) (a b : BitVec 6) (p : BitVec 3) (s : State) : Res :=
  issue (.sigf u sc a b p) s (fun w s0 =>
    let m := storeMeaning 8 ⟨.write, true⟩ (some sc.toNat) true .sigf
      (fun w l => (w.g.rv64 b.toNat l).toNat) (fun w l => w.g.rv64 a.toNat l) w s0
    ⟨m.outs.map (fun o =>
      let ea := w.g.rv64 a.toNat o.1
      if ea.toNat % 8 ≠ 0 then (o.1, .trap 8 0 ea none)
      else if sigfPlaced ea then o else (o.1, .trap 7 1 ea none)), m.eff⟩)

/-! ## Completion (Table 7-11) -/

/-- LOAD_COMPLETION (R174): the returned data of operation k of context c is written to its destination. -/
def execLoadCompletion (c k : Nat) (s : State) : Res :=
  .next (match (s.grp c).findOp k with
    | some o => match o.body with
      | .load ps => if o.done then s else s.modGrp c (fun g => (g.returnData k (ps.flatMap (·.data))).finishOp k)
      | _ => s
    | none => s)

/-- STORE_PERFORMED (R188): the bytes of operation k of context c are performed where their order allows; the operation
completes with the last of them. -/
def execStorePerformed (c k : Nat) (s : State) : Res :=
  .next (match (s.grp c).findOp k with
    | some o => match o.body with
      | .store _ _ => if o.done then s else performOp s c k (BitVec.allOnes 32)
      | _ => s
    | none => s)

end Sys2Proof.Machine
end

