-- ==== Sys2Proof/Machine/Sync.lean ====
section
/-! DEFINITION. FENCE, WAIT and the barriers: majors 36 to 38 (R184 to R196), the end of a fence, and the writing of queued
results (R92). -/
namespace Sys2Proof.Machine

/-! ## FENCE (R184 to R186) -/

def fenceLane (g : Grp) (l : Nat) : FenceLane :=
  let x := g.lane l
  ⟨l, x.preds, x.flags, x.srseed, x.run⟩

/-- The fence that the lanes of `m` pass at `pc`: what must be performed first, and what a rollback gives back. -/
def newFence (g : Grp) (scope : Nat) (pc : Dword) (m : Word) : Fence :=
  { id := g.nextOp, scope := scope, pc := pc
    after := (g.ops.filter (fun o => !o.done && (o.cls == .ld || o.cls == .st || o.cls == .rm))).map (·.id)
    lanes := (lanesOf m).map (fenceLane g)
    regs := g.v, queues := g.queues, part := g.part
    sectors := [], specOps := [], conflict := false }

/-- FENCE.scope (R184). -/
def execFence (u : Bool) (sc : BitVec 4) (p : BitVec 3) (s : State) : Res :=
  issue (.fence u sc p) s (fun w _ =>
    ⟨(lanesOf w.act).map (fun l => (l, if noRemote w.g (laneBit l) then .ok else .wait)),
     fun done s => if done = 0 then s else s.modGrp w.key (fun g =>
       let g := g.drainQueued
       { g with fences := g.fences ++ [newFence g sc.toNat w.pc done], nextOp := g.nextOp + 1 })⟩)

def Grp.findFence (g : Grp) (id : Nat) : Option Fence := g.fences.find? (fun f => f.id == id)
def Grp.dropFence (g : Grp) (id : Nat) : Grp := { g with fences := g.fences.filter (fun f => f.id != id) }
def Fence.mask (f : Fence) : Word := maskOf (f.lanes.map (·.lane))

/-- The operations a fence waits for are all performed. -/
def fenceReady (g : Grp) (f : Fence) : Bool :=
  f.after.all (fun id => g.ops.all (fun o => o.id != id || o.done))

/-- The samples taken past a fence are recorded, as undone where it was rolled back (R381). -/
def releaseSamples (s : State) (c id : Nat) (undone : Bool) : State :=
  let g := s.grp c
  let mine := g.samples.filter (fun x => x.1 == some id)
  if mine.isEmpty then s
  else mine.foldl (fun s x => s.traceAdd g.ctxid (if undone then x.2.set 3 (x.2.getD 3 0 ||| 1) else x.2))
    (s.setGrp c { g with samples := g.samples.filter (fun x => x.1 != some id) })

/-- A fence completes (R184, R186): what its scope makes visible is visible, and the speculative work stands. What early releases owe its
group has been made good (R245). -/
def completeFence (s : State) (c : Nat) (f : Fence) : State :=
  let s := releaseSamples (s.modGrp c (fun g =>
    (g.dropFence f.id).modLanes (f.lanes.map (·.lane)) (fun _ x => { x with held := x.held && g.tlanes != 0 }))) c f.id false
  let core := (s.grp c).core
  acquireAt (releaseAt s core f.scope) core f.scope

/-- One lane goes back to the FENCE word (R186): predicates, FLAGS, SRSEED, its count of the run, its program counter. -/
def backToFence (f : Fence) (x : FenceLane) (y : Lane) : Lane :=
  { y with pc := f.pc, preds := x.preds, flags := x.flags, srseed := x.srseed, run := x.run,
           sub := if x.run = 0 then 0 else f.mask, waiting := false, held := false, bkPass := false }

/-- What the lanes of a fence did of an operation is undone (R186): their stores are never performed, their loads drop; what lanes outside the
fence issued with them stays (R185). -/
def Fence.dropSpec (f : Fence) (o : PendOp) : PendOp :=
  if !f.specOps.contains o.id then o else
  let b := match o.body with
    | .load ps => OpBody.load (ps.filter (fun p => !inMask f.mask p.lane))
    | .store ps rel => OpBody.store (ps.filter (fun p => !inMask f.mask p.lane)) rel
    | b => b
  { o with lanes := o.lanes &&& ~~~ f.mask, body := b
           done := o.done || (match b with
             | .load ps => ps.isEmpty
             | .store ps _ => ps.isEmpty
             | _ => false) }

/-- The lanes that passed a fence return to it (R186): registers, held stores discarded, speculative loads dropped. -/
def rollbackFence (g : Grp) (f : Fence) : Grp :=
  let mine := fun (key : Nat) => inMask f.mask (key % 32)
  let g := { g with
    v := f.regs.foldl (fun v (e : Nat × Word) => if mine e.1 then Bank.set 0 v e.1 e.2 else v) (g.v.filter (fun (e : Nat × Word) => !mine e.1))
    sfq := (g.sfq.map (fun (q : QueuedResult) => (⟨q.keys.filter (fun (e : Nat × Word) => !mine e.1)⟩ : QueuedResult))).filter (fun q => !q.keys.isEmpty)
    queues := f.queues, part := f.part
    ops := g.ops.map f.dropSpec }
  let g := f.lanes.foldl (fun g x => g.modLane x.lane (backToFence f x)) g
  (g.dropFence f.id).retireOps

def undoFence (s : State) (c : Nat) (f : Fence) : State := (releaseSamples s c f.id true).modGrp c (fun g => rollbackFence g f)

/-- FENCE_COMPLETION (R185). -/
def execFenceCompletion (c k : Nat) (s : State) : Res :=
  .next (match (s.grp c).findFence k with
    | some f => if !f.conflict && fenceReady (s.grp c) f then
        let s' := settleFor s (s.grp c) f.scope
        if !(owedTo s' (s.grp c) f.scope).isEmpty then s'
        else match (s'.grp c).findFence k with
          | some f => if f.conflict then s' else completeFence s' c f
          | none => s'
      else s
    | none => s)

/-- FENCE_CONFLICT_ROLLBACK (R186). -/
def execFenceConflictRollback (c k : Nat) (s : State) : Res :=
  .next (match (s.grp c).findFence k with
    | some f => if f.conflict then undoFence s c f else s
    | none => s)

/-! ## WAIT (R187) -/

/-- A counter is at or below its field; 31 is "do not care". -/
def waitMet (n : Nat) (f : BitVec 5) : Bool := f == 31#5 || decide (n ≤ f.toNat)

/-- WAIT (R187). -/
def execWait (u : Bool) (l sc t r c : BitVec 5) (s : State) : Res :=
  issue (.wait u l sc t r c) s (fun w _ =>
    let met := waitMet (w.g.count .ld) l && waitMet (w.g.count .st) sc && waitMet (w.g.count .tl) t &&
      waitMet (w.g.count .rm) r && waitMet (w.g.count .cp) c
    ⟨(lanesOf w.act).map (fun x => (x, if met then .ok else .wait)), fun _ s => s⟩)

/-! ## Barriers (R189 to R196) -/

/-- The ordering scope of a barrier level (Table 7-12). -/
def levelScope (level : Nat) : Nat := level + 1

/-- A lane cannot arrive yet (R192): it is set in the current phase, or a memory operation it issued before is not performed. -/
def mustWaitToArrive (s : State) (w : View) (level idx l : Nat) : Bool :=
  inMask ((s.bar (w.g.barRef level idx)).mask w.g.who) l || !noRemote w.g (laneBit l) ||
    !drained ((drainStores s w.key (laneBit l)).grp w.key) (laneBit l)

/-- The lanes of `m` arrive: their stores performed, the release made, their bits set. -/
def arriveGroup (s : State) (w : View) (level idx : Nat) (m : Word) : State :=
  if m = 0 then s else
  let s := releaseAt (releaseLanes s w.key m) w.g.core (levelScope level)
  arriveLanes s (s.grp w.key) level idx m

/-- BARV (R192). -/
def execBarv (u : Bool) (l : BitVec 2) (i : BitVec 4) (p : BitVec 3) (s : State) : Res :=
  issue (.barv u l i p) s (fun w s =>
    ⟨(lanesOf w.act).map (fun x => (x, if mustWaitToArrive s w l.toNat i.toNat x then .wait else .ok)),
     fun done s => arriveGroup s w l.toNat i.toNat done⟩)

/-- The damage trap of a wait on phase `ph` (R195): TRAPEN.DMG is set, D = 1, and the phase is not yet reported. A feeder context heeds its
own TRAPEN, which stays 0, and takes none (DESIGN CHOICE, log entry 86). -/
def dmgTraps (s : State) (g : Grp) (level idx ph : Nat) (dmg : Bool) : Bool :=
  g.trapen.getLsbD 0 && dmg &&
    !(g.reported.contains (level, idx, ph) && (s.bar (g.barRef level idx)).phase == ph + 1)

def dmgTrap (level idx : Nat) : LaneOut := .trap 9 (level * 64 + idx) 0 none

/-- The group marks a phase of a barrier as reported; the mark of an older phase clears. -/
def markReported (g : Grp) (level idx ph : Nat) : Grp :=
  { g with reported := g.reported.filter (fun x => x.1 != level || x.2.1 != idx) ++ [(level, idx, ph)] }

/-- BARW (R193). -/
def execBarw (u : Bool) (l : BitVec 2) (i : BitVec 4) (q : BitVec 1) (p : BitVec 3) (s : State) : Res :=
  issue (.barw u l i q p) s (fun w s =>
    let b := s.bar (w.g.barRef l.toNat i.toNat)
    let waits := b.parity != q.toNat
    let traps := !waits && dmgTraps s w.g l.toNat i.toNat (b.phase - 1) b.lastD
    ⟨(lanesOf w.act).map (fun x => (x, if waits then .wait else if traps then dmgTrap l.toNat i.toNat else .ok)),
     fun done s =>
       let s := if traps then s.modGrp w.key (fun g => markReported g l.toNat i.toNat (b.phase - 1)) else s
       if done = 0 then s else barAcquire s w.g l.toNat i.toNat⟩)

/-- The mark of the arrival that a lane made through the BARS at `pc`. -/
def barMark (x : Lane) (level idx : Nat) (pc : Dword) : Option BarMark :=
  x.bars.find? (fun m => m.level == level && m.idx == idx && m.pc == pc)

/-- What becomes of a lane at BARS: it arrives and stays, waits for the phase of its arrival, or completes on it. -/
def barsOut (s : State) (w : View) (level idx l : Nat) : LaneOut :=
  match barMark (w.g.lane l) level idx w.pc with
  | none => if mustWaitToArrive s w level idx l then .wait else .hold
  | some m => match m.done with
    | none => .wait
    | some (ph, d) => if dmgTraps s w.g level idx ph d then dmgTrap level idx else .ok

/-- BARS's effect: the lanes without a mark arrive and are marked; the others drop their mark and acquire. -/
def barsEff (w : View) (level idx : Nat) (outs : List (Nat × LaneOut)) (done : Word) (s : State) : State :=
  let marked := fun (l : Nat) => (barMark (w.g.lane l) level idx w.pc).isSome
  let new := maskOf ((lanesOf done).filter (fun l => !marked l))
  let old := (lanesOf done).filter marked
  let s := outs.foldl (fun s o => if o.2 = dmgTrap level idx then
      match (barMark (w.g.lane o.1) level idx w.pc).bind (·.done) with
      | some x => s.modGrp w.key (fun g => markReported g level idx x.1)
      | none => s
    else s) s
  let s := s.modGrp w.key (fun g => (g.modLanes old (fun _ x =>
      { x with bars := x.bars.filter (fun m => !(m.level == level && m.idx == idx && m.pc == w.pc)) })).modLanes (lanesOf new)
    (fun _ x => { x with bars := x.bars ++ [⟨level, idx, w.pc, none⟩], waiting := true }))
  let s := if old.isEmpty then s else barAcquire s w.g level idx
  arriveGroup s w level idx new

/-- BARS (R194). -/
def execBars (u : Bool) (l : BitVec 2) (i : BitVec 4) (p : BitVec 3) (s : State) : Res :=
  issue (.bars u l i p) s (fun w s =>
    let outs := (lanesOf w.act).map (fun x => (x, barsOut s w l.toNat i.toNat x))
    ⟨outs, barsEff w l.toNat i.toNat outs⟩)

/-- BARST's value (Table 7-14) for lane l; in a feeder context A speaks of lane 0 of its group (DESIGN CHOICE, log entry 85). -/
def barstOf (s : State) (g : Grp) (level idx l : Nat) : Word :=
  let b := s.bar (g.barRef level idx)
  let k := g.kern.bar level idx
  BitVec.ofNat 32 (b.parity + bit64 b.lastD 1 + bit64 (inMask (b.mask g.who) l) 2 +
    (b.arrived.length + b.fcount + b.ccount) * 2 ^ 4 + (k.1 + k.2.1 + k.2.2.1) * 2 ^ 18)

/-- BARST (R196). -/
def execBarst (u : Bool) (d : BitVec 6) (l : BitVec 2) (i : BitVec 4) (p : BitVec 3) (s : State) : Res :=
  issue (.barst u d l i p) s (fun w s => perLane w (fun g x => g.wv d.toNat x (barstOf s w.g l.toNat i.toNat x)))

/-! ## Queued results (R92) -/

/-- QUEUED_RESULT_WRITE (R92). -/
def execQueuedResultWrite (c : Nat) (s : State) : Res :=
  .next (s.modGrp c (fun g => match g.sfq with
    | [] => g
    | q :: rest => { g.writeKeys q.keys with sfq := rest }))

end Sys2Proof.Machine
end

