-- ==== Sys2Proof/Machine/Tasks.lean ====
section
/-! DEFINITION. Spawn, join and work stealing: major 42 without LAUNCH (R147 to R166), the deques and the spill rings. -/
namespace Sys2Proof.Machine

/-! ## Reading and writing the memory of a context -/

/-- A range of a context's addresses cut at 64 KiB boundaries: address, offset in the range, length. -/
def segsOf (va : Dword) (n : Nat) : List (Dword × Nat × Nat) :=
  if n = 0 then [] else
  let o := va.toNat % 65536
  (List.range ((o + n - 1) / 65536 + 1)).map (fun i =>
    let lo := if i = 0 then 0 else i * 65536 - o
    let hi := Nat.min n ((i + 1) * 65536 - o)
    (va + BitVec.ofNat 64 lo, lo, hi - lo))

/-- What stops an access of a range: the failed translation and the byte it failed at. -/
structure RangeFault where
  why  : Xlat
  addr : Dword
  deriving DecidableEq, Repr

/-- The places of a range, segment by segment: location, key tag, offset, length. -/
def rangePlaces (s : State) (who ctxid : Nat) (need : Need) (va : Dword) (n : Nat) :
    Except RangeFault (List (Nat × Nat × Nat × Nat)) :=
  (segsOf va n).mapM (fun x =>
    if regionOf x.1 != .global then .error ⟨.noPage, x.1⟩ else
    match translate s who ctxid (s.ctx ctxid) need x.1 with
    | .ok phys key _ => .ok (phys, keyTag s key, x.2.1, x.2.2)
    | e => .error ⟨e, x.1⟩)

/-- The bytes of a range of global addresses, read at their homes; a poisoned word is consumed (R276). -/
def readRange (s : State) (who ctxid : Nat) (va : Dword) (n : Nat) : Except RangeFault (List Byte) :=
  (rangePlaces s who ctxid .read va n).bind (fun ps =>
    match ps.findSome? (fun p => (s.poisoned none p.1 p.2.2.2).map (fun w => (w, p.2.2.1))) with
    | some (w, off) => .error ⟨.violation 2 w, va + BitVec.ofNat 64 off⟩
    | none => .ok (ps.flatMap (fun p => s.readBytes none p.2.1 p.1 p.2.2.2)))

/-- Writes a range at its homes, all of it or nothing. -/
def writeRange (s : State) (who ctxid : Nat) (va : Dword) (d : List Byte) : Except RangeFault State :=
  (rangePlaces s who ctxid .write va d.length).map (fun ps =>
    ps.foldl (fun s p => s.writeBytes none none p.2.1 p.1 ((d.drop p.2.2.1).take p.2.2.2)) s)

/-! ## Frames (Table 6-1) -/

/-- The 64 bytes of a frame; `isVoid` marks a spill slot emptied by a take. -/
def frameBytes (f : Frame) (isVoid : Bool) : List Byte :=
  natToBytes 8 f.entry.toNat ++ natToBytes 8 f.arg.toNat ++ natToBytes 8 f.join.toNat ++
  natToBytes 4 (bit64 f.batch 0 + bit64 f.resv 1 + bit64 isVoid 2 + f.team % 16 * 256) ++ natToBytes 4 (f.grid % 65536) ++
  natToBytes 4 f.count ++ natToBytes 4 f.size ++ natToBytes 4 f.next ++ natToBytes 4 (f.origin % 128) ++
  natToBytes 8 f.seq.toNat ++ natToBytes 8 0

def fieldAt (d : List Byte) (off n : Nat) : Nat := bytesToNat ((d.drop off).take n)

def frameOf (d : List Byte) : Frame :=
  let fl := fieldAt d 0x18 4
  { entry := BitVec.ofNat 64 (fieldAt d 0 8), arg := BitVec.ofNat 64 (fieldAt d 8 8), join := BitVec.ofNat 64 (fieldAt d 16 8)
    batch := fl % 2 == 1, resv := fl / 2 % 2 == 1, team := fl / 256 % 16, grid := fieldAt d 0x1C 2
    count := fieldAt d 0x20 4, size := fieldAt d 0x24 4, next := fieldAt d 0x28 4, origin := fieldAt d 0x2C 4 % 128
    seq := BitVec.ofNat 64 (fieldAt d 0x30 8) }
def frameVoid (d : List Byte) : Bool := fieldAt d 0x18 4 / 4 % 2 == 1

/-! ## Spill rings (R150, R151) -/

def ringSlots : Nat := 65535
def ringBase (s : State) (ctxid core : Nat) : Dword := (s.ctx ctxid).spill + BitVec.ofNat 64 (core * 2 ^ 22)
def slotAddr (s : State) (ctxid core i : Nat) : Dword := ringBase s ctxid core + BitVec.ofNat 64 (64 + 64 * (i % ringSlots))

/-- A ring's header (Table 6-3). -/
structure RingHead where
  head   : Nat
  used   : Nat
  hwm    : Nat
  blocks : Nat
  deriving DecidableEq, Repr

def readHead (s : State) (ctxid core : Nat) : Except RangeFault RingHead :=
  (readRange s (whoCore core) ctxid (ringBase s ctxid core) 16).map (fun d => ⟨fieldAt d 0 4, fieldAt d 4 4, fieldAt d 8 4, fieldAt d 12 4⟩)
def writeHead (s : State) (ctxid core : Nat) (h : RingHead) : Except RangeFault State :=
  writeRange s (whoCore core) ctxid (ringBase s ctxid core)
    (natToBytes 4 h.head ++ natToBytes 4 h.used ++ natToBytes 4 h.hwm ++ natToBytes 4 (h.blocks % 2 ^ 32))

/-- The occupied slots of a ring, oldest first: slot number, whether VOID, frame. -/
def ringFrames (s : State) (ctxid core : Nat) : Except RangeFault (List (Nat × Bool × Frame)) := do
  let h ← readHead s ctxid core
  (List.range h.used).mapM (fun i =>
    let slot := (h.head + i) % ringSlots
    (readRange s (whoCore core) ctxid (slotAddr s ctxid core slot) 64).map (fun d => (slot, frameVoid d, frameOf d)))

/-- The frames of a grid in a ring, oldest first; a ring that cannot be read holds none. -/
def ringOf (s : State) (grid core : Nat) : List (Nat × Frame) :=
  match ringFrames s (s.grid grid).ctxid core with
  | .ok fs => (fs.filter (fun x => !x.2.1 && x.2.2.grid == grid % 65536)).map (fun x => (x.1, x.2.2))
  | .error _ => []

/-! ## Deques (R148, R149) -/

def State.deque (s : State) (core : Nat) : Deque := Bank.get {} s.deques core
def State.setDeque (s : State) (core : Nat) (d : Deque) : State := { s with deques := Bank.set {} s.deques core d }

/-- Puts a frame in its place by age: SEQ decides (R148). -/
def insertAge (f : Frame) : List Frame → List Frame
  | [] => [f]
  | g :: r => if f.seq.toNat < g.seq.toNat then f :: g :: r else g :: insertAge f r

/-- The frames of a grid that a core's ring holds, as the core counts them. -/
def State.ringed (s : State) (grid core : Nat) : Nat := Bank.get 0 (s.deque core).ringed grid
def State.setRinged (s : State) (grid core n : Nat) : State :=
  let d := s.deque core
  s.setDeque core { d with ringed := Bank.set 0 d.ringed grid n }

/-- Appends frames after a ring's newest slot, as one block. -/
def appendRing (s : State) (ctxid core : Nat) (fs : List Frame) : Except RangeFault State := do
  let h ← readHead s ctxid core
  let s ← fs.zipIdx.foldlM (fun s x => writeRange s (whoCore core) ctxid (slotAddr s ctxid core (h.head + h.used + x.2)) (frameBytes x.1 false)) s
  let used := h.used + fs.length
  (writeHead s ctxid core ⟨h.head, used, Nat.max h.hwm used, h.blocks + 1⟩).map (fun s =>
    fs.foldl (fun s f => s.setRinged f.grid core (s.ringed f.grid core + 1)) s)

/-- Slot release: HEAD advances past leading VOID slots and USED shrinks past trailing ones. -/
def releaseSlots (s : State) (ctxid core : Nat) : Except RangeFault State := do
  let h ← readHead s ctxid core
  let fs ← ringFrames s ctxid core
  let lead := (fs.takeWhile (fun x => x.2.1)).length
  let rest := fs.drop lead
  let used := rest.length - (rest.reverse.takeWhile (fun x => x.2.1)).length
  writeHead s ctxid core { h with head := if used = 0 ∧ lead = 0 then h.head else (h.head + lead) % ringSlots, used := used }

/-- Marks slots of a grid VOID. -/
def voidSlots (s : State) (grid core : Nat) (xs : List (Nat × Frame)) : Except RangeFault State := do
  let ctxid := (s.grid grid).ctxid
  let s ← xs.foldlM (fun s x => writeRange s (whoCore core) ctxid (slotAddr s ctxid core x.1) (frameBytes x.2 true)) s
  (releaseSlots s ctxid core).map (fun s => s.setRinged grid core (s.ringed grid core - xs.length))

/-- What a push or take comes to. -/
inductive Pushed (α : Type) where
  | ok (x : α)
  | full
  | fault (f : RangeFault)

/-- Writes the entries of each context to its ring, one block each; a fault in another context's ring leaves its entries in
the deque (R152). Answers the frames written. -/
def spillContexts (core own : Nat) : List Nat → List Frame → State → List Frame → Except RangeFault (State × List Frame)
  | [], _, s, acc => .ok (s, acc)
  | c :: rest, fs, s, acc =>
    let mine := fs.filter (fun f => (s.grid f.grid).ctxid == c)
    match appendRing s c core mine with
    | .ok s' => spillContexts core own rest fs s' (acc ++ mine)
    | .error e => if c = own then .error e else spillContexts core own rest fs s acc

/-- Spill (R151, R152): the 32 oldest entries go to their rings; the lane waits while some ring lacks room. -/
def spill (s : State) (core own : Nat) : Pushed State :=
  let d := s.deque core
  let old := d.frames.take 32
  let ctxs := (old.map (fun f => (s.grid f.grid).ctxid)).eraseDups
  let noRoom := ctxs.any (fun c => match readHead s c core with
    | .ok h => decide (h.used + (old.filter (fun f => (s.grid f.grid).ctxid == c)).length > ringSlots)
    | .error _ => false)
  if noRoom then .full
  else match spillContexts core own ctxs old s [] with
    | .error e => .fault e
    | .ok (s', gone) =>
      if gone.isEmpty then .full
      else .ok (s'.setDeque core { s'.deque core with frames := (s'.deque core).frames.filter (fun f => !gone.contains f) })

/-- A push at the bottom of a core's deque (R148, R151): the frame takes the counter's SEQ, and what its lane's release still awaits. -/
def pushFrame (s : State) (core own : Nat) (f : Frame) (after : List (Nat × Nat × Nat)) : Pushed State :=
  let put := fun (s : State) =>
    let d := s.deque core
    s.setDeque core { d with
      frames := d.frames ++ [{ f with seq := d.seq, origin := core }], seq := d.seq + 1
      awaiting := d.awaiting.filter (fun x => !opsPerformed s x.2) ++ (if after.isEmpty then [] else [(d.seq, after)]) }
  if (s.deque core).frames.length < 64 then .ok (put s)
  else match spill s core own with
    | .ok s' => .ok (put s')
    | .full => .full
    | .fault e => .fault e

/-! ## The join counter (R154, R161, R165) -/

/-- The place of a join counter, or the lane's trap (R155, checks 3 to 5). -/
def joinPlace (s : State) (g : Grp) (need : Need) (j : Dword) : AccRes :=
  if j.toNat % 8 ≠ 0 then .trap 8 0
  else if regionOf j != .global then .trap 7 1
  else translated s g need j false true

/-! ## SPAWN and SPAWNB (R154, R155) -/

/-- What one lane spawns: entry, join address, argument, records, record size. -/
structure SpawnReq where
  entry : Dword
  join  : Dword
  arg   : Dword
  n     : Nat
  size  : Nat
  batch : Bool
  deriving DecidableEq, Repr

def spawnCheck (s : State) (g : Grp) (q : SpawnReq) : LaneOut :=
  if q.entry.toNat % 4 ≠ 0 then .trap 8 1 q.entry none
  else if q.batch && decide (q.size > 0x100000) then .trap 1 5 0 none
  else if q.join = 0 then .ok
  else match joinPlace s g .write q.join with
    | .ok _ => .ok
    | .trap c d => .trap c d q.join none
    | .violation c p => .violation c p
    | .fabric _ _ => .trap 7 1 q.join none

/-- A store of lane l that touches 8 bytes from loc. -/
def PStore.onWord (p : PStore) (l loc : Nat) : Bool := p.lane == l && decide (p.loc < loc + 8) && decide (loc < p.loc + p.data.length)

/-- The last of some stores that touches a word takes a join increment of n, which is performed with it (log entry 80). -/
def addInc (l loc n : Nat) : List PStore → List PStore
  | [] => []
  | p :: r => if p.onWord l loc && !r.any (fun q => q.onWord l loc) then { p with incs := p.incs ++ [(loc, n)] } :: r else p :: addInc l loc n r

/-- The youngest operation with a store of lane l to a word takes a join increment. -/
def Grp.deferInc (g : Grp) (l loc n : Nat) : Grp :=
  match g.ops.reverse.find? (fun o => match o.body with
    | .store todo _ => todo.any (fun p => p.onWord l loc)
    | _ => false) with
  | some o => match o.body with
    | .store todo rel => g.setOp { o with body := .store (addInc l loc n todo) rel }
    | _ => g
  | none => g

/-- The atomic step of a join counter: a poisoned word is consumed (R276); a store of the lane's own to the word comes first (R175). -/
def joinStep (s : State) (w : View) (l : Nat) (j : Dword) (f : Dword → Dword) : LaneOut × State :=
  if j = 0 then (.ok, s)
  else match joinPlace s w.g .write j with
    | .ok p => match s.poisoned none p.loc 8 with
      | some a => (.violation 2 a, s)
      | none => if pendingOver (s.grp w.key) l p.loc 8 then (.wait, s) else (.ok, stepWord s (w.key, l) w.g.core p.tag p.loc f)
    | .trap c d => (.trap c d j none, s)
    | .violation c p => (.violation c p, s)
    | .fabric _ _ => (.trap 7 1 j none, s)

/-- The step of the counter that a spawn makes: it waits for nothing (R167); behind the lane's own store that cannot be performed yet it is
made with that store, before which no lane takes the frame (log entry 80). -/
def spawnStep (s : State) (w : View) (l : Nat) (j : Dword) (n : Nat) : LaneOut × State :=
  match joinStep s w l j (fun x => x + BitVec.ofNat 64 n) with
  | (.wait, _) => (.ok, match joinPlace s w.g .write j with
    | .ok p => s.modGrp w.key (fun g => g.deferInc l p.loc n)
    | _ => s)
  | r => r

/-- One lane's SPAWN: its outcome and the state after it. The push releases at device scope and does not wait for what the lane's
release awaits (R167): the frame does. -/
def spawnLane (w : View) (q : SpawnReq) (l : Nat) (s : State) : LaneOut × State :=
  match spawnCheck s w.g q with
  | .ok =>
    if q.n = 0 then (.ok, s)
    else
      let s1 := releaseAt (releaseLanes s w.key (laneBit l)) w.g.core 3
      match spawnStep s1 w l q.join q.n with
      | (.ok, s2) =>
        let f : Frame := { entry := q.entry, arg := q.arg, join := q.join, batch := q.batch, resv := false, team := w.g.team,
                           grid := w.g.grid, count := q.n, size := q.size, next := 0, origin := w.g.core, seq := 0 }
        match pushFrame s2 w.g.core w.g.ctxid f (unperformed (s2.grp w.key) w.key (laneBit l)) with
        | .ok s3 => (.ok, s3)
        | .full => (.wait, s)
        | .fault e => match e.why with
          | .violation c p => (.violation c p, s)
          | _ => (.late 6 0 e.addr, s)
      | (o, _) => (o, s)
  | o => (o, s)

/-- The lanes in ascending order, each on the state the one before left (R154). -/
def spawnLanes (w : View) (q : Nat → SpawnReq) : List Nat → State → List (Nat × LaneOut) × State
  | [], s => ([], s)
  | l :: rest, s =>
    let r := spawnLane w (q l) l s
    let t := spawnLanes w q rest r.2
    ((l, r.1) :: t.1, t.2)

def spawnMeaning (q : View → Nat → SpawnReq) (w : View) (s : State) : Meaning :=
  ⟨(spawnLanes w (q w) (lanesOf w.act) s).1, fun done s => (spawnLanes w (q w) (lanesOf done) s).2⟩

/-- SPAWN (R154). -/
def execSpawn (u : Bool) (d a b : BitVec 6) (p : BitVec 3) (s : State) : Res :=
  issue (.spawn u d a b p) s (spawnMeaning (fun w l =>
    ⟨w.g.rv64 a.toNat l, w.g.rv64 d.toNat l, w.g.rv64 b.toNat l, 1, 0, false⟩))

/-- SPAWNB (R154). -/
def execSpawnb (u : Bool) (d a b : BitVec 6) (p : BitVec 3) (s : State) : Res :=
  issue (.spawnb u d a b p) s (spawnMeaning (fun w l =>
    ⟨w.g.rv64 a.toNat l, w.g.rv64 d.toNat l, w.g.rv64 b.toNat l, (w.g.rv (b.toNat + 2) l).toNat,
     (w.g.rv (b.toNat + 3) l).toNat, true⟩))

/-! ## TAKE (R156 to R160) -/

/-- The lanes of a grid on a core that have a current task. -/
def busyLanes (s : State) (grid core : Nat) : Nat :=
  ((s.grps.filter (fun e => !e.2.isFeeder && e.2.grid == grid && e.2.core == core)).map (fun e =>
    (e.2.live.filter (fun l => (e.2.lane l).task.isSome)).length)).foldl (· + ·) 0

def taskLanes (g : Grp) : Nat := (g.live.filter (fun l => (g.lane l).task.isSome)).length

/-- The census of a grid (R159): frames in every deque and ring, and lanes with a current task, saved groups' lanes included. -/
def census (s : State) (grid : Nat) : Nat :=
  (s.deques.map (fun e => (e.2.frames.filter (fun f => f.grid == grid)).length)).foldl (· + ·) 0 +
  ((List.range 128).map (fun c => s.ringed grid c)).foldl (· + ·) 0 +
  ((s.grps.filter (fun e => !e.2.isFeeder && e.2.grid == grid)).map (fun e => taskLanes e.2)).foldl (· + ·) 0 +
  ((s.sched.saved.filter (fun c => c.grid == grid)).map (fun c => (c.groups.map (fun x => taskLanes x.1)).foldl (· + ·) 0)).foldl (· + ·) 0

/-- Where a frame stands: a core's deque, or a slot of its ring. -/
inductive Stand where
  | deque (core : Nat)
  | ring (core slot : Nat)
  deriving DecidableEq, Repr

def Stand.core : Stand → Nat
  | .deque c => c
  | .ring c _ => c

/-- Replaces a frame where it stands, or takes it away. -/
def updateFrame (s : State) (at_ : Stand) (f : Frame) (new : Option Frame) : Except RangeFault State :=
  match at_ with
  | .deque c =>
    let d := s.deque c
    .ok (s.setDeque c { d with frames := match new with
      | some f' => d.frames.map (fun x => if x = f then f' else x)
      | none => d.frames.filter (fun x => x ≠ f) })
  | .ring c slot =>
    let ctxid := (s.grid f.grid).ctxid
    match new with
    | some f' => writeRange s (whoCore c) ctxid (slotAddr s ctxid c slot) (frameBytes f' false)
    | none => voidSlots s f.grid c [(slot, f)]

/-- What the push of a frame awaits is performed (R164). -/
def frameReady (s : State) (core : Nat) (f : Frame) : Bool :=
  (s.deque core).awaiting.all (fun x => x.1 != f.seq || opsPerformed s x.2)

/-- A lane may take or reserve the frame: no thief has reserved it (R162), and its push is performed. A lane passes a frame that is not free
for the next one that is, and a core that holds no free one (DESIGN CHOICE, log entry 89). -/
def frameFree (s : State) (core : Nat) (f : Frame) : Bool := !f.resv && frameReady s core f

/-- Refill (R151): the newest frames of the grid move from the ring to the deque, at most 32 and as many as are free; a frame that a
thief has reserved stays, and those older than it. -/
def refill (s : State) (grid core : Nat) : Except RangeFault State :=
  let d := s.deque core
  let n := Nat.min 32 (64 - d.frames.length)
  let fs := ((ringOf s grid core).reverse.takeWhile (fun x => !x.2.resv)).reverse
  let moved := fs.drop (fs.length - n)
  if n = 0 ∨ moved.isEmpty then .ok s
  else (voidSlots s grid core moved).map (fun s =>
    let d := s.deque core
    s.setDeque core { d with frames := (moved.map (fun x => { x.2 with grid := grid })).foldl (fun fs f => insertAge f fs) d.frames })

/-- The newest frame of a grid that a lane of the core may take, after the refill it needs (R151, R158). -/
def bottomFrame (s : State) (grid core : Nat) : Except RangeFault (Option (Stand × Frame) × State) :=
  let own := fun (s : State) => ((s.deque core).frames.filter (fun f => f.grid == grid && frameFree s core f)).getLast?
  match own s with
  | some f => .ok (some (.deque core, f), s)
  | none =>
    if s.ringed grid core = 0 then .ok (none, s)
    else (ringFrames s (s.grid grid).ctxid core).bind (fun _ => (refill s grid core).map (fun s =>
      match own s with
      | some f => (some (.deque core, f), s)
      | none => (((ringOf s grid core).filter (fun x => frameFree s core x.2)).getLast?.map
          (fun x => (.ring core x.1, { x.2 with grid := grid })), s)))

/-- The frames of a grid on a core, in its deque and its ring. -/
def framesAt (s : State) (grid core : Nat) : List (Stand × Frame) :=
  ((s.deque core).frames.filter (fun f => f.grid == grid)).map (fun f => (Stand.deque core, f)) ++
  (ringOf s grid core).map (fun x => (Stand.ring core x.1, { x.2 with grid := grid }))

/-- The oldest of some frames, by SEQ. -/
def oldest (fs : List (Stand × Frame)) : Option (Stand × Frame) :=
  fs.foldl (fun b x => match b with
    | none => some x
    | some y => if x.2.seq.toNat < y.2.seq.toNat then some x else some y) none

/-- The oldest frame of a grid on a core that a thief may reserve (R160, R162). -/
def topFrame (s : State) (grid core : Nat) : Option (Stand × Frame) :=
  oldest ((framesAt s grid core).filter (fun x => frameFree s core x.2))

/-- A core on which the grid has a resident team (Table 1-17): residence ends where a save begins. -/
def hasTeam (s : State) (grid core : Nat) : Bool :=
  s.sched.teams.any (fun e => e.1 / 2 ^ 20 == grid && e.2.used && !e.2.retiring && !e.2.retired && e.2.core == core &&
    ((s.clus (e.1 / 16)).st == .resident || (s.clus (e.1 / 16)).st == .draining))

def coreDist (a b : Nat) : Nat :=
  (Nat.max (rowOf a) (rowOf b) - Nat.min (rowOf a) (rowOf b)) + (Nat.max (colOf a) (colOf b) - Nat.min (colOf a) (colOf b))

/-- The victim among cores at one die and distance (R160): the first above the last choice, cyclically. -/
def pickVictim (last : Option Nat) (victims : List Nat) : Option Nat :=
  match last with
  | none => victims.head?
  | some c => match victims.find? (fun v => v > c) with
    | some v => some v
    | none => victims.head?

/-- Steps 1 and 2 of R160 by die (0 own, 1 other) and distance, then step 3. Answers the frame, and the choice to remember. -/
def stealFrom (s : State) (grid core : Nat) : Option (Stand × Frame × Option (Nat × Nat)) :=
  let near := (List.range 32).findSome? (fun i =>
    let other := i / 16
    let dist := i % 16
    let die := if other = 0 then dieOf core else 1 - dieOf core
    let cs := ((List.range 64).map (fun x => die * 64 + x)).filter (fun c =>
      c != core && coreDist c core == dist && hasTeam s grid c && (topFrame s grid c).isSome)
    (pickVictim (Bank.get none (s.deque core).chosen i) cs).bind (fun v =>
      (topFrame s grid v).map (fun x => (x.1, x.2, some (i, v)))))
  match near with
  | some x => some x
  | none => (List.range 128).findSome? (fun c =>
      if c = core ∨ hasTeam s grid c then none
      else (oldest (((ringOf s grid c).map (fun x => (Stand.ring c x.1, { x.2 with grid := grid }))).filter (fun x => frameFree s c x.2))).map
        (fun x => (x.1, x.2, none)))

/-- What TAKE gives one lane. -/
inductive Taken where
  | got (entry arg : Dword) (n : Nat) (batch stolen : Bool) (join : Dword)
  | empty
  | wait
  | fault (f : RangeFault)
  deriving DecidableEq, Repr

/-- W of a card (R158), sampled when the TAKE reaches it and fixed for the rest of that TAKE, however often its lanes issue it: `ws` holds
those it has reached, by the holding core and SEQ. -/
def cardW (s : State) (acts : Nat) (ws : List ((Nat × Dword) × Nat)) (core : Nat) (f : Frame) : Nat :=
  match ws.find? (fun x => x.1 == (core, f.seq)) with
  | some x => x.2
  | none => Nat.max 1 (acts + busyLanes s f.grid core)

/-- What a frame's push released is visible to its taker (R164). -/
def releaseFrame (s : State) (core : Nat) (f : Frame) : State :=
  let mine := (s.deque core).awaiting.filter (fun x => x.1 == f.seq)
  if mine.isEmpty then s else
  let s := (mine.flatMap (·.2)).foldl (fun s a => s.flushCore a.2.2) s
  s.setDeque core { s.deque core with awaiting := (s.deque core).awaiting.filter (fun x => x.1 != f.seq) }

/-- Deals from a frame (R158): the whole of a plain task, a chunk of a card; a reservation is cleared (R162). -/
def deal (W : Nat) (at_ : Stand) (f : Frame) (stolen : Bool) (s : State) : Taken × State :=
  let rem := f.count - f.next
  let n := if f.batch then Nat.min rem (Nat.max 1 ((rem + 2 * W - 1) / (2 * W))) else 1
  let arg := if f.batch then f.arg + BitVec.ofNat 64 (f.next * f.size) else f.arg
  let f' : Option Frame := if f.batch && f.next + n != f.count then some { f with next := f.next + n, resv := false } else none
  match updateFrame s at_ f f' with
  | .ok s' => (.got f.entry arg n f.batch stolen f.join, releaseFrame s' at_.core f)
  | .error e => (.fault e, s)

/-- The frame that a lane's TAKE has reserved (R162). -/
def reserved (s : State) (k l grid : Nat) : Option (Stand × Frame) :=
  (((s.grp k).lane l).resv).bind (fun v => (framesAt s grid v.core).find? (fun x => x.2.seq.toNat == v.seq && x.2.resv))

/-- The choice of victim that a reservation made is as before, unless the core has made another since (R160, R163). -/
def undoChoice (s : State) (core : Nat) (v : Resv) : State :=
  match v.choice with
  | some (i, old, new) =>
    let d := s.deque core
    if Bank.get none d.chosen i = some new then s.setDeque core { d with chosen := Bank.set none d.chosen i old } else s
  | none => s

/-- A lane leaves the TAKE at which it waits (R140, R163): a reservation of its own is rolled back, RESV clears, the frame stands as it
stood, and the search as it was. -/
def rollbackTake (s : State) (k l : Nat) : State :=
  let s := if (s.grp k).takes.isEmpty then s else s.modGrp k (fun g => { g with takes := g.takesWithout (laneBit l) })
  match ((s.grp k).lane l).resv with
  | none => s
  | some v =>
  let s' := match reserved s k l (s.grp k).grid with
    | some (at_, f) => match updateFrame s at_ f (some { f with resv := false }) with
      | .ok s' => s'
      | .error _ => s
    | none => s
  undoChoice (s'.modGrp k (fun g => g.modLane l (fun x => { x with resv := none }))) (s.grp k).core v
def rollbackTakes (s : State) (k : Nat) (ls : List Nat) : State := ls.foldl (fun s l => rollbackTake s k l) s

/-- The reserve step of a steal (R162): RESV on the victim's frame; the transfer comes when the lane, still waiting at its TAKE, is
served again. A ring that cannot be written traps the thief as a refill does (log entry 81). -/
def reserve (s : State) (k l core : Nat) (at_ : Stand) (f : Frame) (choice : Option (Nat × Nat)) : Taken × State :=
  match updateFrame s at_ f (some { f with resv := true }) with
  | .error e => (.fault e, s)
  | .ok s =>
    let d := s.deque core
    let s := match choice with
      | some (i, v) => s.setDeque core { d with chosen := Bank.set none d.chosen i (some v) }
      | none => s
    let v : Resv := ⟨at_.core, f.seq.toNat, choice.map (fun c => (c.1, Bank.get none d.chosen c.1, c.2))⟩
    (.wait, s.modGrp k (fun g => g.modLane l (fun x => { x with resv := some v })))

/-- Take(l) (R158, R160, R162) for lane l of context k: the transfer of what it has reserved, else the core's newest frame, else a
reservation of a victim's oldest. Answers the card that was dealt from, with its W. -/
def takeOne (k l acts grid core : Nat) (ws : List ((Nat × Dword) × Nat)) (s : State) :
    Taken × State × List ((Nat × Dword) × Nat) :=
  let serve := fun (at_ : Stand) (f : Frame) (stolen : Bool) (s : State) =>
    let W := cardW s acts ws at_.core f
    let r := deal W at_ f stolen s
    (r.1, r.2.modGrp k (fun g => g.modLane l (fun x => { x with resv := none })),
      if ws.any (fun x => x.1 == (at_.core, f.seq)) then ws else ((at_.core, f.seq), W) :: ws)
  match reserved s k l grid with
  | some (at_, f) => serve at_ f true s
  | none => match bottomFrame s grid core with
    | .error e => (.fault e, s, ws)
    | .ok (some (at_, f), s') => serve at_ f false s'
    | .ok (none, _) => match stealFrom s grid core with
      | some (at_, f, choice) => let r := reserve s k l core at_ f choice; (r.1, r.2, ws)
      | none => (if census s grid = 0 then .empty else .wait, s, ws)

/-- The descriptor of Table 6-5. -/
def descriptor : Taken → List Word
  | .got e a n b st _ => [e.extractLsb' 0 32, e.extractLsb' 32 32, a.extractLsb' 0 32, a.extractLsb' 32 32, BitVec.ofNat 32 n,
      BitVec.ofNat 32 (bit64 b 0 + bit64 st 1)]
  | _ => [0, 0, 0, 0, 0, 0]

/-- A lane receives its descriptor and its current task. -/
def giveTask (g : Grp) (d l : Nat) (t : Taken) : Grp :=
  let g := (descriptor t).zipIdx.foldl (fun g x => g.wv (d + x.2) l x.1) g
  match t with
  | .got _ _ n _ _ j => g.modLane l (fun x => { x with task := some (j, n) })
  | _ => g

/-- A TAKE begins for the lanes of Act that are in none (R158). -/
def Grp.beginTake (g : Grp) (m : Word) : Grp :=
  let new := maskOf ((lanesOf m).filter (fun l => (g.lane l).task.isNone && !g.takes.any (fun t => inMask t.lanes l)))
  if new = 0 then g else { g with takes := g.takes ++ [⟨new, (lanesOf m).length, []⟩] }

/-- The TAKE that lane l stands in; and the group once it has served the lane, with what it has sampled by then. -/
def Grp.takeOf (g : Grp) (l : Nat) : TakeOp := (g.takes.find? (fun t => inMask t.lanes l)).getD ⟨0, 1, []⟩
def Grp.servedTake (g : Grp) (l : Nat) (ws : List ((Nat × Dword) × Nat)) : Grp :=
  { g with takes := (g.takes.map (fun (t : TakeOp) =>
      if inMask t.lanes l then { t with lanes := t.lanes &&& ~~~ laneBit l, ws := ws } else t)).filter (fun t => t.lanes != 0) }

/-- The lanes of Act in ascending order, each on the state the one before left (R158). -/
def takeLanes (w : View) (d : Nat) : List Nat → State → List (Nat × LaneOut) × State
  | [], s => ([], s)
  | l :: rest, s =>
    if (w.g.lane l).task.isSome then
      let t := takeLanes w d rest s
      ((l, .trap 2 5 0 none) :: t.1, t.2)
    else
      let op := (s.grp w.key).takeOf l
      let r := takeOne w.key l op.acts w.g.grid w.g.core op.ws s
      match r.1 with
      | .got _ _ _ _ _ _ | .empty =>
        let s := acquireAt (r.2.1.modGrp w.key (fun g => (giveTask g d l r.1).servedTake l r.2.2)) w.g.core 3
        let t := takeLanes w d rest s
        ((l, .ok) :: t.1, t.2)
      | .wait => let t := takeLanes w d rest r.2.1; ((l, .wait) :: t.1, t.2)
      | .fault e =>
        let t := takeLanes w d rest (rollbackTake s w.key l)
        ((l, match e.why with
          | .violation c p => .violation c p
          | _ => .trap 5 0 e.addr none) :: t.1, t.2)

/-- A TAKE of some lanes of Act, in order. -/
def takeRun (w : View) (d : Nat) (ls : List Nat) (s : State) : List (Nat × LaneOut) × State :=
  takeLanes w d ls (s.modGrp w.key (fun g => g.beginTake (maskOf ls)))

/-- A TAKE's meaning: a lane that waits may have reserved a frame, which is an effect of its own (R162). Where another lane traps, the
single-stepped ones take nothing: their trap has the higher cause (R132, R146), or, where no lane traps without them, they wait. -/
def takeMeaning (d : Nat) (w : View) (s : State) : Meaning :=
  let r := takeRun w d (lanesOf w.act) s
  let stepped := (lanesOf w.act).filter (fun l => (w.g.lane l).stepArm && (w.g.lane l).task.isNone)
  if stepped.isEmpty ∨ bestTrap r.1 = none then ⟨r.1, fun _ s => (takeRun w d (lanesOf w.act) s).2⟩
  else
    let ls := (lanesOf w.act).filter (fun l => !stepped.contains l)
    let r := takeRun w d ls s
    ⟨r.1 ++ stepped.map (fun l => (l, if bestTrap r.1 = none then .wait else .trap 0x0C 0 0 none)), fun _ s => (takeRun w d ls s).2⟩

/-- TAKE (R158). -/
def execTake (u : Bool) (d : BitVec 6) (p : BitVec 3) (s : State) : Res := issue (.take u d p) s (takeMeaning d.toNat)

/-! ## ENDT and TJOIN (R161, R165) -/

/-- ENDT's check of one lane: its task, then its join counter; as a release it waits for what the lane issued before. -/
def endtOut (s : State) (w : View) (l : Nat) : LaneOut :=
  match (w.g.lane l).task with
  | none => .trap 2 4 0 none
  | some (j, n) => match (joinStep (releaseLanes s w.key (laneBit l)) w l j (fun x => x - BitVec.ofNat 64 n)).1 with
    | .ok => if mayRelease s w.key w.g l then .ok else .wait
    | o => o

def endtLane (w : View) (s : State) (l : Nat) : State :=
  match (w.g.lane l).task with
  | none => s
  | some (j, n) =>
    let s := releaseAt (releaseLanes s w.key (laneBit l)) w.g.core 3
    (joinStep s w l j (fun x => x - BitVec.ofNat 64 n)).2.modGrp w.key (fun g => g.modLane l (fun x => { x with task := none }))

/-- ENDT (R161). -/
def execEndt (u : Bool) (p : BitVec 3) (s : State) : Res :=
  issue (.endt u p) s (fun w s =>
    ⟨(lanesOf w.act).map (fun l => (l, endtOut s w l)), fun done s => (lanesOf done).foldl (endtLane w) s⟩)

/-- What becomes of lane l at TJOIN: its counter as the home slice holds it, under the lane's own stores (R175). -/
def tjoinOut (s : State) (w : View) (l : Nat) (j : Dword) : LaneOut :=
  if j = 0 then .ok
  else match joinPlace s w.g .read j with
    | .ok p => match s.poisoned none p.loc 8 with
      | some a => .violation 2 a
      | none => if !incPending w.g l p.loc 8 && readPlaceNat (s.flushSector w.g.core (p.loc / 256)) w.g l p.loc p.tag false 8 = 0 then .ok else .wait
    | .trap c d => .trap c d j none
    | .violation c p => .violation c p
    | .fabric _ _ => .trap 7 1 j none

/-- TJOIN (R165). -/
def execTjoin (u : Bool) (a : BitVec 6) (p : BitVec 3) (s : State) : Res :=
  issue (.tjoin u a p) s (fun w s =>
    ⟨(lanesOf w.act).map (fun l => (l, tjoinOut s w l (w.g.rv64 a.toNat l))),
     fun done s => if done = 0 then s else acquireAt s w.g.core 3⟩)

/-! ## ROLE (R166) -/

/-- The counters that a ROLE waits for all read 0. -/
def roleIdle (s : State) (w : View) : Bool :=
  [Cls.ld, .st, .tl, .rm].all (fun c => w.g.count c == 0) && (s.grp (w.key + 1)).count .cp == 0

/-- ROLE (R166). -/
def execRole (u : Bool) (k : BitVec 2) (p : BitVec 3) (s : State) : Res :=
  issue (.role u k p) s (fun w s =>
    let out : LaneOut :=
      if w.g.live.any (fun l => !inMask w.act l) then .trap 0x0E 2 0 none
      else if w.g.qwinOn && decide (w.g.winOf k.toNat < 64) then .trap 0x0D 2 0 none
      else if !roleIdle s w then .wait
      else .goto (w.g.kern.entries.getD k.toNat 0)
    ⟨(lanesOf w.act).map (fun l => (l, out)),
     fun done s => if done = 0 then s else s.modGrp w.key (fun g => { g with role := k.toNat })⟩)

end Sys2Proof.Machine
end

