-- ==== Sys2Proof/Machine/Engine.lean ====
section
/-! DEFINITION. What the stream engine and the matrix arrays share: the checks of the ranges they touch, the translations they
hold, and their reads and writes (R119, R208, R255). -/
namespace Sys2Proof.Machine

/-- Why an engine instruction does not issue: a failed check with cause, DETAIL and TADDR, a violation, or a block of n bytes that another
module has still to give. -/
inductive EngFault where
  | trap (cause detail : Nat) (addr : Dword)
  | violation (code phys : Nat)
  | wait (addr : Dword) (n : Nat)
  deriving DecidableEq, Repr

/-- Every lane of Act takes the failed check (R119, R208), or waits. -/
def EngFault.out : EngFault → LaneOut
  | .trap c d a => .trap c d a none
  | .violation c p => .violation c p
  | .wait _ _ => .wait

/-- Of failed range checks, the one with the lowest byte address decides. -/
def lowestFault (fs : List (Nat × Nat × Dword)) : Option (Nat × Nat × Dword) :=
  fs.foldl (fun b x => match b with
    | none => some x
    | some y => if x.2.2.toNat < y.2.2.toNat then some x else some y) none

/-! ## Ranges -/

/-- The first byte of an n-byte range that lies outside its region, or across a window's boundary; `global`, operand-store,
cluster-shared and scratchpad ranges are allowed. -/
def rangeFails (s : State) (g : Grp) (va : Dword) (n : Nat) : Option Dword :=
  let base := fun (lim : Nat) => va - BitVec.ofNat 64 (offsetOf va) + BitVec.ofNat 64 lim
  let inside := fun (off lim start : Nat) =>
    if off ≥ lim then some va else if off + n ≤ lim then none else some (base (start + lim))
  if n = 0 then none else
  match regionOf va with
  | .global => if va.toNat + n ≤ 0x80 * 2 ^ 48 then none else some (BitVec.ofNat 64 (0x80 * 2 ^ 48))
  | .opstore => inside (offsetOf va) (s.team g.teamKey).opBytes 0
  | .cluster =>
    let i := offsetOf va / 2 ^ 21
    if i < (s.clus (clusterKey g.grid g.cluster)).teams then
      inside (offsetOf va % 2 ^ 21) (s.team (Machine.teamKey g.grid g.cluster i)).opBytes (i * 2 ^ 21)
    else some va
  | .scratch => match Bank.get none (s.grid g.grid).scr (dieOf g.core) with
    | some (_, bytes) => inside (offsetOf va) bytes 0
    | none => some va
  | _ => some va

/-- As `rangeFails`, for a range that must lie in the team's operand-store allocation. -/
def opRangeFails (s : State) (g : Grp) (va : Dword) (n : Nat) : Option Dword :=
  if n = 0 then none
  else if regionOf va == .opstore then rangeFails s g va n else some va

/-- `n` rows of `len` bytes, `stride` apart. -/
def rowsOf (va : Dword) (n stride len : Nat) : List (Dword × Nat) :=
  (List.range n).map (fun m => (va + BitVec.ofNat 64 (m * stride), len))

/-! ## Held translations -/

def pageOf (va : Dword) : Nat := bitsOf va 16 40

/-- Translates the page of one global byte for a need, unless it is held for that need already; what fails is kept beside. -/
def holdPage (s : State) (g : Grp) (acc : List (Need × HeldPage) × List EngFault) (x : Need × Dword) :
    List (Need × HeldPage) × List EngFault :=
  if acc.1.any (fun h => h.1 == x.1 && h.2.page == pageOf x.2) then acc
  else match translated s g x.1 x.2 true true with
    | .ok p => (acc.1 ++ [(x.1, ⟨pageOf x.2, p.loc - x.2.toNat % 65536, p.tag, p.l1⟩)], acc.2)
    | .trap c d => (acc.1, acc.2 ++ [.trap c d x.2])
    | .violation c p => (acc.1, acc.2 ++ [.violation c p])
    | .fabric _ _ => (acc.1, acc.2 ++ [.trap 7 1 x.2])

/-- Of failed page checks: a violation, else the one with the lowest byte address. -/
def firstFault (es : List EngFault) : Option EngFault :=
  match es.find? (fun e => match e with
    | .violation _ _ => true
    | _ => false) with
  | some v => some v
  | none => (lowestFault (es.filterMap (fun e => match e with
      | .trap c d a => some (c, d, a)
      | _ => none))).map (fun x => .trap x.1 x.2.1 x.2.2)

/-- Translates the pages of the global ranges, each for what it is needed for; a failing page fails at the first byte of the range
in it, and of several the lowest such byte decides (R119, R208). -/
def holdPages (s : State) (g : Grp) (rs : List (Need × Dword × Nat)) : Except EngFault (List HeldPage) :=
  let segs := (rs.filter (fun r => regionOf r.2.1 == .global)).flatMap (fun r => (segsOf r.2.1 r.2.2).map (fun x => (r.1, x.1)))
  let held := segs.foldl (holdPage s g) ([], [])
  match firstFault held.2 with
  | some e => .error e
  | none => .ok (held.1.map (·.2))

/-! ## What an engine reads and writes -/

/-- A piece of an operation's memory: where it lies, its key tag, whether the core's L1 stands before it, its offset in the range
and its length. -/
structure EngPlace where
  loc : Nat
  tag : Nat
  l1  : Bool
  off : Nat
  len : Nat
  deriving DecidableEq, Repr

/-- The places of a range; global bytes through the held pages. -/
def enginePlaces (s : State) (g : Grp) (held : List HeldPage) (va : Dword) (n : Nat) : List EngPlace :=
  (segsOf va n).filterMap (fun x =>
    if regionOf x.1 == .global then
      (held.find? (fun h => h.page == pageOf x.1)).map (fun h => ⟨h.phys + x.1.toNat % 65536, h.tag, h.l1, x.2.1, x.2.2⟩)
    else (windowPlace s g (regionOf x.1) (offsetOf x.1) x.2.2).map (fun l => ⟨l, 0, false, x.2.1, x.2.2⟩))

/-- The bytes an operation has read before its end, by location (Tables 4-13, 8-9). -/
abbrev Seen := Bank (Option Byte)

/-- A byte as an operation of the core reads it: what it has read before, else what the core sees now (R255). -/
def seenByte (s : State) (core : Nat) (seen : Seen) (tag : Nat) (l1 : Bool) (loc : Nat) : Byte :=
  match Bank.get none seen loc with
  | some b => b
  | none => s.readByte (if l1 then some core else none) tag loc

/-- Reads a range. -/
def engineRead (s : State) (g : Grp) (held : List HeldPage) (seen : Seen) (va : Dword) (n : Nat) : List Byte :=
  (enginePlaces s g held va n).flatMap (fun p => (List.range p.len).map (fun i => seenByte s g.core seen p.tag p.l1 (p.loc + i)))

/-- Reads the bytes of some places that have not been read before. -/
def seeBytes (s : State) (core : Nat) (ps : List EngPlace) (seen : Seen) : Seen :=
  ps.foldl (fun seen p => (List.range p.len).foldl (fun seen i =>
    if (Bank.get none seen (p.loc + i)).isSome then seen
    else Bank.set none seen (p.loc + i) (some (s.readByte (if p.l1 then some core else none) p.tag (p.loc + i)))) seen) seen

/-- A write of an operation: where, under which key tag, the bytes. -/
structure EngWrite where
  loc  : Nat
  tag  : Nat
  data : List Byte
  deriving DecidableEq, Repr

/-- Writes of a range, byte by byte. -/
def engineBytes (s : State) (g : Grp) (held : List HeldPage) (va : Dword) (d : List Byte) : List EngWrite :=
  (enginePlaces s g held va d.length).flatMap (fun p => (List.range p.len).map (fun i => ⟨p.loc + i, p.tag, [d.getD (p.off + i) 0]⟩))

/-- Performs the writes of an operation at their homes that are not among those it has performed before. -/
def engineWrite (s : State) (core : Nat) (wrote : List Nat) (ws : List EngWrite) : State :=
  ws.foldl (fun s w => if wrote.contains w.loc then s else s.writeBytes none (some core) w.tag w.loc w.data) s

/-- The locations of some writes. -/
def EngWrite.locs (ws : List EngWrite) : List Nat := ws.flatMap (fun w => (List.range w.data.length).map (w.loc + ·))
/-- Performs what is left of an operation's writes, in order; a word that it has written whole is poisoned no longer (R276). -/
def engineEnds (s : State) (core : Nat) (wrote : List Nat) (n : Nat) (ws : Nat → List EngWrite) : State :=
  ((List.range n).foldl (fun s i => engineWrite s core wrote (ws i)) s).unpoisonAll (wrote ++ (List.range n).flatMap (fun i => EngWrite.locs (ws i)))

/-- A poisoned word among the bytes of some places that are still to be read (R276). -/
def placesPoison (s : State) (core : Nat) (seen : Seen) (ps : List EngPlace) : Option Nat :=
  if s.poison.isEmpty then none else
  ps.findSome? (fun p => (List.range p.len).findSome? (fun i =>
    if (Bank.get none seen (p.loc + i)).isSome then none else s.poisoned (if p.l1 then some core else none) (p.loc + i) 1))

/-- The places of some ranges. -/
def rangesPlaces (s : State) (g : Grp) (held : List HeldPage) (rs : List (Dword × Nat)) : List EngPlace :=
  rs.flatMap (fun r => enginePlaces s g held r.1 r.2)

/-- A poisoned word among the bytes of some ranges that an operation has still to read. -/
def enginePoison (s : State) (g : Grp) (held : List HeldPage) (seen : Seen) (rs : List (Dword × Nat)) : Option Nat :=
  placesPoison s g.core seen (rangesPlaces s g held rs)

/-! ## Blocks read at issue -/

/-- A piece of a block under a fabric address of this module itself (R169, R255): checks 5 to 7 of Table 7-2, and its bytes as the issuing
core's writes have left them. -/
def readSelf (s : State) (g : Grp) (a : Dword) (n : Nat) : Except EngFault (List Byte) :=
  let low := a &&& 0x00FFFFFFFFFFFFFF#64
  match translate s whoPeer g.ctxid (s.ctx g.ctxid) .read low with
  | .noPage => .error (.trap 5 0 a)
  | r => if regionOf low == .flag && n != 8 then .error (.trap 7 0 a) else
    match r with
    | .noPage => .error (.trap 5 0 a)
    | .deny d => .error (.trap 7 d a)
    | .violation c p => .error (.violation c p)
    | .ok phys key _ => match s.poisoned none phys n with
      | some w => .error (.violation 2 w)
      | none => .ok ((List.range n).map (fun i => match s.l1Byte g.core (phys + i) with
          | some (true, b) => b
          | _ => s.readByte none (keyTag s key) (phys + i)))

/-- A piece of a block at another module: what the module has answered to the lane's request (R356). -/
def readPeer (g : Grp) (l : Nat) (a : Dword) (n : Nat) : Except EngFault (List Byte) :=
  match g.fetched.find? (fun x => x.lane == l && decide (x.addr.toNat ≤ a.toNat) && decide (a.toNat + n ≤ x.addr.toNat + x.len)) with
  | none => .error (.wait a n)
  | some x => match x.refused, x.data with
    | some (c, d), _ => .error (.trap c d a)
    | none, some b => .ok ((b.drop (a.toNat - x.addr.toNat)).take n)
    | none, none => .error (.wait a n)

/-- Reads n bytes of a block for lane l in pieces of `piece` bytes, under the checks of Table 7-2; at a fabric address too, where it takes a
request and its answer (R356; DESIGN CHOICE, log entry 43: for a chain block the spec bars no fabric address and does not say how it is
read there). -/
def readBlock (s : State) (g : Grp) (l : Nat) (ea : Dword) (n piece : Nat) : Except EngFault (List Byte) :=
  (List.range (n / piece)).foldlM (fun acc i =>
    let a := ea + BitVec.ofNat 64 (i * piece)
    match checkAccess s g l ⟨.read, false⟩ a piece with
    | .ok p => match s.poisoned (if p.l1 then some g.core else none) p.loc piece with
      | some w => .error (.violation 2 w)
      | none => .ok (acc ++ readPlace s g l p.loc p.tag p.l1 piece)
    | .fabric _ m => (if m = s.fabric.self then readSelf s g a piece else readPeer g l a piece).map (acc ++ ·)
    | .trap c d => .error (.trap c d a)
    | .violation c p => .error (.violation c p)) []

/-- A range cut at the 256-byte sectors of its addresses: address and length (R356). -/
def sectorParts (va : Dword) (n : Nat) : List (Dword × Nat) :=
  if n = 0 then [] else
  let o := va.toNat % 256
  (List.range ((o + n - 1) / 256 + 1)).map (fun i =>
    let lo := if i = 0 then 0 else i * 256 - o
    (va + BitVec.ofNat 64 lo, Nat.min n ((i + 1) * 256 - o) - lo))

/-- Lane l asks another module for the parts of a block that it has not asked for yet: one request per sector (R356). -/
def askBlock (s : State) (key l : Nat) (ea : Dword) (n : Nat) : State :=
  (sectorParts ea n).foldl (fun s x =>
    let g := s.grp key
    match checkAccess s g l ⟨.read, false⟩ x.1 1 with
    | .fabric _ m =>
      if m = s.fabric.self ∨ g.fetched.any (fun y => y.lane == l && y.addr == x.1) then s
      else
        let id := s.fabric.nextReq
        let low := x.1 &&& 0x00FFFFFFFFFFFFFF#64
        let s := { s with fabric := { s.fabric with nextReq := id + 1 } }
        (s.sendMsg m 1 g.ctxid low x.2 (.read id low x.2)).modGrp key (fun g => { g with fetched := g.fetched ++ [⟨id, l, x.1, x.2, none, none⟩] })
    | _ => s) s

/-- An instruction that does not issue because a block is still to come asks for it; one that does not for another reason does nothing. -/
def EngFault.ask (e : EngFault) (key l : Nat) (s : State) : State := match e with
  | .wait ea n => askBlock s key l ea n
  | _ => s

/-- What a failed check of the lanes of Act comes to. -/
def engineFails (w : View) (l : Nat) (e : EngFault) : Meaning :=
  ⟨(lanesOf w.act).map (fun x => (x, e.out)), fun _ s => if w.act = 0 then s else e.ask w.key l s⟩

/-- The lanes of `m` have their blocks. -/
def dropFetched (s : State) (key : Nat) (m : Word) : State := s.modGrp key (fun g => { g with fetched := g.fetchedWithout m })

/-- A failed block read, whose TADDR is the block's address. -/
def EngFault.at (e : EngFault) (ea : Dword) : EngFault := match e with
  | .trap c d _ => .trap c d ea
  | v => v
/-- A block of n bytes read whole: its address for TADDR, and for what is asked of another module. -/
def EngFault.whole (e : EngFault) (ea : Dword) (n : Nat) : EngFault := match e with
  | .wait _ _ => .wait ea n
  | v => v

def dwordsOf (d : List Byte) : List Dword :=
  (List.range (d.length / 8)).map (fun i => BitVec.ofNat 64 (fieldAt d (8 * i) 8))

/-- A field of n bytes at a byte offset of a block held as 64-bit words. -/
def blockField (b : List Dword) (off n : Nat) : Nat := (b.getD (off / 8) 0).toNat / 2 ^ (8 * (off % 8)) % 2 ^ (8 * n)

/-- The stores that the issuing lanes issued before are performed (R255), or the issue waits. -/
def engineReady (s : State) (w : View) : Bool := drained ((drainStores s w.key w.act).grp w.key) w.act

/-- An engine instruction: nothing when Act is empty; else every lane of Act takes the same failed check, waits while TL stands
at 63 or an earlier store is not performed, or completes with the operation issued. -/
def engineMeaning (w : View) (s0 : State) (check : State → Except EngFault α) (start : α → State → State) : Meaning :=
  match lowest w.act with
  | none => ⟨[], fun _ s => s⟩
  | some l0 => match check (drainStores s0 w.key w.act) with
    | .error e => engineFails w l0 e
    | .ok _ =>
      ⟨(lanesOf w.act).map (fun l => (l, if engineReady s0 w && w.g.room .tl then LaneOut.ok else .wait)),
       fun done s => if done = 0 then s else
         let s := drainStores s w.key w.act
         match check s with
         | .ok x => start x (dropFetched s w.key done)
         | .error _ => s⟩

end Sys2Proof.Machine
end

