-- ==== Sys2Proof/Machine/Matrix.lean ====
section
/-! DEFINITION. The matrix instructions: major 43 (R197 to R220), and the work of the arrays with its values, its order of
summation and its scale procedure (R80 to R88). -/
namespace Sys2Proof.Machine

/-! ## Formats (Table 3-1, Table 8-2, Table 8-3) -/

def fmtWidth (code : Nat) : Nat :=
  match code with
  | 0 => 32
  | 1 => 16
  | 2 => 16
  | 3 => 8
  | 4 => 8
  | 6 => 8
  | 7 => 8
  | 10 => 1
  | _ => 4
def fltOf (code : Nat) : FFmt :=
  match code with
  | 0 => fp32
  | 1 => bf16
  | 2 => fp16
  | 3 => f8e4
  | 4 => f8e5
  | _ => f4e2
def intOf (code : Nat) : IFmt :=
  match code with
  | 6 => ⟨8, true⟩
  | 7 => ⟨8, false⟩
  | 8 => ⟨4, true⟩
  | _ => ⟨4, false⟩
def isIntFmt (code : Nat) : Bool := decide (6 ≤ code) && decide (code ≤ 9)

/-- The fields of a format word. -/
structure FmtWord where
  af   : Nat
  bf   : Nat
  cf   : Nat
  sm   : Nat
  gl   : Nat
  rnd  : Nat
  bop  : Nat
  rsvd : Nat
  deriving DecidableEq, Repr

def fmtWord (w : Word) : FmtWord :=
  let x := w.toNat
  ⟨x % 16, x / 16 % 16, x / 2 ^ 8 % 4, x / 2 ^ 10 % 8, x / 2 ^ 13 % 4, x / 2 ^ 15 % 8, x / 2 ^ 18 % 4, x / 2 ^ 20⟩

/-- A valid TMMA or TQUANT format word (R204). -/
def fmtOk (quant : Bool) (f : FmtWord) : Bool :=
  let half := fun (c : Nat) => c == 1 || c == 2
  let small := fun (c : Nat) => c == 3 || c == 4 || c == 5
  f.rsvd == 0 && decide (f.rnd ≤ 4) &&
    if quant then small f.af && decide (f.cf ≤ 1) && f.bf == 0 && f.sm == 0 && f.gl == 0 && f.bop == 0
    else
      decide (f.bop ≤ 1) && f.gl != 3 && (f.bop == 0 || (f.af == 10 && f.bf == 10)) && (f.gl == 0 || f.sm == 1 || f.sm == 2) &&
        ((half f.af && half f.bf && f.cf == 0 && f.sm == 0) ||
         (small f.af && small f.bf && f.cf == 0 && (f.sm == 0 || f.sm == 3 || f.sm == 4)) ||
         (isIntFmt f.af && isIntFmt f.bf && ((f.cf == 1 && f.sm == 0) || (f.cf == 0 && (f.sm == 1 || f.sm == 2)))) ||
         (f.af == 10 && f.bf == 10 && f.cf == 1 && f.sm == 0))

/-- Kmax (R206). -/
def kmaxOf (f : FmtWord) : Nat :=
  let one := fun (c : Nat) => match fmtWidth c with
    | 16 => 128
    | 8 => 256
    | 4 => 512
    | _ => 2048
  Nat.min (one f.af) (one f.bf)

def groupLen32 (f : FmtWord) : Nat := 32 * 2 ^ f.gl
def ceilDiv (a b : Nat) : Nat := (a + b - 1) / b

/-- The scale counts of Table 8-3. -/
def scaleCounts (f : FmtWord) (K : Nat) : Nat × Nat :=
  match f.sm with
  | 1 => (0, ceilDiv K (groupLen32 f))
  | 2 => (ceilDiv K (groupLen32 f), ceilDiv K (groupLen32 f))
  | 3 => (ceilDiv K 32, ceilDiv K 32)
  | 4 => (0, ceilDiv K 32)
  | _ => (0, 0)

/-- The lowest feature bit that a format word carries and the contract lacks (R369). -/
def fmtFeature (c : BitVec 512) (f : FmtWord) : Option Nat :=
  let lacks := fun (b : Nat) => !c.getLsbD b
  if (f.af == 5 || f.bf == 5) && lacks 2 then some 2
  else if (f.af == 10 || f.bf == 10) && lacks 3 then some 3
  else if (f.sm == 1 || f.sm == 2) && (fmtWidth f.af == 4 || fmtWidth f.bf == 4) && lacks 4 then some 4
  else when (f.rnd == 4 && lacks 9) 9

/-! ## The parameter block (Tables 8-4 to 8-6) -/

def pK (b : List Dword) : Nat := blockField b 0x0C 4
def pAcct (b : List Dword) : Nat := blockField b 0x10 4
def pTile (b : List Dword) : Nat := pAcct b % 64
def pZero (b : List Dword) : Bool := blockField b 0x14 4 % 2 == 1
def pLink (b : List Dword) : Nat := blockField b 0x18 4
def pXctl (b : List Dword) : Nat := blockField b 0x1C 4
def pAddr (b : List Dword) (off : Nat) : Dword := b.getD (off / 8) 0

def linkWen (x : Nat) : Bool := x / 2 ^ 31 == 1
def linkWidx (x : Nat) : Nat := x / 2 ^ 24 % 16
def linkWpar (x : Nat) : Nat := x / 2 ^ 23 % 2
def linkAen (x : Nat) : Bool := x / 2 ^ 15 % 2 == 1
def linkAidx (x : Nat) : Nat := x / 2 ^ 8 % 16

/-- Bytes of a memory row of an instruction: 64 elements of the memory format. -/
def xRowBytes (fn : Nat) (f : FmtWord) (b : List Dword) : Nat :=
  8 * fmtWidth (if fn = 4 then f.af else pXctl b % 16)

/-- Check 6 of Table 8-7. -/
def blockBad (k : Kernel) (fn : Nat) (f : FmtWord) (b : List Dword) : Bool :=
  let link := pLink b
  let x := pXctl b
  let stride := blockField b 0x40 4
  let strideBad := fun (st least : Nat) => st % 16 != 0 || decide (st < least) || decide (st > 65536)
  let pair := (x % 16, x / 16 % 2)
  blockField b 0x44 4 != 0 || (b.drop 10).any (fun d => d != 0) || decide (pAcct b ≥ 64) ||
  (link &&& 0x707F70FF) != 0 ||
  (linkWen link && !k.declared 0 (linkWidx link)) ||
  (linkAen link && (!k.declared 0 (linkAidx link) || (k.bar 0 (linkAidx link)).1 == 0)) ||
  (match fn with
   | 0 => decide (blockField b 0x14 4 ≥ 2) || pK b == 0 || decide (pK b > kmaxOf f) ||
          strideBad (blockField b 0x08 4) (ceilDiv (pK b * fmtWidth f.af) 8)
   | 1 => false
   | 2 => decide (x ≥ 512) || !([(0, 0), (1, 0), (2, 0), (6, 1), (7, 1)].contains pair) || strideBad stride (xRowBytes fn f b)
   | 3 => decide (x ≥ 512) || decide (x / 32 % 8 ≥ 5) ||
          !([(0, 0), (1, 0), (2, 0), (3, 0), (4, 0), (0, 1), (6, 1), (7, 1)].contains pair) || strideBad stride (xRowBytes fn f b)
   | _ => strideBad stride (xRowBytes fn f b))

/-! ## The ranges -/

def scaleBytes (f : FmtWord) : Nat := if f.sm ≤ 2 then 4 else 1

/-- The operand-store ranges of a TMMA: A's rows and the scale tables. -/
def tmmaRanges (f : FmtWord) (b : List Dword) : List (Dword × Nat) :=
  rowsOf (pAddr b 0) 256 (blockField b 0x08 4) (ceilDiv (pK b * fmtWidth f.af) 8) ++
  [(pAddr b 0x20, blockField b 0x30 4 * 256 * scaleBytes f), (pAddr b 0x28, blockField b 0x34 4 * 64 * scaleBytes f)]

/-- The memory ranges of TACLD, TACST and TQUANT. -/
def xRanges (fn : Nat) (f : FmtWord) (b : List Dword) : List (Dword × Nat) :=
  if fn = 0 ∨ fn = 1 then [] else
  rowsOf (pAddr b 0x38) 256 (blockField b 0x40 4) (xRowBytes fn f b) ++ (if fn = 4 then [(pAddr b 0x48, 512)] else [])

def xNeed (fn : Nat) : Need := if fn = 2 then .read else .write

/-- What the checks of a matrix instruction answer: its parameter block and the pages it holds. -/
structure MatIssue where
  block : List Dword
  fw    : Word
  held  : List HeldPage
  deriving DecidableEq, Repr

/-- Checks 6 to 10 of Table 8-7, for the block at `ea`. -/
def matChecks (s : State) (g : Grp) (fn : Nat) (fw : Word) (ea : Dword) (b : List Dword) : Except EngFault MatIssue :=
  let f := fmtWord fw
  let addrs : List (Dword × Nat) := match fn with
    | 0 => [(pAddr b 0, 16), (pAddr b 0x20, 64), (pAddr b 0x28, 64)]
    | 1 => []
    | 4 => [(pAddr b 0x38, 16), (pAddr b 0x48, 64)]
    | _ => [(pAddr b 0x38, 16)]
  let low := fun (c d : Nat) (as : List Dword) => lowestFault (as.map (fun a => (c, d, a)))
  if blockBad g.kern fn f b then .error (.trap 1 5 ea)
  else if fn = 0 ∧ (blockField b 0x30 4, blockField b 0x34 4) ≠ scaleCounts f (pK b) then .error (.trap 4 0 ea)
  else match low 8 0 ((addrs.filter (fun x => x.1.toNat % x.2 != 0)).map (·.1)) with
    | some x => .error (.trap x.1 x.2.1 x.2.2)
    | none =>
      if pTile b ≥ (s.team g.teamKey).accq then .error (.trap 7 1 ea)
      else match low 7 1 ((if fn = 0 then (tmmaRanges f b).filterMap (fun r => opRangeFails s g r.1 r.2) else []) ++
          (xRanges fn f b).filterMap (fun r => rangeFails s g r.1 r.2)) with
        | some x => .error (.trap x.1 x.2.1 x.2.2)
        | none => match holdPages s g ((xRanges fn f b).map (fun r => (xNeed fn, r))) with
          | .error e => .error e
          | .ok held => .ok ⟨b, fw, held⟩

/-- The checks of Table 8-7, in order, with those of R369 (`fn` of major 43; `b` the format-word register). -/
def matIssue (w : View) (fn : Nat) (a b : Nat) (s : State) : Except EngFault MatIssue :=
  let g := w.g
  let l0 := (lowest w.act).getD 0
  let words := if fn = 0 ∨ fn = 4 then (lanesOf w.act).map (fun l => w.opnd 1 b l) else []
  let fw := words.headD 0
  let ea := g.rv64 a l0
  let c := (s.ctx g.ctxid).contract
  if g.tq = 15 then .error (.trap 2 6 0)
  else if words.any (fun x => x != fw) then .error (.trap 3 0 0)
  else if (fn = 0 ∨ fn = 4) ∧ fmtOk (fn == 4) (fmtWord fw) = false then .error (.trap 1 5 0)
  else match fmtFeature c (fmtWord fw) with
    | some bit => .error (.trap 0x0A bit 0)
    | none =>
      if ea.toNat % 128 ≠ 0 then .error (.trap 8 0 ea)
      else if regionOf ea == .fabric then .error (.trap 7 1 ea)
      else match readBlock s g l0 ea 128 128 with
        | .error e => .error (e.at ea)
        | .ok d =>
          let blk := dwordsOf d
          if fn = 3 ∧ pXctl blk / 32 % 8 = 4 ∧ c.getLsbD 9 = false then .error (.trap 0x0A 9 0)
          else matChecks s g fn fw ea blk

/-- A stochastic TACST or TQUANT (R215). -/
def matStochastic (fn : Nat) (fw : Word) (b : List Dword) : Bool :=
  (fn == 4 && (fmtWord fw).rnd == 4) || (fn == 3 && pXctl b / 32 % 8 == 4)

/-! ## Tile quads (R198 to R202) -/

/-- The current slot of the quarter of group number `group` of g's team (R199). -/
def slotOf (s : State) (g : Grp) (group : Nat) : Nat := Bank.get 0 (s.team g.teamKey).slots group
def State.setStage (s : State) (g : Grp) (slot : Nat) : State :=
  let t := s.team g.teamKey
  s.setTeam g.teamKey { t with slots := Bank.set 0 t.slots g.group slot }

/-- Issues a matrix operation: the slots are bound, the seed taken, TL goes up. -/
def startMat (w : View) (fn : Nat) (x : MatIssue) (s : State) : State :=
  let l0 := (lowest w.act).getD 0
  let seed := (w.g.lane l0).srseed
  let slots := if fn = 0 then (List.range 4).map (fun q => slotOf s w.g (4 * w.g.tq + q)) else []
  s.modGrp w.key (fun g =>
    let g := if matStochastic fn x.fw x.block then g.modLane l0 (fun y => { y with srseed := (stepGen y.srseed).1 }) else g
    g.addOp .tl w.act (.matrix
      { fn := fn, lanes := w.act, block := x.block, fw := x.fw, seed := seed, slots := slots,
        start := g.scaleh.toNat % 256, held := x.held }))

def matMeaning (fn : Nat) (a b : Nat) (w : View) (s : State) : Meaning :=
  engineMeaning w s (matIssue w fn a b) (startMat w fn)

/-- TMMA (R209). -/
def execTmma (u : Bool) (a b : BitVec 6) (p : BitVec 3) (s : State) : Res :=
  issue (.tmma u a b p) s (matMeaning 0 a.toNat b.toNat)

/-- TZERO (R213). -/
def execTzero (u : Bool) (a : BitVec 6) (p : BitVec 3) (s : State) : Res :=
  issue (.tzero u a p) s (matMeaning 1 a.toNat 0)

/-- TACLD (R213). -/
def execTacld (u : Bool) (a : BitVec 6) (p : BitVec 3) (s : State) : Res :=
  issue (.tacld u a p) s (matMeaning 2 a.toNat 0)

/-- TACST (R213). -/
def execTacst (u : Bool) (a : BitVec 6) (p : BitVec 3) (s : State) : Res :=
  issue (.tacst u a p) s (matMeaning 3 a.toNat 0)

/-- TQUANT (R214). -/
def execTquant (u : Bool) (a b : BitVec 6) (p : BitVec 3) (s : State) : Res :=
  issue (.tquant u a b p) s (matMeaning 4 a.toNat b.toNat)

/-- The operation reads B from its quad's slots. -/
def MatOp.binds (m : MatOp) (q slot : Nat) : Bool := !m.slots.isEmpty && m.slots.getD q 0 == slot

/-- A matrix operation bound to slot `slot` of quarter q of a tile quad has not retired. -/
def slotBound (s : State) (g : Grp) (q slot : Nat) : Bool :=
  s.grps.any (fun e => !e.2.isFeeder && e.2.teamKey == g.teamKey && e.2.tq == g.tq && e.2.ops.any (fun o => match o.body with
    | .matrix m => m.binds q slot
    | _ => false))

/-- Byte j of the block TLEND copies (R200). -/
def lendByte (w : View) (d j : Nat) : Byte :=
  let l := j / 4 % 32
  if inMask w.act l then (w.g.rv (d + j / 128) l).extractLsb' (8 * (j % 4)) 8 else 0

/-- TLEND (R200). -/
def execTlend (u : Bool) (d : BitVec 6) (p : BitVec 3) (s : State) : Res :=
  issue (.tlend u d p) s (fun w s =>
    let slot := 1 - slotOf s w.g w.g.group
    let out : LaneOut := if w.g.tq = 15 then .trap 2 6 0 none else if slotBound s w.g w.g.quad slot then .wait else .ok
    ⟨(lanesOf w.act).map (fun l => (l, out)),
     fun done s => if done = 0 then s else
       (s.writeBytes none none 0 (stageLoc w.g.teamKey w.g.group slot 0) ((List.range 4096).map (lendByte w d.toNat))).setStage w.g slot⟩)

/-! ## Values (R80, R81, R210 to R212) -/

/-- An exact product of two values; 0 × ∞ is NaN. -/
def vmul (x y : FVal) : FVal :=
  match x, y with
  | .nan _, _ => .nan false
  | _, .nan _ => .nan false
  | .inf n, v => if v.isZero then .nan false else .inf (n != v.neg?)
  | v, .inf n => if v.isZero then .nan false else .inf (n != v.neg?)
  | .fin n m e, .fin n' m' e' => .fin (n != n') (m * m') (e + e')

def vint (z : Int) : FVal := .fin (decide (z < 0)) z.natAbs 0

/-- A zero product of integer operands is +0 (R83). -/
def posZero (x : FVal) : FVal := if x.isZero then .fin false 0 0 else x

/-- x × 2^(e − 127); NaN for e = 0xFF (R69, R81). -/
def ue8m0 (e : Nat) (x : FVal) : FVal :=
  if e = 255 then .nan false else match x with
    | .fin n m q => .fin n m (q + (e : Int) - 127)
    | v => v

/-- The sum of a block of exact products (R83). -/
def blockSum (ps : List FVal) : FVal :=
  let pinf := ps.any (fun p => p == .inf false)
  let ninf := ps.any (fun p => p == .inf true)
  if ps.any FVal.isNan || (pinf && ninf) then .nan false
  else if pinf then .inf false
  else if ninf then .inf true
  else
    let e0 := ps.foldl (fun m p => match p with
      | .fin _ _ e => min m e
      | _ => m) (0 : Int)
    let z := ps.foldl (fun acc p => match p with
      | .fin n m e => acc + sintAt n m e e0
      | _ => acc) (0 : Int)
    if z = 0 then .fin (ps.all FVal.neg?) 0 0
    else if (froundX fp32 0 0 false (exactOf z e0 false)).flags &&& flOF ≠ 0 then .inf (decide (z < 0))
    else .fin (decide (z < 0)) z.natAbs e0

/-- SumFP32: one rounding per block of 32 products (R83). -/
def sumFp32 (K : Nat) (prod : Nat → FVal) (acc : Nat) : Nat :=
  (List.range (ceilDiv K 32)).foldl (fun acc j =>
    let ps := (List.range (Nat.min 32 (K - 32 * j))).map (fun i => prod (32 * j + i))
    (ffmaV fp32 0 0 fone (fdecode fp32 acc) (blockSum ps)).bits) acc

/-- SumINT32 (R84). -/
def sumInt32 (K : Nat) (prod : Nat → Int) (acc : Nat) : Nat :=
  (((acc : Int) + ((List.range K).map prod).foldl (· + ·) 0) % 2 ^ 32).toNat

/-- One operand as the array reads it: the bits of its element k, and its scale entry for a group or block c. -/
structure Operand where
  fmt   : Nat
  elem  : Nat → Nat
  entry : Nat → Nat

/-- The integer part (q − z) and scale of an element; `scaled` says whether group entries apply (R80). -/
def asymPart (o : Operand) (scaled : Bool) (L k : Nat) : Int × FVal :=
  let t := intOf o.fmt
  let q := t.val (o.elem k)
  if scaled then
    let e := o.entry (k / L)
    (q - t.val (e / 2 ^ 16 % 256), fdecode fp16 (e % 65536))
  else (q, fone)

/-- A floating-point element with its block scale (R81). -/
def floatPart (o : Operand) (scaled : Bool) (k : Nat) : FVal :=
  let v := fdecode (fltOf o.fmt) (o.elem k)
  if scaled then ue8m0 (o.entry (k / 32)) v else v

/-- Prod[k] for an FP32 accumulator. -/
def prodFp (f : FmtWord) (a b : Operand) (k : Nat) : FVal :=
  if isIntFmt f.af then
    let x := asymPart a (f.sm == 2) (groupLen32 f) k
    let y := asymPart b true (groupLen32 f) k
    posZero (vmul (vint (x.1 * y.1)) (vmul x.2 y.2))
  else vmul (floatPart a (f.sm == 3) k) (floatPart b (f.sm == 3 || f.sm == 4) k)

/-- Prod[k] for an INT32 accumulator, in integer or binary mode. -/
def prodInt (f : FmtWord) (a b : Operand) (k : Nat) : Int :=
  if f.af = 10 then
    let x := a.elem k
    let y := b.elem k
    (if f.bop = 0 then (x + y) % 2 else x * y : Nat)
  else (intOf f.af).val (a.elem k) * (intOf f.bf).val (b.elem k)

/-! ## The arrays -/

/-- Element (m, n) of tile t stands here (R207). -/
def accAt (s : State) (g : Grp) (t m n : Nat) : Nat :=
  let tm := s.team g.teamKey
  accLoc tm.core (m / 64) (tm.accBase + t * 16384 + m % 64 * 256 + 4 * n)

/-- The place of an element. -/
def accPlace (s : State) (g : Grp) (t m n : Nat) : EngPlace := ⟨accAt s g t m n, 0, false, 0, 4⟩
/-- An element as an operation reads it. -/
def readAcc (s : State) (g : Grp) (seen : Seen) (t m n : Nat) : Nat :=
  bytesToNat ((List.range 4).map (fun i => seenByte s g.core seen 0 false (accAt s g t m n + i)))
/-- The writes of row m of tile t. -/
def accRow (s : State) (g : Grp) (t m : Nat) (xs : List Nat) : List EngWrite :=
  xs.zipIdx.map (fun x => ⟨accAt s g t m x.2, 0, natToBytes 4 x.1⟩)

/-- Element i of w bits of a row held as a number (R66). -/
def elemAt (row w i : Nat) : Nat := row / 2 ^ (i * w) % 2 ^ w

/-- How many scale entries one line of an operand has over K elements (R80, R81). -/
def entriesOver (f : FmtWord) (K : Nat) : Nat := ceilDiv K (if isIntFmt f.af then groupLen32 f else 32)

/-- The scale entries of line `i` of an operand of `lines` lines, from its scale table. -/
def scaleLine (s : State) (g : Grp) (op : MatOp) (table : Dword) (lines i : Nat) : List Nat :=
  let f := fmtWord op.fw
  let sz := scaleBytes f
  if f.sm = 0 then []
  else (List.range (entriesOver f (pK op.block))).map (fun c =>
    bytesToNat (engineRead s g op.held op.seen (table + BitVec.ofNat 64 ((c * lines + i) * sz)) sz))

/-- B's scale entries, column by column. -/
def scalesB (s : State) (g : Grp) (op : MatOp) : List (List Nat) :=
  (List.range 64).map (scaleLine s g op (pAddr op.block 0x28) 64)

/-- The work of a TMMA (R209): row m of the result, from the state at the start of the work. -/
def tmmaRow (s : State) (g : Grp) (op : MatOp) (quarters : List Nat) (sb : List (List Nat)) (m : Nat) : List Nat :=
  let b := op.block
  let f := fmtWord op.fw
  let K := pK b
  let wA := fmtWidth f.af
  let wB := fmtWidth f.bf
  let QK := kmaxOf f / 4
  let row := bytesToNat (engineRead s g op.held op.seen (pAddr b 0 + BitVec.ofNat 64 (m * blockField b 0x08 4)) (ceilDiv (K * wA) 8))
  let sa := if f.sm = 2 ∨ f.sm = 3 then scaleLine s g op (pAddr b 0x20) 256 m else []
  let A : Operand := ⟨f.af, elemAt row wA, fun c => sa.getD c 0⟩
  (List.range 64).map (fun n =>
    let col := sb.getD n []
    let B : Operand := ⟨f.bf, fun k => elemAt (quarters.getD (k / QK) 0) wB (k % QK * 64 + n), fun c => col.getD c 0⟩
    let acc := if pZero b then 0 else readAcc s g [] (pTile b) m n
    if f.cf = 0 then sumFp32 K (prodFp f A B) acc else sumInt32 K (prodInt f A B) acc)

/-- The bound slots as numbers, quarter by quarter (R202). -/
def boundQuarters (s : State) (g : Grp) (op : MatOp) : List Nat :=
  (List.range 4).map (fun q => s.readNat none 0 (stageLoc g.teamKey (4 * g.tq + q) (op.slots.getD q 0) 0) 4096)

/-- What TACLD makes of a memory element (Table 8-8). -/
def tacldElem (xfmt x : Nat) : Nat :=
  match xfmt with
  | 0 => x
  | 1 => (toFp32 bf16 x).bits
  | 2 => (toFp32 fp16 x).bits
  | 6 => ((IFmt.val ⟨8, true⟩ x) % 2 ^ 32).toNat
  | _ => x

/-- What TACST stores for an accumulator word (Table 8-8), under a mode and random value. -/
def tacstElem (xctl mode rnd x : Nat) : Nat :=
  let xfmt := xctl % 16
  let sat := xctl / 256 % 2 == 1
  if xfmt = 0 then x
  else if xctl / 16 % 2 = 1 then (itoi (intOf xfmt) sat (IFmt.val ⟨32, true⟩ x)).bits
  else (fconv (fltOf xfmt) mode rnd sat (fdecode fp32 x)).bits

/-- n elements in order, each taking one step of the generator where the mode is stochastic (R75, R215). -/
def seededRow (stoch : Bool) (f : Nat → Nat → Nat) : Nat → Nat → Word → List Nat × Word
  | 0, _, g => ([], g)
  | k + 1, i, g =>
    let r := if stoch then stepGen g else (g, 0)
    let t := seededRow stoch f k (i + 1) r.1
    (f i r.2 :: t.1, t.2)

/-- Elements of w bits packed in bytes (R66). -/
def packElems (w : Nat) (xs : List Nat) : List Byte :=
  natToBytes (xs.length * w / 8) ((xs.zipIdx).foldl (fun acc x => acc + x.1 * 2 ^ (w * x.2)) 0)

/-! ## The quantiser (R87, R88) -/

/-- What QuantizeBlock answers: the codes, the scale, the raises, saturation, and the generator after it. -/
structure QBlock where
  q    : List Nat
  e    : Nat
  nr   : Nat
  sat  : Bool
  gen  : Word
  deriving DecidableEq, Repr

/-- One element under scale e: its code, saturated on overflow, and whether it overflows. -/
def quantElem (f : FFmt) (mode rnd e : Nat) (x : FVal) : Nat × Bool :=
  match x with
  | .nan _ => (f.nanCode, false)
  | .inf n => (f.signed n f.maxCode, true)
  | .fin n m q =>
    let r := froundX f mode rnd true ⟨n, m, q + 127 - (e : Int), false⟩
    (r.bits, r.flags &&& flSAT != 0)

def quantPass (f : FFmt) (mode e : Nat) : List FVal → Word → List (Nat × Bool) × Word
  | [], g => ([], g)
  | x :: xs, g =>
    let r := if mode = 4 then stepGen g else (g, 0)
    let t := quantPass f mode e xs r.1
    (quantElem f mode r.2 e x :: t.1, t.2)

/-- The loop of QuantizeBlock: `fuel` raises are left. -/
def quantLoop (f : FFmt) (mode : Nat) (xs : List FVal) : Nat → Nat → Nat → Word → QBlock
  | fuel, e, nr, g =>
    let p := quantPass f mode e xs g
    let codes := p.1.map (·.1)
    if !(p.1.any (·.2)) then ⟨codes, e, nr, false, p.2⟩
    else match fuel with
      | 0 => ⟨codes, e, nr, true, p.2⟩
      | k + 1 => if e = 0xFE then ⟨codes, e, nr, true, p.2⟩ else quantLoop f mode xs k (e + 1) (nr + 1) p.2

def quantizeBlock (f : FFmt) (mode e0 : Nat) (xs : List FVal) (g : Word) : QBlock :=
  if e0 = 0xFF then ⟨xs.map (fun _ => f.nanCode), 0xFF, 0, false, g⟩ else quantLoop f mode xs 3 e0 0 g

/-- The blocks of a TQUANT in order, block c of row m under 2m + c (R214); the generator goes from one to the next. -/
def quantBlocks (s : State) (g : Grp) (op : MatOp) : List QBlock :=
  let f := fmtWord op.fw
  ((List.range 512).foldl (fun (r : List QBlock × Word) i =>
    let xs := (List.range 32).map (fun n =>
      let x := readAcc s g op.seen (pTile op.block) (i / 2) (i % 2 * 32 + n)
      if f.cf = 0 then fdecode fp32 x else vint (IFmt.val ⟨32, true⟩ x))
    let q := quantizeBlock (fltOf f.af) f.rnd op.start xs r.2
    (q :: r.1, q.gen)) ([], op.seed)).1.reverse

/-- Where element n of row m of the memory tile begins. -/
def xElem (op : MatOp) (w m n : Nat) : Dword := pAddr op.block 0x38 + BitVec.ofNat 64 (m * blockField op.block 0x40 4 + n * w / 8)

/-- The writes of block i: its elements and its scale. -/
def quantWrites (s : State) (g : Grp) (op : MatOp) (i : Nat) (q : QBlock) : List EngWrite :=
  let w := fmtWidth (fmtWord op.fw).af
  engineBytes s g op.held (xElem op w (i / 2) (i % 2 * 32)) (packElems w q.q) ++
  engineBytes s g op.held (pAddr op.block 0x48 + BitVec.ofNat 64 (i % 2 * 256 + i / 2)) [BitVec.ofNat 8 q.e]

/-- The width of the memory format of TACLD and TACST. -/
def xWidth (op : MatOp) : Nat := fmtWidth (pXctl op.block % 16)

/-- The rows of writes of an operation, all from the state at hand; TQUANT's rows are its 512 blocks. -/
def matRows (s : State) (g : Grp) (op : MatOp) : Nat → List EngWrite :=
  let b := op.block
  let t := pTile b
  match op.fn with
  | 0 =>
    let qs := boundQuarters s g op
    let sb := scalesB s g op
    fun m => accRow s g t m (tmmaRow s g op qs sb m)
  | 1 => fun m => accRow s g t m (List.replicate 64 0)
  | 2 => fun m =>
    let row := bytesToNat (engineRead s g op.held op.seen (xElem op (xWidth op) m 0) (xRowBytes 2 (fmtWord op.fw) b))
    accRow s g t m ((List.range 64).map (fun n => tacldElem (pXctl b % 16) (elemAt row (xWidth op) n)))
  | 3 => fun m =>
    let mode := pXctl b / 32 % 8
    let gen := if mode = 4 then (fun (x : Word) => (stepGen x).1)^[64 * m] op.seed else op.seed
    let r := seededRow (mode == 4) (fun n rnd => tacstElem (pXctl b) mode rnd (readAcc s g op.seen t m n)) 64 0 gen
    engineBytes s g op.held (xElem op (xWidth op) m 0) (packElems (xWidth op) r.1)
  | _ =>
    let qs := quantBlocks s g op
    fun i => match qs[i]? with
      | some q => quantWrites s g op i q
      | none => []

def matRowCount (op : MatOp) : Nat := if op.fn = 4 then 512 else 256

/-- The work of an operation in the arrays: what it has not written yet, and TQUANT's report (R214). -/
def matWork (s : State) (k : Nat) (op : MatOp) : State :=
  let g := s.grp k
  let rows := matRows s g op
  let s' := engineEnds s g.core op.wrote (matRowCount op) rows
  if op.fn ≠ 4 then s' else
  let qs := quantBlocks s g op
  let emax := qs.foldl (fun x q => Nat.max x q.e) 0
  let rmax := qs.foldl (fun x q => Nat.max x q.nr) 0
  let sat := qs.any (·.sat)
  s'.modGrp k (fun g =>
    let g := { g with scaleh := BitVec.ofNat 64 (g.scaleh.toNat % 256 + emax * 2 ^ 8 + rmax * 2 ^ 16 + bit64 sat 18) }
    if sat then g.raiseFlag op.lanes flQOV else g)

/-! ## Order (R216 to R218) -/

/-- The spans an operation touches: its tile, and the locations of its ranges. -/
def matSpans (s : State) (g : Grp) (op : MatOp) : List (Nat × Nat) :=
  let f := fmtWord op.fw
  let rs := (if op.fn = 0 then tmmaRanges f op.block else []) ++ xRanges op.fn f op.block
  rs.flatMap (fun r => (enginePlaces s g op.held r.1 r.2).map (fun p => (p.loc, p.len)))

def spansMeet (xs ys : List (Nat × Nat)) : Bool :=
  xs.any (fun x => ys.any (fun y => decide (x.1 < y.1 + y.2) && decide (y.1 < x.1 + x.2)))

/-- An operation may begin before an older one of its group only where they touch nothing in common; TQUANTs keep their order
(R214, R218). -/
def matMayBegin (s : State) (g : Grp) (o : PendOp) (op : MatOp) : Bool :=
  (g.ops.takeWhile (fun x => x.id != o.id)).all (fun x => x.done || (match x.body with
    | .matrix old => pTile old.block != pTile op.block && !(old.fn == 4 && op.fn == 4) && !spansMeet (matSpans s g old) (matSpans s g op)
    | _ => true))

/-- The wait link is met (R216). -/
def linkMet (s : State) (g : Grp) (op : MatOp) : Bool :=
  let x := pLink op.block
  !linkWen x || (s.bar (g.barRef 0 (linkWidx x))).parity == linkWpar x

/-- The work of an operation may begin, or go on: it is not done, its wait link is met or was (R216), and its group's order lets it. -/
def matReady (s : State) (g : Grp) (o : PendOp) (op : MatOp) : Bool := !o.done && (op.go || linkMet s g op) && matMayBegin s g o op

/-- The wait of an operation's wait link ends, once: an acquire (R216). -/
def linkEnd (s : State) (k : Nat) (o : PendOp) (op : MatOp) : State :=
  if op.go then s else
  let s := if linkWen (pLink op.block) then barAcquire s (s.grp k) 0 (linkWidx (pLink op.block)) else s
  s.modGrp k (fun g => g.setOp { o with body := .matrix { op with go := true } })

/-- What an operation reads for its row m (TQUANT: block m), or for the element n of a row of 64; a stochastic TQUANT's block depends
on every block before it. The sum that a TMMA adds to is read as it is written, in one step (R218). -/
def matReads (s : State) (g : Grp) (op : MatOp) (m n : Nat) : List EngPlace :=
  let b := op.block
  let f := fmtWord op.fw
  let tile := fun (m n : Nat) => accPlace s g (pTile b) m n
  match op.fn with
  | 0 =>
    let scales := fun (table : Dword) (lines i : Nat) => (List.range (entriesOver f (pK b))).flatMap (fun c =>
      enginePlaces s g op.held (table + BitVec.ofNat 64 ((c * lines + i) * scaleBytes f)) (scaleBytes f))
    enginePlaces s g op.held (pAddr b 0 + BitVec.ofNat 64 (m * blockField b 0x08 4)) (ceilDiv (pK b * fmtWidth f.af) 8) ++
      (if f.sm = 2 ∨ f.sm = 3 then scales (pAddr b 0x20) 256 m else []) ++ (if f.sm = 0 then [] else scales (pAddr b 0x28) 64 n)
  | 1 => []
  | 2 => enginePlaces s g op.held (xElem op (xWidth op) m n) (xWidth op / 8)
  | 3 => [tile m n]
  | _ => (if f.rnd = 4 then List.range (m + 1) else [m]).flatMap (fun i =>
      (List.range 32).map (fun n => tile (i / 2) (i % 2 * 32 + n)))

/-- Everything an operation reads before it writes. -/
def matSources (s : State) (g : Grp) (op : MatOp) : List EngPlace :=
  let b := op.block
  match op.fn with
  | 0 => rangesPlaces s g op.held (tmmaRanges (fmtWord op.fw) b)
  | 1 => []
  | 2 => rangesPlaces s g op.held (xRanges 2 (fmtWord op.fw) b)
  | _ => (List.range 256).flatMap (fun m => (List.range 64).map (fun n => accPlace s g (pTile b) m n))

/-- The words of the tile that a TMMA adds to. -/
def tmmaSums (s : State) (g : Grp) (op : MatOp) : List EngPlace :=
  if op.fn = 0 ∧ pZero op.block = false then
    (List.range 256).flatMap (fun m => (List.range 64).map (fun n => accPlace s g (pTile op.block) m n)) else []

/-- One matrix operation does its work, arrives, and leaves TL. A poisoned word among what it reads freezes the group (R276). -/
def retireMat (s : State) (k : Nat) (o : PendOp) (op : MatOp) : State :=
  let g := s.grp k
  match placesPoison s g.core op.seen (matSources s g op ++ tmmaSums s g op) with
  | some w => (s.freezeGrp k 2 w 2).modGrp k (fun g => g.finishOp o.id)
  | none =>
    let s := matWork s k op
    let x := pLink op.block
    let s := if linkAen x then arriveLink s (s.grp k) (linkAidx x) op.lanes else s
    s.modGrp k (fun g => g.finishOp o.id)

/-- MATRIX_OPERATION_RETIRE (R209). -/
def execMatrixOperationRetire (c k : Nat) (s : State) : Res :=
  .next (match (s.grp c).findOp k with
    | some o => match o.body with
      | .matrix op => if matReady s (s.grp c) o op then retireMat (linkEnd s c o op) c o { op with go := true } else s
      | _ => s
    | none => s)

/-! ## Work before the end (R218, Table 8-9) -/

/-- The piece of a place that holds a location: a byte of memory, or a whole word of the tile. -/
def EngPlace.piece (p : EngPlace) (loc len : Nat) : Option EngPlace :=
  if p.loc ≤ loc ∧ loc < p.loc + p.len then
    let o := (loc - p.loc) / len * len
    some { p with loc := p.loc + o, off := p.off + o, len := len }
  else none

/-- Turn: an operation reads one location of its sources before its end. -/
def matSee (s : State) (k : Nat) (o : PendOp) (op : MatOp) (loc : Nat) : State :=
  if !matReady s (s.grp k) o op then s else
  let s := linkEnd s k o op
  let g := s.grp k
  let ps := ((matSources s g op).filterMap (fun p => p.piece loc (if op.fn ≥ 3 then 4 else 1))).take 1
  if (placesPoison s g.core op.seen ps).isSome then s
  else s.setGrp k (g.setOp { o with body := .matrix { op with go := true, seen := seeBytes s g.core ps op.seen } })

/-- Turn: an operation writes one word of the tile, or one byte of memory, before its end: write `part` of element i of its tile
(TQUANT: of block i). -/
def matDo (s : State) (k : Nat) (o : PendOp) (op : MatOp) (i part : Nat) : State :=
  let g := s.grp k
  let m := if op.fn = 4 then i else i / 64
  let n := if op.fn = 4 then 0 else i % 64
  if !matReady s g o op || decide (m ≥ matRowCount op) then s else
  let s := linkEnd s k o op
  let ps := matReads s g op m n
  if (placesPoison s g.core op.seen (ps ++ (if op.fn = 0 then [accPlace s g (pTile op.block) m n] else []))).isSome then s
  else
    let op := { op with go := true, seen := seeBytes s g.core ps op.seen }
    let each := if op.fn = 3 then xWidth op / 8 else 1
    let row := matRows s g op m
    match (if op.fn = 4 then row else (row.drop (n * each)).take each)[part]? with
    | none => s
    | some w =>
      (engineWrite s g.core op.wrote [w]).modGrp k (fun g => g.setOp { o with body := .matrix { op with wrote := w.loc :: op.wrote } })

end Sys2Proof.Machine
end

