-- ==== Sys2Proof/Machine/Chain.lean ====
section
/-! DEFINITION. Stream chains: major 44 (R117 to R120), and the groups' vat instructions: major 45 (R229 to R231). -/
namespace Sys2Proof.Machine

/-! ## The chain block (Tables 4-9 to 4-12) -/

def cCount (b : List Dword) : Nat := blockField b 0x18 4
def cCtrl (b : List Dword) : Nat := blockField b 0x1C 4
def cNstep (b : List Dword) : Nat := cCtrl b / 2 ^ 12 % 16
def cDtype (b : List Dword) : Nat := cCtrl b / 2 ^ 8 % 16
def cXtype (b : List Dword) : Nat := cCtrl b / 2 ^ 4 % 16
def cRnd (b : List Dword) : Nat := cCtrl b / 2 ^ 16 % 8
def cSat (b : List Dword) : Bool := cCtrl b / 2 ^ 19 % 2 == 1
/-- Step i: its code and constant. -/
def cStep (b : List Dword) (i : Nat) : Nat × Nat :=
  let x := (b.getD (4 + i) 0).toNat
  (x % 256, x / 2 ^ 32)

/-- Bytes of an element of a type of Table 2-8. -/
def tyBytes (code : Nat) : Nat := (styOf code).width / 8

/-- Some applied step reads stream Y. -/
def usesY (b : List Dword) : Bool := (List.range (cNstep b)).any (fun i => [2, 3, 4].contains (cStep b i).1)

/-- Check 3 of R119. Every step's code is checked, those past NSTEP too; a COUNT above Table 4-9's range traps here, although the check
does not name COUNT (DESIGN CHOICE, log entry 82). -/
def chainBad (b : List Dword) : Bool :=
  let c := cCtrl b
  decide (c ≥ 2 ^ 20) || c % 16 != 0 || decide (cRnd b ≥ 4) || cNstep b == 0 || decide (cNstep b > 8) ||
  !([0, 1, 2, 4, 5, 7, 11].contains (cDtype b)) || !([0, 1, 2, 4, 5, 7, 8, 11, 12].contains (cXtype b)) ||
  decide (cCount b > 16777216) || (List.range 8).any (fun i => (b.getD (4 + i) 0).toNat / 2 ^ 8 % 2 ^ 24 != 0) ||
  (List.range 8).any (fun i => decide ((cStep b i).1 ≥ 13)) || (b.drop 12).any (fun d => d != 0) ||
  (usesY b && pAddr b 8 == 0)

/-- The ranges of X, Y (if a step reads it) and DST. -/
def chainX (b : List Dword) : Dword × Nat := (pAddr b 0, cCount b * tyBytes (cXtype b))
def chainY (b : List Dword) : List (Dword × Nat) := if usesY b then [(pAddr b 8, cCount b * 4)] else []
def chainD (b : List Dword) : Dword × Nat := (pAddr b 0x10, cCount b * tyBytes (cDtype b))

/-- The checks of R119, in order. With COUNT = 0 the checks on the chain block alone are made, which are taken to be checks 1 to 3
(DESIGN CHOICE, log entry 82). -/
def chainIssue (w : View) (a : Nat) (s : State) : Except EngFault ChainOp :=
  let g := w.g
  let l0 := (lowest w.act).getD 0
  let ea := g.rv64 a l0
  if ea.toNat % 64 ≠ 0 then .error (.trap 8 0 ea)
  else match readBlock s g l0 ea 128 64 with
    | .error e => .error ((e.at ea).whole ea 128)
    | .ok d =>
      let b := dwordsOf d
      let low := fun (c : Nat) (d : Nat) (as : List Dword) => lowestFault (as.map (fun a => (c, d, a)))
      let addrs := [(pAddr b 0, tyBytes (cXtype b)), (pAddr b 8, 4), (pAddr b 0x10, tyBytes (cDtype b))]
      if chainBad b then .error (.trap 1 5 ea)
      else if cCount b = 0 then .ok { block := b, held := [] }
      else match low 8 0 ((addrs.filter (fun x => x.1.toNat % x.2 != 0)).map (·.1)) with
        | some x => .error (.trap x.1 x.2.1 x.2.2)
        | none => match low 7 1 (([chainX b, chainD b] ++ chainY b).filterMap (fun r => rangeFails s g r.1 r.2)) with
          | some x => .error (.trap x.1 x.2.1 x.2.2)
          | none =>
            (holdPages s g ((chainX b :: chainY b).map (fun r => (Need.read, r)) ++ [(.write, chainD b)])).map (fun held =>
              { block := b, held := held })

/-- VCHAIN (R117). -/
def execVchain (u : Bool) (a : BitVec 6) (p : BitVec 3) (s : State) : Res :=
  issue (.vchain u a p) s (fun w s => engineMeaning w s (chainIssue w a.toNat)
    (fun op s => s.modGrp w.key (fun g => g.addOp .tl w.act (.vchain op))))

/-! ## The stream engine (R118) -/

/-- One step on FP32 bits. -/
def chainStep (op k t y : Nat) : Nat :=
  match op with
  | 0 => (fadd fp32 0 0 t k).bits
  | 1 => (fmul fp32 0 0 t k).bits
  | 2 => (fadd fp32 0 0 t y).bits
  | 3 => (fmul fp32 0 0 t y).bits
  | 4 => (ffma fp32 0 0 t k y).bits
  | 5 => (fminmax fp32 true t k).bits
  | 6 => (fminmax fp32 false t k).bits
  | 7 => t % 2 ^ 31
  | 8 => fnegate fp32 t
  | 9 => (specialFn 3 t).bits
  | 10 => (specialFn 7 t).bits
  | 11 => (specialFn 0 t).bits
  | _ => (specialFn 1 t).bits

/-- One element: X's bits to DST's. -/
def chainElem (b : List Dword) (x y : Nat) : Nat :=
  let t := (convert (.flt fp32) (styOf (cXtype b)) 0 0 false x).bits
  let t := (List.range (cNstep b)).foldl (fun t i => chainStep (cStep b i).1 (cStep b i).2 t y) t
  if cDtype b = 0 then (if (fdecode fp32 t).isNan then fp32.nanCode else t) else (convert (styOf (cDtype b)) (.flt fp32) (cRnd b) 0 (cSat b) t).bits

/-- The bytes of element i of the destination, from the streams as the operation reads them. -/
def chainBytes (s : State) (g : Grp) (op : ChainOp) (i : Nat) : List Byte :=
  let b := op.block
  let xw := tyBytes (cXtype b)
  let x := bytesToNat (engineRead s g op.held op.seen (pAddr b 0 + BitVec.ofNat 64 (i * xw)) xw)
  let y := if usesY b then bytesToNat (engineRead s g op.held op.seen (pAddr b 8 + BitVec.ofNat 64 (i * 4)) 4) else 0
  natToBytes (tyBytes (cDtype b)) (chainElem b x y)

/-- The writes of element i. -/
def chainWrites (s : State) (g : Grp) (op : ChainOp) (i : Nat) : List EngWrite :=
  engineBytes s g op.held (pAddr op.block 0x10 + BitVec.ofNat 64 (i * tyBytes (cDtype op.block))) (chainBytes s g op i)

/-- What element i is computed from. -/
def chainReads (s : State) (g : Grp) (op : ChainOp) (i : Nat) : List EngPlace :=
  let b := op.block
  let xw := tyBytes (cXtype b)
  enginePlaces s g op.held (pAddr b 0 + BitVec.ofNat 64 (i * xw)) xw ++
    (if usesY b then enginePlaces s g op.held (pAddr b 8 + BitVec.ofNat 64 (i * 4)) 4 else [])

/-- The elements that are left are all computed from the streams as they stand, or as the operation has read them, and written. -/
def retireChain (s : State) (k : Nat) (o : PendOp) (op : ChainOp) : State :=
  let g := s.grp k
  if cCount op.block = 0 then s.modGrp k (fun g => g.finishOp o.id)
  else match enginePoison s g op.held op.seen (chainX op.block :: chainY op.block) with
    | some w => (s.freezeGrp k 2 w 2).modGrp k (fun g => g.finishOp o.id)
    | none => (engineEnds s g.core op.wrote (cCount op.block) (chainWrites s g op)).modGrp k (fun g => g.finishOp o.id)

/-- VCHAIN_RETIRE (R120). -/
def execVchainRetire (c k : Nat) (s : State) : Res :=
  .next (match (s.grp c).findOp k with
    | some o => match o.body with
      | .vchain op => if o.done then s else retireChain s c o op
      | _ => s
    | none => s)

/-! ## Work before the end (Table 4-13) -/

/-- Turn: a chain reads one byte of its streams before its end. -/
def chainSee (s : State) (k : Nat) (o : PendOp) (op : ChainOp) (loc : Nat) : State :=
  let g := s.grp k
  let ps := ((rangesPlaces s g op.held (chainX op.block :: chainY op.block)).filterMap (fun p => p.piece loc 1)).take 1
  if o.done || (placesPoison s g.core op.seen ps).isSome then s
  else s.setGrp k (g.setOp { o with body := .vchain { op with seen := seeBytes s g.core ps op.seen } })

/-- A byte of the element at `all` is written: what is then left of the element is begun, and what is whole is begun no longer. -/
def ChainOp.wroteByte (op : ChainOp) (all : List Nat) (loc : Nat) : ChainOp :=
  let wrote := loc :: op.wrote
  let others := op.begun.filter (fun x => x != all)
  { op with wrote := wrote, begun := if all.all wrote.contains then others else all :: others }

/-- Turn: a chain writes byte `part` of element i before its end; from then on that element's own bytes are read. A store that covers the
element whole while it is written in part comes after all of it (Table 4-13). -/
def chainDo (s : State) (k : Nat) (o : PendOp) (op : ChainOp) (i part : Nat) : State :=
  let g := s.grp k
  let ps := chainReads s g op i
  if o.done || decide (i ≥ cCount op.block) || (placesPoison s g.core op.seen ps).isSome then s
  else
    let op := { op with seen := seeBytes s g.core ps op.seen }
    let ws := chainWrites s g op i
    match ws[part]? with
    | none => s
    | some w =>
      if op.wrote.contains w.loc then s
      else (engineWrite s g.core op.wrote [w]).modGrp k (fun g => g.setOp { o with body := .vchain (op.wroteByte (ws.map (·.loc)) w.loc) })

/-- Turn: an engine operation reads a location before its end. -/
def engineSee (s : State) (k id loc : Nat) : State :=
  match (s.grp k).findOp id with
  | some o => match o.body with
    | .vchain op => chainSee s k o op loc
    | .matrix op => matSee s k o op loc
    | _ => s
  | none => s

/-- Turn: an engine operation writes a piece of its result before its end. -/
def engineDo (s : State) (k id i part : Nat) : State :=
  match (s.grp k).findOp id with
  | some o => match o.body with
    | .vchain op => chainDo s k o op i part
    | .matrix op => matDo s k o op i part
    | _ => s
  | none => s

/-! ## Vats (R231) -/

/-- The kernel declares vat n. -/
def Kernel.hasVat (k : Kernel) (n : Nat) : Bool := k.vatBytes n != 0

/-- The lanes of Act wait, go on, or trap as one. -/
def vatOuts (w : View) (v : Nat) (out : LaneOut) : List (Nat × LaneOut) :=
  (lanesOf w.act).map (fun l => (l, if !w.g.kern.hasVat v then .trap 1 5 0 none else out))

/-- What the end of a wait for a vat drops: what a decoder may have written at the home (R256). -/
def vatAcquire (s : State) (g : Grp) (n : Nat) : State := if (s.vat g n).dec then s.dropClean g.core else s

/-- VATWAIT (R231). -/
def execVatwait (u : Bool) (v : BitVec 6) (p : BitVec 3) (s : State) : Res :=
  issue (.vatwait u v p) s (fun w s =>
    let st := (s.vat w.g v.toNat).st
    ⟨vatOuts w v.toNat (if st = .full ∨ st = .draining then .ok else .wait),
     fun done s => if done = 0 then s else vatAcquire s w.g v.toNat⟩)

/-- VATTAKE (R231). -/
def execVattake (u : Bool) (v : BitVec 6) (p : BitVec 3) (s : State) : Res :=
  issue (.vattake u v p) s (fun w s =>
    ⟨vatOuts w v.toNat (if (s.vat w.g v.toNat).st = .full then .ok else .wait),
     fun done s => if done = 0 then s else
       let s := vatAcquire s w.g v.toNat
       s.setVat w.g v.toNat { s.vat w.g v.toNat with st := .draining }⟩)

/-- VATFREE (R231). -/
def execVatfree (u : Bool) (v : BitVec 6) (p : BitVec 3) (s : State) : Res :=
  issue (.vatfree u v p) s (fun w s =>
    let ready := noRemote w.g w.act && drained ((drainStores s w.key w.act).grp w.key) w.act
    ⟨vatOuts w v.toNat (if (s.vat w.g v.toNat).st ≠ .draining then .trap 2 7 0 none else if ready then .ok else .wait),
     fun done s => if done = 0 then s else
       let s := releaseLanes s w.key done
       s.setVat w.g v.toNat {}⟩)

end Sys2Proof.Machine
end

