-- ==== Sys2Proof/Machine/Copies.lean ====
section
/-! DEFINITION. Feeder contexts: affine patterns, vat arming, the copies of major 46 with their checks, their running, their
faults and their ends, and the operand queues (R221 to R241). DECSUB and RSHD are in Decoders.lean and Reshard.lean. -/
namespace Sys2Proof.Machine

/-! ## Patterns (R226) -/

def patSize (p : Pattern) : Nat := 2 ^ (p.esize % 8)
def patCount (p : Pattern) : Nat := p.cnt0 * p.cnt1 * p.cnt2
/-- The address of element j: i0 is fastest. -/
def patAddr (p : Pattern) (j : Nat) : Dword :=
  p.base + BitVec.ofNat 64 (j % p.cnt0) * p.str0 + BitVec.ofNat 64 (j / p.cnt0 % p.cnt1) * p.str1 +
    BitVec.ofNat 64 (j / (p.cnt0 * p.cnt1)) * p.str2

def patternOf (b : List Dword) : Pattern :=
  { base := b.getD 0 0, cnt0 := blockField b 8 4, cnt1 := blockField b 12 4, cnt2 := blockField b 16 4, esize := blockField b 20 4
    str0 := b.getD 3 0, str1 := b.getD 4 0, str2 := b.getD 5 0 }

/-- Check 3 of R226. -/
def patternBad (b : List Dword) (p : Pattern) : Bool :=
  let cnt := fun (n : Nat) => n == 0 || decide (n > 65536)
  let off := fun (x : Dword) => x.toNat % patSize p != 0
  (b.drop 6).any (fun d => d != 0) || decide (p.esize ≥ 5) || cnt p.cnt0 || cnt p.cnt1 || cnt p.cnt2 ||
    off p.base || off p.str0 || off p.str1 || off p.str2

/-- An instruction of the one lane of a feeder context: nothing when Act is empty. -/
def feederMeaning (w : View) (out : LaneOut) (eff : State → State) : Meaning :=
  ⟨(lanesOf w.act).map (fun l => (l, out)), fun done s => if done = 0 then s else eff s⟩

/-- The record an AASET or gather reads, checked (R226). -/
def readRecord (s : State) (w : View) (ea : Dword) : Except EngFault (List Dword) :=
  if ea.toNat % 64 ≠ 0 then .error (.trap 8 0 ea)
  else (readBlock s w.g 0 ea 64 64).map dwordsOf

/-- AASET (R226). -/
def execAaset (u : Bool) (a : BitVec 6) (sc : BitVec 2) (p : BitVec 3) (s : State) : Res :=
  issue (.aaset u a sc p) s (fun w s =>
    match readRecord s w (w.g.rv64 a.toNat 0) with
    | .error e => engineFails w 0 e
    | .ok b => feederMeaning w (if patternBad b (patternOf b) then .trap 1 5 0 none else .ok)
        (fun s => (dropFetched s w.key w.act).modGrp w.key (fun g => { g with pats := Bank.set {} g.pats sc.toNat (patternOf b) })))

/-! ## VATARM (R230) -/

/-- VATARM (R230). -/
def execVatarm (u : Bool) (a v : BitVec 6) (p : BitVec 3) (s : State) : Res :=
  issue (.vatarm u a v p) s (fun w s =>
    let n := (w.opnd 0 a.toNat 0).toNat
    let out : LaneOut :=
      if !w.g.kern.hasVat v.toNat || n == 0 || decide (n > 65535) then .trap 1 5 0 none
      else if (s.vat w.g v.toNat).st = .free then .ok else .wait
    feederMeaning w out (fun s => s.setVat w.g v.toNat { st := .filling, n := n }))

/-! ## CPBIND (Table 9-2) -/

def bindBen (b : Word) : Bool := b.getLsbD 17
def bindLvl (b : Word) : Nat := b.toNat / 2 ^ 15 % 4
def bindIdx (b : Word) : Nat := b.toNat / 2 ^ 11 % 16
def bindVen (b : Word) : Bool := b.getLsbD 6
def bindVat (b : Word) : Nat := b.toNat % 64

/-! ## What a copy moves (Table 9-7) -/

def bookKey (core slot : Nat) : Nat := core * 8 + slot % 8
def State.book (s : State) (core slot : Nat) : Codebook := Bank.get {} s.books (bookKey core slot)

/-- The units of a copy and the bytes of each. -/
def copyUnits (k : CopyKind) : Nat × Nat :=
  match k with
  | .cpy _ _ len => (if len = 0 then 0 else 1, len)
  | .cpya _ p => (patCount p, patSize p)
  | .cpyg _ _ _ count rsize _ => (count, rsize)
  | .cpyx _ _ count _ _ vsize _ => (count, vsize)
  | .cbload _ _ _ vsize entries => (1, vsize * entries)
  | .qpush p _ => ((patCount p + 31) / 32, 128)

/-- The bits of an index of a codebook. -/
def iwBits (iw : Nat) : Nat := 4 * 2 ^ iw

/-- The hull of a pattern's elements: its lowest address and its length in bytes. -/
def patHull (p : Pattern) : Dword × Nat :=
  let dim := fun (cnt : Nat) (str : Dword) => str.toInt * ((cnt : Int) - 1)
  let ds := [dim p.cnt0 p.str0, dim p.cnt1 p.str1, dim p.cnt2 p.str2]
  let lo := ds.foldl (fun a d => a + min d 0) (0 : Int)
  let hi := ds.foldl (fun a d => a + max d 0) (0 : Int)
  (p.base + BitVec.ofInt 64 lo, if patCount p = 0 then 0 else (hi - lo).toNat + patSize p)

/-- The destination range, and the source ranges checked at issue (R234, check 3). -/
def copyDst (k : CopyKind) : Option (Dword × Nat) :=
  let u := copyUnits k
  match k with
  | .cpy d _ _ => some (d, u.1 * u.2)
  | .cpya d _ => some (d, u.1 * u.2)
  | .cpyg d _ _ _ _ _ => some (d, u.1 * u.2)
  | .cpyx d _ _ _ _ _ _ => some (d, u.1 * u.2)
  | _ => none
def copySrc (k : CopyKind) : Dword × Nat :=
  match k with
  | .cpy _ src len => (src, len)
  | .cpya _ p => patHull p
  | .cpyg _ _ ia count _ _ => (ia, 4 * count)
  | .cpyx _ src count _ iw _ _ => (src, (count * iwBits iw + 7) / 8)
  | .cbload src _ _ vsize entries => (src, vsize * entries)
  | .qpush p _ => patHull p

/-! ## The checks at issue (R234) -/

/-- The first byte of a range outside one region a copy may reach; a fabric range stays in one peer's global memory. -/
def copyRangeFails (s : State) (g : Grp) (r : Dword × Nat) : Option Dword :=
  if r.2 = 0 then none
  else if r.1.getLsbD 63 then
    let low := r.1.toNat % 2 ^ 56
    if low + r.2 ≤ 0x80 * 2 ^ 48 then none
    else some (if low < 0x80 * 2 ^ 48 then r.1 + BitVec.ofNat 64 (0x80 * 2 ^ 48 - low) else r.1)
  else rangeFails s g r.1 r.2

/-- The addresses at which check 4 looks: the ranges', and the base a gather reads its records from. -/
def fabricAddrs (k : CopyKind) : List Dword :=
  ((copyDst k).toList ++ [copySrc k]).filterMap (fun r => if r.2 = 0 then none else some r.1) ++
  (match k with
   | .cpyg _ sb _ count _ _ => if count = 0 then [] else [sb]
   | _ => [])

def fabricOff (s : State) (g : Grp) : Bool :=
  (s.ctx g.ctxid).fab == false || (s.ctx g.ctxid).contract.getLsbD 10 == false

/-- Checks 2 to 7 of R234, in order, for a copy within the limits of check 1; `aligned` are the addresses check 2 is made on. -/
def copyChecks (s : State) (g : Grp) (k : CopyKind) (aligned : List (Dword × Nat)) : LaneOut :=
  let bind := g.cpbind
  let ranges := ((copyDst k).toList ++ [copySrc k]).filter (fun r => r.2 != 0)
  let ven := bindVen bind && !k.isQpush
  let vat := s.vat g (bindVat bind)
  let lo := 0xF1 * 2 ^ 48 + g.kern.vatOff (bindVat bind)
  let hi := lo + g.kern.vatBytes (bindVat bind)
  let outside : Option Dword := match copyDst k with
    | none => some 0
    | some r => if r.2 = 0 then none
                else if r.1.toNat < lo ∨ r.1.toNat ≥ hi then some r.1
                else if r.1.toNat + r.2 > hi then some (BitVec.ofNat 64 hi) else none
  match aligned.find? (fun x => x.1.toNat % x.2 != 0) with
  | some x => .trap 8 0 x.1 none
  | none => match ranges.findSome? (copyRangeFails s g) with
    | some a => .trap 7 1 a none
    | none => match (fabricAddrs k).find? (fun a => a.getLsbD 63 && fabricOff s g) with
      | some a => .trap 7 0 a none
      | none =>
        if ven && !g.kern.hasVat (bindVat bind) then .trap 1 5 0 none
        else match (if ven then outside else none) with
          | some a => .trap 7 1 a none
          | none =>
            if ven && (vat.st != .filling || vat.i == vat.n) then .trap 2 7 0 none
            else if bindBen bind && (!g.kern.declared (bindLvl bind) (bindIdx bind) || (g.kern.bar (bindLvl bind) (bindIdx bind)).2.1 == 0)
            then .trap 1 5 0 none
            else .ok

/-- The copy issues: it counts in CP and in its vat's i (R233, R234). -/
def startCopy (k : CopyKind) (key : Nat) (s : State) : State :=
  let g := s.grp key
  let s := if bindVen g.cpbind && !k.isQpush then
      let v := s.vat g (bindVat g.cpbind)
      s.setVat g (bindVat g.cpbind) { v with i := v.i + 1 }
    else s
  s.modGrp key (fun g =>
    { g.addOp .cp 1 (.copy { kind := k, bind := g.cpbind, seq := g.copySeq, bytes := 0, fault := none }) with copySeq := g.copySeq + 1 })

/-- The copy may issue: its context's earlier stores and fabric accesses are performed (R237). -/
def copyReady (s : State) (w : View) : Bool := engineReady s w && noRemote w.g w.act

/-- A copy instruction: check 1 as `bad`, the other checks, then the waits (R224, R237), then the issue. -/
def copyMeaning (w : View) (s0 : State) (bad : Bool) (k : CopyKind) (aligned : List (Dword × Nat)) (busy : Bool)
    (extra : State → State) : Meaning :=
  let out : LaneOut :=
    if bad then .trap 1 5 0 none
    else match copyChecks s0 w.g k aligned with
      | .ok => if !busy && copyReady s0 w && w.g.room .cp then .ok else .wait
      | o => o
  feederMeaning w out (fun s => startCopy k w.key (extra (drainStores s w.key w.act)))

/-- CPY (R233). -/
def execCpy (u : Bool) (d a b : BitVec 6) (p : BitVec 3) (s : State) : Res :=
  issue (.cpy u d a b p) s (fun w s =>
    let n := (w.opnd 1 b.toNat 0).toNat
    copyMeaning w s (decide (n > 2 ^ 30)) (.cpy (w.g.rv64 d.toNat 0) (w.g.rv64 a.toNat 0) n) [] false (fun s => s))

/-- CPYA (R233). -/
def execCpya (u : Bool) (d : BitVec 6) (sc : BitVec 2) (p : BitVec 3) (s : State) : Res :=
  issue (.cpya u d sc p) s (fun w s =>
    let p := Bank.get {} w.g.pats sc.toNat
    copyMeaning w s false (.cpya (w.g.rv64 d.toNat 0) p) [(w.g.rv64 d.toNat 0, patSize p)] false (fun s => s))

/-- A gather descriptor (Table 9-8) as a copy. -/
def gatherOf (dst : Dword) (b : List Dword) : CopyKind :=
  .cpyg dst (b.getD 0 0) (b.getD 1 0) (blockField b 0x10 4) (blockField b 0x14 4) (blockField b 0x18 4)
def gatherBad (b : List Dword) : Bool :=
  decide (blockField b 0x10 4 > 2 ^ 24) || blockField b 0x14 4 == 0 || decide (blockField b 0x14 4 > 4096) ||
    blockField b 0x1C 4 != 0 || (b.drop 4).any (fun d => d != 0)

/-- CPYG (R233). -/
def execCpyg (u : Bool) (d a : BitVec 6) (p : BitVec 3) (s : State) : Res :=
  issue (.cpyg u d a p) s (fun w s =>
    match readRecord s w (w.g.rv64 a.toNat 0) with
    | .error e => engineFails w 0 e
    | .ok b => copyMeaning w s (gatherBad b) (gatherOf (w.g.rv64 d.toNat 0) b) [(b.getD 1 0, 4)] false (fun s => dropFetched s w.key w.act))

/-- CPYX (R233). -/
def execCpyx (u : Bool) (d a b : BitVec 6) (p : BitVec 3) (s : State) : Res :=
  issue (.cpyx u d a b p) s (fun w s =>
    let n := (w.g.rv b.toNat 0).toNat
    let slot := (w.g.rv (b.toNat + 1) 0).toNat
    let b := s.book w.g.core slot
    copyMeaning w s (decide (n > 2 ^ 24) || decide (slot ≥ 8))
      (.cpyx (w.g.rv64 d.toNat 0) (w.g.rv64 a.toNat 0) n slot b.iw b.vsize b.entries) [] false
      (fun s => s))

/-- The CBLOAD control word (Table 9-9): IW, VSIZE, ENTRIES. -/
def cbIw (c : Word) : Nat := c.toNat / 2 ^ 24 % 4
def cbVsize (c : Word) : Nat := c.toNat / 2 ^ 15 % 512
def cbEntries (c : Word) : Nat := c.toNat % 4096
def cbBad (c : Word) : Bool :=
  decide (c.toNat ≥ 2 ^ 26) || cbIw c == 3 || c.toNat / 2 ^ 12 % 8 != 0 || cbVsize c % 4 != 0 || cbVsize c == 0 || decide (cbVsize c > 256) ||
    cbEntries c == 0 || decide (cbEntries c > 2048) || decide (cbEntries c * cbVsize c > 8192) || decide (cbEntries c > 2 ^ iwBits (cbIw c))

/-- CBLOAD (R235): the slot is the team's at once; its sizes change with its bytes. -/
def execCbload (u : Bool) (d a : BitVec 6) (k p : BitVec 3) (s : State) : Res :=
  issue (.cbload u d a k p) s (fun w s =>
    let c := w.opnd 1 d.toNat 0
    let busy := match (s.book w.g.core k.toNat).team with
      | some t => t != w.g.teamKey
      | none => false
    copyMeaning w s (cbBad c) (.cbload (w.g.rv64 a.toNat 0) k.toNat (cbIw c) (cbVsize c) (cbEntries c)) [] busy
      (fun s => { s with books := Bank.set {} s.books (bookKey w.g.core k.toNat) { s.book w.g.core k.toNat with team := some w.g.teamKey } }))

/-- QPUSH (R227). -/
def execQpush (u : Bool) (sc : BitVec 2) (q p : BitVec 3) (s : State) : Res :=
  issue (.qpush u sc q p) s (fun w s =>
    let pat := Bank.get {} w.g.pats sc.toNat
    copyMeaning w s (pat.esize != 2) (.qpush pat q.toNat) [] false (fun s => s))

/-! ## Running a copy (R236, R238) -/

/-- A copy under way: the state, the copy, the place in copy order it has come to, whether only its pages are checked (`dry`), and what
stopped it: a fault, a violation, or bytes that a peer has still to give or to answer for. -/
structure Run where
  st     : State
  op     : CopyOp
  pos    : Nat
  dry    : Bool
  fault  : Option TrapInfo
  viol   : Option (Nat × Nat)
  wait   : Bool

def Run.stopped (r : Run) : Bool := r.fault.isSome || r.viol.isSome || r.wait
def Run.failAt (r : Run) (cause detail : Nat) (addr : Dword) : Run := { r with fault := some ⟨cause, detail, addr⟩ }

/-- A place a copy reads or writes: a location under a key tag, with the core's L1 before it or not, or a peer's memory. -/
inductive Spot where
  | here (loc tag : Nat) (l1 : Bool)
  | peer (module : Nat)
  deriving DecidableEq, Repr

/-- The fault of Table 9-11 for a failed page; `dst` says that it is the destination's. -/
def pageTrap (dst : Bool) (x : Xlat) (va : Dword) : TrapInfo ⊕ (Nat × Nat) :=
  let d := if dst then 1 else 0
  match x with
  | .deny 2 => .inl ⟨0x13, d, va⟩
  | .deny _ => .inl ⟨0x12, d, va⟩
  | .violation c p => .inr (c, p)
  | _ => .inl ⟨if dst then 0x11 else 0x10, 0, va⟩

/-- Where a global byte leads, under its own page's key and cacheability (R236, R265). -/
def globalSpot (s : State) (g : Grp) (dst : Bool) (va : Dword) : Spot ⊕ (TrapInfo ⊕ (Nat × Nat)) :=
  match translate s g.asker g.ctxid (s.ctx g.ctxid) (if dst then .write else .read) va with
  | .ok phys key cache => .inl (.here phys (keyTag s key) (cache != 2))
  | x => .inr (pageTrap dst x va)

/-- Where n bytes of one page or window lead. A fabric address that names this module leads to its own memory. What Table 9-11 has no cause
for, a gather's record or place outside every region and window, is taken as denied (DESIGN CHOICE, log entry 94). -/
def spotOf (s : State) (g : Grp) (dst : Bool) (va : Dword) (n : Nat) : Spot ⊕ (TrapInfo ⊕ (Nat × Nat)) :=
  match regionOf va with
  | .global => globalSpot s g dst va
  | .fabric => match Config.peerEntry (s.ctx g.ctxid).peers (bitsOf va 56 7) with
    | some m => if m = s.fabric.self then globalSpot s g dst (va &&& 0x00FFFFFFFFFFFFFF#64) else .inl (.peer m)
    | none => .inr (.inl ⟨0x16, 7, va⟩)
  | r => match windowPlace s g r (offsetOf va) n with
    | some loc => .inl (.here loc 0 false)
    | none => .inr (.inl ⟨0x12, if dst then 1 else 0, va⟩)

/-- Where place `i` of the copy order leads, which stands at `va`: through the page it has started, else through its own (R236, R272). -/
def Run.spot (r : Run) (g : Grp) (dst : Bool) (i : Nat) (va : Dword) (n : Nat) : Spot ⊕ (TrapInfo ⊕ (Nat × Nat)) :=
  match r.op.pages.find? (fun p => p.dst == dst && decide (p.lo ≤ i) && decide (i < p.lo + p.n)) with
  | some p => .inl (.here (p.held.phys + va.toNat % 65536) p.held.tag p.held.l1)
  | none => spotOf r.st g dst va n

def Run.stopAt (r : Run) (x : TrapInfo ⊕ (Nat × Nat)) : Run := match x with
  | .inl f => { r with fault := some f }
  | .inr v => { r with viol := some v }

/-- Byte i of a copy, if it has been read before it is delivered. -/
def Run.seen (r : Run) (i : Nat) : Option Byte := Bank.get none r.op.seen i
/-- The places under which the bytes of the index of unit i stand, after every place of the copy order. -/
def idxPlace (i : Nat) : Nat := 2 ^ 40 + 4 * i

/-- A place of the copy order that a peer was asked for and refuses, with the cause. -/
def CopyOp.refused (op : CopyOp) (rd : Bool) (i : Nat) : Option Nat :=
  (op.sent.find? (fun x => x.rd == rd && x.refused.isSome && decide (x.off ≤ i) && decide (i < x.off + x.len))).bind (·.refused)

/-- The run at a byte that a peer has not given, or not answered for: it ends in the peer's refusal, or waits. -/
def Run.unanswered (r : Run) (rd : Bool) (i : Nat) (va : Dword) : Run :=
  match r.op.refused rd i with
  | some c => r.failAt 0x16 c va
  | none => { r with wait := true }

/-- Reads n bytes of one page, which stand at place `i` of the copy order: answers them, or stops the run. -/
def readSpot (g : Grp) (i : Nat) (va : Dword) (n : Nat) (r : Run) : List Byte × Run :=
  match r.spot g false i va n with
  | .inr x => ([], r.stopAt x)
  | .inl (.here loc tag l1) =>
    let core := if l1 then some g.core else none
    match (List.range n).findSome? (fun t => if (r.seen (i + t)).isSome then none else r.st.poisoned core (loc + t) 1) with
    | some w => ([], { r with viol := some (2, w) })
    | none => ((List.range n).map (fun t => (r.seen (i + t)).getD (r.st.readByte core tag (loc + t))), r)
  | .inl (.peer _) => match (List.range n).find? (fun t => (r.seen (i + t)).isNone) with
    | none => ((List.range n).map (fun t => (r.seen (i + t)).getD 0), r)
    | some t => ([], r.unanswered true (i + t) (va + BitVec.ofNat 64 t))

/-- Reads a few bytes that may lie in two pages. -/
def readSmall (g : Grp) (i : Nat) (va : Dword) (n : Nat) (r : Run) : List Byte × Run :=
  (List.range n).foldl (fun (x : List Byte × Run) t =>
    if x.2.stopped then x else
    let y := readSpot g (i + t) (va + BitVec.ofNat 64 t) 1 x.2
    (x.1 ++ y.1, y.2)) ([], r)

/-- The bytes of the destination from a location that have not been delivered before their turn. -/
def writeLeft (s : State) (core : Nat) (op : CopyOp) (pos tag loc : Nat) (d : List Byte) : State :=
  if op.moved.isEmpty then s.writeBytes none (some core) tag loc d
  else (d.zipIdx.foldl (fun s x => if op.moved.contains (pos + x.2) then s else s.writeBytes none (some core) tag (loc + x.2) [x.1]) s).unpoison
    loc d.length

/-- A piece for a peer is delivered once the peer has answered for it: the run goes on, waits, or ends in the peer's refusal. -/
def peerPiece (va : Dword) (n : Nat) (r : Run) : Run :=
  match (List.range n).find? (fun t => !r.op.moved.contains (r.pos + t)) with
  | none => { r with pos := r.pos + n }
  | some t => { r with pos := r.pos + t }.unanswered false (r.pos + t) (va + BitVec.ofNat 64 t)

/-- Delivers bytes to one page of the destination. -/
def writeSpot (g : Grp) (va : Dword) (n : Nat) (d : List Byte) (r : Run) : Run :=
  match r.spot g true r.pos va n with
  | .inr x => r.stopAt x
  | .inl (.here loc tag _) =>
    { r with st := if r.dry then r.st else writeLeft r.st g.core r.op r.pos tag loc d, pos := r.pos + n }
  | .inl (.peer _) => peerPiece va n r

/-- The end of a unit: an address, or a place in a codebook slot. -/
inductive End where
  | mem (va : Dword)
  | book (off : Nat)

def End.room : End → Nat
  | .mem va => 65536 - va.toNat % 65536
  | .book _ => 65536
def End.plus : End → Nat → End
  | .mem va, n => .mem (va + BitVec.ofNat 64 n)
  | .book l, n => .book (l + n)

/-- Checks a page that is only to be read. -/
def checkSpot (g : Grp) (va : Dword) (n : Nat) (r : Run) : Run :=
  match r.spot g false r.pos va n with
  | .inr x => r.stopAt x
  | .inl _ => r

/-- Bytes of a copy that are read before they are delivered. -/
def CopyOp.note (op : CopyOp) (i : Nat) (d : List Byte) : CopyOp :=
  { op with seen := d.zipIdx.foldl (fun m x => Bank.set none m (i + x.2) (some x.1)) op.seen }

def readEnd (g : Grp) (e : End) (n : Nat) (r : Run) : List Byte × Run :=
  match e with
  | .mem va => if r.dry then ([], checkSpot g va n r) else readSpot g r.pos va n r
  | .book off => ((List.range n).map (fun i => Bank.get 0 (r.op.book.getD []) (off + i)), r)
/-- A CBLOAD's table stands beside its slot until it is whole (R235). -/
def writeEnd (g : Grp) (e : End) (n : Nat) (d : List Byte) (r : Run) : Run :=
  match e with
  | .mem va => writeSpot g va n d r
  | .book _ => { r with op := if r.dry then r.op else r.op.note r.pos d, pos := r.pos + n }

/-- Moves n bytes, page by page (R236). -/
def moveBytes (g : Grp) : Nat → End → End → Nat → Run → Run
  | 0, _, _, _, r => r
  | fuel + 1, src, dst, n, r =>
    if n = 0 ∨ r.stopped then r else
    let k := Nat.min n (Nat.min src.room dst.room)
    let x := readEnd g src k r
    let r := if x.2.stopped then x.2 else writeEnd g dst k x.1 x.2
    moveBytes g fuel (src.plus k) (dst.plus k) (n - k) r

/-- Where the index of unit i stands, and its bytes. -/
def idxAt (k : CopyKind) (i : Nat) : Option (Dword × Nat) :=
  match k with
  | .cpyg _ _ ia count _ _ => if i < count then some (ia + BitVec.ofNat 64 (4 * i), 4) else none
  | .cpyx _ src count _ iw _ _ => if i < count then some (src + BitVec.ofNat 64 (i * iwBits iw / 8), if iwBits iw = 16 then 2 else 1) else none
  | _ => none

/-- The index of unit i, read once. -/
def pickIndex (g : Grp) (i : Nat) (r : Run) : Nat × Run :=
  match Bank.get none r.op.picks i, idxAt r.op.kind i with
  | some n, _ => (n, r)
  | none, none => (0, r)
  | none, some (a, n) =>
    let y := readSmall g (idxPlace i) a n r
    let x := match r.op.kind with
      | .cpyx _ _ _ _ iw _ _ => bytesToNat y.1 / 2 ^ (i * iwBits iw % 8) % 2 ^ iwBits iw
      | _ => bytesToNat y.1
    (x, if y.2.stopped then y.2 else { y.2 with op := { y.2.op with picks := Bank.set none y.2.op.picks i (some x) } })

/-- Unit i of a copy: its ends, after the index it may read; a stopped run where the index fails. -/
def copyUnit (g : Grp) (i : Nat) (r : Run) : Option (End × End) × Run :=
  match r.op.kind with
  | .cpy d src _ => (some (.mem src, .mem d), r)
  | .cpya d p => (some (.mem (patAddr p i), .mem (d + BitVec.ofNat 64 (i * patSize p))), r)
  | .cpyg d sb ia _ rsize limit =>
    let x := pickIndex g i r
    if x.2.stopped then (none, x.2)
    else if x.1 ≥ limit then (none, x.2.failAt 0x15 0 (ia + BitVec.ofNat 64 (4 * i)))
    else (some (.mem (sb + BitVec.ofNat 64 (x.1 * rsize)), .mem (d + BitVec.ofNat 64 (i * rsize))), x.2)
  | .cpyx d src _ _ iw vsize entries =>
    let x := pickIndex g i r
    if x.2.stopped then (none, x.2)
    else if x.1 ≥ entries then (none, x.2.failAt 0x15 0 (src + BitVec.ofNat 64 (i * iwBits iw / 8)))
    else (some (.book (x.1 * vsize), .mem (d + BitVec.ofNat 64 (i * vsize))), x.2)
  | .cbload src _ _ _ _ => (some (.mem src, .book 0), r)
  | .qpush _ _ => (none, r)

/-- The bytes a copy moves in all. -/
def copyTotal (op : CopyOp) : Nat :=
  let u := copyUnits op.kind
  match op.kind with
  | .qpush p _ => 4 * patCount p
  | _ => u.1 * u.2

/-- A copy starts: a CPYX takes its slot as the slot then stands, its sizes and its bytes (R235). A slot that no table fills has no entries
(log entry 83). -/
def startCpyx (g : Grp) (r : Run) : Run :=
  match r.op.kind with
  | .cpyx d src count slot _ _ _ =>
    let b := r.st.book g.core slot
    if r.op.book.isSome ∨ count = 0 then r
    else if b.team ≠ some g.teamKey then r.failAt 0x14 slot 0
    else if b.entries = 0 then r.failAt 0x15 0 src
    else { r with op := { r.op with
      kind := .cpyx d src count slot b.iw b.vsize b.entries, book := some (Bank.cut r.st.mem (bookLoc g.core slot 0) 8192) } }
  | _ => r

/-- A run of a copy that stands at the bytes it has delivered. -/
def beginRun (dry : Bool) (s : State) (g : Grp) (op : CopyOp) : Run := startCpyx g ⟨s, op, op.bytes, dry, none, none, false⟩

/-- A run goes on to place `stop` of the copy order, or until it stops. -/
def Run.to (r : Run) (g : Grp) (stop : Nat) : Run :=
  let u := copyUnits r.op.kind
  let first := if u.2 = 0 then 0 else r.pos / u.2
  let last := if u.2 = 0 then 0 else (stop + u.2 - 1) / u.2
  (List.range (last - first)).foldl (fun r j =>
    if r.stopped then r else
    let i := first + j
    let off := r.pos - i * u.2
    let x := copyUnit g i r
    match x.1 with
    | none => x.2
    | some (src, dst) =>
      let n := Nat.min (u.2 - off) (stop - r.pos)
      moveBytes g (2 * (n / 65536) + 4) (src.plus off) (dst.plus off) n x.2) r

/-- Runs a copy until it is done or stops. -/
def runCopy (s : State) (g : Grp) (op : CopyOp) : Run :=
  let r := beginRun false s g op
  r.to g (copyTotal r.op)

/-- The copy as a run leaves it. -/
def Run.copy (r : Run) : CopyOp := { r.op with bytes := r.pos }

/-- A CPYX waits for the earlier CBLOADs of its slot by its context (R235). -/
def copyMayRun (g : Grp) (o : PendOp) (op : CopyOp) : Bool :=
  op.fault.isNone && !o.done && (match op.kind with
    | .cpyx _ _ _ slot _ _ _ => (g.ops.takeWhile (fun x => x.id != o.id)).all (fun x => x.done || (match x.body with
        | .copy c => (match c.kind with
          | .cbload _ sl _ _ _ => sl != slot
          | _ => true)
        | _ => true))
    | _ => true)

/-- A CBLOAD's table is in its slot (R235): the bytes that were not moved before, and the sizes. -/
def fillBook (s : State) (g : Grp) (op : CopyOp) : State :=
  match op.kind with
  | .cbload _ slot iw vsize entries =>
    let d := (List.range (vsize * entries)).map (fun i => (Bank.get none op.seen i).getD 0)
    { writeLeft s g.core op 0 0 (bookLoc g.core slot 0) d with books := Bank.set {} s.books (bookKey g.core slot) ⟨some g.teamKey, iw, vsize, entries⟩ }
  | _ => s

/-- A copy ends (R236, R240): its vat's fill count, its arrival and CP, in one step; the arrival is a release at the barrier's level
(R237). -/
def endCopy (s : State) (k : Nat) (o : PendOp) (op : CopyOp) (dmg : Bool) : State :=
  let g := s.grp k
  let s := if bindVen op.bind && !op.kind.isQpush then fillVat s g (bindVat op.bind) dmg false else s
  let s := if bindBen op.bind then arriveFeeder s g (bindLvl op.bind) (bindIdx op.bind) dmg else s
  s.modGrp k (fun g => g.finishOp o.id)

def findCopy (s : State) (c k : Nat) : Option (PendOp × CopyOp) :=
  match (s.grp c).findOp k with
  | some o => match o.body with
    | .copy op => if copyMayRun (s.grp c) o op then some (o, op) else none
    | _ => none
  | none => none

/-- A byte of a copy has been read, or delivered. -/
def CopyOp.readDone (op : CopyOp) (i : Nat) : Bool := decide (i < op.bytes) || op.moved.contains i || (Bank.get none op.seen i).isSome
def CopyOp.writeDone (op : CopyOp) (i : Nat) : Bool := decide (i < op.bytes) || op.moved.contains i

/-- The pages that a copy has finished are given up (R272). -/
def CopyOp.tidy (op : CopyOp) : CopyOp :=
  { op with pages := op.pages.filter (fun p => (List.range p.n).any (fun t => !(if p.dst then op.writeDone (p.lo + t) else op.readDone (p.lo + t)))) }

def setCopy (s : State) (c : Nat) (o : PendOp) (op : CopyOp) : State :=
  s.modGrp c (fun g => g.setOp { o with body := .copy op.tidy })

/-- COPY_COMPLETION (R236): what is left of the bytes is delivered and the copy ends, unless a peer has still to give or answer for its
share; what peers give comes in their answers (R356), and not with the event. -/
def execCopyCompletion (c k : Nat) (_peer : List Byte) (s : State) : Res :=
  .next (match findCopy s c k with
    | some (o, op) =>
      if op.kind.isQpush then (if op.bytes = copyTotal op then endCopy s c o op false else s)
      else
        let r := runCopy s (s.grp c) op
        if r.stopped then s else endCopy (fillBook r.st (s.grp c) r.op) c o op false
    | none => s)

/-! ## Bytes that move before their turn (R236, Table 9-10) -/

/-- The unit that holds place i of the copy order, with the copy's run: none where an earlier page fails or a peer has still to
answer for one (R236: a page starts once every earlier page has passed), or the unit's index fails. -/
def reach (s : State) (g : Grp) (op : CopyOp) (i : Nat) : Option (End × End × Run) :=
  let r := beginRun true s g op
  let u := copyUnits r.op.kind
  if r.stopped ∨ i < op.bytes ∨ i ≥ copyTotal r.op ∨ u.2 = 0 then none else
  let r := r.to g i
  if r.stopped then none else
  let x := copyUnit g (i / u.2) r
  match x.1 with
  | none => none
  | some (src, dst) => some (src.plus (i % u.2), dst.plus (i % u.2), { x.2 with dry := false })

/-- A copy of len bytes a unit starts the page in which its place i stands, at `va`: it holds the page's translation until it has read, or
delivered, what lies in it (R236, R272). -/
def Run.startPage (r : Run) (g : Grp) (dst : Bool) (i len : Nat) (va : Dword) : Run :=
  if r.op.pages.any (fun p => p.dst == dst && decide (p.lo ≤ i) && decide (i < p.lo + p.n)) || !(regionOf va == .global || regionOf va == .fabric) then r
  else match spotOf r.st g dst va 1 with
    | .inl (.here loc tag l1) =>
      let before := Nat.min (i % len) (va.toNat % 65536)
      { r with op := { r.op with pages := r.op.pages ++ [⟨dst, i - before, Nat.min (len - (i % len - before)) (65536 - va.toNat % 65536 + before),
        ⟨pageOf va, loc - va.toNat % 65536, tag, l1⟩⟩] } }
    | _ => r

/-- A peer is asked for n bytes that stand at place i of the copy, at `va`, but for what it has been asked for before (R356). -/
def askPeer (s : State) (c : Nat) (o : PendOp) (op : CopyOp) (m i n : Nat) (va : Dword) : State :=
  if n = 0 ∨ (List.range n).any (fun t => op.readDone (i + t) || op.sent.any (fun y => y.rd && decide (y.off ≤ i + t) && decide (i + t < y.off + y.len))) then s
  else
    let id := s.fabric.nextReq
    let low := va &&& 0x00FFFFFFFFFFFFFF#64
    let s := { s with fabric := { s.fabric with nextReq := id + 1 } }
    setCopy (s.sendMsg m 1 (s.grp c).ctxid low n (.read id low n)) c o { op with sent := op.sent ++ [⟨id, true, i, n, va, none⟩] }

/-- Place i of a copy, which stands at `va` in a unit (or index) of len bytes, is read before it is delivered; of a peer's memory, what lies
in its sector is asked for. -/
def seeAt (s : State) (c : Nat) (o : PendOp) (r : Run) (i len left : Nat) (va : Dword) : State :=
  let g := s.grp c
  match r.spot g false i va 1 with
  | .inl (.peer m) => askPeer s c o r.op m i (Nat.min left (256 - va.toNat % 256)) va
  | _ =>
    let x := readSpot g i va 1 r
    if x.2.stopped then s else setCopy s c o ((x.2.startPage g false i len va).op.note i x.1)

/-- Turn: place i of a copy is read before it is delivered, or a byte of an index before its unit is. -/
def copySee (s : State) (c : Nat) (o : PendOp) (op : CopyOp) (i : Nat) : State :=
  let g := s.grp c
  if i ≥ 2 ^ 40 then
    let r := beginRun true s g op
    let u := (i - 2 ^ 40) / 4
    let r := r.to g (u * (copyUnits r.op.kind).2)
    match idxAt r.op.kind u with
    | some (a, n) =>
      if r.stopped ∨ i % 4 ≥ n ∨ r.op.readDone i then s else seeAt s c o { r with dry := false } i 1 (n - i % 4) (a + BitVec.ofNat 64 (i % 4))
    | none => s
  else match reach s g op i with
  | some (.mem va, _, r) =>
    let len := (copyUnits r.op.kind).2
    if r.op.readDone i then s else seeAt s c o r i len (len - i % len) va
  | _ => s

/-- Turn: place i of a copy is delivered before its turn; of a CBLOAD a whole entry, as CPYXs of other contexts see entries old or
new (R235), where the slot holds entries of the same form. n bytes that lie in one page of a peer's memory are sent to it. -/
def copyMove (s : State) (c : Nat) (o : PendOp) (op : CopyOp) (i n : Nat) : State :=
  let g := s.grp c
  match reach s g op i with
  | none => s
  | some (src, dst, r) =>
    let len := (copyUnits r.op.kind).2
    match src, dst with
    | .mem from_, .book off => match op.kind with
      | .cbload _ slot iw vsize _ =>
        let b := s.book g.core slot
        if i % vsize ≠ 0 ∨ b.iw ≠ iw ∨ b.vsize ≠ vsize then s else
        let x := readSmall g i from_ vsize r
        if x.2.stopped then s
        else setCopy (s.writeBytes none none 0 (bookLoc g.core slot off) x.1) c o
          { x.2.op.note i x.1 with moved := (List.range vsize).map (· + i) ++ op.moved }
      | _ => s
    | src, .mem va => match r.spot g true i va 1 with
      | .inl (.here loc tag _) =>
        let x := readEnd g src 1 { r with pos := i }
        if x.2.stopped || op.moved.contains i then s
        else
          let r := x.2.startPage g true i len va
          setCopy (s.writeBytes none (some g.core) tag loc x.1) c o { r.op with moved := i :: op.moved }
      | .inl (.peer m) =>
        let n := Nat.min n (Nat.min (Nat.min (len - i % len) 2048) (Nat.min src.room (65536 - va.toNat % 65536)))
        if n = 0 ∨ (List.range n).any (fun t => op.moved.contains (i + t) || op.sent.any (fun y => !y.rd && decide (y.off ≤ i + t) && decide (i + t < y.off + y.len)))
        then s
        else
          let x := readEnd g src n { r with pos := i }
          if x.2.stopped then s else
          let id := s.fabric.nextReq
          let low := va &&& 0x00FFFFFFFFFFFFFF#64
          let s := { s with fabric := { s.fabric with nextReq := id + 1 } }
          setCopy (s.sendMsg m 3 g.ctxid low n (.write id low x.1)) c o { x.2.op with sent := x.2.op.sent ++ [⟨id, false, i, n, va, none⟩] }
      | .inr _ => s
    | _, _ => s

/-! ## What peers answer (R356, R357) -/

/-- The context and the copy with a piece under request `id`. -/
def sentBy (s : State) (id : Nat) : Option (Nat × PendOp × CopyOp × CopySend) :=
  s.grps.findSome? (fun e => e.2.ops.findSome? (fun o => match o.body with
    | .copy op => (op.sent.find? (fun x => x.id == id && x.refused.isNone)).map (fun x => (e.1, o, op, x))
    | _ => none))

/-- A peer has performed a piece of a copy, with the bytes it read, or refuses it with a cause; a violation at the peer freezes the copy's
context. -/
def onCopyAnswer (s : State) (id : Nat) (answer : List Byte ⊕ (Nat × Nat)) : State :=
  match sentBy s id with
  | none => s
  | some (c, o, op, x) => match answer with
    | .inl d =>
      let op := { op with sent := op.sent.filter (fun y => y.id != id) }
      setCopy s c o (if x.rd then op.note x.off (d.take x.len) else { op with moved := (List.range x.len).map (· + x.off) ++ op.moved })
    | .inr (cause, d) =>
      let s := setCopy s c o { op with sent := op.sent.map (fun y => if y.id = id then { y with refused := some cause } else y) }
      if cause = 0 then s.peerFreeze c d else s

/-! ## Operand queues (R227, R228) -/

/-- The entry that a QPUSH delivers next: lanes beyond the last element hold 0. -/
def nextEntry (s : State) (g : Grp) (op : CopyOp) (p : Pattern) : Bank Word × Run :=
  let e := op.bytes / 128
  (List.range 32).foldl (fun (x : Bank Word × Run) l =>
    let j := 32 * e + l
    if x.2.stopped || decide (j ≥ patCount p) then x else
    let y := readSmall g (4 * j) (patAddr p j) 4 x.2
    (if y.2.stopped then x.1 else Bank.set 0 x.1 l (BitVec.ofNat 32 (bytesToNat y.1)), y.2))
    ([], beginRun false s g op)

/-- Turn: a byte of the entry that a QPUSH delivers next is read before the entry enters its queue. -/
def queueSee (s : State) (c : Nat) (o : PendOp) (op : CopyOp) (p : Pattern) (i : Nat) : State :=
  if i < op.bytes ∨ i ≥ copyTotal op ∨ i ≥ op.bytes + 128 ∨ op.readDone i then s
  else seeAt s c o (beginRun false s (s.grp c) op) i 4 (4 - i % 4) (patAddr p (i / 4) + BitVec.ofNat 64 (i % 4))

/-- An earlier QPUSH to the queue still has entries to deliver. -/
def queueBehind (g : Grp) (o : PendOp) (q : Nat) : Bool :=
  (g.ops.takeWhile (fun x => x.id != o.id)).any (fun x => !x.done && (match x.body with
    | .copy c => (match c.kind with
      | .qpush _ q' => q' == q && c.bytes != copyTotal c
      | _ => false)
    | _ => false))

/-- An entry enters queue q of the group beside feeder context c; what a rollback gives back gets it too. -/
def pushEntry (s : State) (c q : Nat) (e : Bank Word) : State :=
  let add := fun (qs : Bank (List (Bank Word))) => Bank.set [] qs q (Bank.get [] qs q ++ [e])
  s.modGrp (c - 1) (fun g => { g with queues := add g.queues, fences := g.fences.map (fun f => { f with queues := add f.queues }) })

/-- The queue of a QPUSH takes its next entry: it is not full, nor promised to an earlier one. -/
def queueTakes (s : State) (c : Nat) (o : PendOp) (op : CopyOp) (q : Nat) : Bool :=
  op.bytes != copyTotal op && !queueBehind (s.grp c) o q && decide (((s.grp (c - 1)).queue q).length < 16)

/-- QUEUE_ENTRY_ARRIVAL (R228); what peers give comes in their answers (R356), and not with the event. -/
def execQueueEntryArrival (c k : Nat) (_peer : List Byte) (s : State) : Res :=
  .next (match findCopy s c k with
    | some (o, op) => match op.kind with
      | .qpush p q =>
        if !queueTakes s c o op q then s
        else
          let x := nextEntry s (s.grp c) op p
          if x.2.stopped then s
          else setCopy (pushEntry x.2.st c q x.1) c o { op with bytes := Nat.min (op.bytes + 128) (copyTotal op) }
      | _ => s
    | none => s)

/-- Turn: place i of a copy is read early, or delivered before its turn, n bytes of it where a peer takes them. -/
def copyEarly (s : State) (c k : Nat) (move : Bool) (i n : Nat) : State :=
  match findCopy s c k with
  | some (o, op) => match op.kind with
    | .qpush p _ => if move then s else queueSee s c o op p i
    | _ => if move then copyMove s c o op i n else copySee s c o op i
  | none => s

/-! ## Copy faults (R238 to R240) -/

/-- The run that a fault event makes of a copy. -/
def faultRun (s : State) (g : Grp) (op : CopyOp) : Run :=
  match op.kind with
  | .qpush p _ => if op.bytes = copyTotal op then beginRun false s g op else (nextEntry s g op p).2
  | _ => runCopy s g op

/-- COPY_FAULT (R238): a copy whose next page or record fails is suspended; nothing after it is started. -/
def execCopyFault (c k : Nat) (_peer : List Byte) (_refused : Option Nat) (s : State) : Res :=
  .next (match findCopy s c k with
    | some (o, op) =>
      let r := faultRun s (s.grp c) op
      match r.viol, r.fault with
      | some (code, p), _ => (setCopy r.st c o { r.copy with fault := some ⟨0, code, BitVec.ofNat 64 p⟩ }).freezeGrp c code p (if code = 2 then 2 else 1)
      | none, some f => setCopy r.st c o { r.copy with fault := some f, sent := [], pages := [] }
      | none, none => s
    | none => s)

/-- CPYABORT (R240). -/
def execCpyabort (u : Bool) (p : BitVec 3) (s : State) : Res :=
  issue (.cpyabort u p) s (fun w _ =>
    feederMeaning w .ok (fun s => match (s.grp w.key).cfOp.bind (fun id => (s.grp w.key).findOp id) with
      | some o => match o.body with
        | .copy op => (endCopy s w.key o op true).modGrp w.key (fun g => { g with cfOp := none })
        | _ => s
      | none => s))

end Sys2Proof.Machine
end

