-- ==== Sys2Proof/Machine/Bitstream.lean ====
section
/-! DEFINITION. The AV1 bitstream as far as a decoder's limits need it (R338): OBUs of the low-overhead format, the temporal units they
make up, and the sequence header. Its syntax is the AV1 specification's (PRESUMED, log entry 96). -/
namespace Sys2Proof.Machine

/-! ## Bits -/

/-- Reads bits from the front of a sequence, if it has them. -/
abbrev BitReader := StateT (List Bool) Option

def bitsNat (b : List Bool) : Nat := b.foldl (fun a x => 2 * a + x.toNat) 0
/-- f(n). -/
def getBits (n : Nat) : BitReader Nat := fun b => if b.length < n then none else some (bitsNat (b.take n), b.drop n)
/-- uvlc(). -/
def skipUvlc : BitReader Unit := fun b =>
  let z := (b.takeWhile (fun x => !x)).length
  if b.length < 2 * z + 1 then none else some ((), b.drop (2 * z + 1))
/-- A field that stands where `p` holds. -/
def whenBits (p : Bool) (x : BitReader Nat) : BitReader Nat := if p then x else pure 0

/-- The bits of bytes, the highest first. -/
def bitList (d : List Byte) : List Bool := d.flatMap (fun b => (List.range 8).map (fun i => b.getLsbD (7 - i)))

/-! ## The sequence header -/

/-- decoder_model_info(): the bits of a buffer delay, if the model stands in the header. -/
def timingInfo : BitReader (Option Nat) := do
  let timing ← getBits 1
  if timing = 0 then pure none else
  let _ ← getBits 64
  let equal ← getBits 1
  if equal = 1 then skipUvlc else pure ()
  let model ← getBits 1
  if model = 0 then pure none else
  let n ← getBits 5
  let _ ← getBits 42
  pure (some (n + 1))

/-- One operating point: its seq_level_idx. -/
def opPoint (model : Option Nat) (delay : Bool) : BitReader Nat := do
  let _ ← getBits 12
  let level ← getBits 5
  let _ ← whenBits (decide (level > 7)) (getBits 1)
  match model with
  | some n =>
    let here ← getBits 1
    let _ ← whenBits (here == 1) (getBits (2 * n + 1))
  | none => pure ()
  let here ← whenBits delay (getBits 1)
  let _ ← whenBits (here == 1) (getBits 4)
  pure level

/-- The operating points: the level of the first, operating point 0. -/
def opPoints : BitReader Nat := do
  let model ← timingInfo
  let delay ← getBits 1
  let n ← getBits 5
  let ls ← (List.range (n + 1)).mapM (fun _ => opPoint model (delay == 1))
  pure (ls.headD 0)

/-- The coding tools between the frame size and the colour configuration. -/
def skipTools (reduced : Bool) : BitReader Unit := do
  let ids ← whenBits (!reduced) (getBits 1)
  let _ ← whenBits (ids == 1) (getBits 7)
  let _ ← getBits 3
  if reduced then pure () else
    let _ ← getBits 4
    let order ← getBits 1
    let _ ← whenBits (order == 1) (getBits 2)
    let choose ← getBits 1
    let tools ← (if choose = 1 then pure 2 else getBits 1)
    let chooseMv ← whenBits (decide (tools > 0)) (getBits 1)
    let _ ← whenBits (decide (tools > 0) && chooseMv == 0) (getBits 1)
    let _ ← whenBits (order == 1) (getBits 3)
    pure ()

/-- color_config() of profile 0: bit depth, monochrome, and whether it is 4:2:0 or monochrome. -/
def colorConfig : BitReader (Nat × Bool × Bool) := do
  let high ← getBits 1
  let mono ← getBits 1
  let desc ← getBits 1
  let code ← whenBits (desc == 1) (getBits 24)
  let bd := if high = 1 then 10 else 8
  if mono = 1 then
    let _ ← getBits 1
    pure (bd, true, true)
  else if code = 1 * 65536 + 13 * 256 then
    let _ ← getBits 1
    pure (bd, false, false)
  else
    let _ ← getBits 4
    pure (bd, false, true)

/-- sequence_header_obu(). -/
def seqHeaderBits : BitReader SeqHeader := do
  let profile ← getBits 3
  if profile ≠ 0 then pure { profile := profile } else
  let _ ← getBits 1
  let reduced ← getBits 1
  let level ← (if reduced = 1 then getBits 5 else opPoints)
  let wb ← getBits 4
  let hb ← getBits 4
  let w ← getBits (wb + 1)
  let h ← getBits (hb + 1)
  skipTools (reduced == 1)
  let _ ← getBits 3
  let c ← colorConfig
  let grain ← getBits 1
  pure { profile := 0, level := level, w := w + 1, h := h + 1, bd := c.1, mono := c.2.1, sub420 := c.2.2, grain := grain == 1 }

/-! ## OBUs -/

/-- An OBU: its type and payload. -/
structure Obu where
  typ  : Nat
  body : List Byte
  deriving DecidableEq, Repr

/-- leb128(): the value and how many bytes it takes, at most eight. -/
def leb128 : Nat → List Byte → Option (Nat × Nat)
  | 0, _ => none
  | _, [] => none
  | n + 1, b :: rest =>
    if b.toNat < 128 then some (b.toNat, 1)
    else (leb128 n rest).map (fun x => (b.toNat - 128 + 128 * x.1, x.2 + 1))

/-- The header of the OBU that begins a sequence of bytes: its type, the length of the header with the size field, and the size. The
low-overhead format has a size in every OBU. -/
def obuHead (d : List Byte) : Option (Nat × Nat × Nat) :=
  match d with
  | [] => none
  | h :: rest =>
    let ext := if h.getLsbD 2 then 1 else 0
    if h.getLsbD 7 || !h.getLsbD 1 then none
    else (leb128 8 (rest.drop ext)).map (fun x => (h.toNat / 8 % 16, 1 + ext + x.2, x.1))

/-- The OBUs of a sequence of bytes, at most so many; none where it is no sequence of whole OBUs. -/
def obusOf : Nat → List Byte → Option (List Obu)
  | _, [] => some []
  | 0, _ => none
  | n + 1, d => match obuHead d with
    | none => none
    | some (t, hd, size) =>
      if d.length < hd + size then none
      else (obusOf n (d.drop (hd + size))).map (fun r => ⟨t, (d.drop hd).take size⟩ :: r)

/-- The last sequence header of some OBUs, type 1: none where one of them is malformed. -/
def lastHeader (xs : List Obu) (h : Option SeqHeader) : Option (Option SeqHeader) :=
  xs.foldlM (fun h o => if o.typ = 1 then (seqHeaderBits (bitList o.body)).map (fun x => some x.1) else some h) h

/-- A temporal delimiter, type 2. -/
def isDelimiter (t : Nat) : Bool := t == 2

/-! ## The limits of R338 -/

/-- A profile or format outside R338. -/
def SeqHeader.unsupported (h : SeqHeader) : Bool := h.profile != 0 || !h.sub420
/-- Outside level 6.0: its seq_level_idx is 16, and it allows 35,651,584 samples in a picture of at most 16,384 by 8,704. -/
def SeqHeader.beyond (h : SeqHeader) : Bool :=
  decide (h.level > 16) || decide (h.w > 16384) || decide (h.h > 8704) || decide (h.w * h.h > 35651584)

end Sys2Proof.Machine
end

