-- ==== Sys2Proof/Machine/Status.lean ====
section
/-! DEFINITION. What the agents beside the cores share: their reads and writes of a context's memory, the words of the flag
window, and the completion status of a packet (R262, R286, R295, R300). -/
namespace Sys2Proof.Machine

/-- The 8 bytes of a flag word: inside the flag window, translated in a context. -/
def flagPlace (s : State) (who ctxid : Nat) (need : Need) (va : Dword) : Except RangeFault (Nat × Nat) :=
  if regionOf va != .flag || decide (offsetOf va + 8 > 2 ^ 32) then .error ⟨.noPage, va⟩
  else match translate s who ctxid (s.ctx ctxid) need va with
    | .ok phys key _ => .ok (phys, keyTag s key)
    | e => .error ⟨e, va⟩

/-- A device-scope read of a flag word; a poisoned one is consumed (R276). -/
def readFlag (s : State) (who ctxid : Nat) (va : Dword) : Except RangeFault Dword :=
  (flagPlace s who ctxid .read va).bind (fun p => match s.poisoned none p.1 8 with
    | some w => .error ⟨.violation 2 w, va⟩
    | none => .ok (BitVec.ofNat 64 (s.readNat none p.2 p.1 8)))
/-- A 64-bit SIGF to a flag word of this module. -/
def setFlag (s : State) (who ctxid : Nat) (va : Dword) (x : Dword) : Except RangeFault State :=
  (flagPlace s who ctxid .write va).map (fun p => s.writeBytes none none p.2 p.1 (natToBytes 8 x.toNat))
/-- A 64-bit atomic on a flag word: `f` computes the new word from the old. -/
def addFlag (s : State) (who ctxid : Nat) (va : Dword) (f : Dword → Dword) : Except RangeFault State :=
  (readFlag s who ctxid va).bind (fun x => setFlag s who ctxid va (f x))

/-- A violation that an access of the scheduler meets is entered in the black box with MASTER 0: the scheduler is none of the masters of
Table 18-5, and nothing freezes (DESIGN CHOICE, log entry 98). -/
def schedViolation (s : State) (ctxid : Nat) (e : RangeFault) : State := match e.why with
  | .violation code a => s.bboxAdd (if code = 2 then 2 else 1) 0 ctxid (Config.violationCode code) a
  | _ => s

/-- A status word goes only to the black-box record: KIND 6, ADDR the flag's address, CODE the status code, the whole word in INFO's
first 8 bytes (R286; log entry 8). -/
def boxStatus (s : State) (ctxid : Nat) (cflag status : Dword) : State :=
  s.bboxNote 6 0 ctxid (status.toNat % 256) cflag.toNat (fun info => natToBytes 8 status.toNat ++ info.drop 8)

/-- Writes a completion status to CFLAG as a SIGF at fabric scope, a release of what the grid wrote; without CFLAG, or where
the write fails a check, it goes to the black box (R286, R262). -/
def writeStatus (s : State) (ctxid : Nat) (cflag status : Dword) : State :=
  let s := s.flushAll
  let low := cflag &&& 0x00FFFFFFFFFFFFFF#64
  if cflag = 0 ∨ cflag.toNat % 8 ≠ 0 then boxStatus s ctxid cflag status
  else if regionOf cflag == .fabric then
    let c := s.ctx ctxid
    if regionOf low != .flag || decide (offsetOf low + 8 > 2 ^ 32) || !c.fab || !c.contract.getLsbD 10 then boxStatus s ctxid cflag status
    else match Config.peerEntry c.peers (bitsOf cflag 56 7) with
      | none => boxStatus s ctxid cflag status
      | some m =>
        let id := s.fabric.nextReq
        let s := { s with fabric := { s.fabric with nextReq := id + 1, flags := s.fabric.flags ++ [(id, ctxid, cflag, status)] } }
        s.sendMsg m 3 ctxid low 8 (.request ⟨id, .sigf, [⟨0, low, 8, status.setWidth 128, 0⟩]⟩)
  else match setFlag s whoHost ctxid cflag status with
    | .ok s => s
    | .error e => boxStatus (schedViolation s ctxid e) ctxid cflag status

/-- The answer to a completion flag sent to another module: a refusal leaves the status to the black box. -/
def onFlagAnswer (s : State) (id : Nat) (refused : Bool) : State :=
  match s.fabric.flags.find? (fun f => f.1 == id) with
  | none => s
  | some (_, ctxid, cflag, status) =>
    let s := { s with fabric := { s.fabric with flags := s.fabric.flags.filter (fun f => f.1 != id) } }
    if refused then boxStatus s ctxid cflag status else s

end Sys2Proof.Machine
end

