-- ==== Sys2Proof/Machine/Decoders.lean ====
section
/-! DEFINITION. The AV1 decoders: requests, their assignment, the frames they write, substitutes and taint (R338 to R348). What a
frame decodes to is an input (the AV1 specification gives it); its placing, status word and consequences are here. -/
namespace Sys2Proof.Machine

/-! ## The request (Tables 15-1, 15-2) -/

def decFlags (b : List Dword) : Nat := blockField b 4 4
def decNframe (b : List Dword) : Nat := blockField b 0x14 4
def decVat0 (b : List Dword) : Nat := blockField b 0x34 1 % 64
def decNvat (b : List Dword) : Nat := blockField b 0x35 1 % 64
def decOfmt (b : List Dword) : Nat := decFlags b % 4
def decPlanes (b : List Dword) : Nat := decFlags b / 4 % 2
def decElem (b : List Dword) : Nat := if decOfmt b = 2 then 2 else 1
/-- TB and FB of R341. -/
def tileBytes (b : List Dword) : Nat := decElem b * (4096 + 2048 * decPlanes b)
def frameSize (b : List Dword) : Nat := blockField b 0x32 1 * blockField b 0x33 1 * tileBytes b

/-- The range lies in global memory; an empty one lies anywhere. -/
def globalRange (va : Dword) (n : Nat) : Bool := n == 0 || (outsideGlobalRange va n).isNone
where outsideGlobalRange (va : Dword) (n : Nat) : Option Unit :=
  if regionOf va == .global && decide (va.toNat + n ≤ 0x80 * 2 ^ 48) then none else some ()

/-- Status 2 of Table 15-3: KIND, a reserved field or a range is wrong. -/
def decMalformed (b : List Dword) : Bool :=
  blockField b 0 4 != 5 || decide (decFlags b ≥ 2 ^ 12) || decFlags b / 32 % 8 != 0 || decOfmt b == 3 ||
    blockField b 0x10 4 == 0 || decide (blockField b 0x10 4 > 2 ^ 30) || decNframe b == 0 || decide (decNframe b > 65535) ||
    blockField b 0x32 1 == 0 || blockField b 0x33 1 == 0 || blockField b 0x34 1 / 64 != 0 || decide (blockField b 0x35 3 ≥ 64) ||
    decNvat b == 0 || decide (decVat0 b + decNvat b > 64) || b.getD 7 0 != 0 ||
    (b.getD 3 0).toNat % 4096 != 0 || (b.getD 5 0).toNat % 8 != 0 ||
    !globalRange (b.getD 1 0) (blockField b 0x10 4) || !globalRange (b.getD 3 0) (b.getD 4 0).toNat ||
    !globalRange (b.getD 5 0) (8 * decNframe b)

/-- DECSUB's status (Table 15-3). -/
def decStatus (s : State) (g : Grp) (b : List Dword) : Nat :=
  let bidx := decFlags b / 256 % 16
  if !(s.ctx g.ctxid).contract.getLsbD 6 then 4
  else if decMalformed b then 2
  else if (List.range (decNvat b)).any (fun i => g.kern.vatBytes (decVat0 b + i) == 0 || decide (g.kern.vatBytes (decVat0 b + i) < frameSize b)) ||
      (decFlags b / 16 % 2 == 1 && (!g.kern.declared 0 bidx || (g.kern.bar 0 bidx).2.2.1 == 0)) then 3
  else if s.decs.reqs.length ≥ 256 then 1
  else 0

/-- DECSUB (R341). The request of a context that is being destroyed ends as it is accepted (R348). -/
def execDecsub (u : Bool) (d a : BitVec 6) (p : BitVec 3) (s : State) : Res :=
  issue (.decsub u d a p) s (fun w s => match readRecord (drainStores s w.key w.act) w (w.g.rv64 a.toNat 0) with
    | .error e => engineFails w 0 (e.whole (w.g.rv64 a.toNat 0) 64)
    | .ok b =>
      let st := decStatus s w.g b
      feederMeaning w .ok (fun s =>
        let s := (dropFetched s w.key w.act).modGrp w.key (fun g => g.wv d.toNat 0 (BitVec.ofNat 32 st))
        if st ≠ 0 then s
        else
          let s := releaseAt (releaseLanes s w.key w.act) w.g.core 3
          let r : DecReq := { id := s.decs.nextId, key := w.key, ctxid := w.g.ctxid, grid := w.g.grid, cluster := w.g.cluster, team := w.g.team
                              block := b, dec := none, next := 0, dead := 0, after := unperformed (s.grp w.key) w.key w.act }
          if (s.ctx w.g.ctxid).dying then s
          else { s with decs := { s.decs with nextId := s.decs.nextId + 1, reqs := s.decs.reqs ++ [r] } }))

/-! ## Assignment and ends (R339, R342, R348) -/

/-- REFBUF of a request. -/
def DecReq.refbuf (r : DecReq) : Dword := r.block.getD 3 0

/-- REFBUF holds a stream: its bytes are those by which a decoder left it (R342; log entry 97). -/
def holdsStream (s : State) (r : DecReq) (x : DecStream) : Bool :=
  !x.image.isEmpty && x.image.all (fun p => match readRange s whoDecoders r.ctxid (r.refbuf + BitVec.ofNat 64 p.1) p.2.length with
    | .ok d => d == p.2
    | .error _ => false)
/-- The stream with which a request begins: a new one, or the one that REFBUF holds. -/
def streamAt (s : State) (r : DecReq) : DecStream :=
  if decFlags r.block / 8 % 2 = 1 then (s.decs.streams.reverse.find? (holdsStream s r)).getD {} else {}

def setReq (s : State) (r : DecReq) : State :=
  { s with decs := { s.decs with reqs := s.decs.reqs.map (fun x => if x.id = r.id then r else x) } }
def endReq (s : State) (r : DecReq) : State :=
  { s with decs := { s.decs with reqs := s.decs.reqs.filter (fun x => x.id != r.id) } }

/-- DECODE_REQUEST_ASSIGNMENT (R339): in arrival order; the work starts after its context's earlier stores, which are visible at device
scope (R241). -/
def execDecodeRequestAssignment (dec : Nat) (s : State) : Res :=
  .next (if dec ≥ 16 ∨ s.decs.reqs.any (fun r => r.dec == some dec) ∨ (Bank.get none s.decs.frozen dec).isSome then s
    else match s.decs.reqs.find? (fun r => r.dec.isNone) with
      | none => s
      | some r =>
        if !opsPerformed s r.after then s else
        let s := r.after.foldl (fun s a => s.flushCore a.2.2) s
        setReq s { r with dec := some dec, strm := streamAt s r })

/-- A destroyed context's decoders stop at once; its frozen ones are free again (R348, R387). -/
def dropDecContext (s : State) (ctxid : Nat) : State :=
  { s with decs := { s.decs with
      reqs := s.decs.reqs.filter (fun r => r.ctxid != ctxid)
      frozen := s.decs.frozen.filter (fun e => e.2 != some ctxid) } }

/-! ## Tiles (R344, R345) -/

/-- A sample of bit depth bd as an element of OFMT. -/
def sampleElem (ofmt bd x : Nat) : List Byte :=
  let z : Int := (x : Int) - 2 ^ (bd - 1)
  let e : Exact := ⟨decide (z < 0), z.natAbs, 1 - (bd : Int), false⟩
  match ofmt with
  | 0 => [BitVec.ofNat 8 (if bd = 10 then Nat.min 255 ((x + 2) / 4) else x)]
  | 1 => [BitVec.ofNat 8 (froundX f8e4 0 0 false e).bits]
  | _ => natToBytes 2 (froundX bf16 0 0 false e).bits

/-- One plane of a tile, n × n samples from (x0, y0): samples outside the w × h picture are mid-grey. -/
def planeBytes (ofmt bd n x0 y0 w h : Nat) (plane : List Nat) : List Byte :=
  (List.range (n * n)).flatMap (fun i =>
    let y := y0 + i / n
    let x := x0 + i % n
    sampleElem ofmt bd (if x < w ∧ y < h then plane.getD (y * w + x) (2 ^ (bd - 1)) else 2 ^ (bd - 1)))

/-- Tile (tx, ty) of the window: luma, then both chroma planes where PLANES asks for them. -/
def tileOf (b : List Dword) (p : Picture) (tx ty : Nat) : List Byte :=
  let x := blockField b 0x30 1 + tx
  let y := blockField b 0x31 1 + ty
  let f := decOfmt b
  let chroma := fun (c : List Nat) => planeBytes f p.bd 32 (32 * x) (32 * y) ((p.w + 1) / 2) ((p.h + 1) / 2) (if p.mono then [] else c)
  planeBytes f p.bd 64 (64 * x) (64 * y) p.w p.h p.y ++ (if decPlanes b = 1 then chroma p.cb ++ chroma p.cr else [])

/-- The FB bytes of a frame. -/
def windowBytes (b : List Dword) (p : Picture) : List Byte :=
  (List.range (blockField b 0x33 1)).flatMap (fun ty => (List.range (blockField b 0x32 1)).flatMap (fun tx => tileOf b p tx ty))

/-- The window reaches beyond the picture. -/
def windowBeyond (b : List Dword) (p : Picture) : Bool :=
  decide ((blockField b 0x30 1 + blockField b 0x32 1) * 64 > p.w) || decide ((blockField b 0x31 1 + blockField b 0x33 1) * 64 > p.h)

def greyPicture (bd : Nat) : Picture := ⟨bd, 0, 0, true, [], [], []⟩

/-! ## One frame (R342, R343, R346, R347) -/

def roundUp64 (n : Nat) : Nat := (n + 63) / 64 * 64
/-- REFBUF bytes that the size of a sequence header needs (R342). -/
def refNeeds (w h : Nat) : Nat := 10 * roundUp64 w * roundUp64 h * 3 + 65536

/-- The ranges a frame's decoding touches in BITS and REFBUF lie in them; what it reads of BITS goes on from where the request is. -/
def framePlaced (r : DecReq) (fr : FrameInfo) : Bool :=
  let size := (r.block.getD 4 0).toNat
  fr.bits.1 == r.pos && decide (fr.bits.1 + fr.bits.2 ≤ blockField r.block 0x10 4) && decide (fr.refRd.1 + fr.refRd.2 ≤ size) &&
    fr.refWr.all (fun x => decide (x.1 + x.2.length ≤ size))

/-- The bytes of BITS from a place on, as many as there are. -/
def bitsAt (s : State) (r : DecReq) (off n : Nat) : Except RangeFault (List Byte) :=
  readRange s whoDecoders r.ctxid (r.block.getD 1 0 + BitVec.ofNat 64 off) (Nat.min n (blockField r.block 0x10 4 - off))

/-- The sequence header in force at the end of what is read for a frame; none where that is no sequence of whole OBUs, or a header in it is
malformed. -/
def frameHeader (s : State) (r : DecReq) (fr : FrameInfo) : Option SeqHeader :=
  match bitsAt s r fr.bits.1 fr.bits.2 with
  | .error _ => none
  | .ok d => ((obusOf d.length d).bind (fun xs => lastHeader xs r.strm.header)).join

/-- The place of the next temporal delimiter of BITS, past so many OBUs at most: the end of BITS where there is none. -/
def nextUnit (s : State) (r : DecReq) : Nat → Nat → Nat
  | 0, _ => blockField r.block 0x10 4
  | n + 1, off => match bitsAt s r off 10 with
    | .error _ => off
    | .ok d => match obuHead d with
      | none => blockField r.block 0x10 4
      | some (_, hd, size) =>
        let off' := off + hd + size
        if off' ≥ blockField r.block 0x10 4 then blockField r.block 0x10 4
        else match bitsAt s r off' 1 with
          | .error _ => off'
          | .ok d' => if d'.head?.any (fun b => isDelimiter (b.toNat / 8 % 16)) then off' else nextUnit s r n off'

/-- The bytes of a stream's state beside what the decoder's finding leaves: at the place that R342's formula gives the parsing state. -/
def stateBytes (n : Nat) (h : Option SeqHeader) (size : Nat) : List (Nat × List Byte) :=
  match h with
  | none => []
  | some h => if refNeeds h.w h.h > size then [] else [(refNeeds h.w h.h - 65536, (List.range 32).map (fun i => Config.refState n i))]

/-- What the decoder leaves in REFBUF for a frame. -/
def refWrites (s : State) (r : DecReq) (fr : FrameInfo) : List (Nat × List Byte) :=
  fr.refWr ++ stateBytes s.decs.left (frameHeader s r fr) (r.block.getD 4 0).toNat

/-- What stops the decoder's accesses of BITS and REFBUF as a master of the context (R340): the first that fails, or nothing. -/
def frameFault (s : State) (r : DecReq) (fr : FrameInfo) : Option RangeFault :=
  let rd := fun (base : Dword) (x : Nat × Nat) => match readRange s whoDecoders r.ctxid (base + BitVec.ofNat 64 x.1) x.2 with
    | .error e => some e
    | .ok _ => none
  ((rd (r.block.getD 1 0) fr.bits).or (rd r.refbuf fr.refRd)).or ((refWrites s r fr).findSome? (fun x =>
    match rangePlaces s whoDecoders r.ctxid .write (r.refbuf + BitVec.ofNat 64 x.1) x.2.length with
    | .error e => some e
    | .ok _ => none))

/-- The decoder leaves a stream's state in REFBUF. -/
def leaveStream (s : State) (r : DecReq) (fr : FrameInfo) (x : DecStream) : State :=
  let ws := refWrites s r fr
  let s := ws.foldl (fun s y => match writeRange s whoDecoders r.ctxid (r.refbuf + BitVec.ofNat 64 y.1) y.2 with
    | .ok s => s
    | .error _ => s) s
  { s with decs := { s.decs with left := s.decs.left + 1, streams := s.decs.streams ++ [{ x with image := ws }] } }

/-! ## Pictures and taint (R346, R347) -/

def DecStream.slot (x : DecStream) (n : Nat) : Option Picture := Bank.get none x.slots n
/-- The slots that a frame refreshes receive a picture, which is tainted or not; a key frame clears the taint of every slot first. -/
def DecStream.refresh (x : DecStream) (key : Bool) (slots : List Nat) (p : Picture) (taint : Bool) : DecStream :=
  let left := if key then [] else x.taint.filter (fun n => !slots.contains n)
  { x with slots := slots.foldl (fun b n => Bank.set none b n (some p)) x.slots, taint := if taint then left ++ slots else left }

/-- A frame that is not shown is decoded; none where a slot that its prediction uses holds no picture. -/
def hiddenStep (x : DecStream) (f : HiddenFrame) : Option DecStream :=
  if f.refs.any (fun n => (x.slot n).isNone) then none
  else some (x.refresh f.key f.refresh f.pic (!f.key && f.refs.any (fun n => x.taint.contains n)))

/-- What the frame that is shown uses: its references, or the slot that it shows. -/
def slotsUsed (fr : FrameInfo) : List Nat := fr.refs ++ fr.existing.toList
/-- The picture of the frame that is shown. -/
def shownPicture (x : DecStream) (fr : FrameInfo) : Picture := (fr.existing.bind x.slot).getD fr.pic

/-- A picture is one that a stream under this header can give. -/
def fitsHeader (h : SeqHeader) (p : Picture) : Bool :=
  p.wf && p.bd == h.bd && p.mono == h.mono && decide (p.w ≤ h.w) && decide (p.h ≤ h.h)

/-- The error that a frame meets which the decoder found none in: unsupported, or with REFSIZE too small (kind 4, R338, R342); outside level
6.0 (3); a reference missing (2); or none, 0. It is no finding where no header came before it, or the pictures are not the header's. -/
def foundErr (r : DecReq) (h : Option SeqHeader) (fr : FrameInfo) : Option Nat :=
  match h with
  | none => none
  | some h =>
    if h.unsupported || decide (refNeeds h.w h.h > (r.block.getD 4 0).toNat) then some 4
    else if h.beyond then some 3
    else match fr.hidden.foldlM hiddenStep r.strm with
      | none => some 2
      | some x =>
        if (slotsUsed fr).any (fun n => (x.slot n).isNone) then some 2
        else if fitsHeader h (shownPicture x fr) && fr.hidden.all (fun f => fitsHeader h f.pic) && (!fr.fg || h.grain) then some 0
        else none

/-- The error kind of the next frame: what ended the request, an untranslated page, what the decoder found, which for kind 5 is the end of
BITS (Table 15-5); `fault` is what stops its accesses. None where the frame cannot be so: a page fault reported and not met, or a
violation. -/
def frameErr (s : State) (r : DecReq) (fr : FrameInfo) (fault : Option RangeFault) : Option Nat :=
  if r.dead ≠ 0 then some r.dead
  else match fault with
    | some e => if e.why = .noPage then some 6 else none
    | none =>
      if fr.err = 5 then (if fr.bits.1 + fr.bits.2 = blockField r.block 0x10 4 then some 5 else none)
      else if fr.err ≥ 1 ∧ fr.err ≤ 4 then some fr.err
      else if fr.err = 0 then foundErr r (frameHeader s r fr) fr
      else none

/-- The frame status word (Table 15-4). -/
def frameWord (i err : Nat) (key taint subst grey fg d10 : Bool) : Nat :=
  i % 65536 * 2 ^ 32 + err * 2 ^ 24 + bit64 key 15 + bit64 taint 14 + bit64 subst 13 + bit64 grey 12 + bit64 fg 11 + bit64 d10 10

/-- What one frame comes to: its picture, status word and damage, and the stream after it. A substitute shows the last good frame's samples
and mid-grey where its picture does not reach (DEDUCED, log entry 66); the slots that the frame would have refreshed receive it. -/
def decodeFrame (r : DecReq) (h : Option SeqHeader) (fr : FrameInfo) (err : Nat) : Picture × Nat × Bool × DecStream :=
  let x := { r.strm with header := h }
  let bd := (h.map (·.bd)).getD 8
  if err = 0 then
    let x := (fr.hidden.foldlM hiddenStep x).getD x
    let p := shownPicture x fr
    let taint := !fr.key && (slotsUsed fr).any (fun n => x.taint.contains n)
    let y := x.refresh fr.key fr.refresh p taint
    (p, frameWord r.next 0 fr.key taint false false fr.fg (bd == 10), false, if taint then y else { y with good := some p })
  else
    let p := x.good.getD (greyPicture bd)
    let grey := match x.good with
      | some g => windowBeyond r.block g
      | none => true
    (p, frameWord r.next err false false true grey (decide (err ≤ 4) && fr.fg) (bd == 10), true,
      if err ≤ 4 then x.refresh false fr.refresh p true else x)

/-- A violation or a poisoned word freezes a decoder, whose request ends (R276, R387); its black-box entry has the physical address, if the
page has one (Table 18-6). -/
def freezeDec (s : State) (dec : Nat) (r : DecReq) (e : RangeFault) : State :=
  let x : Nat × Nat := match e.why with
    | .violation c p => (c, p)
    | _ => (0, (physOf s whoDecoders r.ctxid (s.ctx r.ctxid) e.addr).getD 0)
  (endReq { s with decs := { s.decs with frozen := Bank.set none s.decs.frozen dec (some r.ctxid) } } r).bboxAdd (if x.1 = 2 then 2 else 1)
    (masterCode 4 dec) r.ctxid (Config.violationCode x.1) x.2

/-- The team is resident and issues: its cluster is not being saved (R348). -/
def teamRuns (s : State) (grid cluster team : Nat) : Bool :=
  let t := s.team (teamKey grid cluster team)
  let c := (s.clus (clusterKey grid cluster)).st
  t.used && !t.retiring && (c == .resident || c == .draining)

/-- A request's team, as a group of it would name it. -/
def DecReq.grp (s : State) (r : DecReq) : Grp :=
  { grid := r.grid, cluster := r.cluster, team := r.team, core := (s.team (teamKey r.grid r.cluster r.team)).core, ctxid := r.ctxid
    kern := (s.grid r.grid).kern }

/-- Where byte i of a frame goes. -/
def frameLoc (s : State) (g : Grp) (vat i : Nat) : Nat :=
  let t := s.team g.teamKey
  opLoc t.core (t.opBase + g.kern.vatOff vat + i)

/-- The frame a decoder is writing is finished: what is left of its bytes, then its status word, and in one step the vat is full and the
decoder arrives (R343). -/
def finishFrame (s : State) (dec : Nat) (r : DecReq) (f : DecFrame) : State :=
  let g := r.grp s
  let s := (f.data.zipIdx.foldl (fun s x => if f.wrote.contains x.2 then s else s.writeBytes none none 0 (frameLoc s g f.vat x.2) [x.1]) s).unpoison
    (frameLoc s g f.vat 0) f.data.length
  match writeRange s whoDecoders r.ctxid (r.block.getD 5 0 + BitVec.ofNat 64 (8 * r.next)) (natToBytes 8 f.word) with
  | .error e => freezeDec s dec r e
  | .ok s =>
    let s := fillVat s g f.vat f.dmg true
    let s := if decFlags r.block / 16 % 2 = 1 then arriveDecoder s g 0 (decFlags r.block / 256 % 16) f.dmg else s
    if r.next + 1 = decNframe r.block then endReq s r else setReq s { r with next := r.next + 1, frame := none }

/-- The next frame of a decoder's request is begun, its vat free: it is decoded, and its first write moves the vat to filling. An
access that the context may not make freezes the decoder. -/
def beginFrame (s : State) (dec : Nat) (fr : FrameInfo) : State :=
  match s.decs.reqs.find? (fun r => r.dec == some dec) with
  | none => s
  | some r =>
    let g := r.grp s
    let vat := decVat0 r.block + r.next % decNvat r.block
    let fault := if r.dead = 0 then frameFault s r fr else none
    if r.frame.isSome || !teamRuns s r.grid r.cluster r.team || (s.vat g vat).st != .free || !framePlaced r fr then s
    else match frameErr s r fr fault with
      | none => match fault with
        | some e => freezeDec s dec r e
        | none => s
      | some err =>
        let ended := decide (r.dead ≠ 0) || err == 5 || err == 6
        let h := if ended then r.strm.header else (frameHeader s r fr).or r.strm.header
        let x := decodeFrame r h fr err
        let pos := if ended then r.pos else if err = 0 then fr.bits.1 + fr.bits.2 else nextUnit s r (blockField r.block 0x10 4) r.pos
        let s := if r.dead ≠ 0 ∨ err = 6 then s else leaveStream s r fr x.2.2.2
        setReq (s.setVat g vat { st := .filling, n := 1 }) { r with
          dead := if err = 5 ∨ err = 6 then err else r.dead, pos := pos, strm := x.2.2.2
          frame := some ⟨vat, windowBytes r.block x.1, [], x.2.1, x.2.2.1⟩ }

/-- A byte of the frame that a decoder is writing is written before the rest. -/
def frameByte (s : State) (dec i : Nat) : State :=
  match s.decs.reqs.find? (fun r => r.dec == some dec) with
  | none => s
  | some r => match r.frame with
    | none => s
    | some f => match f.data[i]? with
      | none => s
      | some b =>
        if f.wrote.contains i then s
        else setReq (s.writeBytes none none 0 (frameLoc s (r.grp s) f.vat i) [b]) { r with frame := some { f with wrote := i :: f.wrote } }

/-- The frame that a decoder is writing, if any, is finished. -/
def endFrame (s : State) (dec : Nat) : State :=
  match s.decs.reqs.find? (fun r => r.dec == some dec) with
  | none => s
  | some r => match r.frame with
    | none => s
    | some f => finishFrame s dec r f

/-- FRAME_OUTPUT (R343): the frame begun before is finished, or the next is begun and finished. -/
def execFrameOutput (dec : Nat) (fr : FrameInfo) (s : State) : Res :=
  .next (if s.decs.reqs.any (fun r => r.dec == some dec && r.frame.isSome) then endFrame s dec else endFrame (beginFrame s dec fr) dec)

/-- The frames being written into a team's vats (R348). -/
def framesOf (s : State) (grid cluster team : Nat) : List DecReq :=
  s.decs.reqs.filter (fun r => r.grid == grid && r.cluster == cluster && r.team == team && r.frame.isSome)

/-- A team's requests end (R41, R348): a frame of which something is written is finished and arrives; no other is written. -/
def endTeamReqs (s : State) (grid cluster team : Nat) : State :=
  let s := ((framesOf s grid cluster team).filterMap (·.dec)).foldl endFrame s
  { s with decs := { s.decs with reqs := s.decs.reqs.filter (fun r => !(r.grid == grid && r.cluster == cluster && r.team == team)) } }

end Sys2Proof.Machine
end

