-- ==== Sys2Proof/Machine/Sequencer.lean ====
section
/-! DEFINITION. Link sequencers: the context slots, staging and credit, the Fjarmar instructions with their checks, stops, and
how a context ends (R293 to R310, R315, R316, R318 to R321). -/
namespace Sys2Proof.Machine

/-! ## Slots and links -/

def slotKey (link slot : Nat) : Nat := link * 4 + slot
def State.slot (s : State) (k : Nat) : SeqSlot := Bank.get {} s.seqs.slots k
def State.setSlot (s : State) (k : Nat) (x : SeqSlot) : State := { s with seqs := { s.seqs with slots := Bank.set {} s.seqs.slots k x } }
def State.modSlot (s : State) (k : Nat) (f : SeqSlot → SeqSlot) : State := s.setSlot k (f (s.slot k))
def State.seqLink (s : State) (j : Nat) : SeqLink := Bank.get {} s.seqs.links j
def State.setSeqLink (s : State) (j : Nat) (x : SeqLink) : State := { s with seqs := { s.seqs with links := Bank.set {} s.seqs.links j x } }

/-- Receive staging of a slot and transmit staging of a link, in bytes (R293). -/
def stagingBytes : Nat := 131072
def transmitBytes : Nat := 262144

/-- c0 reads as zero and ignores writes (R294). -/
def SeqSlot.rc (x : SeqSlot) (n : Nat) : Dword := if n = 0 then 0 else Bank.get 0 x.c n
def SeqSlot.wc (x : SeqSlot) (n : Nat) (v : Dword) : SeqSlot := if n = 0 then x else { x with c := Bank.set 0 x.c n v }
def SeqSlot.chan (x : SeqSlot) (n : Nat) : List Chunk := Bank.get [] x.chans n
def SeqSlot.bound (x : SeqSlot) (n : Nat) : Option Nat := Bank.get none x.bind n
/-- The bytes that stand in a slot's staging. -/
def SeqSlot.used (x : SeqSlot) : Nat :=
  ((x.staged ++ x.chans.flatMap (·.2)).map (fun c => c.payload.length)).foldl (· + ·) 0
def seqMaster (k : Nat) : Nat := masterCode 3 k

/-- CHPEND and CHBIND (Table 13-7). -/
def SeqSlot.chpend (x : SeqSlot) : Nat := (List.range 16).foldl (fun a n => a + (if (x.chan n).isEmpty then 0 else 2 ^ n)) 0
def SeqSlot.chbind (x : SeqSlot) : Nat := (List.range 16).foldl (fun a n => a + (if (x.bound n).isSome then 2 ^ n else 0)) 0

/-! ## Waking -/

/-- A waiting context whose condition may now be met is Ready (Table 13-1). -/
def wakeSlot (s : State) (k : Nat) (f : SeqWait → Bool) : State :=
  let x := s.slot k
  match x.st, x.wait with
  | .waiting, some w => if f w then s.setSlot k { x with st := .ready, wait := none } else s
  | _, _ => s

/-- Bytes leave a link's transmit staging; contexts that wait for room are looked at again. -/
def freeTransmit (s : State) (j n : Nat) : State :=
  let x := s.seqLink j
  let s := s.setSeqLink j { x with tx := x.tx - n }
  (List.range 4).foldl (fun s k => wakeSlot s (slotKey j k) (fun w => match w with
    | .room m => decide (x.tx - n + m ≤ transmitBytes)
    | _ => false)) s

/-- Slot 3 of a link has something to do for the re-sharding engine (R293, R318; log entry 67). -/
def wakeCurds (s : State) (j : Nat) : State :=
  s.modSlot (slotKey j 3) (fun x => if x.st = .running then x else { x with st := .ready, imp := { ctxid := s.rs.ctxid } })

/-! ## Arriving chunks (R302, R320) -/

/-- A chunk enters its slot's staging: its sender gets credit, and it is discarded, delivered to its channel, or held; in slot 3 it is a
curd of the re-sharding engine's part, if that goes on (R332). -/
def acceptChunk (s : State) (j k src : Nat) (c : Chunk) : State :=
  let n := c.payload.length
  let s := if src = s.fabric.self then freeTransmit s j n
           else s.sendMsg src 9 (s.slot k).imp.ctxid 0 0 (.credit j n)
  let x := s.slot k
  if k % 4 = 3 then
    if s.rs.active && s.rs.addr == c.impid then wakeCurds (s.setSlot k { x with staged := x.staged ++ [c] }) j else s
  else if x.last = some c.impid then s.bboxAdd 4 (seqMaster k) x.imp.ctxid 0 0
  else if x.st ≠ .free ∧ x.imp.impid = c.impid then
    match (List.range 16).find? (fun n => x.bound n == some (c.rank + 128 * c.slot)) with
    | some n => wakeSlot (s.setSlot k { x with chans := Bank.set [] x.chans n (x.chan n ++ [c]) }) k (fun w => w == .chunk n)
    | none => s.setSlot k { x with staged := x.staged ++ [c] }
  else s.setSlot k { x with staged := x.staged ++ [c] }

/-- Takes chunks from the backlog while the staging has room; `fuel` bounds them. -/
def settleBacklog : Nat → Nat → Nat → State → State
  | 0, _, _, s => s
  | fuel + 1, j, k, s =>
    let x := s.slot k
    match x.backlog with
    | [] => s
    | (src, c) :: rest =>
      if x.used + c.payload.length ≤ stagingBytes then
        settleBacklog fuel j k (acceptChunk (s.setSlot k { x with backlog := rest }) j k src c)
      else s

/-- The chunks that have room in a slot's staging enter it. -/
def settleSlot (s : State) (j k : Nat) : State := settleBacklog (s.slot k).backlog.length j k s

/-- The transaction layer has a chunk from module src for a slot. -/
def arriveChunk (s : State) (link slot src : Nat) (c : Chunk) : State :=
  let k := slotKey link slot
  settleSlot (s.modSlot k (fun x => { x with backlog := x.backlog ++ [(src, c)] })) link k

/-- Sends a chunk on channel n of a slot, 255 units a message (Table 16-2): to its peer's slot of the same link, within the sequencer where
the peer is the own rank (R299, R302). -/
def sendChunk (s : State) (j k n : Nat) (payload : List Byte) (label : Dword) : State :=
  let x := s.slot k
  let peer := (x.bound n).getD 0
  let c : Chunk := ⟨payload, label, x.imp.impid, x.imp.rank, k % 4⟩
  let l := s.seqLink j
  let s := s.setSeqLink j { l with tx := l.tx + payload.length }
  if peer % 128 = x.imp.rank then arriveChunk s j (peer / 128) s.fabric.self c
  else
    let dst := x.imp.mods.getD (peer % 128) 0
    let parts := (payload.length - 1) / 4080
    let part := fun (i : Nat) => (payload.drop (4080 * i)).take 4080
    let s := (List.range parts).foldl (fun s i => s.sendMsg dst 8 x.imp.ctxid label n (.chunkPart (part i))) s
    s.sendMsg dst 8 x.imp.ctxid label n (.chunk j (peer / 128) { c with payload := part parts })

/-! ## The end of a context (R302, R315, R316) -/

/-- The launching module hears that every context of module m has ended; when all have, it writes CFLAG (R315, R317). -/
def hearEnded (s : State) (uid m : Nat) (aborted : Bool) : State :=
  match s.seqs.imps.find? (fun i => i.uid == uid) with
  | none => s
  | some i =>
    let i' := { i with ended := if i.ended.contains m then i.ended else i.ended ++ [m], aborted := i.aborted || aborted }
    if i'.ended.length = i'.mods.length then
      let s := { s with seqs := { s.seqs with imps := s.seqs.imps.filter (fun x => x.uid != uid) } }
      writeStatus s i'.ctxid i'.cflag (if i'.failed then 0x11 else if i'.aborted then 0x19 else 0x01)
    else { s with seqs := { s.seqs with imps := s.seqs.imps.map (fun x => if x.uid = uid then i' else x) } }

/-- A module's part of an imposition has no context left: the launching module is told. -/
def partEnded (s : State) (p : ImpPart) : State :=
  let s := { s with seqs := { s.seqs with parts := s.seqs.parts.filter (fun x => !(x.uid == p.uid && x.launcher == p.launcher)) } }
  if p.launcher = s.fabric.self then hearEnded s p.uid p.launcher p.aborted
  else s.sendMsg p.launcher 10 p.ctxid 0 0 (.ended p.uid s.fabric.self p.aborted)

/-- n contexts or waiting starts of a part are gone. -/
def lessLive (s : State) (launcher uid n : Nat) (aborted : Bool) : State :=
  match s.seqs.parts.find? (fun p => p.uid == uid && p.launcher == launcher) with
  | none => s
  | some p =>
    let p' := { p with live := p.live - n, aborted := p.aborted || aborted }
    if p'.live = 0 then partEnded s p'
    else { s with seqs := { s.seqs with parts := s.seqs.parts.map (fun x => if x.uid = uid ∧ x.launcher = launcher then p' else x) } }

/-- A context halts or is aborted: Free, the chunks of its IMPID discarded with a black-box entry each, its staging
released; its registers stand as it left them (Table 13-15). -/
def endSlot (s : State) (j k : Nat) (aborted : Bool) : State :=
  let x := s.slot k
  let id := x.imp.impid
  let mine := (x.staged.filter (fun c => c.impid == id)).length + (x.chans.flatMap (·.2)).length
  let s := (List.range mine).foldl (fun s _ => s.bboxAdd 4 (seqMaster k) x.imp.ctxid 0 0) s
  let s := s.setSlot k { x with st := .free, frozen := false, pc := 0, bind := [], chans := [], tleaf := 0, stops := 0, stepping := false
                                pend := none, wait := none, held := none, imp := { ctxid := x.imp.ctxid }, last := some id
                                staged := x.staged.filter (fun c => c.impid != id) }
  let l := s.seqLink j
  let s := if l.running = some (k % 4) then s.setSeqLink j { l with running := none, last := k % 4 } else s
  lessLive (settleSlot s j k) x.imp.launcher x.imp.uid 1 aborted

/-! ## Accesses of a context (R295, R303) -/

/-- Why an instruction stops its context: a stop code with DETAIL and ADDR, or a freeze. -/
inductive SeqErr where
  | stop (code detail : Nat) (addr : Dword)
  | freeze (kind code phys : Nat)
  deriving DecidableEq, Repr

/-- A failed translation as Table 13-10 gives it. -/
def RangeFault.seqErr (e : RangeFault) (need : Need) : SeqErr := match e.why with
  | .noPage => .stop (if need = .write then 0x43 else 0x42) 0 e.addr
  | .violation c p => .freeze (if c = 2 then 2 else 1) c p
  | _ => .stop 0x44 0 e.addr

/-- The first byte of a range outside global memory. -/
def outsideGlobal (va : Dword) (n : Nat) : Option Dword :=
  if regionOf va != .global then some va
  else if va.toNat + n > 0x80 * 2 ^ 48 then some (BitVec.ofNat 64 (0x80 * 2 ^ 48)) else none

/-- Translates one page for each need in order. -/
def seqPage (s : State) (who ctxid : Nat) (va : Dword) : List Need → HeldPage → Except SeqErr HeldPage
  | [], p => .ok p
  | need :: rest, _ => match translate s who ctxid (s.ctx ctxid) need va with
    | .ok phys key _ => seqPage s who ctxid va rest ⟨pageOf va, phys - va.toNat % 65536, keyTag s key, false⟩
    | e => .error ((⟨e, va⟩ : RangeFault).seqErr need)

/-- Translates the pages of a range in order, each page for reading before writing. -/
def seqHold (s : State) (who ctxid : Nat) (needs : List Need) (va : Dword) (n : Nat) : Except SeqErr (List HeldPage) :=
  match outsideGlobal va n with
  | some a => .error (.stop 0x44 1 a)
  | none => (segsOf va n).mapM (fun x => seqPage s who ctxid x.1 needs ⟨0, 0, 0, false⟩)

def heldPlaces (held : List HeldPage) (va : Dword) (n : Nat) : List (Nat × Nat × Nat × Nat) :=
  (segsOf va n).filterMap (fun x => (held.find? (fun h => h.page == pageOf x.1)).map (fun h =>
    (h.phys + x.1.toNat % 65536, h.tag, x.2.1, x.2.2)))

def heldRead (s : State) (held : List HeldPage) (va : Dword) (n : Nat) : Except SeqErr (List Byte) :=
  let ps := heldPlaces held va n
  match ps.findSome? (fun p => s.poisoned none p.1 p.2.2.2) with
  | some w => .error (.freeze 2 2 w)
  | none => .ok (ps.flatMap (fun p => s.readBytes none p.2.1 p.1 p.2.2.2))
def heldWrite (s : State) (held : List HeldPage) (va : Dword) (d : List Byte) : State :=
  (heldPlaces held va d.length).foldl (fun s p => s.writeBytes none none p.2.1 p.1 ((d.drop p.2.2.1).take p.2.2.2)) s
/-- The locations of a range that held translations lead to. -/
def heldLocs (held : List HeldPage) (va : Dword) (n : Nat) : List Nat :=
  (heldPlaces held va n).flatMap (fun p => (List.range p.2.2.2).map (p.1 + ·))

/-! ## Stops (R320, R321) -/

def dwordsBytes (xs : List Dword) : List Byte := xs.flatMap (fun x => natToBytes 8 x.toNat)

/-- The stop record (Table 13-11). -/
def stopRecord (x : SeqSlot) (j k code detail : Nat) (addr : Dword) : List Byte :=
  let word := x.imp.words.getD x.pc 0
  let op := word.toNat / 2 ^ 58
  let h := if op = 2 ∨ op = 3 ∨ op = 4 then (x.chan (bitsOf word 38 4)).head? else none
  dwordsBytes [BitVec.ofNat 64 (code + detail % 256 * 2 ^ 8 + j % 32 * 2 ^ 16 + k % 4 * 2 ^ 21 + x.imp.rank % 128 * 2 ^ 23 + x.imp.impid.toNat % 2 ^ 32 * 2 ^ 32),
    BitVec.ofNat 64 (x.pc % 512), addr, match h with
      | some c => c.label
      | none => 0] ++
  natToBytes 4 (match h with
    | some c => c.payload.length
    | none => 0) ++ natToBytes 4 (x.chbind + x.chpend * 65536) ++
  dwordsBytes [word, BitVec.ofNat 64 x.stops, BitVec.ofNat 64 x.tleaf] ++ dwordsBytes ((List.range 16).map x.rc)

/-- The sequencer leaves its running context. -/
def leaveSlot (s : State) (j k : Nat) : State :=
  let l := s.seqLink j
  if l.running = some (k % 4) then s.setSeqLink j { l with running := none, last := k % 4 } else s

/-- A violation freezes a context; it keeps its slot until its context is destroyed (R387). -/
def freezeSlot (s : State) (j k kind code phys : Nat) : State :=
  let x := s.slot k
  (leaveSlot (s.setSlot k { x with st := .stopped, frozen := true, wait := none, pend := none, held := none }) j k).bboxAdd kind (seqMaster k) x.imp.ctxid
    (Config.violationCode code) phys

/-- A context stops: the record, then FAULTF + 1, which is left out where FAULTF fails its checks and freezes the context where it meets a violation (log entry 67); an ABORT that waited for a
chunk boundary follows. -/
def stopSlot (s : State) (j k code detail : Nat) (addr : Dword) : State :=
  let x := s.slot k
  let x := { x with st := .stopped, stops := x.stops + 1, stepping := false, wait := none, held := none, pend := none }
  let aborts := (s.slot k).pend = some true
  let s := leaveSlot (s.setSlot k x) j k
  match writeRange s (whoLink j) x.imp.ctxid (x.imp.farea + BitVec.ofNat 64 (192 * j)) (stopRecord x j k code detail addr) with
  | .error e => (s.setSlot k { x with frozen := true }).bboxAdd 5 (seqMaster k) x.imp.ctxid code e.addr.toNat
  | .ok s =>
    match addFlag s (whoLink j) x.imp.ctxid x.imp.faultf (· + 1) with
    | .ok s => if aborts then endSlot s j k true else s
    | .error e => match e.seqErr .write with
      | .freeze kind c p => freezeSlot s j k kind c p
      | .stop _ _ _ => if aborts then endSlot s j k true else s

def SeqErr.apply (e : SeqErr) (s : State) (j k : Nat) : State := match e with
  | .stop c d a => stopSlot s j k c d a
  | .freeze kind c p => freezeSlot s j k kind c p

/-! ## One instruction -/

/-- What an instruction comes to: it completes, at `pc`, within a turn or at a chunk boundary; it waits; it fails; it halts. -/
inductive SeqRes where
  | go (s : State) (pc : Nat)
  | boundary (s : State) (pc : Nat)
  | wait (s : State) (w : SeqWait)
  | err (e : SeqErr)
  | halt

/-- At a chunk boundary, an ABORT or STOP that waited takes effect (R322). -/
def atBoundary (s : State) (j k : Nat) : State :=
  match (s.slot k).pend with
  | some true => endSlot s j k true
  | some false => stopSlot s j k 0x4E 0 0
  | none => s

/-- Carries out what an instruction came to (R318, R322); reaching WORDS stops the context (R298), a step that does so too. -/
def seqCommit (s : State) (j k : Nat) (r : SeqRes) : State :=
  let done := fun (s : State) (pc : Nat) (boundary : Bool) =>
    let s := s.modSlot k (fun x => { x with pc := pc, held := none })
    if pc ≥ (s.slot k).imp.words.length then stopSlot s j k 0x41 0 0
    else if (s.slot k).stepping then stopSlot s j k 0x4F 0 0
    else if boundary then atBoundary (leaveSlot (s.modSlot k (fun x => { x with st := .ready })) j k) j k
    else s
  match r with
  | .go s pc => done s pc false
  | .boundary s pc => done s pc true
  | .wait s w => atBoundary (leaveSlot (s.modSlot k (fun x => { x with st := .waiting, wait := some w })) j k) j k
  | .err e => e.apply s j k
  | .halt => endSlot s j k false

/-- The meaning of a Fjarmar word: the link whose instruction is being executed runs it in its running slot; with no link none
does. -/
def seqIssue (s : State) (f : State → Nat → Nat → SeqSlot → SeqRes) : Res :=
  .next (match s.seqs.cur with
    | none => s
    | some j =>
      let s := { s with seqs := { s.seqs with cur := none } }
      match (s.seqLink j).running with
      | none => s
      | some n => seqCommit s j (slotKey j n) (f s j (slotKey j n) (s.slot (slotKey j n))))

/-- A scalar instruction that only changes the context. -/
def seqScalar (s : State) (f : SeqSlot → SeqSlot) : Res :=
  seqIssue s (fun s _ k x => .go (s.setSlot k (f x)) (x.pc + 1))

/-- PC + SignExtend(IMM, 32), if it lies in the program. -/
def branchTarget (x : SeqSlot) (imm : BitVec 32) : Option Nat :=
  let t := (x.pc : Int) + imm.toInt
  if 0 ≤ t ∧ t < x.imp.words.length then some t.toNat else none

def seqBranch (s : State) (k : Nat) (x x' : SeqSlot) (imm : BitVec 32) : SeqRes :=
  match branchTarget x imm with
  | some t => .go (s.setSlot k x') t
  | none => .err (.stop 0x41 0 0)

/-! ## Scalar instructions (R298) -/

/-- MOVI. -/
def execChunkMovi (d : BitVec 4) (imm : BitVec 32) (s : State) : Res :=
  seqScalar s (fun x => x.wc d.toNat (imm.signExtend 64))
/-- MOVI.HI. -/
def execChunkMoviHi (d : BitVec 4) (imm : BitVec 32) (s : State) : Res :=
  seqScalar s (fun x => x.wc d.toNat (imm ++ (x.rc d.toNat).extractLsb' 0 32))
/-- ADDI. -/
def execChunkAddi (d a b : BitVec 4) (imm : BitVec 32) (s : State) : Res :=
  seqScalar s (fun x => x.wc d.toNat (x.rc a.toNat + x.rc b.toNat + imm.signExtend 64))
/-- ADDI.N. -/
def execChunkAddiN (d a b : BitVec 4) (imm : BitVec 32) (s : State) : Res :=
  seqScalar s (fun x => x.wc d.toNat (x.rc a.toNat - x.rc b.toNat + imm.signExtend 64))
/-- LOOP. -/
def execLoop (d : BitVec 4) (imm : BitVec 32) (s : State) : Res :=
  seqIssue s (fun s _ k x =>
    let n := x.rc d.toNat
    if n = 0 then .go s (x.pc + 1)
    else if n = 1 then .go (s.setSlot k (x.wc d.toNat 0)) (x.pc + 1)
    else seqBranch s k x (x.wc d.toNat (n - 1)) imm)
/-- BNZ. -/
def execBnz (a : BitVec 4) (imm : BitVec 32) (s : State) : Res :=
  seqIssue s (fun s _ k x => if x.rc a.toNat = 0 then .go s (x.pc + 1) else seqBranch s k x x imm)
/-- YIELD. -/
def execYield (s : State) : Res := seqIssue s (fun s _ _ x => .boundary s (x.pc + 1))
/-- HALT. -/
def execChunkHalt (s : State) : Res := seqIssue s (fun _ _ _ _ => .halt)

/-- A register of Table 13-7; none where it is unassigned. -/
def seqCsr (x : SeqSlot) (j k : Nat) (n : Nat) : Option Dword :=
  match n with
  | 0 => some (BitVec.ofNat 64 (j % 32 + k % 4 * 2 ^ 5 + x.imp.rank % 128 * 2 ^ 7))
  | 1 => some x.imp.impid
  | 2 => some (BitVec.ofNat 64 x.tleaf)
  | 3 => some (BitVec.ofNat 64 x.chpend)
  | 4 => some (BitVec.ofNat 64 x.chbind)
  | 5 => some (BitVec.ofNat 64 x.imp.scope)
  | _ => none
/-- CSRR (R310). -/
def execChunkCsrr (d : BitVec 4) (csr : BitVec 12) (s : State) : Res :=
  seqIssue s (fun s j k x => match seqCsr x j k csr.toNat with
    | some v => .go (s.setSlot k (x.wc d.toNat v)) (x.pc + 1)
    | none => .err (.stop 0x40 1 0))
/-- CSRW (R310): TLEAF alone is writable. -/
def execChunkCsrw (a : BitVec 4) (csr : BitVec 12) (s : State) : Res :=
  seqIssue s (fun s _ k x =>
    let v := (x.rc a.toNat).toNat
    if csr.toNat ≠ 2 then .err (.stop 0x40 1 0)
    else if v = 0 ∨ v ≥ 2 ^ 32 then .err (.stop 0x40 3 0)
    else .go (s.setSlot k { x with tleaf := v }) (x.pc + 1))

/-! ## BIND and the flag instructions (R299, R300) -/

/-- BIND (R299). -/
def execBind (a ch : BitVec 4) (s : State) : Res :=
  seqIssue s (fun s _ k x =>
    let v := (x.rc a.toNat).toNat
    let n := ch.toNat
    if v ≥ 2 ^ 9 ∨ v % 128 ≥ x.imp.mods.length ∨ v / 128 = 3 then .err (.stop 0x4B 1 0)
    else if (List.range 16).any (fun m => m != n && x.bound m == some v) then .err (.stop 0x4B 2 0)
    else if (x.bound n).isSome && !(x.chan n).isEmpty then .err (.stop 0x4B 3 0)
    else
      let mine := fun (c : Chunk) => c.impid == x.imp.impid && c.rank + 128 * c.slot == v
      .go (s.setSlot k { x with bind := Bank.set none x.bind n (some v), chans := Bank.set [] x.chans n (x.chan n ++ x.staged.filter mine)
                                staged := x.staged.filter (fun c => !mine c) }) (x.pc + 1))

/-- The checks of a flag operand (R300). -/
def seqFlag (s : State) (who ctxid : Nat) (need : Need) (va : Dword) : Except SeqErr (Nat × Nat) :=
  if va.toNat % 8 ≠ 0 then .error (.stop 0x45 0 va)
  else if regionOf va != .flag || decide (offsetOf va + 8 > 2 ^ 32) then .error (.stop 0x44 1 va)
  else match flagPlace s who ctxid need va with
    | .error e => .error (e.seqErr need)
    | .ok p => match (if need = .read then s.poisoned none p.1 8 else none) with
      | some w => .error (.freeze 2 2 w)
      | none => .ok p

def flagMet (cc : Nat) (f v : Dword) : Bool := match cc with
  | 0 => !f.ult v
  | 1 => f == v
  | _ => f != v
/-- A WAITF reads its flag: it advances, waits, or stops the context. -/
def waitfRead (s : State) (j : Nat) (x : SeqSlot) (cc a b : BitVec 4) : SeqRes :=
  match seqFlag s (whoLink j) x.imp.ctxid .read (x.rc a.toNat) with
  | .error e => .err e
  | .ok p => if flagMet cc.toNat (BitVec.ofNat 64 (s.readNat none p.2 p.1 8)) (x.rc b.toNat) then .go s (x.pc + 1) else .wait s .flag
/-- WAITF.cc (R300). -/
def execWaitf (cc a b : BitVec 4) (s : State) : Res :=
  seqIssue s (fun s j _ x => waitfRead s j x cc a b)

/-- SIGF writes its flag, SIGF.ADD reads it too: a poisoned word is consumed (R276). -/
def seqSigf (a : BitVec 4) (reads : Bool) (f : SeqSlot → Dword → Dword) (s : State) : Res :=
  seqIssue s (fun s j _ x => match seqFlag s (whoLink j) x.imp.ctxid .write (x.rc a.toNat) with
    | .error e => .err e
    | .ok p => match (if reads then s.poisoned none p.1 8 else none) with
      | some w => .err (.freeze 2 2 w)
      | none => .go (s.writeBytes none none p.2 p.1 (natToBytes 8 (f x (BitVec.ofNat 64 (s.readNat none p.2 p.1 8))).toNat)) (x.pc + 1))
/-- SIGF (R300). -/
def execChunkSigf (a b : BitVec 4) (s : State) : Res := seqSigf a false (fun x _ => x.rc b.toNat) s
/-- SIGF.ADD (R300). -/
def execChunkSigfAdd (a b : BitVec 4) (s : State) : Res := seqSigf a true (fun x m => m + x.rc b.toNat) s

/-! ## Chunk instructions (R301 to R309) -/

/-- The forme's generation (R303, check 1). -/
def formeCheck (s : State) (who : Nat) (x : SeqSlot) : Except SeqErr Unit :=
  if x.imp.forme = 0 then .ok ()
  else do
    let f := x.imp.forme + 0x18#64
    let held ← seqHold s who x.imp.ctxid [.read] f 8
    let d ← heldRead s held f 8
    let ga := BitVec.ofNat 64 (bytesToNat d)
    if regionOf ga != .flag || decide (offsetOf ga + 8 > 2 ^ 32) then .error (.stop 0x44 1 ga)
    else match readFlag s who x.imp.ctxid ga with
      | .error e => .error (e.seqErr .read)
      | .ok v => if v = x.imp.gen then .ok () else .error (.stop 0x48 0 x.imp.forme)

/-- Checks 1 to 6 of R303; a chunk instruction that waits has passed them and holds its translations. -/
def chunkChecks (s : State) (j : Nat) (x : SeqSlot) (needs : List Need) (chs : List Nat) (va len : Dword) : Except SeqErr (List HeldPage) :=
  match x.held with
  | some h => .ok h
  | none => do
    formeCheck s (whoLink j) x
    if chs.any (fun n => (x.bound n).isNone) then .error (.stop 0x4B 0 0)
    else if len.toNat % 16 ≠ 0 ∨ len.toNat < 16 ∨ len.toNat > 65536 then .error (.stop 0x40 2 0)
    else if va.toNat % 16 ≠ 0 then .error (.stop 0x45 0 va)
    else seqHold s (whoLink j) x.imp.ctxid needs va len.toNat

/-- There is room for n bytes in the link's transmit staging. -/
def roomFor (s : State) (j n : Nat) : Bool := decide ((s.seqLink j).tx + n ≤ transmitBytes)

/-- The instruction waits with its translations held. -/
def chunkWait (s : State) (k : Nat) (x : SeqSlot) (held : List HeldPage) (w : SeqWait) : SeqRes :=
  .wait (s.setSlot k { x with held := some held }) w

/-- XMIT (R304). -/
def execXmit (d a b ch : BitVec 4) (s : State) : Res :=
  seqIssue s (fun s j k x => match chunkChecks s j x [.read] [ch.toNat] (x.rc a.toNat) (x.rc b.toNat) with
    | .error e => .err e
    | .ok held =>
      let n := (x.rc b.toNat).toNat
      if !roomFor s j n then chunkWait s k x held (.room n)
      else match heldRead s held (x.rc a.toNat) n with
        | .error e => .err e
        | .ok p => .boundary (sendChunk s j k ch.toNat p (x.rc d.toNat)) (x.pc + 1))

/-- The oldest chunk of a channel is consumed: its staging is free. -/
def releaseChunk (s : State) (j k n : Nat) : State :=
  settleSlot (s.modSlot k (fun x => { x with chans := Bank.set [] x.chans n (x.chan n).tail })) j k

/-- RECV (R304). -/
def execRecv (d a b ch : BitVec 4) (s : State) : Res :=
  seqIssue s (fun s j k x => match chunkChecks s j x [.write] [ch.toNat] (x.rc a.toNat) (x.rc b.toNat) with
    | .error e => .err e
    | .ok held => match (x.chan ch.toNat).head? with
      | none => chunkWait s k x held (.chunk ch.toNat)
      | some c =>
        if c.payload.length ≠ (x.rc b.toNat).toNat then .err (.stop 0x46 0 0)
        else
          let s := heldWrite s held (x.rc a.toNat) c.payload
          .boundary (releaseChunk (s.modSlot k (fun x => x.wc d.toNat c.label)) j k ch.toNat) (x.pc + 1))

/-- Combine (R305): f 0 F32, 1 BF16, 2 S32; op 0 ADD, 1 MIN, 2 MAX. -/
def combine (op f a b : Nat) : Nat :=
  match f, op with
  | 2, 0 => (a + b) % 2 ^ 32
  | 2, 1 => if (BitVec.ofNat 32 b).slt (BitVec.ofNat 32 a) then b else a
  | 2, _ => if (BitVec.ofNat 32 a).slt (BitVec.ofNat 32 b) then b else a
  | 1, 0 => (Sys2Proof.fadd bf16 0 0 a b).bits
  | 1, 1 => (fminmax bf16 false a b).bits
  | 1, _ => (fminmax bf16 true a b).bits
  | _, 0 => (Sys2Proof.fadd fp32 0 0 a b).bits
  | _, 1 => (fminmax fp32 false a b).bits
  | _, _ => (fminmax fp32 true a b).bits
def elemSize (f : Nat) : Nat := if f = 1 then 2 else 4

/-- Combines buffers element by element. -/
def combineAll (op f : Nat) (l r : List Byte) : List Byte :=
  let n := elemSize f
  (List.range (l.length / n)).flatMap (fun i => natToBytes n (combine op f (fieldAt l (n * i) n) (fieldAt r (n * i) n)))

/-- A label's level, index and validity under TLEAF (R307). -/
def labelValid (tleaf : Nat) (v : Dword) : Bool := decide (bitsOf v 58 6 ≤ 32) && decide (bitsOf v 0 58 * 2 ^ bitsOf v 58 6 < tleaf)

/-- What TREE gives of the local and the arriving label: whether the local is the left operand, and the new label (R307). -/
def treeLabels (tleaf : Nat) (loc arr : Dword) : Except SeqErr (Bool × Dword) :=
  if !labelValid tleaf loc || !labelValid tleaf arr then .error (.stop 0x47 1 0)
  else if bitsOf loc 58 6 ≠ bitsOf arr 58 6 ∨ bitsOf loc 0 58 / 2 ≠ bitsOf arr 0 58 / 2 ∨ bitsOf loc 0 58 = bitsOf arr 0 58 then
    .error (.stop 0x47 0 0)
  else .ok (bitsOf loc 0 1 == 0, BitVec.ofNat 64 ((bitsOf loc 58 6 + 1) * 2 ^ 58 + bitsOf loc 0 58 / 2))

/-- COMB and CFWD (R304 to R307); `fwd` is CFWD's second channel. -/
def combMeaning (m : BitVec 1) (op f d a b ch : BitVec 4) (fwd : Option Nat) (s : State) : Res :=
  seqIssue s (fun s j k x =>
    if m = 1 ∧ (s.ctx x.imp.ctxid).contract.getLsbD 11 = false then .err (.stop 0x40 0 0)
    else match chunkChecks s j x [.read, .write] (ch.toNat :: fwd.toList) (x.rc a.toNat) (x.rc b.toNat) with
    | .error e => .err e
    | .ok held => match (x.chan ch.toNat).head? with
      | none => chunkWait s k x held (.chunk ch.toNat)
      | some c =>
        let n := (x.rc b.toNat).toNat
        if c.payload.length ≠ n then .err (.stop 0x46 0 0)
        else match (if m = 1 then treeLabels x.tleaf (x.rc d.toNat) c.label else .ok (true, c.label)) with
        | .error e => .err e
        | .ok (left, label) =>
          if fwd.isSome && !roomFor s j n then chunkWait s k x held (.room n)
          else match heldRead s held (x.rc a.toNat) n with
          | .error e => .err e
          | .ok y =>
            let z := if left then combineAll op.toNat f.toNat y c.payload else combineAll op.toNat f.toNat c.payload y
            let s := heldWrite s held (x.rc a.toNat) z
            let s := releaseChunk (s.modSlot k (fun x => x.wc d.toNat label)) j k ch.toNat
            .boundary (match fwd with
              | some n => sendChunk s j k n z ((s.slot k).rc d.toNat)
              | none => s) (x.pc + 1))

/-- COMB (R304). -/
def execComb (m : BitVec 1) (op f d a b ch : BitVec 4) (s : State) : Res := combMeaning m op f d a b ch none s
/-- CFWD (R304). -/
def execCfwd (m : BitVec 1) (fw op f d a b ch : BitVec 4) (s : State) : Res := combMeaning m op f d a b ch (some fw.toNat) s

/-! ## Events -/

/-- CHUNK_ARRIVAL (R302). -/
def execChunkArrival (link slot src : Nat) (x : Chunk) (s : State) : Res :=
  .next (if link < 32 ∧ slot < 4 then arriveChunk s link slot src x else s)

/-- The WAITF that a waiting context stands at reads its flag again: the read that compares true ends the wait and the context advances,
Ready (R300); a failed check stops it. -/
def rereadFlag (s : State) (j k : Nat) : State :=
  let x := s.slot k
  if x.st = .waiting ∧ x.wait = some .flag then
    match decodeChunk (x.imp.words.getD x.pc 0) with
    | some (.waitf cc a b) =>
      let t := s.setSlot k { x with st := .ready, wait := none }
      match waitfRead t j x cc a b with
      | .wait _ _ => s
      | r => seqCommit t j k r
    | _ => s
  else s
/-- WAITF_FLAG_READ (R300). -/
def execWaitfFlagRead (link slot : Nat) (s : State) : Res := .next (if link < 32 ∧ slot < 4 then rereadFlag s link (slotKey link slot) else s)

/-! ## A turn of a sequencer (R318) -/

/-- The running slot, or the next Ready one in slot order after the last. -/
def chooseSlot (s : State) (j : Nat) : Option Nat :=
  let l := s.seqLink j
  match l.running with
  | some n => some n
  | none => (List.range 4).findSome? (fun i =>
      let n := (l.last + 1 + i) % 4
      if (s.slot (slotKey j n)).st = .ready then some n else none)

/-- The sequencer selects its slot, which runs; answers the slot's index. -/
def selectSlot (s : State) (j n : Nat) : State :=
  (s.setSeqLink j { s.seqLink j with running := some n }).modSlot (slotKey j n) (fun x => { x with st := .running })

end Sys2Proof.Machine
end

