-- ==== Sys2Proof/Machine/Imposition.lean ====
section
/-! DEFINITION. Impositions: the record and what refuses it, the starts on every module, and how an imposition fails or is
aborted (R311 to R317). -/
namespace Sys2Proof.Machine

/-! ## The record (Table 13-9) -/

/-- A record with all that it names: the imposition as this module runs it, every byte read (so that copies can be compared,
R317), and the programs by rank × 32 + link. -/
structure ImpRecord where
  imp    : SeqImp
  digest : List Byte
  images : List (Nat × List Dword)

/-- Reads a range, none where it cannot be read. -/
def tryRead (s : State) (ctxid : Nat) (va : Dword) (n : Nat) : Option (List Byte) :=
  match readRange s whoHost ctxid va n with
  | .ok d => some d
  | .error _ => none

/-- The programs of a program table; none where an entry is malformed or an image cannot be read. -/
def readImages (s : State) (ctxid : Nat) (table : List Byte) (n : Nat) : Option (List (Nat × List Byte)) :=
  (List.range n).foldlM (fun acc i =>
    let img := fieldAt table (16 * i) 8
    let words := fieldAt table (16 * i + 8) 4
    if fieldAt table (16 * i + 12) 4 ≠ 0 then none
    else if img = 0 then some acc
    else if img % 8 ≠ 0 ∨ words < 1 ∨ words > 512 then none
    else (tryRead s ctxid (BitVec.ofNat 64 img) (8 * words)).map (fun d => acc ++ [(i, d)])) []

/-- The record at an address with its list, table and programs; none where R311, R312 or R317 refuse it. -/
def gatherImp (s : State) (ctxid : Nat) (kaddr : Dword) : Option ImpRecord := do
  if kaddr.toNat % 64 ≠ 0 then none else
  let raw ← tryRead s ctxid kaddr 64
  let c := s.ctx ctxid
  let flags := fieldAt raw 4 4
  let nmod := fieldAt raw 8 4
  let tleaf := fieldAt raw 0xC 4
  let farea := fieldAt raw 0x30 8
  let faultf := BitVec.ofNat 64 (fieldAt raw 0x38 8)
  let forme := fieldAt raw 0x20 8
  let ptab := fieldAt raw 0x18 8
  if fieldAt raw 0 4 ≠ 2 ∨ flags ≥ 8 ∨ flags / 2 = 3 ∨ nmod < 1 ∨ nmod > 128 ∨ tleaf = 0 ∨ ptab % 16 ≠ 0 ∨ farea % 64 ≠ 0 ∨
    faultf.toNat % 8 ≠ 0 ∨ regionOf faultf ≠ .flag ∨ offsetOf faultf + 8 > 2 ^ 32 ∨ forme % 64 ≠ 0 then none else
  let scope := flags % 2
  if (scope = 0 ∧ nmod ≠ 1) ∨ (scope = 1 ∧ c.fab = false) then none else
  let list ← tryRead s ctxid (BitVec.ofNat 64 (fieldAt raw 0x10 8)) nmod
  let mods ← list.mapM (fun b => Config.peerEntry c.peers b.toNat)
  let rank ← mods.findIdx? (fun m => m == s.fabric.self)
  if mods.count s.fabric.self ≠ 1 then none else
  let table ← tryRead s ctxid (BitVec.ofNat 64 ptab) (nmod * 512)
  let images ← readImages s ctxid table (nmod * 32)
  pure {
    imp := { ctxid := ctxid, rank := rank, mods := mods, scope := scope, slot := flags / 2, tleaf := tleaf
             forme := BitVec.ofNat 64 forme, gen := BitVec.ofNat 64 (fieldAt raw 0x28 8), farea := BitVec.ofNat 64 farea, faultf := faultf }
    digest := raw ++ list ++ table ++ images.flatMap (·.2)
    images := images.map (fun x => (x.1, dwordsOf x.2)) }

/-! ## Aborting a part -/

/-- Aborts a context, at once where it stands at a chunk boundary, else at the next (R322); a frozen one takes none (R387). -/
def abortSlot (s : State) (k : Nat) : State :=
  let x := s.slot k
  if x.frozen || x.st == .free then s
  else if x.st = .running then s.setSlot k { x with pend := some true }
  else endSlot s (k / 4) k true

/-- Takes the waiting starts that `f` picks out of a slot. -/
def dropStarts (s : State) (k : Nat) (f : SeqImp → Bool) : State :=
  let gone := (s.slot k).starts.filter f
  let s := s.modSlot k (fun x => { x with starts := x.starts.filter (fun i => !f i) })
  gone.foldl (fun s i => lessLive s i.launcher i.uid 1 true) s

/-- Aborts every context and waiting start of an imposition on this module. -/
def abortPart (s : State) (launcher uid : Nat) : State :=
  let mine := fun (i : SeqImp) => i.uid == uid && i.launcher == launcher
  (s.seqs.slots.map (·.1)).foldl (fun s k =>
    let s := dropStarts s k mine
    if k % 4 ≠ 3 ∧ (s.slot k).st ≠ .free ∧ mine (s.slot k).imp then abortSlot s k else s) s

/-- A destroyed context's impositions end on this module, frozen contexts among them (R364, R387). -/
def dropSeqContext (s : State) (ctxid : Nat) : State :=
  (s.seqs.slots.map (·.1)).foldl (fun s k =>
    let s := dropStarts s k (fun i => i.ctxid == ctxid)
    if k % 4 ≠ 3 ∧ (s.slot k).st ≠ .free ∧ (s.slot k).imp.ctxid = ctxid then endSlot s (k / 4) k true else s) s

/-- Tells a module to abort its part; this module does it at once. -/
def sendAbort (s : State) (ctxid uid m : Nat) : State :=
  if m = s.fabric.self then abortPart s s.fabric.self uid else s.sendMsg m 10 ctxid 0 0 (.abort uid)

def findImp (s : State) (uid : Nat) : Option Imposition := s.seqs.imps.find? (fun i => i.uid == uid)
def modImp (s : State) (uid : Nat) (f : Imposition → Imposition) : State :=
  { s with seqs := { s.seqs with imps := s.seqs.imps.map (fun i => if i.uid = uid then f i else i) } }

/-! ## Starts -/

/-- The launching module hears a module's answer to its start: a failure aborts the imposition with code 0x11 (R317). -/
def hearAnswer (s : State) (uid m : Nat) (ok : Bool) : State :=
  match findImp s uid with
  | none => s
  | some i =>
    let s := modImp s uid (fun i => { i with answered := i.answered ++ [m], failed := i.failed || !ok })
    if ok then s
    else
      let s := if i.failed then s else i.mods.foldl (fun s m => sendAbort s i.ctxid uid m) s
      hearEnded s uid m true

def answerStart (s : State) (ctxid launcher uid : Nat) (ok : Bool) : State :=
  if launcher = s.fabric.self then hearAnswer s uid launcher ok
  else s.sendMsg launcher 10 ctxid 0 0 (.answer uid s.fabric.self ok)

/-- A start reaches this module (R314, R317): every link of its rank with a program gets a waiting start. -/
def receiveStart (s : State) (ctxid launcher : Nat) (kaddr param impid : Dword) (uid : Nat) (digest : List Byte) : State :=
  match (if (s.ctx ctxid).used then gatherImp s ctxid kaddr else none) with
  | none => answerStart s ctxid launcher uid false
  | some r =>
    if r.digest ≠ digest ∨ !r.imp.mods.contains launcher then answerStart s ctxid launcher uid false
    else
      let mine := (List.range 32).filterMap (fun j => (r.images.find? (fun x => x.1 == r.imp.rank * 32 + j)).map (fun x => (j, x.2)))
      let s := { s with seqs := { s.seqs with parts := s.seqs.parts ++ [⟨uid, ctxid, launcher, mine.length, false⟩] } }
      let s := mine.foldl (fun s x => s.modSlot (slotKey x.1 r.imp.slot) (fun y => { y with
        starts := y.starts ++ [{ r.imp with impid := impid, uid := uid, launcher := launcher, words := x.2, param := param }] })) s
      let s := answerStart s ctxid launcher uid true
      if mine.isEmpty then lessLive s launcher uid 0 false else s

/-- The scheduler launches an imposition whose dependences are met (R313, R317): the code with which it is refused, or 0. -/
def launchImp (s : State) (ctxid : Nat) (kaddr param cflag : Dword) (ticket : Nat) : State × Nat :=
  match gatherImp s ctxid kaddr with
  | none => (s, 0x11)
  | some r =>
    let impid := BitVec.ofNat 64 (ticket % 2 ^ 32 + r.imp.rank * 2 ^ 32)
    let mods := r.imp.mods.eraseDups
    let uid := s.seqs.nextImp
    let i : Imposition := ⟨uid, ctxid, cflag, mods, [], [], false, false⟩
    let s := { s with seqs := { s.seqs with nextImp := uid + 1, imps := s.seqs.imps ++ [i] } }
    let s := (mods.filter (fun m => m != s.fabric.self)).foldl (fun s m => s.sendMsg m 10 ctxid 0 0 (.start kaddr param impid uid r.digest)) s
    (receiveStart s ctxid s.fabric.self kaddr param impid uid r.digest, 0)

/-- The initial state of a context (R314); chunks already held for its IMPID stay in staging. -/
def loadSlot (x : SeqSlot) (j : Nat) (i : SeqImp) : SeqSlot :=
  let y : SeqSlot := { x with st := .ready, frozen := false, imp := i, pc := 0, c := [], bind := [], chans := [], tleaf := i.tleaf, stops := 0
                              stepping := false, pend := none, wait := none, held := none, starts := x.starts.tail }
  (((y.wc 1 i.param).wc 2 (BitVec.ofNat 64 i.rank)).wc 3 (BitVec.ofNat 64 i.mods.length)).wc 4 (BitVec.ofNat 64 j)

/-- IMPOSITION_START_ARRIVAL (R314). -/
def execImpositionStartArrival (link slot : Nat) (s : State) : Res :=
  .next (let x := s.slot (slotKey link slot)
    match x.starts with
    | i :: _ => if x.st = .free then s.setSlot (slotKey link slot) (loadSlot x link i) else s
    | [] => s)

/-- IMPOSITION_START_TIMEOUT (R317): the modules of the k-th imposition launched here that have not answered are given up. -/
def execImpositionStartTimeout (k : Nat) (s : State) : Res :=
  .next (match s.seqs.imps[k]? with
    | none => s
    | some i =>
      let lost := i.mods.filter (fun m => !i.answered.contains m)
      if lost.isEmpty then s
      else
        let s := modImp s i.uid (fun i => { i with aborted := true, answered := i.answered ++ lost })
        let s := i.mods.foldl (fun s m => sendAbort s i.ctxid i.uid m) s
        lost.foldl (fun s m => hearEnded s i.uid m true) s)

end Sys2Proof.Machine
end

