-- ==== Sys2Proof/Machine/Reshard.lean ====
section
/-! DEFINITION. Formes and the re-sharding engine: RSHD's checks, planning, the moving of curds, pending reductions, commit and
stops (R324 to R337, R387). -/
namespace Sys2Proof.Machine

/-! ## Formes (Tables 14-1 to 14-3) -/

def listProd (xs : List Nat) : Nat := xs.foldl (· * ·) 1

/-- Why the engine gives a plan up: an error of Table 14-6, or a violation with its KIND, number and physical address (R330, R387). -/
inductive PlanErr where
  | error (e : Nat)
  | violation (kind code phys : Nat)
  deriving DecidableEq, Repr

/-- The bytes of a range; a forme that cannot be read is malformed. -/
def rangeBytes (s : State) (ctxid : Nat) (va : Dword) (n : Nat) : Except PlanErr (List Byte) :=
  match readRange s whoReshard ctxid va n with
  | .ok d => .ok d
  | .error e => match e.why with
    | .violation c p => .error (.violation (if c = 2 then 2 else 1) c p)
    | _ => .error (.error 1)

/-- A word of the flag window at a multiple of 8. -/
def isFlagWord (a : Dword) : Bool := regionOf a == .flag && a.toNat % 8 == 0 && decide (offsetOf a + 8 ≤ 2 ^ 32)

/-- A tensor entry; none where it is malformed: each axis splits at most one dimension (R325). -/
def tensorOf (d : List Byte) : Option Tensor :=
  let es := fieldAt d 8 4
  let rank := fieldAt d 0xC 4
  let dims := (List.range 4).map (fun i => fieldAt d (0x10 + 4 * i) 4)
  let sp := fieldAt d 0x20 4
  let split := (List.range 4).map (fun i => sp / 16 ^ i % 16)
  let axes := split.filter (fun x => x != 0)
  if es > 3 ∨ rank < 1 ∨ rank > 4 ∨ sp ≥ 65536 ∨ fieldAt d 0x24 28 ≠ 0 ∨
    (dims.take rank).any (fun n => n == 0 || decide (n > 2 ^ 31)) ∨ (dims.drop rank).any (fun n => n != 0) ∨
    listProd (dims.take rank) > 2 ^ 40 ∨ axes.any (fun x => decide (x > 3)) ∨ axes.eraseDups.length ≠ axes.length ∨
    (split.drop rank).any (fun x => x != 0) ∨ fieldAt d 0 8 % 2 ^ es ≠ 0 then none
  else some ⟨BitVec.ofNat 64 (fieldAt d 0 8), 2 ^ es, dims.take rank, split.take rank⟩

/-- A forme read from memory. -/
def readForme (s : State) (ctxid : Nat) (va : Dword) : Except PlanErr Forme := do
  if va.toNat % 64 ≠ 0 then .error (.error 1) else
  let h ← rangeBytes s ctxid va 64
  let nt := fieldAt h 4 4
  let nm := fieldAt h 8 4
  let mesh := (List.range 3).map (fun i => fieldAt h (0xC + i) 1)
  let tab := fieldAt h 0x20 8
  let gen := BitVec.ofNat 64 (fieldAt h 0x18 8)
  let pend := BitVec.ofNat 64 (fieldAt h 0x28 8)
  if fieldAt h 0 4 ≠ 3 ∨ nt < 1 ∨ nt > 4096 ∨ nm < 1 ∨ nm > 128 ∨ nm ≠ listProd mesh ∨ mesh.any (fun x => decide (x > 128)) ∨
    fieldAt h 0xF 1 ≠ 0 ∨ fieldAt h 0x30 16 ≠ 0 ∨ tab % 64 ≠ 0 ∨ isFlagWord gen = false ∨ isFlagWord pend = false ∨
    offsetOf pend + 8 * nt > 2 ^ 32 then .error (.error 1)
  else
  let ml ← rangeBytes s ctxid (BitVec.ofNat 64 (fieldAt h 0x10 8)) nm
  let td ← rangeBytes s ctxid (BitVec.ofNat 64 tab) (64 * nt)
  match (List.range nt).mapM (fun i => tensorOf ((td.drop (64 * i)).take 64)) with
  | none => .error (.error 1)
  | some ts => pure ⟨mesh, ml.map (fun b => Config.peerEntry (s.ctx ctxid).peers b.toNat), gen, pend, ts⟩

/-- The coordinate of rank r on axis k (R324). -/
def meshCoord (mesh : List Nat) (r k : Nat) : Nat := r / listProd (mesh.take k) % mesh.getD k 1

/-- The indices of a dimension that rank r holds: from, to (R325). -/
def heldSpan (mesh : List Nat) (r : Nat) (n axis : Nat) : Nat × Nat :=
  if axis = 0 then (0, n)
  else
    let e := mesh.getD (axis - 1) 1
    let b := (n + e - 1) / e
    let i := meshCoord mesh r (axis - 1)
    (min n (i * b), min n ((i + 1) * b))

/-- The local extents of a tensor at rank r, as spans. -/
def shardSpans (f : Forme) (t : Tensor) (r : Nat) : List (Nat × Nat) :=
  (t.dims.zip t.split).map (fun x => heldSpan f.mesh r x.1 x.2)
def spanCount (sp : List (Nat × Nat)) : Nat := listProd (sp.map (fun x => x.2 - x.1))

/-- The global coordinates of the e-th element of a shard, and the number of an element in a shard: row-major. -/
def coordsAt : List (Nat × Nat) → Nat → List Nat
  | [], _ => []
  | (lo, _) :: rest, e => (lo + e / spanCount rest) :: coordsAt rest (e % spanCount rest)
def numberIn (sp : List (Nat × Nat)) (x : List Nat) : Nat :=
  (sp.zip x).foldl (fun a y => a * (y.1.2 - y.1.1) + (y.2 - y.1.1)) 0
def holdsElem (sp : List (Nat × Nat)) (x : List Nat) : Bool := (sp.zip x).all (fun y => decide (y.1.1 ≤ y.2) && decide (y.2 < y.1.2))

/-- The rank of a module in a forme. -/
def rankOf (f : Forme) (m : Nat) : Option Nat := f.mods.findIdx? (fun x => x == some m)

/-! ## Plans (R329, R330) -/

/-- The source of an element for module m of new rank r: its module and its rank in the old forme. -/
def pickSource (old : Forme) (parts : List Nat) (t : Tensor) (m r : Nat) (x : List Nat) : Option (Nat × Nat) :=
  let hs := (List.range old.mods.length).filterMap (fun o => match old.mods.getD o none with
    | some h => if parts.contains h && holdsElem (shardSpans old t o) x then some (h, o) else none
    | none => none)
  match hs.find? (fun h => h.1 == m) with
  | some h => some h
  | none => if hs.isEmpty then none else hs[r % hs.length]?

/-- One more element: it lengthens the last curd or begins a new one (the list holds the last curd first). -/
def addElem (cs : List Curd) (c : Curd) : List Curd :=
  match cs with
  | l :: rest =>
    if l.tensor = c.tensor ∧ l.source = c.source ∧ l.src + BitVec.ofNat 64 l.len = c.src ∧ l.dst + BitVec.ofNat 64 l.len = c.dst ∧
        l.len + c.len ≤ 65536 then { l with len := l.len + c.len } :: rest
    else c :: cs
  | [] => [c]

/-- The curds of tensor i for module m, after those in `cs`; none where an element has no holder. -/
def planTensor (old new : Forme) (parts : List Nat) (m r i : Nat) (cs : List Curd) : Option (List Curd) :=
  match old.tensors[i]?, new.tensors[i]? with
  | some t, some u =>
    let sp := shardSpans new u r
    (List.range (spanCount sp)).foldlM (fun cs e =>
      let x := coordsAt sp e
      match pickSource old parts t m r x with
      | none => none
      | some (h, o) => some (addElem cs ⟨i, h, t.base + BitVec.ofNat 64 (numberIn (shardSpans old t o) x * t.esize),
          u.base + BitVec.ofNat 64 (e * u.esize), u.esize⟩)) cs
  | _, _ => some cs

/-- The plan of module m: its curds in order. -/
def planFor (old new : Forme) (parts : List Nat) (m : Nat) : Option (List Curd) :=
  match rankOf new m with
  | none => some []
  | some r => ((List.range new.tensors.length).foldlM (fun cs i => planTensor old new parts m r i cs) []).map List.reverse

/-- The formes agree (R327). -/
def formesAgree (a b : Forme) : Bool :=
  a.gen == b.gen && a.tensors.length == b.tensors.length &&
    (a.tensors.zip b.tensors).all (fun x => x.1.esize == x.2.esize && x.1.dims == x.2.dims)

/-- The shards of a module: address and bytes. -/
def shardsOf (f : Forme) (m : Nat) : List (Nat × Nat) := match rankOf f m with
  | none => []
  | some r => f.tensors.map (fun t => (t.base.toNat, spanCount (shardSpans f t r) * t.esize))
def shardsOverlap (xs ys : List (Nat × Nat)) : Bool :=
  xs.any (fun x => ys.any (fun y => decide (x.1 < y.1 + y.2) && decide (y.1 < x.1 + x.2) && x.2 != 0 && y.2 != 0))

/-! ## The progress record (Table 14-5) and messages -/

def rsProg (s : State) : Dword := s.rs.req.getD 3 0
/-- A field of the record, 0 where it cannot be read. -/
def rsGet (s : State) (off n : Nat) : Nat :=
  match readRange s whoReshard s.rs.ctxid (rsProg s + BitVec.ofNat 64 off) n with
  | .ok d => fieldAt d 0 n
  | .error _ => 0

/-- A message to another engine about this request. -/
def rsSend (s : State) (dst : Nat) (m : ReshardMsg) : State := s.sendMsg dst 11 s.rs.ctxid s.rs.addr 0 (.reshard m)
def rsTell (s : State) (m : ReshardMsg) : State := (s.rs.parts.filter (fun p => p != s.fabric.self && decide (p < 128))).foldl (fun s p => rsSend s p m) s

/-- Two addresses of requests are the same in the INFO field of a message. -/
def sameReq (a b : Dword) : Bool := msgInfo a 0 == msgInfo b 0

/-- The engine answers for a part: it runs, or has ended in STATE 3, from which a counter can still move it back (R334, R335). -/
def rsLive (s : State) : Bool := s.rs.active || (s.rs.st == 3 && s.rs.formes.isSome)

/-- The engine meets a violation: the first freezes it until its context ends (R387). -/
def rsBox (s : State) (kind code phys : Nat) : State :=
  if s.rs.frozen.isSome then s
  else ({ s with rs := { s.rs with frozen := some s.rs.ctxid } }).bboxAdd kind (masterCode 5 0) s.rs.ctxid (Config.violationCode code) phys
def rsBoxFault (s : State) (e : RangeFault) : State := match e.why with
  | .violation c p => rsBox s (if c = 2 then 2 else 1) c p
  | _ => s

/-- A violation that reading a field of the record meets. -/
def rsLook (s : State) (off n : Nat) : State :=
  match readRange s whoReshard s.rs.ctxid (rsProg s + BitVec.ofNat 64 off) n with
  | .ok _ => s
  | .error e => rsBoxFault s e

/-- Writes a field of the record; a record that cannot be written is left as it is. -/
def rsPut (s : State) (off n x : Nat) : State :=
  match writeRange s whoReshard s.rs.ctxid (rsProg s + BitVec.ofNat 64 off) (natToBytes n x) with
  | .ok s => s
  | .error e => rsBoxFault s e

/-- STATE with its error, held in the engine and written to the record. -/
def rsState (s : State) (st err : Nat) : State := rsPut { s with rs := { s.rs with st := st } } 0 4 (st + err * 256)

/-- A request that has been accepted and not begun binds its record, if none has, and FADDR and FDETAIL are 0 (R331). -/
def rsBind (s : State) : State :=
  if s.rs.st ≠ 0 then s else
  let b := s.rs.req
  let s := rsLook s 0 64
  let s := if rsGet s 0 1 % 16 = 0 then
      rsPut (rsPut (rsPut (rsPut s 8 8 (b.getD 1 0).toNat) 0x10 8 (b.getD 2 0).toNat) 0x18 8 (b.getD 4 0).toNat) 0x20 4 (blockField b 0x28 4)
    else s
  rsPut s 0x30 16 0

/-! ## Slot 3 (R293, R332) -/

/-- The link whose slot-3 context moves curd c (R332). -/
def curdLink (c : Nat) : Nat := c % 32

/-- The curds of `drop` leave the staging of slot 3 of link j, and those that wait for room there: the senders have their room back. -/
def dropStaged (s : State) (j : Nat) (drop : Chunk → Bool) : State :=
  let x := s.slot (slotKey j 3)
  if x.staged.isEmpty && x.backlog.isEmpty then s else
  let s := (x.backlog.filter (fun b => drop b.2)).foldl (fun s b => s.sendMsg b.1 9 s.rs.ctxid 0 0 (.credit j b.2.payload.length)) s
  settleSlot (s.setSlot (slotKey j 3) { x with staged := x.staged.filter (fun c => !drop c), backlog := x.backlog.filter (fun b => !drop b.2) })
    j (slotKey j 3)

/-- Every slot 3 is free of the engine's work. -/
def rsFreeSlots (s : State) : State :=
  (List.range 32).foldl (fun s j =>
    let x := s.slot (slotKey j 3)
    if x.st = .free ∧ x.staged.isEmpty ∧ x.backlog.isEmpty then s
    else leaveSlot (dropStaged (s.modSlot (slotKey j 3) (fun x => { x with st := .free, imp := {} })) j (fun _ => true)) j (slotKey j 3)) s

/-- Slot 3 of each link on which a curd of `cs` moves has something to do. -/
def wakeFor (s : State) (cs : List Nat) : State := (cs.map curdLink).eraseDups.foldl wakeCurds s

/-! ## The end of a part (R333, R337, R387) -/

/-- The engine has nothing more to do for its part. -/
def Reshard.idle (r : Reshard) : Reshard := { r with active := false, asks := [], waiting := [], clears := [], seen := [], landed := [] }

/-- DONEF: STATE[15:0] and NDONE (R337). -/
def rsDonef (s : State) : State :=
  match setFlag s whoReshard s.rs.ctxid (s.rs.req.getD 7 0) (BitVec.ofNat 64 (rsGet s 0 2 + rsGet s 0x24 4 * 65536)) with
  | .ok s => s
  | .error e => rsBoxFault s e

/-- The part ends (R337): DONEF is written and the engine is free; one that ends in STATE 3 goes on answering for its curds. -/
def rsEnd (s0 : State) : State :=
  let s := rsDonef s0
  if s.rs.st = 3 then { s with rs := { s.rs with active := false } }
  else rsFreeSlots { s with rs := s.rs.idle }

/-- Acceptances of a request that is over are heard no more. -/
def rsForget (s : State) : State :=
  { s with rs := { s.rs with accepted := s.rs.accepted.filter (fun a => !(a.2.1 == s.rs.ctxid && sameReq a.2.2.1 s.rs.addr)) } }

/-- This module's part stops with an error; every other participant is told (R333). -/
def rsHalt (s : State) (err : Nat) : State := rsTell (rsForget (rsEnd (rsState (rsBind s) 5 err))) (.stop s.rs.rank)
/-- It stops so unless its commit has begun. -/
def rsStop (s : State) (err : Nat) : State := if s.rs.active && !s.rs.committing then rsHalt s err else s
/-- Another participant has stopped. -/
def rsStopped (s : State) : State := if s.rs.active && !s.rs.committing then rsForget (rsEnd (rsState (rsBind s) 5 7)) else s

/-- A part whose engine has met a violation stops with error 0x07 (Table 18-5). -/
def rsSettled (s : State) : State := if rsLive s && s.rs.frozen == some s.rs.ctxid then rsHalt s 7 else s
def rsFreeze (s : State) (kind code phys : Nat) : State := rsSettled (rsBox s kind code phys)

/-- A shard page fails a check: error 0x06 with its byte, stop code and DETAIL, unless the part has ended already (R331). -/
def rsFault (s : State) (e : SeqErr) : State := match e with
  | .stop code d a => if rsLive s then rsHalt (rsPut (rsPut (rsBind s) 0x30 8 a.toNat) 0x38 8 (code + d * 256)) 6 else s
  | .freeze kind c p => rsFreeze s kind c p

/-- A destroyed context's part stops and nothing further is written; its freeze ends (R333, R387). -/
def dropReshard (s : State) (ctxid : Nat) : State :=
  let s := if rsLive s ∧ s.rs.ctxid = ctxid then
      let s := rsTell s (.stop s.rs.rank)
      rsFreeSlots { s with rs := { s.rs.idle with st := 0, formes := none } }
    else s
  { s with rs := { s.rs with
      frozen := if s.rs.frozen = some ctxid then none else s.rs.frozen
      accepted := s.rs.accepted.filter (fun a => a.2.1 != ctxid) } }

/-! ## RSHD (R328) -/

/-- The bytes of a global range as the lane of a feeder context reads them: its own stores, its core's L1, the homes (R175, R255). -/
def laneRange (s : State) (g : Grp) (va : Dword) (n : Nat) : Except EngFault (List Byte) :=
  match outsideGlobal va n with
  | some a => .error (.trap 7 1 a)
  | none => (holdPages s g [(.read, va, n)]).bind (fun held =>
    let ps := enginePlaces s g held va n
    match placesPoison s g.core [] ps with
    | some w => .error (.violation 2 w)
    | none => .ok (ps.flatMap (fun p => readPlace s g 0 p.loc p.tag p.l1 p.len)))

def rshdMalformed (b : List Dword) : Bool :=
  blockField b 0 4 != 4 || decide (blockField b 4 4 ≥ 2) || decide (blockField b 0x28 4 < 1) || decide (blockField b 0x28 4 > 128) ||
    blockField b 0x2C 4 != 0 || (b.getD 3 0).toNat % 64 != 0

/-- What the checks of RSHD come to: a failed check, a status with which nothing is started, the trap of a generation that differs, or
the participant list of an accepted request. -/
inductive RshdCheck where
  | fails (e : EngFault)
  | status (n : Nat)
  | stale
  | accept (parts : List Byte)
  deriving DecidableEq, Repr

/-- The generation word, read as by LDA.D.DEVICE past the generation's acquire (R328, check 7). -/
def rshdGen (s : State) (g : Grp) (b : List Dword) : Except EngFault Dword := do
  let ga ← laneRange s g (b.getD 1 0 + 0x18) 8
  let ea := BitVec.ofNat 64 (fieldAt ga 0 8)
  match checkAccess s g 0 ⟨.read, true⟩ ea 8 with
  | .trap c d => .error (.trap c d ea)
  | .violation c p => .error (.violation c p)
  | .fabric _ _ => .error (.trap 7 1 ea)
  | .ok p => match s.poisoned none p.loc 8 with
    | some w => .error (.violation 2 w)
    | none => .ok (BitVec.ofNat 64 (readPlaceNat s g 0 p.loc p.tag false 8))

/-- Checks 3 to 8 of R328. -/
def rshdCheck (s : State) (g : Grp) (b : List Dword) : RshdCheck :=
  if rshdMalformed b then .status 2
  else if s.rs.active || s.rs.frozen.isSome then .status 1
  else match laneRange s g (b.getD 3 0) 64 with
  | .error e => .fails e
  | .ok rec_ =>
    let st := fieldAt rec_ 0 1 % 16
    if st ≠ 0 ∧ (fieldAt rec_ 8 8 ≠ (b.getD 1 0).toNat ∨ fieldAt rec_ 0x10 8 ≠ (b.getD 2 0).toNat ∨ fieldAt rec_ 0x18 8 ≠ (b.getD 4 0).toNat ∨
        fieldAt rec_ 0x20 4 ≠ blockField b 0x28 4) then .status 3
    else if st = 4 then .status 4
    else match rshdGen s g b with
      | .error e => .fails e
      | .ok v =>
        if v ≠ b.getD 6 0 then .stale
        else match laneRange s g (b.getD 4 0) (blockField b 0x28 4) with
          | .error e => .fails e
          | .ok parts => .accept parts

/-- The engine takes an accepted request. -/
def rsAccept (s : State) (ctxid : Nat) (addr : Dword) (b : List Dword) (plist : List Byte) (after : List (Nat × Nat × Nat)) : State :=
  let s := if rsLive s then rsFreeSlots s else s
  let mods := plist.map (fun p => Config.peerEntry (s.ctx ctxid).peers p.toNat)
  let rank := (mods.findIdx? (fun m => m == some s.fabric.self)).getD mods.length
  { s with rs := { s.rs with
      active := true, ctxid := ctxid, addr := addr, req := b, parts := mods.map (fun m => m.getD 128), rank := rank
      commit := blockField b 4 4 % 2 == 1, st := 0, formes := none, curds := [], held := [], reports := [], asks := [], waiting := []
      after := after, clears := [], seen := [], landed := [], committing := false, owed := none, acks := [] } }

/-- Its work begins, once what its issuer issued before it is performed (R241): the record is bound, STATE is 1, and every participant is
told. -/
def rsBegin (s : State) : State :=
  if !s.rs.active || s.rs.st != 0 || !opsPerformed s s.rs.after then s
  else
    let s := s.rs.after.foldl (fun s a => s.flushCore a.2.2) s
    let s := rsState (rsBind s) 1 0
    if s.rs.parts.contains 128 || decide (s.rs.rank ≥ s.rs.parts.length) then rsStop s 7
    else rsSettled (rsTell s (.accept s.rs.rank s.rs.commit))

/-- RSHD (R328): acceptance is a device-scope release, and the generation's read an acquire of that scope; a request of a context that is
being destroyed starts nothing (R333). -/
def execRshd (u : Bool) (d a : BitVec 6) (p : BitVec 3) (s : State) : Res :=
  issue (.rshd u d a p) s (fun w s =>
  let ea := w.g.rv64 a.toNat 0
  let s1 := drainStores s w.key w.act
  match readRecord s1 w ea with
  | .error e => engineFails w 0 (e.whole ea 64)
  | .ok b =>
    let status := fun (s : State) (st : Nat) => (dropFetched s w.key w.act).modGrp w.key (fun g => g.wv d.toNat 0 (BitVec.ofNat 32 st))
    match rshdCheck s1 (s1.grp w.key) b with
    | .fails e => engineFails w 0 e
    | .stale => ⟨(lanesOf w.act).map (fun l => (l, LaneOut.trap 0x0F 0 (b.getD 1 0) none)), fun _ s => if w.act = 0 then s else acquireAt s w.g.core 3⟩
    | .status st => feederMeaning w .ok (fun s => status s st)
    | .accept parts => feederMeaning w .ok (fun s =>
        let s := acquireAt (releaseAt (releaseLanes (status s 0) w.key w.act) w.g.core 3) w.g.core 3
        if (s.ctx w.g.ctxid).dying then s
        else rsBegin (rsAccept s w.g.ctxid ea b parts (unperformed (s.grp w.key) w.key w.act))))

/-! ## Moving -/

/-- The counter of tensor t on this module (R334). -/
def rsCounter (s : State) (t : Nat) : Except SeqErr Nat :=
  match s.rs.formes with
  | none => .ok 0
  | some (old, _) => match readFlag s whoReshard s.rs.ctxid (old.pend + BitVec.ofNat 64 (8 * t)) with
    | .ok v => .ok v.toNat
    | .error e => .error (e.seqErr .read)

def rsIsDone (s : State) (c : Nat) : Bool := rsGet s (0x40 + c / 8) 1 / 2 ^ (c % 8) % 2 == 1
def rsMark (s : State) (c : Nat) (b : Bool) : State :=
  let s := rsLook s (0x40 + c / 8) 1
  if rsIsDone s c = b then s
  else
    let x := rsGet s (0x40 + c / 8) 1
    let n := rsGet s 0x24 4
    if b then rsPut (rsPut s (0x40 + c / 8) 1 (x + 2 ^ (c % 8))) 0x24 4 (n + 1)
    else rsPut (rsPut s (0x40 + c / 8) 1 (x - 2 ^ (c % 8))) 0x24 4 (n - 1)

/-- Curd c of module m's plan, as its source derives it (R329). -/
def rsCurdOf (s : State) (m c : Nat) : Option Curd :=
  s.rs.formes.bind (fun f => ((planFor f.1 f.2 s.rs.parts m).getD [])[c]?)

/-- NDEFER: this engine's curds that its counters hold back, asked for here or by another module. -/
def rsDeferred (s : State) : Nat :=
  (s.rs.waiting.filter (fun w => match rsCurdOf s w.1 w.2 with
    | some x => s.rs.held.contains x.tensor
    | none => false)).length +
  (s.rs.curds.zipIdx.filter (fun x => x.1.source == s.fabric.self && s.rs.held.contains x.1.tensor && !rsIsDone s x.2)).length

/-- Step 2 of a commit, once every participant's generation word is written (R335). -/
def rsFinish (s : State) : State :=
  if s.rs.committing && s.rs.rank == 0 && (List.range s.rs.parts.length).all (fun r => s.rs.acks.contains r) then
    rsEnd (rsState (rsTell s .finish) 4 0)
  else s

/-- Step 1 of a commit on this module: its generation word becomes `gen`, and the coordinator hears of it (R335). -/
def rsCommitted (s : State) (gen : Dword) : State :=
  match s.rs.formes with
  | none => s
  | some (old, _) => match setFlag s whoReshard s.rs.ctxid old.gen gen with
    | .ok s =>
      let s := { s with rs := { s.rs with committing := true } }
      if s.rs.rank = 0 then rsFinish { s with rs := { s.rs with acks := s.rs.acks ++ [0] } }
      else rsSend s (s.rs.parts.getD 0 0) (.committed s.rs.rank)
    | .error e => rsFault s (e.seqErr .write)

/-- A part whose curds are all done and whose counters are all 0 is moved: STATE 3, reported to the coordinator (R335). -/
def rsCheckMoved (s : State) : State :=
  let s := rsPut s 0x2C 4 (rsDeferred s)
  if !s.rs.active || s.rs.st != 2 || rsGet s 0x24 4 != s.rs.curds.length then s
  else
    let n := match s.rs.formes with
      | some (old, _) => old.tensors.length
      | none => 0
    match (List.range n).mapM (rsCounter s) with
    | .error e => rsFault s e
    | .ok cs =>
      if cs.any (fun c => c != 0) then s
      else
        let s := rsState s 3 0
        let s := if s.rs.rank = 0 then { s with rs := { s.rs with reports := s.rs.reports ++ [0] } }
                 else rsSend s (s.rs.parts.getD 0 0) (.report s.rs.rank)
        match s.rs.owed with
        | some gen => rsCommitted s gen
        | none => if s.rs.commit then s else rsEnd s

/-- The curds in `cs` that are not done are to be asked for, or moved where this module is their source, by the slot-3 contexts of their
links. -/
def rsAsk (s : State) (cs : List Nat) : State :=
  let more := cs.filter (fun c => decide (c < s.rs.curds.length) && !rsIsDone s c && !s.rs.asks.contains c)
  wakeFor { s with rs := { s.rs with asks := s.rs.asks ++ more } } more

/-- The bytes of curd c of module m read from this module's old shard; those of them that have been read before stand (R251). -/
def rsRead (s : State) (m c : Nat) (x : Curd) : Except SeqErr (List Byte) :=
  (seqHold s whoReshard s.rs.ctxid [.read] x.src x.len).bind (fun h => (heldRead s h x.src x.len).map (fun d =>
    d.zipIdx.map (fun b => ((s.rs.seen.find? (fun y => y.1 == (m, c, b.2))).map (·.2)).getD b.1)))

/-- What is kept of a curd of module m while it moves is kept no more. -/
def rsUnsee (s : State) (m c : Nat) : State :=
  { s with rs := { s.rs with seen := s.rs.seen.filter (fun y => !(y.1.1 == m && y.1.2.1 == c))
                             landed := if m = s.fabric.self then s.rs.landed.filter (fun y => y.1 != c) else s.rs.landed } }

/-- Of a 64 KiB curd, 255 units go in a message of the engine (Table 16-2). -/
def sendCurd (s : State) (m c : Nat) (d : List Byte) : State :=
  let parts := (d.length - 1) / 4080
  let part := fun (i : Nat) => (d.drop (4080 * i)).take 4080
  let s := (List.range parts).foldl (fun s i => s.sendMsg m 11 s.rs.ctxid s.rs.addr 0 (.chunkPart (part i))) s
  s.sendMsg m 11 s.rs.ctxid s.rs.addr 0 (.chunk (curdLink c) 3 ⟨part parts, BitVec.ofNat 64 c, s.rs.addr, s.rs.rank, 3⟩)

/-- Whether curd c that module m asked for can be dealt with now: its tensor's counter does not hold it back (R334), and its link's
transmit staging has room (R293, R304). -/
def rsServable (s : State) (m c : Nat) : Bool :=
  s.rs.formes.isSome && (match rsCurdOf s m c with
    | none => true
    | some x => match rsCounter s x.tensor with
      | .error _ => true
      | .ok n => decide (n = 0) && roomFor s (curdLink c) x.len)

/-- This engine sends a curd that module m asked for. -/
def rsServe (s : State) (m c : Nat) : State :=
  match rsCurdOf s m c with
  | none => s
  | some x => match rsCounter s x.tensor with
    | .error e => rsFault s e
    | .ok _ => match rsRead s m c x with
      | .error e => rsFault s e
      | .ok d =>
        let l := s.seqLink (curdLink c)
        sendCurd (rsUnsee (s.setSeqLink (curdLink c) { l with tx := l.tx + d.length }) m c) m c d

/-- The requests that wait are looked at again. -/
def rsServeAll (s : State) : State := wakeFor s (s.rs.waiting.map (·.2))

/-- Planning: the error of R330, or the formes and the plan. -/
def rsPlan (s : State) : Except PlanErr (Forme × Forme × List Curd) :=
  (readForme s s.rs.ctxid (s.rs.req.getD 1 0)).bind (fun old => (readForme s s.rs.ctxid (s.rs.req.getD 2 0)).bind (fun new =>
    if !formesAgree old new then .error (.error 2)
    else match planFor old new s.rs.parts s.fabric.self with
      | none => .error (.error 3)
      | some cs =>
        if shardsOverlap (shardsOf new s.fabric.self) (shardsOf old s.fabric.self) then .error (.error 4)
        else if rsGet s 0x28 4 * 8 < cs.length then .error (.error 5)
        else .ok (old, new, cs)))

/-- Every participant has accepted the same request. -/
def rsAllAccepted (s : State) : Bool :=
  s.rs.parts.all (fun m => m == s.fabric.self || s.rs.accepted.any (fun a => a.1 == m && a.2.1 == s.rs.ctxid && sameReq a.2.2.1 s.rs.addr))

/-- RESHARD_PLANNING (R329). Done bits that a source has had cleared meanwhile are cleared first (R334). -/
def execReshardPlanning (s : State) : Res :=
  .next (if s.rs.active && s.rs.st == 0 then rsBegin s
    else if !s.rs.active || s.rs.st != 1 || !rsAllAccepted s then s
    else match rsPlan s with
      | .error (.error e) => rsStop s e
      | .error (.violation kind c p) => rsFreeze s kind c p
      | .ok (old, new, cs) =>
        let lead := s.rs.parts.getD 0 0
        let commit := if s.rs.rank = 0 then s.rs.commit else
          ((s.rs.accepted.find? (fun a => a.1 == lead && a.2.1 == s.rs.ctxid && sameReq a.2.2.1 s.rs.addr)).map (fun a => a.2.2.2)).getD false
        let s := rsForget { s with rs := { s.rs with formes := some (old, new), curds := cs, commit := commit } }
        let s := rsState (rsPut s 4 4 cs.length) 2 0
        match (List.range old.tensors.length).mapM (rsCounter s) with
        | .error e => rsFault s e
        | .ok ns =>
          let up : List Nat := (List.range ns.length).filter (fun t => ns.getD t 0 != 0)
          let s := { s with rs := { s.rs with held := up } }
          let s := s.rs.clears.foldl (fun s c => rsMark s c false) s
          let s := { s with rs := { s.rs with clears := [] } }
          rsSettled (rsCheckMoved (rsServeAll (rsAsk s (List.range cs.length)))))

/-- A curd's bytes are stored in the new shard, but for those stored before (R251), and its bit is set (R332). -/
def rsStore (s : State) (c : Nat) (x : Curd) (d : List Byte) : State :=
  match seqHold s whoReshard s.rs.ctxid [.write] x.dst x.len with
  | .error e => rsFault s e
  | .ok h =>
    let left := (List.range x.len).filter (fun i => !s.rs.landed.contains (c, i))
    let s := if left.length = x.len then heldWrite s h x.dst (d.take x.len)
      else (left.foldl (fun s i => heldWrite s h (x.dst + BitVec.ofNat 64 i) [d.getD i 0]) s).unpoisonAll (heldLocs h x.dst x.len)
    rsSettled (rsCheckMoved (rsMark (rsUnsee s s.fabric.self c) c true))

/-- CURD_RECEIVED (R332): a curd that this module sources itself is read here, unless its tensor's counter defers it; another's bytes are
those received. -/
def curdArrives (s : State) (c : Nat) (d : List Byte) : State :=
  match s.rs.curds[c]? with
  | none => s
  | some x =>
    if !s.rs.active || s.rs.st != 2 || rsIsDone s c then s
    else if x.source = s.fabric.self then
      match rsCounter s x.tensor with
      | .error e => rsFault s e
      | .ok n => if n ≠ 0 then s else match rsRead s s.fabric.self c x with
        | .error e => rsFault s e
        | .ok d => rsStore s c x d
    else if d.length < x.len then s else rsStore s c x d

/-- CURD_RECEIVED (R332). -/
def execCurdReceived (curd : Nat) (bytes : List Byte) (s : State) : Res :=
  .next (curdArrives s curd bytes)

/-- The request that slot 3 of link j can deal with next. -/
def nextServe (s : State) (j : Nat) : Option (Nat × Nat) := s.rs.waiting.find? (fun w => curdLink w.2 == j && rsServable s w.1 w.2)

/-- Slot 3 of link j has something to do. -/
def curdsDue (s : State) (j : Nat) : Bool :=
  !(s.slot (slotKey j 3)).staged.isEmpty || s.rs.asks.any (fun c => curdLink c == j) || (nextServe s j).isSome

/-- The next piece of work in slot 3 of link j: the oldest curd received is stored; else the next curd of the part is moved here or asked of
its source; else one that another module asked for is sent. -/
def curdStep (s : State) (j : Nat) : State :=
  let x := s.slot (slotKey j 3)
  match x.staged with
  | c :: rest => settleSlot (curdArrives (s.setSlot (slotKey j 3) { x with staged := rest }) c.label.toNat c.payload) j (slotKey j 3)
  | [] => match s.rs.asks.find? (fun c => curdLink c == j) with
    | some c =>
      let s := { s with rs := { s.rs with asks := s.rs.asks.filter (fun y => y != c) } }
      match s.rs.curds[c]? with
      | none => s
      | some y => if y.source = s.fabric.self then curdArrives s c [] else if rsIsDone s c then s else rsSend s y.source (.request s.rs.rank c)
    | none => match nextServe s j with
      | some w => rsServe { s with rs := { s.rs with waiting := s.rs.waiting.filter (fun y => y != w) } } w.1 w.2
      | none => s

/-- A turn of slot 3 of link j (R318, R332): one piece of the engine's work, after which the sequencer goes on to another slot. -/
def curdTurn (s : State) (j : Nat) : State :=
  let s := leaveSlot (curdStep s j) j (slotKey j 3)
  s.modSlot (slotKey j 3) (fun x => { x with st := if curdsDue s j then .ready else .free })

/-- Turn: some bytes of curd c of module m are read before it is sent, or moved, whole (R251). -/
def curdSee (s : State) (m c i n : Nat) : State :=
  let mine := decide (m = s.fabric.self)
  match (if mine then s.rs.curds[c]? else if s.rs.waiting.contains (m, c) then rsCurdOf s m c else none) with
  | none => s
  | some x =>
    if !rsLive s || (mine && (x.source != s.fabric.self || rsIsDone s c)) || decide (x.len < i + n) || rsCounter s x.tensor != .ok 0 then s
    else match rsRead s m c x with
      | .error e => rsFault s e
      | .ok d =>
        let left := ((List.range n).map (· + i)).filter (fun k => !s.rs.seen.any (fun y => y.1 == (m, c, k)))
        { s with rs := { s.rs with seen := s.rs.seen ++ left.map (fun k => ((m, c, k), d.getD k 0)) } }

/-- Turn: some bytes of the oldest curd that slot 3 of link j has received, or of curd j - 32 of this module's own, are stored before the
whole (R251). -/
def curdMove (s : State) (j i n : Nat) : State :=
  let from_ : Option (Nat × Curd × List Byte) :=
    if j < 32 then (s.slot (slotKey j 3)).staged.head?.bind (fun c => (s.rs.curds[c.label.toNat]?).map (fun x => (c.label.toNat, x, c.payload)))
    else (s.rs.curds[j - 32]?).bind (fun x => if x.source ≠ s.fabric.self ∨ rsCounter s x.tensor ≠ .ok 0 then none
      else match rsRead s s.fabric.self (j - 32) x with
        | .ok d => some (j - 32, x, d)
        | .error _ => none)
  match from_ with
  | none => s
  | some (c, x, d) =>
    if !s.rs.active || s.rs.st != 2 || rsIsDone s c || decide (x.len < i + n) || decide (d.length < x.len) then s
    else match seqHold s whoReshard s.rs.ctxid [.write] x.dst x.len with
      | .error e => rsFault s e
      | .ok h =>
        let left := ((List.range n).map (· + i)).filter (fun k => !s.rs.landed.contains (c, k))
        let s := left.foldl (fun s k => heldWrite s h (x.dst + BitVec.ofNat 64 k) [d.getD k 0]) s
        { s with rs := { s.rs with landed := s.rs.landed ++ left.map (fun k => (c, k)) } }

/-- A part that had reported moves again (R335), one that had ended in STATE 3 too. -/
def rsBack (s : State) : State :=
  if s.rs.st ≠ 3 ∨ s.rs.committing then s
  else
    let s := rsState { s with rs := { s.rs with active := true } } 2 0
    if s.rs.rank = 0 then { s with rs := { s.rs with reports := s.rs.reports.filter (fun r => r != 0) } }
    else rsSend s (s.rs.parts.getD 0 0) (.retract s.rs.rank)

/-- Done bits are cleared (R334); a part that loses one has more to move. -/
def rsClear (s : State) (cs : List Nat) : State :=
  let lost := cs.filter (fun c => rsIsDone s c)
  let s := lost.foldl (fun s c => rsMark s c false) s
  if lost.isEmpty then s else rsBack s

/-- The curds of tensor t that this module sources for module m. -/
def rsSourced (s : State) (t m : Nat) : List Nat :=
  match s.rs.formes with
  | none => []
  | some (old, new) => (((planFor old new s.rs.parts m).getD []).zipIdx.filter (fun x => x.1.tensor == t && x.1.source == s.fabric.self)).map (·.2)

/-- PENDING_COUNTER_CHANGE (R334). A part that has ended in STATE 3 still acts on its counters. -/
def execPendingCounterChange (tensor : Nat) (s : State) : Res :=
  .next (if !rsLive s || !(s.rs.st == 2 || s.rs.st == 3) then s
    else match rsCounter s tensor with
      | .error e => rsFault s e
      | .ok n =>
        if n ≠ 0 ∧ !s.rs.held.contains tensor then
          let s := { s with rs := { s.rs with held := s.rs.held ++ [tensor], seen := [] } }
          if s.rs.committing then s else
          let s := (s.rs.parts.filter (fun m => m != s.fabric.self && decide (m < 128))).foldl (fun s m => rsSend s m (.clear (rsSourced s tensor m))) s
          rsSettled (rsCheckMoved (rsBack (rsClear s (rsSourced s tensor s.fabric.self))))
        else if n = 0 then
          let s := { s with rs := { s.rs with held := s.rs.held.filter (fun t => t != tensor) } }
          rsSettled (rsCheckMoved (rsServeAll (rsAsk s (rsSourced s tensor s.fabric.self))))
        else s)

/-! ## Commit and stops -/

/-- COMMIT (R335). -/
def execCommit (s : State) : Res :=
  .next (if s.rs.active && s.rs.rank == 0 && s.rs.st == 3 && s.rs.commit && !s.rs.committing &&
        (List.range s.rs.parts.length).all (fun r => s.rs.reports.contains r) then
      let gen := s.rs.req.getD 6 0 + 1
      rsSettled (rsCommitted (rsTell s (.commit gen)) gen)
    else s)

/-- PARTICIPANT_STOP (R333): an engine that cannot be reached; the others are told to stop too. -/
def execParticipantStop (rank : Nat) (s : State) : Res :=
  .next (if rank < s.rs.parts.length ∧ rank ≠ s.rs.rank then rsStop s 7 else s)

/-- A source tells this engine to clear curds (R334): those that have not been stored yet are given up, and all are moved again. -/
def onClear (s : State) (cs : List Nat) : State :=
  let old := fun (c : Chunk) => cs.contains c.label.toNat
  let held := (List.range 32).flatMap (fun j => let x := s.slot (slotKey j 3); x.staged ++ x.backlog.map (·.2))
  let again := cs.filter (fun c => rsIsDone s c || held.any (fun x => x.label.toNat == c))
  let s := (List.range 32).foldl (fun s j => dropStaged s j old) s
  let s := { s with rs := { s.rs with landed := s.rs.landed.filter (fun y => !cs.contains y.1) } }
  rsSettled (rsAsk (rsClear s cs) again)

/-- A message of another module's engine; `addr` names the request. -/
def onReshard (s : State) (src ctxid : Nat) (addr : Dword) (m : ReshardMsg) : State :=
  let named := s.rs.ctxid == ctxid && sameReq s.rs.addr addr
  let mine := s.rs.active && named
  match m with
  | .accept _ commit => { s with rs := { s.rs with accepted := s.rs.accepted ++ [(src, ctxid, addr, commit)] } }
  | .request _ c =>
    if named && rsLive s then rsServeAll { s with rs := { s.rs with waiting := s.rs.waiting ++ [(src, c)] } }
    else s.sendMsg src 11 ctxid addr 0 (.reshard (.stop s.rs.rank))
  | .clear cs =>
    if mine && decide (s.rs.st < 2) then { s with rs := { s.rs with clears := s.rs.clears ++ cs } }
    else if named && rsLive s && (s.rs.st == 2 || s.rs.st == 3) && !s.rs.committing then onClear s cs
    else s
  | .report r => if mine then { s with rs := { s.rs with reports := if s.rs.reports.contains r then s.rs.reports else s.rs.reports ++ [r] } } else s
  | .retract r => if mine then { s with rs := { s.rs with reports := s.rs.reports.filter (fun x => x != r) } } else s
  | .commit gen =>
    if mine && s.rs.st == 3 then rsSettled (rsCommitted s gen)
    else if mine && s.rs.st == 2 then { s with rs := { s.rs with owed := some gen } }
    else s
  | .committed r => if mine then rsSettled (rsFinish { s with rs := { s.rs with acks := s.rs.acks ++ [r] } }) else s
  | .finish => if mine && s.rs.committing then rsSettled (rsEnd (rsState s 4 0)) else s
  | .stop _ =>
    let s := { s with rs := { s.rs with accepted := s.rs.accepted.filter (fun a => !(a.1 == src && a.2.1 == ctxid && sameReq a.2.2.1 addr)) } }
    if mine then rsStopped s else s

/-- Transmit staging is free again: the requests that wait for room are looked at. -/
def onCredit (s : State) (link n : Nat) : State :=
  let s := freeTransmit s link n
  if s.rs.waiting.isEmpty then s else rsServeAll s

end Sys2Proof.Machine
end

