-- ==== Sys2Proof/Machine/Sched.lean ====
section
/-! DEFINITION. The scheduler: launch queues, the launch packet's checks, dependences, placement, and the retirement of groups,
teams, clusters and grids (R37 to R41, R167, R278 to R286). -/
namespace Sys2Proof.Machine

/-! ## Packets (Tables 12-2, 12-3) -/

def Packet.field (p : Packet) (off n : Nat) : Nat := blockField p.words off n
def Packet.kaddr (p : Packet) : Dword := p.words.getD 0 0
def Packet.param (p : Packet) : Dword := p.words.getD 1 0
def Packet.nclus (p : Packet) : Nat := p.field 0x10 2
def Packet.rows (p : Packet) : Nat := p.field 0x14 1 % 16
def Packet.cols (p : Packet) : Nat := p.field 0x14 1 / 16
def Packet.teams (p : Packet) : Nat := p.rows * p.cols
def Packet.groups (p : Packet) : Nat := p.field 0x18 4 % 64
def Packet.quads (p : Packet) : Nat := p.field 0x18 4 / 64 % 16
def Packet.roles (p : Packet) : Nat := p.field 0x1C 4 % 8
def Packet.wcode (p : Packet) (i : Nat) : Nat := p.field 0x1C 4 / 2 ^ (8 + 2 * i) % 4
def Packet.ops (p : Packet) : Nat := p.field 0x20 4
def Packet.accq (p : Packet) : Nat := p.field 0x24 4
def Packet.scr (p : Packet) : Nat := p.field 0x28 4
def Packet.ctrl (p : Packet) : Nat := p.field 0x2C 4
def Packet.prio (p : Packet) : Nat := p.ctrl % 8
def Packet.cosched (p : Packet) : Bool := p.ctrl / 16 % 2 == 1
def Packet.restart (p : Packet) : Bool := p.ctrl / 32 % 2 == 1
def Packet.die (p : Packet) : Nat := p.ctrl / 256 % 4
def Packet.ndep (p : Packet) : Nat := p.ctrl / 2 ^ 15 % 8
def Packet.cmp (p : Packet) (i : Nat) : Nat := p.ctrl / 2 ^ (18 + 2 * i) % 4
def Packet.deadline (p : Packet) : Nat := (p.words.getD 6 0).toNat
def Packet.cflag (p : Packet) : Dword := p.words.getD 7 0
def Packet.depAddr (p : Packet) (i : Nat) : Dword := p.words.getD (8 + 2 * i) 0
def Packet.depVal (p : Packet) (i : Nat) : Dword := p.words.getD (9 + 2 * i) 0

/-- The dependences from NDEP upward are zero; no CMP or NDEP is reserved. -/
def Packet.depsOk (p : Packet) : Bool :=
  decide (p.ndep ≤ 4) && (List.range 4).all (fun i =>
    p.cmp i != 3 && (decide (i < p.ndep) || (p.depAddr i == 0 && p.depVal i == 0)))

/-- Code 0x10: every field lies inside Tables 12-2 and 12-3. -/
def Packet.inRange (p : Packet) : Bool :=
  p.kaddr.toNat % 64 == 0 && p.field 0x12 2 == 0 && p.nclus != 0 &&
  p.field 0x15 3 == 0 && decide (p.rows ≥ 1) && decide (p.rows ≤ 8) && decide (p.cols ≥ 1) && decide (p.cols ≤ 8) && decide (p.teams ≤ 12) &&
  decide (p.field 0x18 4 < 2 ^ 10) && decide (p.groups ≥ 1) && decide (p.groups ≤ 32) && decide (p.quads ≤ 8) &&
  decide (p.field 0x1C 4 < 65536) && p.field 0x1C 4 / 8 % 32 == 0 && decide (p.roles ≥ 1) && decide (p.roles ≤ 4) &&
  (List.range 4).all (fun i => decide (i < p.roles) || p.wcode i == 0) &&
  decide (p.ops ≥ 1) && decide (p.ops ≤ 2048) && decide (p.accq ≤ 48) && decide (p.scr ≤ 1024) &&
  decide (p.ctrl < 2 ^ 26) && p.ctrl / 2 ^ 10 % 32 == 0 && p.die != 3 && p.ctrl / 64 % 4 == 0 && p.ctrl / 8 % 2 == 0 && p.depsOk

/-- What R313 asks of an imposition's packet. -/
def Packet.impOk (p : Packet) : Bool :=
  (p.words.getD 2 0) == 0 && (p.words.getD 3 0) == 0 && (p.words.getD 4 0) == 0 && p.field 0x28 4 == 0 && p.deadline == 0 &&
  decide (p.ctrl < 2 ^ 26) && p.ctrl / 8 % 2 ^ 7 == 0 && p.ctrl / 2 ^ 10 % 32 == 0 && p.depsOk

/-! ## The checks at the head (Table 12-5) -/

/-- The kernel a packet names: a record of an object in its context's load table that no OBJDROP has named (R374). -/
def findKernel (s : State) (ctxid : Nat) (kaddr : Dword) : Option Kernel :=
  s.objs.findSome? (fun e => match e.2 with
    | some o => if o.ctxid = ctxid ∧ !o.dropping then o.kernels.find? (fun k => k.addr == kaddr) else none
    | none => none)

/-- Every required feature is in the contract or bound to a routine. -/
def featuresBound (s : State) (ctxid : Nat) (k : Kernel) : Bool :=
  (List.range 512).all (fun b => !k.req.getLsbD b || (s.ctx ctxid).contract.getLsbD b || k.emul.any (fun e => e.1 == b))

/-- A packet starts an imposition (R313, log entry 33): the byte at KADDR is that record's KIND; or its fields are an imposition's and no
kernel stands at KADDR, so that its record is refused (R317). -/
def isImposition (s : State) (ctxid : Nat) (p : Packet) : Bool :=
  tryRead s ctxid p.kaddr 1 == some [2] || (p.impOk && (findKernel s ctxid p.kaddr).isNone)

/-- Code 0x12: the dependence flags and CFLAG lie where they must, and each flag can be read. -/
def flagsOk (s : State) (ctxid : Nat) (p : Packet) : Bool :=
  let inFlag := fun (a : Dword) => regionOf a == .flag && decide (offsetOf a + 8 ≤ 2 ^ 32)
  (List.range p.ndep).all (fun i => (p.depAddr i).toNat % 8 == 0 && inFlag (p.depAddr i) && (match readFlag s whoHost ctxid (p.depAddr i) with
    | .ok _ => true
    | .error _ => false)) &&
  (p.cflag == 0 || (p.cflag.toNat % 8 == 0 && inFlag (if regionOf p.cflag == .fabric then p.cflag &&& 0x00FFFFFFFFFFFFFF#64 else p.cflag)))

def Kernel.vatSum (k : Kernel) : Nat := k.vats.foldl (· + ·) 0
def Kernel.gridBars (k : Kernel) : Bool := (List.range 4).any (fun i => k.declared 2 i)

/-- Codes 0x10 to 0x16 for a grid's packet, 0 where all pass. -/
def gridCode (s : State) (ctxid : Nat) (p : Packet) : Nat :=
  if !p.inRange then 0x10
  else match findKernel s ctxid p.kaddr with
    | none => 0x11
    | some k =>
      if !featuresBound s ctxid k then 0x11
      else if !flagsOk s ctxid p then 0x12
      else if p.roles ≠ k.wsizes.length ∨ (List.range p.roles).any (fun i => p.wcode i != k.wsizes.getD i 0) then 0x13
      else if 4 * p.quads > p.groups then 0x14
      else if k.gridBars && !p.cosched then 0x15
      else if p.ops * 1024 < k.vatSum then 0x16
      else 0

/-- The packet ends with a status (R286). -/
def endPacket (s : State) (ctxid : Nat) (p : Packet) (code gridid drop : Nat) : State :=
  writeStatus s ctxid p.cflag (BitVec.ofNat 64 (code + gridid % 65536 * 65536 + Nat.min drop (2 ^ 32 - 1) * 2 ^ 32))

/-! ## Room (R283, R284) -/

/-- The lowest start, a multiple of `step`, at which n units fit below `limit` beside what is used (start and length). -/
def firstFit (used : List (Nat × Nat)) (limit step n : Nat) : Option Nat :=
  let ends := 0 :: used.map (fun u => (u.1 + u.2 + step - 1) / step * step)
  let free := ends.filter (fun b => decide (b + n ≤ limit) && used.all (fun u => decide (b + n ≤ u.1) || decide (u.1 + u.2 ≤ b)))
  free.min?

/-- The teams that hold allocations on a core. -/
def teamsOn (s : State) (core : Nat) : List Team :=
  (s.sched.teams.filter (fun e => e.2.used && !e.2.retired && e.2.core == core)).map (·.2)
def placeKey (core quad slot : Nat) : Nat := 2 * (core * 48 + quad * 12 + slot)
def freeSlot (s : State) (core quad : Nat) : Option Nat := (List.range 12).find? (fun i => !(s.grp (placeKey core quad i)).used)

/-- The registers of a quadrant's file in use: base and length of every window. -/
def windowsIn (s : State) (core quad : Nat) : List (Nat × Nat) :=
  (List.range 12).flatMap (fun i =>
    let g := s.grp (placeKey core quad i)
    if g.used then (List.range g.nroles).map (fun r => (g.bases.getD r 0, g.winOf r)) else [])

/-- Bases for windows of the given sizes, in role order, each at its lowest fit. -/
def fitWindows : List (Nat × Nat) → List Nat → Option (List Nat)
  | _, [] => some []
  | used, n :: rest => match firstFit used 1024 16 n with
    | none => none
    | some b => (fitWindows (used ++ [(b, n)]) rest).map (b :: ·)

/-- The lowest private index of a context that no group holds (R266). -/
def freeIndex (s : State) (ctxid : Nat) : Option Nat :=
  let held := (s.grps.filter (fun e => e.2.used && e.2.ctxid == ctxid && !e.2.isFeeder)).map (fun e => e.2.priv) ++
    (s.sched.saved.flatMap (fun c => c.groups.filterMap (fun x => if x.1.ctxid = ctxid then some x.1.priv else none)))
  (List.range 16384).find? (fun i => !held.contains i)

/-- The core lies in the rectangle of a cluster (R284). -/
def inRect (s : State) (ck core : Nat) : Bool :=
  let c := s.clus ck
  let p := (s.grid (ck / 65536)).packet
  let row := core % 64 / 8
  let col := core % 8
  decide (core / 64 = c.die) && decide (c.row ≤ row) && decide (row < c.row + p.rows) && decide (c.col ≤ col) && decide (col < c.col + p.cols)

/-- The scheduler places nothing on the core: a cluster whose cores it is one of drains, until it retires (R291). -/
def coreDrains (s : State) (core : Nat) : Bool := s.sched.clusters.any (fun e => e.2.st == .draining && inRect s e.1 core)

/-! ## Placing -/

/-- What a team brings with it: its groups and feeder contexts as they are to stand, and, of a restored team, what was saved. -/
structure TeamImage where
  idx    : Nat
  groups : List (Grp × Grp)
  saved  : Option SavedTeam

/-- The bytes of a range of locations, from offset 0; and their return. -/
def cutBytes (s : State) (loc n : Nat) : Bank Byte :=
  (s.mem.filter (fun e => decide (loc ≤ e.1) && decide (e.1 < loc + n))).map (fun e => (e.1 - loc, e.2))
def zeroBytes (s : State) (loc n : Nat) : State :=
  { s with mem := s.mem.filter (fun e => !(decide (loc ≤ e.1) && decide (e.1 < loc + n))) }.unpoison loc n
def pasteBytes (s : State) (loc n : Nat) (b : Bank Byte) : State := b.foldl (fun s e => s.setRaw (loc + e.1) e.2) (zeroBytes s loc n)

/-- Puts one group of a team on a core: the lowest free slot of quadrant g mod 4, windows at their lowest fits; `fresh` gives it
a private index. -/
def placeGroup (s : State) (core : Nat) (fresh : Bool) (x : Grp × Grp) : Option (State × Nat) :=
  let q := x.1.group % 4
  match freeSlot s core q, fitWindows (windowsIn s core q) ((List.range x.1.nroles).map x.1.winOf),
      (if fresh then freeIndex s x.1.ctxid else some x.1.priv) with
  | some slot, some bases, some priv =>
    let gid := core * 48 + q * 12 + slot
    let at_ := fun (g : Grp) => { g with used := true, gid := gid, core := core, quad := q, slot := slot, bases := bases, priv := priv }
    some ((s.setGrp (2 * gid) (at_ x.1)).setGrp (2 * gid + 1) (at_ x.2), gid)
  | _, _, _ => none

def placeGroups (core : Nat) (fresh : Bool) : List (Grp × Grp) → State → Option (State × List Nat)
  | [], s => some (s, [])
  | x :: rest, s => match placeGroup s core fresh x with
    | none => none
    | some (s, gid) => (placeGroups core fresh rest s).map (fun r => (r.1, gid :: r.2))

/-- The codebook slots a restored team needs on a core are free of other teams (R235). -/
def booksFree (s : State) (core : Nat) (t : SavedTeam) : Bool := t.books.all (fun b => (s.book core b.1).team.isNone)

/-- The staging of a team's groups: two slots of 4 KiB each (R199). -/
def stageBytes : Nat := 32 * 8192

/-- Puts a team on a core, or none where the core cannot hold it. -/
def placeTeam (s : State) (gk cid core : Nat) (p : Packet) (x : TeamImage) : Option State :=
  let ts := teamsOn s core
  let opB := p.ops * 1024
  let accB := p.accq * 16384
  if decide (ts.length ≥ 8) || coreDrains s core || (match x.saved with
      | some t => !booksFree s core t
      | none => false) then none
  else match firstFit (ts.map (fun t => (t.opBase, t.opBytes))) (2 ^ 21) 1024 opB,
      firstFit ((ts.map (fun t => (t.accBase, t.accq * 16384))).filter (fun u => u.2 != 0)) 786432 16384 accB,
      placeGroups core x.saved.isNone x.groups s with
  | some opBase, some accBase, some (s, gids) =>
    let base : Team := match x.saved with
      | some t => t.team
      | none => { ngroups := p.groups, quads := p.quads }
    let t : Team := { base with
      used := true, core := core, opBase := opBase, opBytes := opB, accBase := accBase, accq := p.accq, gids := gids, lead := gids.headD 0 }
    let s := s.setTeam (teamKey gk cid x.idx) t
    let sv := x.saved
    let s := pasteBytes s (opLoc core opBase) opB ((sv.map (·.op)).getD [])
    let s := (List.range 4).foldl (fun s q => pasteBytes s (accLoc core q accBase) accB ((sv.map (fun t => t.accs.getD q [])).getD [])) s
    let s := pasteBytes s (stageLoc (teamKey gk cid x.idx) 0 0 0) stageBytes ((sv.map (·.stage)).getD [])
    let s := ((sv.map (·.books)).getD []).foldl (fun s b =>
      pasteBytes { s with books := Bank.set {} s.books (bookKey core b.1) b.2.1 } (bookLoc core b.1 0) 8192 b.2.2) s
    let s := s.dropClean core
    some (if x.saved.isSome then s else match gids with
      | g :: _ => s.traceEvent (s.grp (2 * g)) 4 0 0 0
      | [] => s)
  | _, _, _ => none

/-- The dies a grid may use (Table 12-3). -/
def diesOf (p : Packet) : List Nat := match p.die with
  | 1 => [0]
  | 2 => [1]
  | _ => [0, 1]

/-- A group and its feeder context with their launch values (Table 1-18); without a feeder section the context's lane has nothing to
issue and counts as exited (R221). The lanes of a group issue their first run together (R391, log entry 93). A compat16 kernel's PART is the 16-lane code in both (R28). -/
def launchGroup (gk : Nat) (x : Grid) (cid team g : Nat) : Grp × Grp :=
  let k := x.kern
  let base : Grp :=
    { grid := gk, cluster := cid, team := team, group := g, tq := if g < 4 * x.packet.quads then g / 4 else 15, ctxid := x.ctxid, kern := k
      s := Bank.set 0 [] 1 x.packet.param, part := if k.compat then 1 else 0 }
  ({ base with lanes := lanes32.map (fun l => (l, { pc := k.entries.getD 0 0, sub := BitVec.allOnes 32 })) },
   { base with isFeeder := true, lanes := [(0, { pc := k.feedEnt, exited := !k.feed })] })

def launchTeams (gk : Nat) (x : Grid) (cid : Nat) : List TeamImage :=
  (List.range x.packet.teams).map (fun t => ⟨t, (List.range x.packet.groups).map (launchGroup gk x cid t), none⟩)

/-- Puts a cluster on the first rectangle every core of which can hold a team (R284, R291): one that a restored cluster no longer has is
asked for and not placed. -/
def placeRect (s : State) (gk cid : Nat) (x : Grid) (teams : List TeamImage) : Option State :=
  let p := x.packet
  let other := (launchTeams gk x cid).filter (fun t => !teams.any (fun y => y.idx == t.idx))
  (diesOf p).findSome? (fun die => (List.range (9 - p.rows)).findSome? (fun row => (List.range (9 - p.cols)).findSome? (fun col =>
    let core := fun (t : TeamImage) => die * 64 + (row + t.idx / p.cols) * 8 + col + t.idx % p.cols
    if other.any (fun t => (placeTeam s gk cid (core t) p t).isNone) then none else
    (teams.foldlM (fun s t => placeTeam s gk cid (core t) p t) s).map (fun s =>
      let c := s.clus (clusterKey gk cid)
      let s := s.setClus (clusterKey gk cid) { c with
        st := .resident, die := die, row := row, col := col, teams := p.teams, placed := s.sched.cycle.toNat, order := s.sched.placeNo
        request := none, discard := false }
      { s with sched := { s.sched with placeNo := s.sched.placeNo + 1 } }))))

/-- The chip scratchpad of a grid, taken with its first cluster: the lowest fit on each die it may use, zeroed. -/
def takeScratch (s : State) (gk : Nat) : Option State :=
  let x := s.grid gk
  let n := x.packet.scr * 65536
  if x.scrTaken then some s
  else (if n = 0 then some s else (diesOf x.packet).foldlM (fun s die =>
      let used := s.sched.grids.filterMap (fun e => Bank.get none e.2.scr die)
      (firstFit used (2 ^ 26) 65536 n).map (fun b =>
        let y := s.grid gk
        zeroBytes (s.setGrid gk { y with scr := Bank.set none y.scr die (some (b, n)) }) (scrLoc die b) n)) s).map (fun s =>
    s.setGrid gk { s.grid gk with scrTaken := true })

/-- Places a pending cluster of a grid. -/
def placeCluster (s : State) (gk cid : Nat) : Option State :=
  (takeScratch s gk).bind (fun s =>
    let x := s.grid gk
    (placeRect s gk cid x (launchTeams gk x cid)).map (fun s =>
      s.setGrid gk { s.grid gk with pending := (s.grid gk).pending.filter (fun c => c != cid) }))

/-- Places clusters in order, as many as there is room for; `all` asks for every one. -/
def placeClusters (gk : Nat) (all : Bool) : List Nat → State → Option State
  | [], s => some s
  | c :: rest, s => match placeCluster s gk c with
    | some s' => placeClusters gk all rest s'
    | none => if all then none else some s

/-- The machine with nothing placed, to ask what could ever be placed (code 0x17). -/
def emptied (s : State) : State :=
  { s with grps := [], mem := [], books := [], sched := { s.sched with grids := [], clusters := [], teams := [], saved := [] } }

/-- A grid for a packet, with every cluster pending. -/
def newGrid (ctxid queue level : Nat) (p : Packet) (k : Kernel) : Grid :=
  { used := true, ctxid := ctxid, queue := queue, level := level, packet := p, kern := k, nclus := p.nclus, pending := List.range p.nclus }

/-- Code 0x17: one cluster, or every cluster of a co-scheduled grid, fits the empty device. -/
def everPlaceable (s : State) (ctxid : Nat) (p : Packet) (k : Kernel) : Bool :=
  let s := (emptied s).setGrid 1 (newGrid ctxid 0 0 p k)
  (placeClusters 1 true (if p.cosched then List.range p.nclus else [0]) s).isSome

/-- The code with which a head packet ends, or 0. -/
def headCode (s : State) (ctxid : Nat) (p : Packet) : Nat :=
  if isImposition s ctxid p then
    (if !p.impOk then 0x10 else if !flagsOk s ctxid p then 0x12 else 0)
  else
    let c := gridCode s ctxid p
    if c ≠ 0 then c
    else match findKernel s ctxid p.kaddr with
      | some k => if everPlaceable s ctxid p k then 0 else 0x17
      | none => 0x11

/-! ## Queues (R279 to R282) -/

def State.queue (s : State) (q : Nat) : LaunchQ := Bank.get {} s.sched.queues q
def State.setQueue (s : State) (q : Nat) (x : LaunchQ) : State :=
  { s with sched := { s.sched with queues := Bank.set {} s.sched.queues q x } }

/-- The first violation that a read of a flag not yet latched meets. -/
def flagViolation (s : State) (ctxid : Nat) (p : Packet) (have_ : List Nat) : State :=
  ((List.range p.ndep).findSome? (fun i => if have_.contains i then none else
    match readFlag s whoHost ctxid (p.depAddr i) with
    | .error ⟨.violation c a, va⟩ => some (⟨.violation c a, va⟩ : RangeFault)
    | _ => none)).elim s (schedViolation s ctxid)

/-- The head packet of a queue is checked when it gets there; one that a check ends makes room for the next; an imposition whose
dependences are met is launched. -/
def settleQueue : Nat → Nat → State → State
  | 0, _, s => s
  | fuel + 1, q, s =>
    let x := s.queue q
    match x.packets with
    | [] => s
    | h :: rest =>
      let pop := fun (s : State) => s.setQueue q { s.queue q with packets := rest }
      if !h.checked then
        let code := headCode s x.ctxid h.packet
        let s := if code = 0x12 then flagViolation s x.ctxid h.packet [] else s
        if code ≠ 0 then settleQueue fuel q (endPacket (pop s) x.ctxid h.packet code 0 0)
        else settleQueue fuel q (s.setQueue q { x with packets := { h with
          checked := true, imp := isImposition s x.ctxid h.packet, kern := findKernel s x.ctxid h.packet.kaddr
          ready := if h.packet.ndep = 0 then some s.sched.cycle.toNat else none } :: rest })
      else if h.imp && h.ready.isSome && opsPerformed s h.after then
        let r := launchImp (pop s) x.ctxid h.packet.kaddr h.packet.param h.packet.cflag h.seq
        settleQueue fuel q (if r.2 = 0 then r.1 else endPacket r.1 x.ctxid h.packet r.2 0 0)
      else s
def State.settle (s : State) (q : Nat) : State := settleQueue (2 * (s.queue q).packets.length + 2) q s

/-- Why a packet is refused, or 0 (R280). -/
def enqueueCode (s : State) (q ctxid : Nat) (p : Packet) : Nat :=
  let x := s.queue q
  if q ≥ 64 ∨ x.isOpen = false ∨ x.ctxid ≠ ctxid then 2
  else if p.prio > x.level then 3
  else if x.packets.length ≥ x.depth then 1
  else 0

/-- A packet enters a queue at its tail; answers its sequence number. -/
def enqueue (s : State) (q : Nat) (p : Packet) (after : List (Nat × Nat × Nat)) : State × Nat :=
  let x := s.queue q
  let h : Queued := { packet := p, seq := x.next, latched := [], checked := false, imp := false, ready := none, grid := none, after := after }
  ((s.setQueue q { x with next := if x.next ≥ 2 ^ 32 - 1 then 1 else x.next + 1, packets := x.packets ++ [h] }).settle q, x.next)

/-- The packet at an address for a LAUNCH of the lanes of Act: misaligned 0x08, outside global memory 0x07, a fault 0x05. -/
def launchPacket (s : State) (w : View) (l : Nat) (ea : Dword) : Except EngFault Packet :=
  if ea.toNat % 128 ≠ 0 then .error (.trap 8 0 ea)
  else if regionOf ea != .global then .error (.trap 7 1 ea)
  else match readBlock s w.g l ea 128 8 with
    | .ok d => .ok ⟨dwordsOf d⟩
    | .error (.trap _ _ a) => .error (.trap 5 0 a)
    | .error e => .error e

/-- LAUNCH (R167). -/
def execLaunch (u : Bool) (d a : BitVec 5) (q : BitVec 6) (p : BitVec 3) (s : State) : Res :=
  issue (.launch u d a q p) s (fun w s => match lowest w.act with
  | none => allOk w (fun _ s => s)
  | some l =>
    let ea := w.g.rs a.toNat
    match launchPacket (drainStores s w.key w.act) w l ea with
    | .error e => ⟨(lanesOf w.act).map (fun l => (l, e.out)), fun _ s => s⟩
    | .ok pkt => ⟨(lanesOf w.act).map (fun l => (l, LaneOut.ok)), fun done s =>
        if done = 0 then s else
        let s := releaseAt (releaseLanes (dropFetched s w.key w.act) w.key w.act) w.g.core 3
        let code := enqueueCode s q.toNat w.g.ctxid pkt
        let r := if code = 0 then enqueue s q.toNat pkt (unperformed (s.grp w.key) w.key w.act) else (s, 0)
        r.1.modGrp w.key (fun g => g.ws d.toNat (BitVec.ofNat 64 (code + r.2 * 2 ^ 32)))⟩)

/-! ## Dependences (R282) -/

def depMet (cmp : Nat) (flag val : Dword) : Bool := match cmp with
  | 0 => decide (val.toNat ≤ flag.toNat)
  | 1 => flag == val
  | _ => flag != val

/-- Reads the unlatched flags of a packet: the latched ones, none where a read is refused. -/
def latchDeps (s : State) (ctxid : Nat) (p : Packet) (have_ : List Nat) : Option (List Nat) :=
  (List.range p.ndep).foldlM (fun acc i =>
    if acc.contains i then some acc
    else match readFlag s whoHost ctxid (p.depAddr i) with
      | .error _ => none
      | .ok v => some (if depMet (p.cmp i) v (p.depVal i) then acc ++ [i] else acc)) have_

/-- DEPENDENCE_FLAG_READ (R282). -/
def execDependenceFlagRead (q : Nat) (s : State) : Res :=
  .next (let s := s.settle q
    let x := s.queue q
    match x.packets with
    | [] => s
    | h :: rest =>
      if h.ready.isSome || !h.checked then s
      else match latchDeps s x.ctxid h.packet h.latched with
        | none => (endPacket ((flagViolation s x.ctxid h.packet h.latched).setQueue q { x with packets := rest }) x.ctxid h.packet 0x12 0 0).settle q
        | some ls => (s.setQueue q { x with packets := { h with
            latched := ls, ready := if ls.length = h.packet.ndep then some s.sched.cycle.toNat else none } :: rest }).settle q)

/-! ## Serving the queues -/

/-- A GRIDID that no grid holds. -/
def freshGrid (s : State) : Nat :=
  ((List.range 65535).find? (fun i => !(s.grid ((s.sched.nextGrid + i - 1) % 65535 + 1)).used)).elim 0 (fun i => (s.sched.nextGrid + i - 1) % 65535 + 1)

/-- The head packet of a queue that may be placed. -/
def placeable (s : State) (q : Nat) : Option Queued :=
  match (s.queue q).packets with
  | h :: _ => if h.checked && !h.imp && h.ready.isSome && opsPerformed s h.after then some h else none
  | [] => none

/-- Places the next cluster of a head packet, or all of a co-scheduled one, of the kernel that the check at the head found (R374); the packet
leaves with its last cluster. Stores of the launcher's cores are made visible first (R167). -/
def placeHead (s : State) (q : Nat) : Option State :=
  match placeable s q with
  | none => none
  | some h =>
    let x := s.queue q
    let s := h.after.foldl (fun s a => s.flushCore a.2.2) s
    let gk := h.grid.getD (freshGrid s)
    if gk = 0 then none else
    let s := if h.grid.isSome then s else
      let s := s.setGrid gk (newGrid x.ctxid q x.level h.packet (h.kern.getD {}))
      { s with sched := { s.sched with nextGrid := gk % 65535 + 1 } }
    let todo := (s.grid gk).pending
    (placeClusters gk true (if h.packet.cosched then todo else todo.take 1) s).map (fun s =>
      let left := (s.grid gk).pending
      if left.isEmpty then (s.setQueue q { x with packets := x.packets.tail }).settle q
      else s.setQueue q { x with packets := { h with grid := some gk } :: x.packets.tail })

/-- The queues of a level in round-robin order, after the one served last. -/
def queuesOf (s : State) (level : Nat) : List Nat :=
  let last := (Bank.get none s.sched.rr level).getD 63
  ((List.range 64).map (fun i => (last + 1 + i) % 64)).filter (fun q => (s.queue q).isOpen && (s.queue q).level == level)

/-- Places one discarded cluster whose packet has left its queue. It stands after the saved clusters of its level and before the level's
new packets, grids in the order of the table: R291 says only that it is placed again (DESIGN CHOICE, log entry 99). -/
def placeDiscarded (s : State) (level : Nat) : Option State :=
  s.sched.grids.findSome? (fun e =>
    if e.2.used && e.2.level == level && !e.2.pending.isEmpty &&
        !((s.queue e.2.queue).packets.any (fun h => h.grid == some e.1)) then placeCluster s e.1 (e.2.pending.headD 0) else none)

/-- A saved group as it goes on: every lane at its saved program counter, a run start (R43), each mask evaluated once for its release
(R131). -/
def resumed (g : Grp) : Grp := (g.modLanes g.allLanes (fun _ x => { x with run := 0, sub := 0 })).evalReleases

/-- A saved cluster placed again: its state is reloaded (R39, R291). Withdrawn matrix operations stand in their groups (R220). -/
def restoreCluster (s : State) (c : SavedCluster) : Option State :=
  let images := c.teams.map (fun t => (⟨t.idx, (c.groups.filter (fun g => g.1.team == t.idx)).map (fun g => (resumed g.1, resumed g.2)), some t⟩ : TeamImage))
  (placeRect { s with sched := { s.sched with saved := s.sched.saved.filter (fun y => !(y.grid == c.grid && y.cluster == c.cluster)) } }
    c.grid c.cluster (s.grid c.grid) images)

/-- A saved cluster of a level that there is room for. -/
def restorable (s : State) (level : Nat) : Bool :=
  s.sched.saved.any (fun c => (s.grid c.grid).level == level && (restoreCluster s c).isSome)

/-- Every queue's head packet has been checked. -/
def settleAll (s : State) : State := (List.range 64).foldl State.settle s

/-- Places the next cluster of a level's packets: the queues take turns. -/
def placeNew (s : State) (level : Nat) : Option State :=
  (queuesOf s level).findSome? (fun q => (placeHead s q).map (fun s =>
    { s with sched := { s.sched with rr := Bank.set none s.sched.rr level (some q) } }))

/-- Something of a level can be placed. -/
def levelServable (s : State) (level : Nat) : Bool := restorable s level || (placeDiscarded s level).isSome || (placeNew s level).isSome

/-- Serves the highest level first; a level's saved clusters go before its new packets (R283, R291). -/
def servePlacement (s : State) : State :=
  let s := settleAll s
  ((List.range 8).reverse.findSome? (fun level =>
    if restorable s level then some s else (placeDiscarded s level).orElse (fun _ => placeNew s level))).getD s

/-- CLUSTER_PLACEMENT (R284). -/
def execClusterPlacement (s : State) : Res :=
  .next (servePlacement s)

/-- CLUSTER_RESTORE (R291): what can be placed of a higher level goes first (R283). -/
def execClusterRestore (k : Nat) (s : State) : Res :=
  .next (let s := settleAll s
    match s.sched.saved[k]? with
    | none => s
    | some c =>
      let level := (s.grid c.grid).level
      if (List.range 8).any (fun l => decide (l > level) && levelServable s l) then s else (restoreCluster s c).getD s)

/-! ## Retirement (R40, R41) -/

/-- Drops the frames of a grid from every deque and ring; answers how many. -/
def dropFrames (s : State) (gk : Nat) : State × Nat :=
  (List.range 128).foldl (fun r core =>
    let s := r.1
    let d := s.deque core
    let gone := (d.frames.filter (fun f => f.grid == gk)).length
    let s := if gone = 0 then s else s.setDeque core { d with frames := d.frames.filter (fun f => f.grid != gk) }
    let n := s.ringed gk core
    let s := if n = 0 then s else match voidSlots s gk core (ringOf s gk core) with
      | .ok s => s.setRinged gk core 0
      | .error e => (schedViolation s (s.grid gk).ctxid e).setRinged gk core 0
    (s, r.2 + gone + n)) (s, 0)

/-- The decode requests of a grid end (R348). -/
def endGridReqs (s : State) (gk : Nat) : State :=
  (s.decs.reqs.filter (fun r => r.grid == gk)).foldl (fun s r => endTeamReqs s gk r.cluster r.team) s

/-- A grid ends: its frames are dropped, its allocations released, its status written with `code`. -/
def endGrid (s : State) (gk code : Nat) : State :=
  let r := dropFrames (endGridReqs s gk) gk
  let x := r.1.grid gk
  let s := { r.1 with sched := { r.1.sched with
    clusters := r.1.sched.clusters.filter (fun e => e.1 / 65536 != gk)
    teams := r.1.sched.teams.filter (fun e => e.1 / 2 ^ 20 != gk) } }
  endPacket (s.setGrid gk {}) x.ctxid x.packet code gk r.2

/-- The group may retire (R40). -/
def mayRetire (s : State) (k : Nat) : Bool :=
  let g := s.grp k
  let f := s.grp (k + 1)
  g.used && !g.isFeeder && g.live.isEmpty && g.ops.isEmpty && g.fences.isEmpty && !g.frozen &&
    (!f.used || (f.live.isEmpty && f.ops.isEmpty && !f.frozen))

/-- Turn: a group retires; its place is free. The team retires with its last group. -/
def retireGroup (s : State) (k : Nat) : State :=
  if !mayRetire s k then s
  else
    let g := s.grp k
    let s := settleGrp (settleGrp s k) (k + 1)
    let s := (s.setGrp k {}).setGrp (k + 1) {}
    let t := s.team g.teamKey
    let left := t.gids.filter (fun x => x != g.gid)
    s.setTeam g.teamKey { t with gids := left, retiring := left.isEmpty }

/-- The allocations of a team are released. -/
def releaseTeam (s : State) (tk : Nat) : State :=
  let t := s.team tk
  let s := { s with books := s.books.filter (fun b => b.2.team != some tk) }
  s.setTeam tk { used := true, core := t.core, retiring := true, retired := true, lived := t.lived, ngroups := t.ngroups, lead := t.lead }

/-- Turn: a retiring team is retired; the cluster and the grid with their last one. -/
def retireTeam (s : State) (tk : Nat) : State :=
  let t := s.team tk
  if !t.used || !t.retiring || t.retired then s
  else
    let gk := tk / 2 ^ 20
    let ck := tk / 16
    let x := s.grid gk
    let c := s.clus ck
    let life := t.lived + (s.sched.cycle.toNat - c.placed)
    let s := endTeamReqs s gk (ck % 65536) (tk % 16)
    let s := releaseTeam s tk
    let s := s.traceEvent { grid := gk, ctxid := x.ctxid, core := t.core, quad := t.lead % 48 / 12, slot := t.lead % 12, kern := x.kern
                            tq := if x.packet.quads > 0 then 0 else 15 } 6 0 0 0
    let s := s.setGrid gk { x with lives := (x.lives.1 + life, x.lives.2 + 1) }
    if !(List.range c.teams).all (fun i => (s.team (ck * 16 + i)).retired) then s
    else
      let s := s.setClus ck { c with st := .retired, request := none, discard := false }
      let y := s.grid gk
      let s := s.setGrid gk { y with retired := y.retired + 1 }
      if y.retired + 1 = y.nclus then endGrid s gk 1 else s

end Sys2Proof.Machine
end

