-- ==== Sys2Proof/Machine/Turn.lean ====
section
/-! DEFINITION. A turn of a group or feeder context: which lanes may issue together (R17, R43, R185), the traps that wait for
a lane's next word (R146, R172, R239), the event that comes before it (R139), hardware breakpoints (R379), and the fetch of a word (R124, R276). -/
namespace Sys2Proof.Machine

/-- Time goes on (R3, R278): the clocks of the cores and of the scheduler. -/
def passTime (s : State) : State :=
  { s with
    tick := s.tick + 1
    cycles := s.cycles.zipIdx.map (fun x => x.1 + BitVec.ofNat 64 (Config.elapsed (s.tick * 256 + x.2)))
    sched := { s.sched with cycle := s.sched.cycle + BitVec.ofNat 64 (Config.elapsed (s.tick * 256 + 128)) } }

/-- A lane whose issue was held goes on holding until no lane is trapped and no fence of its own is open (R133, R138). -/
def Grp.holds (g : Grp) (l : Nat) : Bool :=
  (g.lane l).held && ((g.tlanes != 0 && !inMask g.tlanes l) || g.fenced (laneBit l))

/-- The lanes of `m` may issue together: they stand at one word, none held, all trapped or none; lanes at a run start join freely,
but start no run past an incomplete fence (Table 7-9); lanes within a run issue with the lanes they share it with (R17). -/
def laneTurnOk (g : Grp) (m : Word) : Bool :=
  match lanesOf m with
  | [] => false
  | l0 :: _ =>
    let x0 := g.lane l0
    let ls := lanesOf m
    g.used && !g.halted && !g.frozen && !g.saveReq &&
      ls.all (fun l =>
        let x := g.lane l
        g.allLanes.contains l && !x.exited && x.parked.isNone && x.pc == x0.pc && x.sub == x0.sub &&
          inMask g.tlanes l == inMask g.tlanes l0 && !g.holds l) &&
      (if x0.sub = 0 then !(g.fenced m && ls.any (fun l => (g.lane l).run == 0))
       else m == maskOf (g.live.filter (fun l =>
         let x := g.lane l
         x.parked.isNone && x.pc == x0.pc && x.sub == x0.sub && inMask g.tlanes l == inMask g.tlanes l0 && !g.holds l)))

/-- The context stands where an event may be taken (R139): its result queues are empty, and, unless it is halted, no lane is
within a run but one that waits, is parked or has run past an incomplete FENCE (R140), and no issue is held under R133. -/
def atEventBoundary (g : Grp) : Bool :=
  g.sfq.isEmpty && (g.halted || g.live.all (fun l =>
    let x := g.lane l
    (x.run == 0 || x.waiting || x.parked.isSome || g.fenced (laneBit l)) && !(x.held && g.tlanes != 0)))

/-- A save, a halt request or the destruction of its context waits for context k (R139); a save until its cluster is stored. -/
def eventPending (s : State) (k : Nat) : Bool :=
  let g := s.grp k
  (s.ctx g.ctxid).dying || (g.haltPend && !g.halted) || (s.clus (clusterKey g.grid g.cluster)).st == .saving

/-- While an event waits no lane of `m` starts a run: only the ends of the current runs delay it (R139), and the handlers of lanes that are
trapped, while another lane's issue is held for them (R133). -/
def keptForEvent (s : State) (k : Nat) (m : Word) : Bool :=
  let g := s.grp k
  eventPending s k && (lanesOf m).any (fun l => (g.lane l).run == 0) && !(g.tlanes != 0 && g.live.any (fun l => (g.lane l).held))

/-- The value of CFAULT for a suspended copy (Table 9-3). -/
def cfaultOf (c : CopyOp) : Dword :=
  let vatv := c.bind.getLsbD 6 && !c.kind.isQpush
  BitVec.ofNat 64 (c.bytes % 2 ^ 32 * 2 ^ 32 + bit64 (c.bind.getLsbD 17) 25 + bit64 vatv 24 +
    (if vatv then c.bind.toNat % 64 * 2 ^ 18 else 0) + c.seq % 65536)

/-- The oldest copy that is suspended on a fault, with its operation's id. -/
def faultedCopy (g : Grp) : Option (Nat × CopyOp × TrapInfo) :=
  g.ops.findSome? (fun o => match o.body with
    | .copy c => c.fault.map (fun f => (o.id, c, f))
    | _ => none)

/-- The first refusal that each of some lanes has not yet taken. -/
def refusalsOf (g : Grp) (m : Word) : List (Nat × TrapInfo) := (lanesOf m).filterMap (fun l => (g.lane l).refusals.head?.map (fun r => (l, r)))

/-- The trap that the lanes of `m`, standing at `pc`, take before their next word: a single step owed (R146), a peer's refusal
(R172, the lowest cause and DETAIL first, R132), or in a feeder context a suspended copy (R239). A further refusal of a lane that has just
trapped for one comes before its handler's first word (DESIGN CHOICE, log entry 90). -/
def frontTrap (s : State) (k : Nat) (m : Word) (pc : Dword) : Option State :=
  let g := s.grp k
  let due := (lanesOf m).filter (fun l => (g.lane l).stepDue)
  if !due.isEmpty then
    some (meetTrap s k (maskOf due) m 0x0C 0 pc (fun _ => 0) (fun g => g.modLanes due (fun _ x => { x with stepDue := false })))
  else
    let rs := refusalsOf g m
    match (rs.map (fun r => r.2.cause * 256 + r.2.detail)).min? with
    | some code =>
      let mine := rs.filter (fun r => r.2.cause * 256 + r.2.detail == code)
      some (meetTrap s k (maskOf (mine.map (·.1))) m (code / 256) (code % 256) pc (fun l => (mine.find? (fun r => r.1 == l)).elim 0 (·.2.addr))
        (fun g => g.modLanes (mine.map (·.1)) (fun _ x => { x with refusals := x.refusals.drop 1 })))
    | none =>
      match (if g.isFeeder && g.tlanes == 0 && g.cfOp.isNone then faultedCopy g else none) with
      | some (id, c, f) => some (meetTrap s k m m f.cause f.detail pc (fun _ => f.addr) (fun g => { g with cfOp := some id, cfault := cfaultOf c }))
      | none => none

/-- The lanes of `m` that a set breakpoint stops at the `n` words of the group at `pc`, with its index (R379); the lowest index is
reported. -/
def breakLanes (g : Grp) (m : Word) (pc : Dword) (n : Nat) : Option (Nat × Word × Dword) :=
  (List.range 4).findSome? (fun i => match Bank.get none g.bkpts i with
    | some b =>
      let hit := maskOf ((lanesOf (m &&& b.lanes)).filter (fun l => !(g.lane l).bkPass))
      if (List.range n).any (fun j => b.addr == pc + BitVec.ofNat 64 (4 * j)) && hit != 0 then some (i, hit, b.addr) else none
    | none => none)

/-- A lane that could issue now. -/
def stands (g : Grp) (l : Nat) : Bool :=
  let x := g.lane l
  g.used && !g.halted && !g.frozen && !g.saveReq && g.allLanes.contains l && !x.exited && x.parked.isNone

/-- HARDWARE_BREAKPOINT (R379): the lanes of the mask that stand where its lowest does; those that the breakpoint stops trap, and where
they cannot yet, the whole issue is held (R133). TPC holds the first word of the group (R52), TADDR the breakpoint's (log entry 38). -/
def execHardwareBreakpoint (c : Nat) (mask : BitVec 32) (s : State) : Res :=
  .next (let g := s.grp c
    match lowest mask with
    | none => s
    | some l0 =>
      let pc := (g.lane l0).pc
      let m := maskOf ((lanesOf mask).filter (fun l => stands g l && (g.lane l).pc == pc))
      match breakLanes g m pc (groupLen s g pc) with
      | some (i, hit, a) => meetTrap (rollbackTakes s c (lanesOf m)) c hit m 0x0B (0xF0 + i) pc (fun _ => a) id
      | none => s)

/-! ## Fetch -/

/-- What a fetch gives: the word, a trap taken at the target (R124), or a violation of the group. -/
inductive Fetched where
  | word (w : Word)
  | trap (cause detail : Nat)
  | violation (code phys : Nat)
  deriving DecidableEq, Repr

/-- Fetches the word at an address; code lies in the global region. -/
def fetchWord (s : State) (g : Grp) (a : Dword) : Fetched :=
  if regionOf a != .global then .trap 5 1 else
  match translate s g.asker g.ctxid (s.ctx g.ctxid) .exec a with
  | .ok phys key cache => match codeWord s g.core (cache != 2) (keyTag s key) phys with
    | .error w => .violation 2 w
    | .ok x => .word x
  | .noPage => .trap 5 1
  | .deny d => .trap 7 d
  | .violation c p => .violation c p

/-- What a turn comes to: a state, or an instruction to execute in a state. -/
inductive Doing where
  | done (s : State)
  | run (i : Instr) (s : State)

/-- A word that is no instruction (Table 2-11, check 2), after check 1 for the group it begins. -/
def undecoded (s : State) (w : Word) : State :=
  let c := s.cur
  let g := s.grp c.key
  let n := if hintKind w = 0 then c.pos + 1 else groupLen s g c.pc
  if c.pos = 0 ∧ overRun g c.lanes n ≠ 0 then trapOver s n else trapAll s n 1 0 0

/-- The lanes of the issue that leave the TAKE at which they wait: all, but those that execute a TAKE (R162, R163). -/
def leaveTakes (s : State) (i : Option Instr) : State :=
  let c := s.cur
  let g := s.grp c.key
  let stay := match i with
    | some (.take u d p) => if (decodeTrap g c.lanes c.pre {} (.take u d p)).isNone then actOf g c.lanes (.take u d p) else 0
    | _ => 0
  rollbackTakes s c.key (lanesOf (c.lanes &&& ~~~ stay))

/-- The next word of the issue in progress. -/
def fetchTurn (s : State) : Doing :=
  let c := s.cur
  let a := c.pc + BitVec.ofNat 64 (4 * c.pos)
  match fetchWord s (s.grp c.key) a with
  | .trap cause d => .done (sampledTrap s (trapAll (leaveTakes s none) 0 cause d a))
  | .violation code p =>
    if (s.grp c.key).fenced c.lanes then .done (holdIssue s c.key c.lanes)
    else .done ((clearCur (leaveTakes s none)).freezeGrp c.key code p (if code = 2 then 2 else 1))
  | .word w =>
    let s := { s with cur := { c with word := w } }
    match decodeMarred w with
    | none => .done (sampledTrap s (undecoded (leaveTakes s none) w))
    | some (i, bad) =>
      let s := leaveTakes s (some i)
      if bad = {} then .run i s else .done (issueState s bad i (fun w _ => allOk w (fun _ s => s)))

/-- A turn of the lanes of `m` of context k: an event that waits for it is taken at the first moment it can be (R139), before any
word. -/
def lanesTurn (s : State) (k : Nat) (m : Word) : Doing :=
  let g := s.grp k
  if !laneTurnOk g m then .done s else
  if eventPending s k && atEventBoundary g then .run (.asyncEventTaken k) s else
  if keptForEvent s k m then .done s else
  let pc := (g.lane ((lowest m).getD 0)).pc
  match frontTrap s k m pc with
  | some _ => .done ((frontTrap (rollbackTakes s k (lanesOf m)) k m pc).getD s)
  | none => match breakLanes g m pc (groupLen s g pc) with
    | some _ => .run (.hardwareBreakpoint k m) s
    | none => fetchTurn { s with cur := { key := k, lanes := m, pc := pc } }

end Sys2Proof.Machine
end

