-- ==== Sys2Proof/Machine/Preempt.lean ====
section
/-! DEFINITION. Pre-emption: requests, the cost estimator, drain, discard and save, the asynchronous events of a group, and the
end of a destroyed context (R39, R139, R140, R163, R220, R289 to R292). -/
namespace Sys2Proof.Machine

/-! ## Removing work -/

/-- The contexts (groups and feeder contexts) of a cluster that stand on cores. -/
def clusterKeys (s : State) (ck : Nat) : List Nat :=
  (s.grps.filter (fun e => e.2.used && clusterKey e.2.grid e.2.cluster == ck)).map (·.1)

/-- A context is removed: its stores are performed, its copies and engine work aborted without arrivals. -/
def removeGrp (s : State) (k : Nat) : State := (settleGrp (drainStores s k (BitVec.allOnes 32)) k).setGrp k {}

/-- A cluster leaves its cores: groups, feeder contexts, decode requests, codebook tags and teams. -/
def clearCluster (s : State) (ck : Nat) : State :=
  let teams := (s.sched.teams.filter (fun e => e.1 / 16 == ck)).map (·.1)
  let s := (clusterKeys s ck).foldl removeGrp s
  let s := teams.foldl (fun s tk => endTeamReqs s (ck / 65536) (ck % 65536) (tk % 16)) s
  { s with
    books := s.books.filter (fun b => !(teams.any (fun t => b.2.team == some t)))
    sched := { s.sched with teams := s.sched.teams.filter (fun e => e.1 / 16 != ck) } }

/-- The scheduler's view of the machine without a cluster: what removing it would free. -/
def withoutCluster (s : State) (ck : Nat) : State :=
  { s with
    grps := s.grps.filter (fun e => clusterKey e.2.grid e.2.cluster != ck)
    books := s.books.filter (fun b => (b.2.team.map (· / 16)) != some ck)
    sched := { s.sched with teams := s.sched.teams.filter (fun e => e.1 / 16 != ck), clusters := s.sched.clusters.filter (fun e => e.1 != ck) } }

/-! ## The cost estimator (R290) -/

/-- The teams of a cluster that stand on cores. -/
def liveTeams (s : State) (ck : Nat) : List (Nat × Team) := s.sched.teams.filter (fun e => e.1 / 16 == ck && e.2.used && !e.2.retired)

/-- StateBytes. -/
def clusterBytes (s : State) (ck : Nat) : Nat :=
  ((liveTeams s ck).map (fun e =>
    let groups := e.2.gids.map (fun gid => let g := s.grp (2 * gid); ((List.range g.nroles).map (fun r => g.winOf r * 128)).foldl (· + ·) 4096)
    groups.foldl (· + ·) (e.2.opBytes + e.2.accq * 65536 +
      64 * ((s.deque e.2.core).frames.filter (fun f => f.grid == e.1 / 2 ^ 20 && f.team == e.1 % 16)).length))).foldl (· + ·) 0

/-- What the estimator decides. -/
inductive Decision where
  | drain | discard | save
  deriving DecidableEq, Repr

/-- The decision for a cluster under budget T; `unbounded` takes the drain cost so. D ≤ X is asked as M ≤ X + E. -/
def decideCluster (s : State) (ck T : Nat) (unbounded : Bool) : Decision :=
  let x := s.grid (ck / 65536)
  let halted := s.grps.any (fun e => e.2.used && !e.2.isFeeder && e.2.halted && clusterKey e.2.grid e.2.cluster == ck)
  let E := s.sched.cycle.toNat - (s.clus ck).placed
  let S := 2 * ((clusterBytes s ck + 63) / 64)
  let D := fun (X : Nat) => !unbounded && x.lives.2 != 0 && decide (x.lives.1 ≤ (X + E) * x.lives.2)
  if halted then .save
  else if D T && D S then .drain
  else if x.packet.restart && !x.kern.tasks && !x.kern.gridBars && decide (E < S) then .discard
  else .save

/-- Discard (R291): the cluster is removed and returns to Pending with its launch values. -/
def discardCluster (s : State) (ck : Nat) : State :=
  let s := (clearCluster s ck).setClus ck {}
  let gk := ck / 65536
  let x := s.grid gk
  let cid := ck % 65536
  s.setGrid gk { x with pending := x.pending.filter (fun c => decide (c < cid)) ++ [cid] ++ x.pending.filter (fun c => decide (c > cid)) }

/-- Carries a decision out. -/
def applyDecision (s : State) (ck : Nat) (d : Decision) : State :=
  match d with
  | .drain => s.setClus ck { s.clus ck with st := .draining }
  | .discard => discardCluster s ck
  | .save => s.setClus ck { s.clus ck with st := .saving }

/-- A pre-emption request reaches a cluster; it takes at most one at a time (R289). -/
def requestCluster (s : State) (ck T : Nat) (forceSave : Bool) : State :=
  let c := s.clus ck
  if c.st ≠ .resident ∨ c.request.isSome then s
  else
    let s := s.setClus ck { c with request := some (T, s.sched.cycle.toNat) }
    applyDecision s ck (if forceSave then .save else decideCluster s ck T false)

/-! ## Requests (R289) -/

/-- The clusters on cores of levels that `f` picks: the lowest level first, the most recently placed first. -/
def victims (s : State) (f : Nat → Bool) : List (Nat × Cluster) :=
  let all := s.sched.clusters.filter (fun e => (e.2.st == .resident || e.2.st == .draining || e.2.st == .saving) && f (s.grid (e.1 / 65536)).level)
  (List.range 8).flatMap (fun l =>
    (all.filter (fun e => (s.grid (e.1 / 65536)).level == l)).mergeSort (fun a b => decide (a.2.order ≥ b.2.order)))

/-- The first clusters of a list whose removal makes room for the head packet of queue q. -/
def roomBy (s : State) (q : Nat) : List Nat → List Nat → Option (List Nat)
  | [], _ => none
  | ck :: rest, gone =>
    let s := withoutCluster s ck
    if (placeHead s q).isSome then some (gone ++ [ck]) else roomBy s q rest (gone ++ [ck])

/-- PREEMPTION_REQUEST (R289). -/
def execPreemptionRequest (q : Nat) (s : State) : Res :=
  .next (match placeable s q with
    | none => s
    | some h =>
      if h.packet.deadline = 0 ∨ (placeHead s q).isSome then s
      else match roomBy s q ((victims s (fun l => decide (l < (s.queue q).level))).map (·.1)) [] with
        | none => s
        | some cks =>
          let left := h.packet.deadline - (s.sched.cycle.toNat - h.ready.getD 0)
          cks.foldl (fun s ck => requestCluster s ck left false) s)

/-- SLICE_EXPIRY (R289). -/
def execSliceExpiry (q : Nat) (s : State) : Res :=
  .next (match placeable s q with
    | none => s
    | some _ =>
      if (placeHead s q).isSome then s
      else
        let now := s.sched.cycle.toNat
        let due := (victims s (fun l => l == (s.queue q).level)).filter (fun e =>
          e.2.st == .resident && decide (now - e.2.placed ≥ (s.queue (s.grid (e.1 / 65536)).queue).slice))
        match due.mergeSort (fun a b => decide (a.2.placed ≤ b.2.placed)) with
        | e :: _ => requestCluster s e.1 0 false
        | [] => s)

/-- DRAIN_TIMEOUT (R290). -/
def execDrainTimeout (grid cluster : Nat) (s : State) : Res :=
  .next (let ck := clusterKey grid cluster
    let c := s.clus ck
    match c.st, c.request with
    | .draining, some (T, made) =>
      if s.sched.cycle.toNat < made + T then s
      else applyDecision (s.setClus ck { c with st := .resident }) ck (decideCluster s ck T true)
    | _, _ => s)

/-! ## Asynchronous events of a group (R139, R140) -/

/-- Lanes past an incomplete fence return to it, and they and the waiting lanes stand at a run start (R140); the reservations of lanes at a TAKE are rolled back (R163). -/
def settleForEvent (s : State) (k : Nat) : State :=
  let back := (s.grp k).live.filter (fun l => (s.grp k).fenced (laneBit l))
  let s := rollbackTakes s k (s.grp k).live
  let s := (s.grp k).fences.foldl (fun s f => undoFence s k f) s
  s.modGrp k (fun g => g.modLanes (g.live.filter (fun l => (g.lane l).waiting || back.contains l)) (fun _ x => { x with run := 0, sub := 0, held := false }))

/-- The withdrawn matrix operations of a group (R220): those that have not begun their work and whose wait link is unmet or that were
issued after a withdrawn one. -/
def withdrawn (s : State) (g : Grp) : List Nat :=
  g.ops.foldl (fun w o => match o.body with
    | .matrix op => if !o.done && op.seen.isEmpty && op.wrote.isEmpty && (!linkMet s g op || !w.isEmpty) then w ++ [o.id] else w
    | _ => w) []

/-- A QPUSH that waits while its queue is full (R228). -/
def queueWaits (s : State) (k : Nat) (c : CopyOp) : Bool := match c.kind with
  | .qpush _ q => decide (((s.grp (k - 1)).queue q).length ≥ 16)
  | _ => false

/-- The operations of context k have drained as a save needs (R39): its queued results are written, and what is left is withdrawn, done
and behind an older one that is left, suspended on a copy fault, or waits for room in an operand queue that its group, which has stopped, keeps
full (log entry 35). -/
def drainedForSave (s : State) (k : Nat) : Bool :=
  let g := s.grp k
  let w := withdrawn s g
  g.sfq.isEmpty && g.ops.all (fun o => o.done || (match o.body with
    | .matrix _ => w.contains o.id
    | .copy c => c.fault.isSome || queueWaits s k c
    | _ => false))

/-- The hardware entries a team's save moves to the core's ring (R163): of its grid, all that are not newer than its newest. A frame says of
its team only TEAMID, so entries of another cluster's team of that number count as its own (DESIGN CHOICE, log entry 26). -/
def movedFrames (s : State) (gk team core : Nat) : List Frame :=
  let fs := (s.deque core).frames.filter (fun f => f.grid == gk)
  (fs.reverse.dropWhile (fun f => f.team != team)).reverse

/-- Writes a saved team's entries to the ring; none where the ring lacks room. A ring that cannot be written leaves them in the
deque. The move counts in BLOCKS as a spill's block does: R150 counts the blocks of spills and does not speak of a save's (DESIGN CHOICE,
log entry 104). -/
def saveFrames (s : State) (gk team core : Nat) : Option State :=
  let fs := movedFrames s gk team core
  let ctxid := (s.grid gk).ctxid
  if fs.isEmpty then some s
  else match readHead s ctxid core with
    | .error e => some (schedViolation s ctxid e)
    | .ok h =>
      if h.used + fs.length > ringSlots then none
      else match appendRing s ctxid core fs with
        | .error e => some (schedViolation s ctxid e)
        | .ok s => some (s.setDeque core { s.deque core with frames := (s.deque core).frames.filter (fun f => !fs.contains f) })

/-- What is saved of one team (Table 1-18). -/
def saveTeam (s : State) (tk : Nat) (t : Team) (now placed : Nat) : SavedTeam :=
  { idx := tk % 16
    team := { t with lived := t.lived + (now - placed) }
    op := cutBytes s (opLoc t.core t.opBase) t.opBytes
    accs := (List.range 4).map (fun q => cutBytes s (accLoc t.core q t.accBase) (t.accq * 16384))
    stage := cutBytes s (stageLoc tk 0 0 0) stageBytes
    books := (List.range 8).filterMap (fun i =>
      let b := s.book t.core i
      if b.team = some tk then some (i, b, cutBytes s (bookLoc t.core i 0) 8192) else none) }

/-- Nothing of the team keeps it from being saved: no frame of its own, or that moves with its own, is reserved (R163), and no frame is
being written into its vats (R348). -/
def teamReady (s : State) (tk : Nat) (t : Team) : Bool :=
  let gk := tk / 2 ^ 20
  !(movedFrames s gk (tk % 16) t.core).any (·.resv) &&
    !(ringOf s gk t.core).any (fun x => x.2.team == tk % 16 && x.2.resv) &&
    (framesOf s gk (tk / 16 % 65536) (tk % 16)).isEmpty

/-- Every context of the cluster has stopped and drained, and every team is ready. -/
def saveReady (s : State) (ck : Nat) : Bool :=
  (clusterKeys s ck).all (fun k => (s.grp k).saveReq && drainedForSave s k) && (liveTeams s ck).all (fun e => teamReady s e.1 e.2)

/-- A context as it is saved: operations that are done, behind a withdrawn one, leave TL. -/
def unsaved (g : Grp) : Grp := { g with saveReq := false, owed := [], ops := g.ops.filter (fun o => !(o.cls == .tl && o.done)) }

/-- The save of a cluster (R39): its frames, its groups and feeder contexts as they stand, and its teams; its cores are free. What its
lanes have written is written back, so that they find it wherever they resume (R246). -/
def storeCluster (s : State) (ck : Nat) : State :=
  let teams := liveTeams s ck
  let gk := ck / 65536
  match teams.foldlM (fun s (e : Nat × Team) => saveFrames s gk (e.1 % 16) e.2.core) s with
  | none => s
  | some s =>
    let s := teams.foldl (fun s e => s.flushCore e.2.core) s
    let c := s.clus ck
    let now := s.sched.cycle.toNat
    let sv : SavedCluster :=
      { grid := gk, cluster := ck % 65536
        groups := teams.flatMap (fun e => e.2.gids.map (fun gid => (unsaved (s.grp (2 * gid)), unsaved (s.grp (2 * gid + 1)))))
        teams := teams.map (fun e => saveTeam s e.1 e.2 now c.placed) }
    let s := teams.foldl (fun s e => match e.2.gids with
      | gid :: _ => s.traceEvent (s.grp (2 * gid)) 5 0 0 0
      | [] => s) s
    let s := (clusterKeys s ck).foldl (fun s k => s.setGrp k {}) s
    let s := teams.foldl (fun s e => { s.setTeam e.1 {} with books := s.books.filter (fun b => b.2.team != some e.1) }) s
    let s := s.setClus ck { c with st := .saved, request := none }
    { s with sched := { s.sched with saved := s.sched.saved ++ [sv] } }

/-! ## The end of a context -/

/-- A destroyed context with nothing left on the cores ends: its grids with code 0x18, its objects and regions, the context itself. -/
def finishContext (s : State) (ctxid : Nat) : State :=
  if s.grps.any (fun e => e.2.used && e.2.ctxid == ctxid) then s
  else
    let s := ((s.sched.grids.filter (fun e => e.2.used && e.2.ctxid == ctxid)).map (·.1)).foldl (fun s gk => endGrid s gk 0x18) s
    let s := dropReshard (dropDecContext s ctxid) ctxid
    { s with
      ctxs := Bank.set {} s.ctxs ctxid {}
      objs := s.objs.filter (fun e => (e.2.map (·.ctxid)) != some ctxid)
      sample := s.sample.filter (fun e => e.1 % 65536 != ctxid) }

/-- An event that waits for context k is taken: destruction, a halt request, a save. -/
def takeAsync (s : State) (k : Nat) : State :=
  let g := s.grp k
  let ck := clusterKey g.grid g.cluster
  if (s.ctx g.ctxid).dying then finishContext (removeGrp (settleForEvent s k) k) g.ctxid
  else if g.haltPend && !g.halted then (settleForEvent s k).haltGrp k 1 0
  else if (s.clus ck).st ≠ .saving then s
  else
    let s := if g.saveReq then s else (settleForEvent s k).modGrp k (fun g => { g with saveReq := true })
    if saveReady s ck then storeCluster s ck else s

/-- ASYNC_EVENT_TAKEN (R139). -/
def execAsyncEventTaken (k : Nat) (s : State) : Res :=
  .next (if (s.grp k).used && atEventBoundary (s.grp k) then takeAsync s k else s)

end Sys2Proof.Machine
end

