-- ==== Sys2Proof/Machine/Links.lean ====
section
/-! DEFINITION. Optical links: slot connections, flits, messages, relay, the delivery of messages to their engines, retraining, and
the link status records (R349 to R360). Links 0 to 31. -/
namespace Sys2Proof.Machine

def State.link (s : State) (j : Nat) : Link := Bank.get {} s.fabric.links j
def State.setLink (s : State) (j : Nat) (x : Link) : State :=
  { s with fabric := { s.fabric with links := Bank.set {} s.fabric.links j x } }

def popcount8 (m : Nat) : Nat := ((List.range 8).filter (fun i => m.testBit i)).length
/-- A direction with fewer than 4 wavelengths that have not failed takes its link down (R358). -/
def Link.up (x : Link) : Bool := decide (popcount8 x.rx.failed ≤ 4) && decide (popcount8 x.tx.failed ≤ 4)
def inc32 (n k : Nat) : Nat := (n + k) % 2 ^ 32

/-! ## Slots (R352, R354) -/

/-- The matching of plane p in slot s. -/
def matching (s p : Nat) : Nat := (s + 4 * p) % 127 + 1

/-- The slots from s on to the next one in which some plane of `up` pairs modules at a distance k: 0 where one does in s. -/
def slotsTo (up : Nat → Bool) (s k : Nat) : Option Nat :=
  (List.range 127).find? (fun t => (List.range 32).any (fun p => up p && matching (s + t) p == k))

/-- A message is relayed by a peer where no plane connects its module in this slot and the peer meets it sooner than this module does
(R353); which links of the peer are down is not known here (log entry 47). -/
def relaySooner (s : State) (slot peer dst : Nat) : Bool :=
  match slotsTo (fun p => (s.link p).up) slot (s.fabric.self ^^^ dst), slotsTo (fun _ => true) slot (peer ^^^ dst) with
  | some d, some r => decide (r < d)
  | none, some _ => true
  | _, none => false

/-- The free relay space of this module, of 1 GiB (R353). -/
def relayRoom (s : State) : Nat := 2 ^ 30 - (s.fabric.relay.foldl (fun n m => n + 16 * (m.units + 1)) 0)

/-! ## Flits (R350, R351) -/

/-- The CRC-32 of IEEE 802.3, bit by bit. -/
def crcStep (c : Word) (b : Bool) : Word := (c >>> 1) ^^^ (if c.getLsbD 0 != b then 0xEDB88320#32 else 0)
def crc32 (d : List Byte) : Word := ~~~ (d.foldl (fun c b => (List.range 8).foldl (fun c i => crcStep c (b.getLsbD i)) c) 0xFFFFFFFF#32)

/-- The bytes of a 16-byte unit. -/
def unitBytes (u : BitVec 128) : List Byte := natToBytes 16 u.toNat

/-- The fields of a flit's header (Table 16-1). -/
structure FlitHead where
  typ    : Nat
  seq    : Nat
  rxmask : Nat
  nmask  : Nat
  hop    : Bool
  src    : Nat
  dest   : Nat
  nak    : Bool
  ack    : Nat
  deriving DecidableEq, Repr

/-- The first 12 bytes of a header, as a number. -/
def FlitHead.low (h : FlitHead) : Nat :=
  h.seq % 2 ^ 24 + h.typ % 256 * 2 ^ 24 + (h.dest % 128 + h.src % 128 * 2 ^ 8 + bit64 h.hop 15 + h.nmask % 256 * 2 ^ 16 + h.rxmask % 256 * 2 ^ 24) * 2 ^ 32 +
    (h.ack % 2 ^ 24 + bit64 h.nak 24) * 2 ^ 64
/-- The CRC of a flit covers bytes 0x00 to 0x0B and the payload (R350). -/
def flitCrc (low : Nat) (payload : List (BitVec 128)) : Word := crc32 (natToBytes 12 low ++ payload.flatMap unitBytes)
/-- A flit: its header unit and its fifteen units of payload. -/
def FlitHead.units (h : FlitHead) (payload : List (BitVec 128)) : List (BitVec 128) :=
  let p := (payload ++ List.replicate 15 0).take 15
  BitVec.ofNat 128 (h.low + (flitCrc h.low p).toNat * 2 ^ 96) :: p
/-- The header that a first unit holds. -/
def headOf (u : BitVec 128) : FlitHead :=
  let f := fun (lo n : Nat) => u.toNat / 2 ^ lo % 2 ^ n
  ⟨f 24 8, f 0 24, f 56 8, f 48 8, u.getLsbD 47, f 40 7, f 32 7, u.getLsbD 88, f 64 24⟩
/-- The CRC of sixteen units holds. -/
def crcHolds (us : List (BitVec 128)) : Bool :=
  match us with
  | h :: p => BitVec.ofNat 32 (h.toNat / 2 ^ 96) == flitCrc (h.toNat % 2 ^ 96) p
  | [] => false

/-- The active wavelengths of a mask, ascending. -/
def wavesOf (mask : Nat) : List Nat := (List.range 8).filter (fun w => mask.testBit w)
/-- The wavelength of unit u under a map: A[u mod n] (R351). -/
def waveOf (mask u : Nat) : Nat := (wavesOf mask).getD (u % (wavesOf mask).length) 0
/-- The units of a flit by wavelength. -/
def striped (mask : Nat) (us : List (BitVec 128)) : List (List (BitVec 128)) :=
  (List.range 8).map (fun w => (us.zipIdx.filter (fun x => waveOf mask x.2 == w && !(wavesOf mask).isEmpty)).map (·.1))
/-- The units of an arriving flit under a map; of an opening flit each from any wavelength that decodes. None where a unit is lost. -/
def gathered (opening : Bool) (mask : Nat) (f : Flit) : Option (List (BitVec 128)) :=
  (List.range 16).mapM (fun u =>
    if opening then (List.range 8).findSome? (fun w => ((f.waves.getD w [])[u]?).join)
    else if (wavesOf mask).isEmpty then none
    else ((f.waves.getD (waveOf mask u) [])[u / (wavesOf mask).length]?).join)

/-- The header unit of a message (Table 16-2). -/
def msgUnit (m : Message) : BitVec 128 :=
  BitVec.ofNat 128 (m.msgno.toNat + m.kind.toNat * 2 ^ 32 + m.units % 256 * 2 ^ 40 + m.ctxid.toNat * 2 ^ 48 + m.info.toNat * 2 ^ 64)
/-- The units of flit n of a message: fifteen of its units, from its header unit on. -/
def partUnits (m : Message) (n : Nat) : List (BitVec 128) :=
  ((List.range 15).map (· + 15 * n)).map (fun i => if i = 0 then msgUnit m else if i ≤ m.units then Config.bodyUnit m i else 0)

/-- A link sends a flit: its header tells this module's RXMASK and what it expects next, announces the map of the next flit, the last mask
received, and is striped by the map announced before; an opening flit goes on every wavelength at once (R351, R354). -/
def Link.send (x : Link) (typ seq src dest : Nat) (hop nak opening : Bool) (payload : List (BitVec 128)) : Link :=
  let h : FlitHead := ⟨typ, seq, x.rx.active, if opening then 0 else x.peerMask, hop, src, dest, nak, x.rxSeq⟩
  let us := h.units payload
  { x with out := x.out ++ [if opening then List.replicate 8 us else striped x.map us], map := if opening then x.map else x.peerMask }

/-- An acknowledgement-only flit. -/
def Link.sendAck (x : Link) (self : Nat) (nak : Bool) : Link := x.send 2 x.txSeq self x.peer false nak false []
/-- Data flit n of a message; one that this module relays is on its second hop (R353). -/
def Link.sendData (x : Link) (self : Nat) (u : Nat × Message × Nat) : Link :=
  x.send 1 u.1 u.2.1.src u.2.1.dst (u.2.1.src != self) false false (partUnits u.2.1 u.2.2)

/-- The slot connection of a link ends: what is not acknowledged returns to the transaction layer, whole messages, before what waits
there. -/
def endConnection (s : State) (j : Nat) : State :=
  let x := s.link j
  let back := (x.unacked.map (·.2.1)).eraseDups
  let f := s.fabric
  let s := { s with fabric := { f with
    outbox := back.filter (fun (m : Message) => m.src == f.self) ++ f.outbox
    relay := back.filter (fun (m : Message) => m.src != f.self) ++ f.relay } }
  s.setLink j { x with
    slot := none, opened := false, unacked := [], part := none, naking := false, txSeq := 0, txAck := 0, rxSeq := 0
    tx := { x.tx with retslot := inc32 x.tx.retslot (x.txSeq - x.txAck) } }

/-- SLOT_START (R352): the connection opens with this module's opening flit, which tells its RXMASK and its free relay space (R351, R353). -/
def execSlotStart (link slot : Nat) (s : State) : Res :=
  .next (if link ≥ 32 ∨ slot ≥ 127 then s
    else
      let s := if (s.link link).slot.isSome then endConnection s link else s
      let x := s.link link
      if !x.up then s
      else
        let x := { x with slot := some slot, peer := (s.fabric.self ^^^ matching slot link) % 128, relaySpace := 0, announced := relayRoom s
                          rxMap := x.rx.active, out := [] }
        s.setLink link (x.send 2 0 s.fabric.self x.peer false false true ((List.range 15).map (Config.openingUnit x.announced))))

/-- SLOT_END (R354). -/
def execSlotEnd (link : Nat) (s : State) : Res :=
  .next (if (s.link link).slot.isSome then endConnection s link else s)

/-! ## Sending (R353, R354) -/

/-- The flits of a message: fifteen units each. -/
def flitsOf (m : Message) : Nat := (m.units + 1 + 14) / 15

/-- Sends the k-th message that waits, relayed ones first, on a link: to its module, or by one relay where the peer has announced
space and delivers it sooner. Where none is left to send, an acknowledgement. -/
def transmit (s : State) (j k : Nat) : State :=
  let x := s.link j
  let f := s.fabric
  if x.slot.isNone || !x.opened || !x.up then s
  else match (f.relay ++ f.outbox)[k]? with
    | none => s.setLink j (x.sendAck f.self false)
    | some m =>
      let held := decide (k < f.relay.length)
      if m.dst = x.peer ∨ (!held ∧ 16 * (m.units + 1) ≤ x.relaySpace ∧ relaySooner s (x.slot.getD 0) x.peer m.dst) then
        let s := { s with fabric := { f with
          relay := if held then f.relay.eraseIdx k else f.relay
          outbox := if held then f.outbox else f.outbox.eraseIdx (k - f.relay.length) } }
        let flits := (List.range (flitsOf m)).map (fun n => (x.txSeq + n, m, n))
        let x := flits.foldl (fun x u => x.sendData f.self u) x
        s.setLink j { x with txSeq := x.txSeq + flits.length, unacked := x.unacked ++ flits
                             relaySpace := if m.dst = x.peer then x.relaySpace else x.relaySpace - 16 * (m.units + 1) }
      else s

/-! ## Receiving flits (R350, R351, R354, R355) -/

/-- What a flit's units make of the message being received: it, and the messages completed. -/
def gatherUnits : List FlitUnit → Option (Message × Nat) → List Message → Option (Message × Nat) × List Message
  | [], p, ms => (p, ms)
  | u :: rest, p, ms =>
    let settle := fun (m : Message) (n : Nat) => if n ≥ m.units then gatherUnits rest none (ms ++ [m]) else gatherUnits rest (some (m, n)) ms
    match u, p with
    | .head m, _ => settle m 0
    | .more, some (m, n) => settle m (n + 1)
    | .more, none => gatherUnits rest none ms
    | .pad, _ => gatherUnits rest p ms

/-- Completed messages are held for delivery, or for their module where this one relays (R353). -/
def acceptMessages (s : State) (j : Nat) (ms : List Message) : State :=
  ms.foldl (fun s m =>
    if m.dst = s.fabric.self then { s with fabric := { s.fabric with heldRx := s.fabric.heldRx ++ [m] } }
    else
      let s := { s with fabric := { s.fabric with relay := s.fabric.relay ++ [m] } }
      let x := s.link j
      s.setLink j { x with rx := { x.rx with relayed := inc32 x.rx.relayed 1 } }) s

/-- A flit that R350 discards: a unit lost or a CRC that fails, a reserved TYPE, a DEST that is not this module's nor one it relays for. -/
def flitBad (s : State) (us : Option (List (BitVec 128))) : Bool :=
  match us with
  | some (h :: p) => !crcHolds (h :: p) || decide ((headOf h).typ > 2) || ((headOf h).dest != s.fabric.self && (headOf h).hop)
  | _ => true

/-- What a flit's units mean is what they hold: a message's header unit stands where a message begins (Table 16-2). -/
def unitsAgree (h : FlitHead) (p : List (BitVec 128)) (us : List FlitUnit) : Bool :=
  us.zipIdx.all (fun x => match x.1 with
    | .head m => p[x.2]? == some (msgUnit m) && m.src == h.src && m.dst == h.dest && m.units == m.units % 256
    | _ => true)

/-- A flit is discarded and counted; the first of a row is answered with a NAK, which names the SEQ still to come. -/
def discardFlit (x : Link) (self : Nat) (nak : Bool) : Link :=
  let first := nak && !x.naking
  let x := { x with rx := { x.rx with discard := inc32 x.rx.discard 1, naktx := if first then inc32 x.rx.naktx 1 else x.rx.naktx }
                    naking := x.naking || nak }
  if first && x.opened then x.sendAck self true else x

/-- What the header of an accepted flit tells: masks, acknowledgement, NAK, relay space. The map of the next flit received is the NMASK; the
first flit sent after both opening flits is striped by the peer's RXMASK (R351). A NAK has everything from its ACK on sent again, by the map
then current (R354, Table 16-3). -/
def readHeader (x : Link) (self : Nat) (h : FlitHead) (relay : Nat) : Link :=
  let ok := decide (x.txAck ≤ h.ack) && decide (h.ack ≤ x.txSeq)
  let first := h.typ == 2 && !x.opened
  let x := { x with
    peerMask := h.rxmask
    map := if first then h.rxmask else x.map
    rxMap := if first then x.rxMap else h.nmask
    tx := { x.tx with active := h.rxmask, nakrx := if h.nak then inc32 x.tx.nakrx 1 else x.tx.nakrx }
    txAck := if ok then h.ack else x.txAck
    unacked := if ok then x.unacked.filter (fun u => decide (h.ack ≤ u.1)) else x.unacked
    relaySpace := if first then relay else x.relaySpace
    opened := x.opened || first }
  if h.nak && ok then x.unacked.foldl (fun x u => x.sendData self u) x else x

/-- FLIT_RECEPTION (R354). -/
def execFlitReception (link : Nat) (f : Flit) (s : State) : Res :=
  .next (let x := s.link link
    let self := s.fabric.self
    let us := gathered (!x.opened) x.rxMap f
    if link ≥ 32 ∨ x.slot.isNone ∨ !x.up then s
    else if flitBad s us then s.setLink link (discardFlit x self x.opened)
    else match us with
      | some (u :: p) =>
        let h := headOf u
        if !unitsAgree h p f.units then s
        else
          let x := readHeader x self h f.relay
          if h.typ ≠ 1 then s.setLink link x
          else if !x.opened || h.seq != x.rxSeq || Config.rxFull link s.tick then s.setLink link (discardFlit x self (x.opened && decide (x.rxSeq ≤ h.seq)))
          else
            let r := gatherUnits f.units x.part []
            acceptMessages (s.setLink link { x with rxSeq := x.rxSeq + 1, naking := false, part := r.1 }) link r.2
      | _ => s)

/-! ## Delivery (R355) -/

/-- The refusal of a range: for want of a page with the cause `noPage`; a violation is entered here and freezes whoever asked. -/
def refuseRange (s : State) (m : Message) (id noPage : Nat) (e : RangeFault) : State :=
  let refuse := fun (s : State) (c x : Nat) => s.sendMsg m.src 7 m.ctxid.toNat m.info 0 (.refusal id [(0, c, x)])
  match e.why with
  | .deny x => refuse s 7 x
  | .violation c p => refuse (peerViolation s m.ctxid.toNat c p).1 0 c
  | _ => refuse s noPage 0

/-- A piece of a peer's copy is performed at its home and acknowledged, or refused (R236, R356). -/
def serveWrite (s : State) (m : Message) (id : Nat) (addr : Dword) (d : List Byte) : State :=
  match writeRange s whoPeer m.ctxid.toNat addr d with
  | .ok s => s.sendMsg m.src 4 m.ctxid.toNat m.info 0 (.response id [])
  | .error e => refuseRange s m id 6 e

/-- A peer's read of a block or of a copy's bytes is performed at its home and answered, or refused (R236, R356): of the flag window 8 bytes
at a time (Table 7-3). -/
def serveRead (s : State) (m : Message) (id : Nat) (addr : Dword) (n : Nat) : State :=
  let answer := fun (d : List Byte) => s.sendMsg m.src 2 m.ctxid.toNat m.info 0 (.bytes id d)
  if regionOf addr == .flag then
    if n ≠ 8 then s.sendMsg m.src 7 m.ctxid.toNat m.info 0 (.refusal id [(0, 7, 0)])
    else match readFlag s whoPeer m.ctxid.toNat addr with
      | .ok x => answer (natToBytes 8 x.toNat)
      | .error e => refuseRange s m id 5 e
  else match readRange s whoPeer m.ctxid.toNat addr n with
    | .ok d => answer d
    | .error e => refuseRange s m id 5 e

/-- A request has been answered, or given up: whichever asked hears of it, a group, a copy, or the scheduler for a completion flag. -/
def onAnswer (s : State) (id : Nat) (vals : List (Nat × BitVec 128)) : State :=
  onFlagAnswer (onCopyAnswer (onResponse s id vals) id (.inl [])) id false
def onBytes (s : State) (id : Nat) (d : List Byte) : State := onBlock (onCopyAnswer s id (.inl d)) id (.inl d)
def onRefused (s : State) (id : Nat) (lanes : List (Nat × Nat × Nat)) : State :=
  let why := (lanes.head?.map (·.2)).getD (7, 0)
  onFlagAnswer (onBlock (onCopyAnswer (onRefusal s id lanes) id (.inr why)) id (.inr why)) id true

/-- A chunk's last message has come: the chunk is whole. -/
def chunkWhole (s : State) (src link slot : Nat) (c : Chunk) : State :=
  let d := Bank.get [] s.fabric.parts src
  let s := { s with fabric := { s.fabric with parts := Bank.set [] s.fabric.parts src [] } }
  if link < 32 ∧ slot < 4 then arriveChunk s link slot src { c with payload := d ++ c.payload } else s

/-- A message reaches its engine. -/
def deliverMessage (s : State) (m : Message) : State :=
  match m.body with
  | .request r => serveRequest s m r
  | .response id vals => onAnswer s id vals
  | .refusal id lanes => onRefused s id lanes
  | .chunk link slot c => chunkWhole s m.src link slot c
  | .chunkPart d => { s with fabric := { s.fabric with parts := Bank.set [] s.fabric.parts m.src (Bank.get [] s.fabric.parts m.src ++ d) } }
  | .credit link n => onCredit s link n
  | .start kaddr param impid uid digest => receiveStart s m.ctxid.toNat m.src kaddr param impid uid digest
  | .answer uid k ok => hearAnswer s uid k ok
  | .abort uid => abortPart s m.src uid
  | .ended uid k aborted => hearEnded s uid k aborted
  | .reshard x => onReshard s m.src m.ctxid.toNat m.info x
  | .write id a d => serveWrite s m id a d
  | .read id a n => serveRead s m id a n
  | .bytes id d => onBytes s id d

/-- Turn: the k-th received message is delivered if it is the next of its pair, and discarded if it was delivered before. -/
def deliver (s : State) (k : Nat) : State :=
  match s.fabric.heldRx[k]? with
  | none => s
  | some m =>
    let next := Bank.get 0 s.fabric.rxNext m.src
    let ahead := (m.msgno.toNat + 2 ^ 32 - next) % 2 ^ 32
    let drop := { s with fabric := { s.fabric with heldRx := s.fabric.heldRx.eraseIdx k } }
    if ahead = 0 then
      deliverMessage { drop with fabric := { drop.fabric with rxNext := Bank.set 0 drop.fabric.rxNext m.src ((next + 1) % 2 ^ 32) } } m
    else if ahead ≥ 2 ^ 31 then drop
    else s

/-- REMOTE_REQUEST_TIMEOUT (R357). -/
def execRemoteRequestTimeout (c k : Nat) (s : State) : Res :=
  .next (match findRequest (s.grp c) k with
    | some (_, _, r) => onRefusal s k (r.lanes.map (fun x => (x.lane, 7, 4)))
    | none => onRefused s k [(0, 7, 4)])

/-! ## Retraining and failure (R358) -/

/-- Retraining of a wavelength begins, or waits while two of its direction retrain. -/
def startRetrain (d : LinkDir) (w : Nat) : LinkDir :=
  if popcount8 d.retraining ≥ 2 then { d with queue := d.queue ++ [w] }
  else { d with active := d.active - (if d.active.testBit w then 2 ^ w else 0), retraining := d.retraining ||| 2 ^ w, retrains := inc32 d.retrains 1 }

/-- FEC_WINDOW_END (R358): the bits that the FEC of a wavelength has corrected in the window, and the codewords it could not (Table 16-4). -/
def execFecWindowEnd (link w : Nat) (count : Nat × Nat) (s : State) : Res :=
  .next (if link ≥ 32 ∨ w ≥ 8 then s
    else
      let x := s.link link
      let d := { x.rx with cbits := Bank.set 0 x.rx.cbits w (inc32 (Bank.get 0 x.rx.cbits w) count.1), uncorr := inc32 x.rx.uncorr count.2 }
      let busy := d.failed.testBit w || d.retraining.testBit w || d.queue.contains w
      s.setLink link { x with rx := if count.1 > 21474 && !busy then startRetrain d w else d })

/-- The next waiting wavelength begins to retrain, once one has been handed back. -/
def nextRetrain (d : LinkDir) : LinkDir := match d.queue with
  | [] => d
  | w :: rest => startRetrain { d with queue := rest } w

/-- RETRAINING_END (R358). -/
def execRetrainingEnd (link w : Nat) (ok : Bool) (s : State) : Res :=
  .next (let x := s.link link
    let d := x.rx
    if link ≥ 32 ∨ w ≥ 8 ∨ !d.retraining.testBit w then s
    else if ok then
      s.setLink link { x with rx := nextRetrain { d with
        active := d.active ||| 2 ^ w, retraining := d.retraining - 2 ^ w, fails := Bank.set 0 d.fails w 0 } }
    else
      let n := Bank.get 0 d.fails w + 1
      if n < 3 then s.setLink link { x with rx := { d with fails := Bank.set 0 d.fails w n, retrains := inc32 d.retrains 1 } }
      else
        let x := { x with rx := { d with fails := Bank.set 0 d.fails w n, retraining := d.retraining - 2 ^ w, failed := d.failed ||| 2 ^ w } }
        let s := (s.setLink link x).bboxAdd 9 0 0 w link
        if x.up then s
        else
          let s := if x.slot.isSome then endConnection s link else s
          s.bboxAdd 9 0 0 8 link)

/-! ## The status record (Table 16-4) -/

def linkRecord (s : State) (j : Nat) (tx : Bool) : List Byte :=
  let x := s.link j
  let d := if tx then x.tx else x.rx
  natToBytes 4 (d.active % 256 + d.retraining % 256 * 2 ^ 8 + d.failed % 256 * 2 ^ 16 + bit64 x.up 24) ++ natToBytes 4 d.retrains ++
  (List.range 8).flatMap (fun w => natToBytes 4 (Bank.get 0 d.cbits w)) ++ natToBytes 4 d.uncorr ++ natToBytes 4 d.discard ++
  natToBytes 4 d.naktx ++ natToBytes 4 d.nakrx ++ natToBytes 4 d.retslot ++ natToBytes 4 d.relayed

/-- The counters of one direction are cleared. -/
def clearCounters (s : State) (j : Nat) (tx : Bool) : State :=
  let x := s.link j
  let clr := fun (d : LinkDir) => { d with retrains := 0, cbits := [], uncorr := 0, discard := 0, naktx := 0, nakrx := 0, retslot := 0, relayed := 0 }
  s.setLink j (if tx then { x with tx := clr x.tx } else { x with rx := clr x.rx })

end Sys2Proof.Machine
end

