-- ==== Sys2Proof/Machine/Tlb.lean ====
section
/-! DEFINITION. Translations held and invalidated: the TLBs, TLBINV's end (R272, R273). -/
namespace Sys2Proof.Machine

/-- Page p lies in the extent of a TLBINV value (Table 11-5). -/
def inExtent (v : Dword) (p : Nat) : Bool :=
  let vp := bitsOf v 16 40
  match bitsOf v 2 2 with
  | 0 => p == vp
  | 1 => p / 32 == vp / 32
  | 2 => p / 16384 == vp / 16384
  | _ => true

/-- The pages that an operation holds: an access translated at its issue holds its own until it is performed (R272, R273). -/
def OpBody.pages : OpBody → List Nat
  | .load ps => ps.filterMap (·.page)
  | .store todo _ => todo.filterMap (·.page)
  | .matrix op => op.held.map (·.page)
  | .vchain op => op.held.map (·.page)
  | .copy op => op.pages.map (fun p => p.held.page)
  | _ => []
/-- An engine operation keeps them until its counter falls (R119, R208). -/
def OpBody.keeps : OpBody → Bool
  | .matrix _ | .vchain _ => true
  | _ => false
def Grp.pages (g : Grp) : List Nat := (g.ops.filter (fun o => !o.done || o.body.keeps)).flatMap (fun o => o.body.pages)

/-- No operation of the context holds a translation in the extent: on the cores, saved, or in a link sequencer. -/
def extentFree (s : State) (ctxid : Nat) (v : Dword) : Bool :=
  let quiet := fun (g : Grp) => g.ctxid != ctxid || !g.pages.any (inExtent v)
  s.grps.all (fun e => quiet e.2) && s.sched.saved.all (fun c => c.groups.all (fun x => quiet x.1)) &&
    s.seqs.slots.all (fun e => e.2.imp.ctxid != ctxid || !((e.2.held.getD []).any (fun h => inExtent v h.page)))

/-- The TLBs give up every translation of the context in the extent. -/
def dropExtent (s : State) (ctxid : Nat) (v : Dword) : State :=
  { s with tlb := s.tlb.filter (fun e => !(e.1 / 2 ^ 40 % 65536 == ctxid && inExtent v (e.1 % 2 ^ 40))) }

/-- One step of a walk from a level with its table at `base`: the table below, or the leaf; none where it ends with no page. -/
def walkStep (s : State) (va level base : Nat) : Option Held :=
  match walkLevels[level]? with
  | none => none
  | some (n, shift, bits) =>
    let a := base + va / 2 ^ shift % 2 ^ bits * 8
    let e := entryAt s a
    if !physExists a || (s.poisoned none a 8).isSome || badEntry n e then none
    else if bitsOf e 1 1 = 1 then some (.table (level + 1) (bitsOf e 8 34 * 256))
    else some (.leaf e shift)

/-- Turn: a requester's walk of a page goes on by one level, each level read when it is reached (R273); a walk that ends with no
page caches nothing (R271). -/
def tlbFill (s : State) (who ctxid page : Nat) : State :=
  if page ≥ 2 ^ 40 ∨ ctxid ≥ 65536 ∨ !(s.ctx ctxid).used then s
  else
    let k := tlbKey who ctxid page
    match Bank.get none s.tlb k with
    | some (.leaf _ _) => s
    | some (.table level base) => { s with tlb := Bank.set none s.tlb k (walkStep s (page * 65536) level base) }
    | none => { s with tlb := Bank.set none s.tlb k (walkStep s (page * 65536) 0 (s.ctx ctxid).ptroot) }
/-- Turn: a requester's TLB or walker gives up what it holds of a page. -/
def tlbDrop (s : State) (who ctxid page : Nat) : State :=
  { s with tlb := Bank.set none s.tlb (tlbKey who (ctxid % 65536) (page % 2 ^ 40)) none }

/-- TLBINV_WRITE (R272): the write of a TLBINV that is not busy, with no reserved field set, as a CSRW makes it. -/
def execTlbinvWrite (c : Nat) (v : Dword) (s : State) : Res :=
  .next (if (s.grp c).used && !(s.grp c).tlbinv.getLsbD 0 && !csrReserved 0x060#12 v then startTlbinv s c v else s)

/-- What the writer issued before its TLBINV is performed. -/
def invalPerformed (g : Grp) : Bool := g.tlbAfter.all (fun id => g.ops.all (fun o => o.id != id || o.done))

/-- TLB_INVALIDATION_COMPLETE (R272). -/
def execTlbInvalidationComplete (c : Nat) (s : State) : Res :=
  .next (let g := s.grp c
    if g.tlbinv.getLsbD 0 && invalPerformed g && extentFree s g.ctxid g.tlbinv then
      (dropExtent (s.flushCore g.core) g.ctxid g.tlbinv).modGrp c (fun g => { g with tlbinv := g.tlbinv &&& ~~~ 1#64, tlbAfter := [] })
    else s)

end Sys2Proof.Machine
end

