-- ==== Sys2Proof/Machine/Host.lean ====
section
/-! DEFINITION. The host side: queue pairs, commands and completions, contexts, launch queues, sequencer control, memory regions and
RDMA (R34, R260, R279, R280, R322, R361 to R365). -/
namespace Sys2Proof.Machine

def State.qp (s : State) (q : Nat) : QPair := Bank.get {} s.host.qps q
def State.setQp (s : State) (q : Nat) (x : QPair) : State := { s with host := { s.host with qps := Bank.set {} s.host.qps q x } }
def State.send (s : State) (m : HostMsg) : State := { s with host := { s.host with out := s.host.out ++ [m] } }

/-! ## Commands and completions (R364) -/

/-- What a command comes to: the state, its STATUS and VALUE, bytes that follow the completion, and what the completion awaits. -/
structure Done where
  st     : State
  status : Nat
  value  : Dword := 0
  extra  : List Byte := []
  await  : Await := .now

def refuse (s : State) (status : Nat) : Done := { st := s, status := status }
def accept (s : State) : Done := { st := s, status := 0 }

/-- A violation by a host queue pair freezes it: it is in the error state (R270, R362, R387). -/
def freezeQp (s : State) (q ctxid code phys : Nat) : State :=
  (s.setQp q { s.qp q with error := true }).bboxAdd (if code = 2 then 2 else 1) (masterCode 6 q) ctxid (Config.violationCode code) phys

/-- A command whose access to memory fails: a violation freezes the queue pair, which completes nothing more; else `d`. -/
def failWith (s : State) (c : Command) (ctxid : Nat) (e : RangeFault) (d : Done) : Done := match e.why with
  | .violation code p => refuse (freezeQp s c.qp ctxid code p) 3
  | _ => d

/-- The completion takes its place in its queue pair's order. -/
def queueReply (c : Command) (d : Done) : State :=
  let x := d.st.qp c.qp
  d.st.setQp c.qp { x with replies := x.replies ++ [⟨c.tag, d.status, d.value, d.extra, if d.status = 0 then d.await else .now⟩] }

/-- Where a command is permitted; `ownQueue`: QCANCEL, on a bound queue pair for the launch queues of its context. -/
inductive Permit where
  | management | bound | either | debug | ownQueue
  deriving DecidableEq, Repr

def permitted (s : State) (c : Command) (p : Permit) : Bool :=
  let x := s.qp c.qp
  let mgmt := decide (c.qp < 2)
  match p with
  | .management => mgmt
  | .bound => x.ctxid.isSome && !mgmt
  | .either => true
  | .debug => mgmt || (match x.ctxid with
    | some k => (s.ctx k).dbg
    | none => false)
  | .ownQueue =>
    let y := s.queue (fieldAt c.body 0 1)
    mgmt || !(y.isOpen && y.ctxid != x.ctxid.getD 0)

/-- A queue pair that takes commands: enabled, not in error, its context alive. -/
def qpLive (s : State) (q : Nat) : Bool :=
  let x := s.qp q
  x.enabled && !x.error && (decide (q < 2) || (match x.ctxid with
    | some k => (s.ctx k).used && !(s.ctx k).dying
    | none => false))

/-- A command: the checks of R364 in order, then its own effect. `bad` says that a reserved field of the body is not zero. -/
def command (s : State) (c : Command) (p : Permit) (len : Nat) (bad : List Byte → Bool) (f : State → Nat → List Byte → Done) : Res :=
  .next (if !qpLive s c.qp then s
    else queueReply c (
      if !permitted s c p then refuse s 2
      else if c.len ≠ len ∨ c.body.length ≠ len ∨ c.rsvd ≠ 0 ∨ bad c.body then refuse s 3
      else f s (((s.qp c.qp).ctxid).getD 0) c.body))

/-- Turn: a command whose opcode names nothing (STATUS 4). -/
def unknownCommand (s : State) (op : Nat) (c : Command) : State :=
  if !qpLive s c.qp || (decide (1 ≤ op) && decide (op ≤ 0x16)) then s else queueReply c (refuse s 4)

/-- A cluster is saved or retired, or its grid has ended (R364). -/
def clusterEnded (s : State) (ck : Nat) : Bool := (s.clus ck).st == .saved || (s.clus ck).st == .retired || !(s.grid (ck / 65536)).used

/-- What a completion awaits has come: the state with what its end does, none where it still waits. -/
def awaitEnd (s : State) : Await → Option State
  | .now => some s
  | .cluster ck => if clusterEnded s ck then some s else none
  | .halt k => if (s.grp k).haltPend then none else some s
  | .inval ctxid v => if extentFree s ctxid v then some (dropExtent s ctxid v) else none
  | .object k =>
    if s.sched.grids.any (fun e => e.2.used && e.2.kern.object == k) then none else some { s with objs := Bank.set none s.objs k none }

/-- Turn: the first completion of a queue pair is sent once what it awaits has come. -/
def sendReply (s : State) (q : Nat) : State :=
  let x := s.qp q
  match x.replies with
  | [] => s
  | r :: rest =>
    if !x.enabled || x.error then s
    else match awaitEnd s r.await with
      | none => s
      | some s => (s.setQp q { s.qp q with replies := rest }).send (.completion q r.tag r.status r.value r.extra)

def fld (b : List Byte) (off n : Nat) : Nat := fieldAt b off n
def fld64 (b : List Byte) (off : Nat) : Dword := BitVec.ofNat 64 (fieldAt b off 8)

/-! ## Contexts -/

/-- The features of a Q9 (Table 17-3). -/
def deviceFeatures : BitVec 512 := 0xFFF

/-- A context descriptor (Table 1-16). -/
def contextOf (d : List Byte) : Context :=
  let w := fld d 0 8
  { used := true, conf := w.testBit 16, dbg := w.testBit 17, fab := w.testBit 18, ptroot := fld d 8 8, spill := fld64 d 0x10, priv := fld64 d 0x18
    keys := BitVec.ofNat 256 (fld d 0x20 32), contract := BitVec.ofNat 512 (fld d 0x40 64), trkey := fld64 d 0x80, peers := fld64 d 0x88, desc := d }

/-- A descriptor that R34 refuses, TRKEY apart. -/
def descriptorBad (s : State) (d : List Byte) : Bool :=
  let c := contextOf d
  (c.contract &&& ~~~ deviceFeatures) != 0 || (s.ctx (fld d 0 2)).used || fld d 0 8 / 2 ^ 19 != 0 || fld d 0x90 112 != 0 ||
    c.ptroot % 4096 != 0 || c.spill.toNat % 65536 != 0 || c.priv.toNat % 65536 != 0 || (c.peers != 0 && !c.fab)

/-- CTXCREATE (R34): a confidential context's trace key is drawn and written to TRKEY, encrypted to its public key (R383). -/
def createContext (s : State) (cmd : Command) (d : List Byte) : Done :=
  let id := fld d 0 2
  if descriptorBad s d then refuse s 3
  else
    let c := contextOf d
    let s' := s.setCtx id c
    if !c.conf then accept s'
    else match readRange s' whoHost id c.trkey 256 with
      | .error e => failWith s cmd id e (refuse s 3)
      | .ok rec_ =>
        if !Config.sm2Point (rec_.take 64) then refuse s 3
        else
          let n := s'.free
          let s' := { s' with free := n + 1 }.setCtx id { c with traceKey := n }
          match writeRange s' whoHost id (c.trkey + 0x40) (((Config.sm2Wrap n (rec_.take 64)) ++ List.replicate 112 0).take 112) with
          | .error e => failWith s cmd id e (refuse s 3)
          | .ok s' => accept s'

/-- A queue's waiting packets end with code 0x18; a grid whose last cluster is not yet placed ends with its packet. -/
def cancelPackets (s : State) (q : Nat) (grids : Bool) : State :=
  let x := s.queue q
  x.packets.foldl (fun s h => match h.grid with
    | none => endPacket s x.ctxid h.packet 0x18 0 0
    | some gk =>
      if !grids then s
      else
        let cks := ((s.sched.clusters.filter (fun e => e.1 / 65536 == gk)).map (·.1))
        let s := cks.foldl clearCluster s
        let s := { s with sched := { s.sched with saved := s.sched.saved.filter (fun c => c.grid != gk) } }
        endGrid s gk 0x18) (s.setQueue q { x with packets := [] })

/-- CTXDESTROY: the context's queues, impositions, decoders, re-sharding, saved clusters, regions and queue pairs end; its groups
at their next run boundary (R139), and the context with the last of them. -/
def destroyContext (s : State) (id : Nat) : State :=
  let s := s.setCtx id { s.ctx id with dying := true }
  let qs := (List.range 64).filter (fun q => (s.queue q).isOpen && (s.queue q).ctxid == id)
  let s := qs.foldl (fun s q => (cancelPackets s q false).setQueue q {}) s
  let s := dropReshard (dropDecContext (dropSeqContext s id) id) id
  let s := { s with
    sched := { s.sched with saved := s.sched.saved.filter (fun c => (s.grid c.grid).ctxid != id) }
    tlb := s.tlb.filter (fun e => e.1 / 2 ^ 40 % 65536 != id)
    host := { s.host with
      qps := s.host.qps.map (fun e => if e.2.ctxid = some id then (e.1, { e.2 with enabled := false, ctxid := none, error := false, ahead := none }) else e)
      regions := s.host.regions.filter (fun e => (e.2.map (·.ctxid)) != some id) } }
  finishContext s id

/-! ## Launch queues (R279) -/

def ctxAlive (s : State) (id : Nat) : Bool := (s.ctx id).used && !(s.ctx id).dying

def openQueue (s : State) (b : List Byte) : Done :=
  let q := fld b 0 1
  let id := fld b 4 2
  let new : LaunchQ := { isOpen := true, level := fld b 1 1, depth := fld b 2 2, ctxid := id, slice := fld b 8 8 }
  if q ≥ 64 ∨ new.level ≥ 8 ∨ new.depth < 1 ∨ new.depth > 1024 ∨ new.slice < 2 ^ 16 ∨ new.slice > 2 ^ 40 then refuse s 3
  else if !ctxAlive s id then refuse s 5
  else
    let x := s.queue q
    if !x.isOpen then accept (s.setQueue q new)
    else if x.packets.isEmpty && x.ctxid == id then accept (s.setQueue q { new with next := x.next })
    else refuse s 3

/-! ## Sequencer control (R322) -/

/-- SEQCTL with an action number of Table 13-12. -/
def seqctl (act : Nat) (c : Command) (s : State) : Res :=
  command s c .bound 16 (fun b => fld b 3 1 != 0 || fld b 6 10 != 0) (fun s _ b =>
    let j := fld b 0 1
    let n := fld b 1 1
    let k := slotKey j n
    let x := s.slot k
    if j > 31 ∨ n > 3 ∨ fld b 2 1 ≠ act then refuse s 3
    else if n = 3 then refuse s 2
    else if x.st = .free then refuse s 5
    else if fld b 4 2 ≠ x.imp.ctxid then refuse s 2
    else if x.frozen then refuse s 2
    else match act with
      | 1 => if x.st = .stopped then accept (s.setSlot k { x with st := .ready }) else refuse s 3
      | 2 => if x.st = .stopped then accept (s.setSlot k { x with st := .ready, stepping := true }) else refuse s 3
      | 3 => accept (abortSlot s k)
      | _ =>
        if x.st = .stopped then accept s
        else if x.st = .running then accept (s.setSlot k { x with pend := some (x.pend.getD false) })
        else accept (stopSlot s j k 0x4E 0 0))

/-! ## RDMA (R260, R363) -/

/-- The places of a range of global memory or the flag window, in a region's context. -/
def rdmaPlaces (s : State) (ctxid : Nat) (need : Need) (va : Dword) (n : Nat) : Except RangeFault (List (Nat × Nat × Nat × Nat)) :=
  (segsOf va n).mapM (fun x =>
    let r := regionOf x.1
    if !(r == .global || (r == .flag && decide (offsetOf x.1 + x.2.2 ≤ 2 ^ 32))) then .error ⟨.noPage, x.1⟩
    else match translate s whoHost ctxid (s.ctx ctxid) need x.1 with
      | .ok phys key _ => .ok (phys, keyTag s key, x.2.1, x.2.2)
      | e => .error ⟨e, x.1⟩)

/-- The region an RDMA access names, if it lies in it. -/
def rdmaRegion (s : State) (q : Nat) (rkey : Word) (off : Dword) (n : Nat) (write : Bool) : Option MemRegion :=
  match Bank.get none s.host.regions rkey.toNat with
  | some r => if (s.qp q).ctxid = some r.ctxid ∧ off.toNat + n ≤ r.len.toNat ∧ (!write ∨ r.w) then some r else none
  | none => none

/-- A failed access: a NAK; a violation freezes the queue pair (R362, R387). -/
def rdmaFail (s : State) (q ctxid : Nat) (e : RangeFault) : State :=
  match e.why with
  | .violation c p => freezeQp s q ctxid c p
  | _ => s.send (.accessNak q)

/-- A poisoned word among the bytes of an access that it has still to read (R276). -/
def rdmaPoison (s : State) (ps : List (Nat × Nat × Nat × Nat)) (seen : Bank (Option Byte)) : Option Nat :=
  if s.poison.isEmpty then none else ps.findSome? (fun p => (List.range p.2.2.2).findSome? (fun i =>
    if (Bank.get none seen (p.2.2.1 + i)).isSome then none else s.poisoned none (p.1 + i) 1))

/-- The places of an access and its context, or what becomes of the state where it is refused. -/
def rdmaCheck (s : State) (x : Rdma) : Except State (Nat × List (Nat × Nat × Nat × Nat)) :=
  if !qpLive s x.qp then .error s
  else match rdmaRegion s x.qp x.rkey x.off x.len x.w with
    | none => .error (s.send (.accessNak x.qp))
    | some r => match rdmaPlaces s r.ctxid (if x.w then .write else .read) (r.vbase + x.off) x.len with
      | .error e => .error (rdmaFail s x.qp r.ctxid e)
      | .ok ps => .ok (r.ctxid, ps)

/-- The bytes that an access has moved before the rest, by place. -/
def aheadOf (s : State) (x : Rdma) : Bank (Option Byte) := match (s.qp x.qp).ahead with
  | some (y, b) => if y = x then b else []
  | none => []

/-- Writes what is left of an RDMA write; each byte is written by itself once some have been (R251). -/
def rdmaStore (s : State) (ps : List (Nat × Nat × Nat × Nat)) (data : List Byte) (done : Bank (Option Byte)) : State :=
  if done.isEmpty then ps.foldl (fun s p => s.writeBytes none none p.2.1 p.1 ((data.drop p.2.2.1).take p.2.2.2)) s
  else ps.foldl (fun s p => ((List.range p.2.2.2).foldl (fun s i =>
    if (Bank.get none done (p.2.2.1 + i)).isSome then s
    else s.writeBytes none none p.2.1 (p.1 + i) [data.getD (p.2.2.1 + i) 0]) s).unpoison p.1 p.2.2.2) s

/-- An RDMA access, with its bytes that have not moved yet. -/
def rdmaEnd (s : State) (x : Rdma) : State :=
  let seen := aheadOf s x
  let s := match (s.qp x.qp).ahead with
    | some _ => s.setQp x.qp { s.qp x.qp with ahead := none }
    | none => s
  match rdmaCheck s x with
  | .error s => s
  | .ok (ctxid, ps) =>
    if x.w then rdmaStore s ps x.data seen
    else match rdmaPoison s ps seen with
      | some w => freezeQp s x.qp ctxid 2 w
      | none => s.send (.readData x.qp (ps.flatMap (fun p => (List.range p.2.2.2).map (fun i =>
          (Bank.get none seen (p.2.2.1 + i)).getD (s.readByte none p.2.1 (p.1 + i))))))

/-- Turn: one byte of an RDMA access moves before the rest (R242, R251), where no other access of the queue pair is under way (R260). -/
def rdmaPart (s : State) (x : Rdma) (n : Nat) : State :=
  if (s.qp x.qp).ahead.any (fun y => y.1 != x) then s
  else match rdmaCheck s x with
    | .error _ => s
    | .ok (_, ps) => match ps.find? (fun p => decide (p.2.2.1 ≤ n) && decide (n < p.2.2.1 + p.2.2.2)) with
      | none => s
      | some p =>
        let loc := p.1 + (n - p.2.2.1)
        let seen := aheadOf s x
        if (Bank.get none seen n).isSome || (!x.w && (s.poisoned none loc 1).isSome) then s
        else
          let b := if x.w then x.data.getD n 0 else s.readByte none p.2.1 loc
          let s := if x.w then s.writeBytes none none p.2.1 loc [b] else s
          s.setQp x.qp { s.qp x.qp with ahead := some (x, Bank.set none seen n (some b)) }

/-- The RDMA access that a queue pair has under way ends, as it does before anything later of the pair takes effect (R260). -/
def endAhead (s : State) (qp : Nat) : State := match (s.qp qp).ahead with
  | some (x, _) => rdmaEnd s x
  | none => s

/-- The queue pair by which a command comes. -/
def commandPair : Instr → Option Nat
  | .ctxcreate c | .ctxdestroy c | .qpbind c | .qopen c | .qcancel c | .hostLaunch c | .hostTlbinv c | .seqctlResume c
  | .seqctlStep c | .seqctlAbort c | .seqctlStop c | .rsabort c | .mrreg c | .mrdereg c | .suspend c | .linkstat c | .objload c
  | .objdrop c | .debugHalt c | .debugRelease c | .debugHold c | .debugUnhold c | .debugStep c | .debugBkset c | .debugBkclr c
  | .debugSetpc c | .debugDump c | .tracecfg c | .attest c | .keyload c | .bbread c | .mgmtrd c | .mgmtwr c => some c.qp
  | _ => none

/-- Another access of the pair that is under way ends first (R260). -/
def beforeRdma (s : State) (x : Rdma) : State := if (s.qp x.qp).ahead.any (fun y => y.1 != x) then endAhead s x.qp else s

/-- RDMA_WRITE (R363). -/
def execRdmaWrite (qp : Nat) (rkey : Word) (off : Dword) (data : List Byte) (s : State) : Res :=
  .next (rdmaEnd (beforeRdma s ⟨qp, true, rkey, off, data, data.length⟩) ⟨qp, true, rkey, off, data, data.length⟩)

/-- RDMA_READ (R363). -/
def execRdmaRead (qp : Nat) (rkey : Word) (off : Dword) (len : Nat) (s : State) : Res :=
  .next (rdmaEnd (beforeRdma s ⟨qp, false, rkey, off, [], len⟩) ⟨qp, false, rkey, off, [], len⟩)

/-- INVALID_REQUEST_NAK (R361). -/
def execInvalidRequestNak (qp : Nat) (s : State) : Res :=
  .next (if (s.qp qp).enabled && !(s.qp qp).error then s.send (.invalidNak qp) else s)

/-- ECN_MARK (R361). -/
def execEcnMark (qp : Nat) (s : State) : Res :=
  .next (if (s.qp qp).enabled && !(s.qp qp).error then s.send (.congestion qp) else s)

/-- The port of a queue pair: the management pairs 0 and 1 on ports 0 and 1; of the others the pair's number decides. -/
def portOf (q : Nat) : Nat := q % 2

/-- ETHERNET_PORT_DOWN (R361). -/
def execEthernetPortDown (port : Nat) (s : State) : Res :=
  .next ({ s with host := { s.host with qps := s.host.qps.map (fun e => if portOf e.1 = port then (e.1, { e.2 with error := true }) else e) } })

/-! ## The commands of Table 16-5 -/

/-- CTXCREATE (R34). -/
def execCtxcreate (cmd : Command) (s : State) : Res :=
  command s cmd .management 256 (fun _ => false) (fun s _ b => createContext s cmd b)

/-- CTXDESTROY (R364). -/
def execCtxdestroy (cmd : Command) (s : State) : Res :=
  command s cmd .management 4 (fun b => fld b 2 2 != 0) (fun s _ b =>
    if ctxAlive s (fld b 0 2) then accept (destroyContext s (fld b 0 2)) else refuse s 5)

/-- QPBIND (R362). -/
def execQpbind (cmd : Command) (s : State) : Res :=
  command s cmd .management 4 (fun _ => false) (fun s _ b =>
    let q := fld b 2 2
    if q < 2 ∨ q > 255 then refuse s 3
    else if !ctxAlive s (fld b 0 2) then refuse s 5
    else accept (s.setQp q { s.qp q with enabled := true, ctxid := some (fld b 0 2) }))

/-- QOPEN (R279). -/
def execQopen (cmd : Command) (s : State) : Res :=
  command s cmd .management 16 (fun b => fld b 6 2 != 0) (fun s _ b => openQueue s b)

/-- QCANCEL (R279). -/
def execQcancel (cmd : Command) (s : State) : Res :=
  command s cmd .ownQueue 4 (fun b => fld b 1 3 != 0) (fun s _ b =>
    let q := fld b 0 1
    if q ≥ 64 then refuse s 3
    else if !(s.queue q).isOpen then refuse s 5
    else accept (cancelPackets s q true))

/-- HOST_LAUNCH (R280). -/
def execHostLaunch (cmd : Command) (s : State) : Res :=
  command s cmd .bound 144 (fun b => fld b 1 15 != 0) (fun s id b =>
    let pkt : Packet := ⟨dwordsOf (b.drop 16)⟩
    let code := enqueueCode s (fld b 0 1) id pkt
    if code ≠ 0 then refuse s code
    else
      let r := enqueue s (fld b 0 1) pkt []
      { st := r.1, status := 0, value := BitVec.ofNat 64 r.2 })

/-- HOST_TLBINV (R272). -/
def execHostTlbinv (cmd : Command) (s : State) : Res :=
  command s cmd .bound 8 (fun b => csrReserved 0x060#12 (fld64 b 0)) (fun s id b =>
    { st := s, status := 0, await := .inval id (fld64 b 0) })

/-- SEQCTL RESUME (R322). -/
def execSeqctlResume (cmd : Command) (s : State) : Res := seqctl 1 cmd s
/-- SEQCTL STEP (R322). -/
def execSeqctlStep (cmd : Command) (s : State) : Res := seqctl 2 cmd s
/-- SEQCTL ABORT (R322). -/
def execSeqctlAbort (cmd : Command) (s : State) : Res := seqctl 3 cmd s
/-- SEQCTL STOP (R322). -/
def execSeqctlStop (cmd : Command) (s : State) : Res := seqctl 4 cmd s

/-- RSABORT (R333). -/
def execRsabort (cmd : Command) (s : State) : Res :=
  command s cmd .bound 8 (fun _ => false) (fun s id b =>
    if s.rs.active && s.rs.ctxid == id && rsProg s == fld64 b 0 then accept (rsStop s 8) else refuse s 5)

/-- MRREG (R363). -/
def execMrreg (cmd : Command) (s : State) : Res :=
  command s cmd .bound 24 (fun b => decide (fld b 0x10 4 ≥ 2) || fld b 0x14 4 != 0) (fun s id b =>
    let n := s.host.nextKey
    { st := { s with host := { s.host with
        nextKey := n + 1, regions := Bank.set none s.host.regions (n % 2 ^ 32) (some ⟨id, fld64 b 0, fld64 b 8, fld b 0x10 4 == 1⟩) } }
      status := 0, value := BitVec.ofNat 64 (n % 2 ^ 32) })

/-- MRDEREG (R363). -/
def execMrdereg (cmd : Command) (s : State) : Res :=
  command s cmd .bound 4 (fun _ => false) (fun s id b =>
    match Bank.get none s.host.regions (fld b 0 4) with
    | some r => if r.ctxid = id then accept { s with host := { s.host with regions := Bank.set none s.host.regions (fld b 0 4) none } } else refuse s 5
    | none => refuse s 5)

/-- SUSPEND (R289): its completion is sent once the cluster is saved or retired. -/
def execSuspend (cmd : Command) (s : State) : Res :=
  command s cmd .bound 16 (fun b => fld b 4 4 != 0) (fun s id b =>
    let x := s.grid (fld b 0 2)
    let ck := clusterKey (fld b 0 2) (fld b 2 2)
    if !x.used ∨ x.ctxid ≠ id ∨ fld b 2 2 ≥ x.nclus then refuse s 5
    else { st := requestCluster s ck (fld b 8 8) false, status := 0, await := .cluster ck })

/-- LINKSTAT (R360): bit 0 of its second byte is 0 for the transmit direction, 1 for the receive direction (R405). -/
def execLinkstat (cmd : Command) (s : State) : Res :=
  command s cmd .either 4 (fun b => decide (fld b 0 1 > 31) || decide (fld b 1 1 ≥ 4) || fld b 2 2 != 0) (fun s _ b =>
    let tx := fld b 1 1 % 2 == 0
    { st := if fld b 1 1 ≥ 2 then clearCounters s (fld b 0 1) tx else s, status := 0, extra := linkRecord s (fld b 0 1) tx })

end Sys2Proof.Machine
end

