-- ==== Sys2Proof/Machine/Loader.lean ====
section
/-! DEFINITION. Loading and dropping Pelrik objects: the header and kernel records, the load checks, the refusal record and the
bindings (spec/17_loading_compat.md R366 to R374). -/
namespace Sys2Proof.Machine

/-! ## The object (Tables 17-1, 17-2) -/

/-- The header's fields. -/
structure ObjHeader where
  nkern : Nat
  base  : Nat
  size  : Nat
  ktab  : Nat
  emutab : Nat
  nemu  : Nat
  code  : Nat × Nat
  data  : Nat × Nat
  req   : BitVec 512
  rsvd  : Bool
  deriving DecidableEq, Repr

def headerOf (b : List Byte) : ObjHeader :=
  { nkern := fld b 6 2, base := fld b 8 8, size := fld b 0x10 8, ktab := fld b 0x18 4, emutab := fld b 0x1C 4, nemu := fld b 0x20 2
    code := (fld b 0x24 4, fld b 0x28 4), data := (fld b 0x2C 4, fld b 0x30 4), req := BitVec.ofNat 512 (fld b 0x40 64)
    rsvd := fld b 0x22 2 != 0 || fld b 0x34 12 != 0 }

/-- An address of a word of the code section. -/
def ObjHeader.inCode (h : ObjHeader) (a : Nat) : Bool := decide (h.base + h.code.1 ≤ a) && decide (a < h.base + h.code.1 + h.code.2)
def ObjHeader.wordInCode (h : ObjHeader) (a : Nat) : Bool := h.inCode a && a % 4 == 0

/-- The kernel of a record (Table 17-2) that stands at `addr`. -/
def kernelOf (r : List Byte) (addr : Dword) (object : Nat) (emul : List (Nat × Dword)) : Kernel :=
  let hdr := fld r 4 4
  let roles := hdr / 2 ^ 6 % 8
  { addr := addr, object := object, tbar := hdr / 2 ^ 9 % 16, tasks := hdr.testBit 2, feed := hdr.testBit 1, compat := hdr.testBit 0
    entries := (List.range roles).map (fun i => fld64 r (8 + 8 * i))
    wsizes := (List.range roles).map (fun i => fld r 0x30 4 / 4 ^ i % 4)
    feedEnt := fld64 r 0x28
    bars := (List.range 28).map (fun i => let o := 0x80 + 8 * i; (fld r o 2, fld r (o + 2) 2, fld r (o + 4) 2, fld r (o + 6) 2 % 2 == 1))
    vats := (List.range 64).map (fun v => fld r (0x160 + 4 * v) 4)
    gvec := (List.range 16).map (fun i => fld64 r (0x260 + 8 * i))
    fvec := (List.range 32).map (fun i => fld64 r (0x2E0 + 8 * i))
    req := BitVec.ofNat 512 (fld r 0x40 64), emul := emul }

/-! ## The load checks (Table 17-5) -/

/-- What the load checks find: a refusal by its REASON, KINDEX and entries, or an access that fails. -/
inductive LoadFault where
  | refused (reason kindex : Nat) (es : List (Nat × Nat × Nat))
  | access (reason : Nat) (e : RangeFault)

/-- A page of the image that cannot be read, or one of its code that may not be executed. -/
def pageFault (s : State) (ctxid : Nat) (h : ObjHeader) (x : Dword × Nat × Nat) : Option RangeFault :=
  let fails := fun (need : Need) => match translate s whoHost ctxid (s.ctx ctxid) need x.1 with
    | .ok _ _ _ => none
    | e => some (⟨e, x.1⟩ : RangeFault)
  if regionOf x.1 != .global then some ⟨.noPage, x.1⟩
  else (fails .read).orElse (fun _ =>
    if decide (x.2.1 < h.code.1 + h.code.2) && decide (h.code.1 < x.2.1 + x.2.2) then fails .exec else none)

/-- Check 2: every page of the image is readable, its code pages executable; `a` is the object's address. -/
def imageBad (s : State) (ctxid : Nat) (h : ObjHeader) (a : Dword) : Option RangeFault :=
  if a.toNat ≠ h.base ∨ h.base + h.size > 0x80 * 2 ^ 48 then some ⟨.noPage, a⟩
  else (segsOf a h.size).findSome? (pageFault s ctxid h)

/-- A feature bit that no routine can emulate (Table 17-3). -/
def notEmulable (b : Nat) : Bool := b == 0 || b == 6 || b == 8 || b == 10 || b == 11 || decide (b ≥ 12)

/-- Check 3 up to the emulation table: a reserved field, a range of Table 17-1, or a section or table outside SIZE. -/
def layoutBad (h : ObjHeader) : Bool :=
  h.rsvd || h.nkern == 0 || decide (h.nkern > 4096) || h.base % 65536 != 0 || decide (h.size > 2 ^ 32) || decide (h.size < 0x80) ||
    h.ktab % 64 != 0 || decide (h.ktab + 1024 * h.nkern > h.size) || decide (h.nemu > 7) || h.emutab % 16 != 0 ||
    (h.nemu == 0 && h.emutab != 0) || decide (h.emutab + 16 * h.nemu > h.size) || h.code.1 % 65536 != 0 ||
    decide (h.code.1 + h.code.2 > h.size) || decide (h.data.1 + h.data.2 > h.size)

/-- Check 3 of the emulation entries (R368): bit, zero bits, routine, which must be the address of a word (R12, log entry 54). -/
def emulBad (h : ObjHeader) (es : List (Nat × Nat × Nat)) : Bool :=
  es.any (fun e => e.2.1 != 0 || !h.wordInCode e.2.2 || notEmulable e.1) || (es.map (·.1)).eraseDups.length != es.length

/-- Check 3 of one kernel record: a reserved field of it is not zero. -/
def recordReserved (r : List Byte) : Bool := fld r 4 4 / 2 ^ 13 != 0 || fld r 0x38 8 != 0

/-- Check 4 of one kernel record. -/
def recordBad (h : ObjHeader) (r : List Byte) : Bool :=
  let hdr := fld r 4 4
  let roles := hdr / 2 ^ 6 % 8
  let tbar := hdr / 2 ^ 9 % 16
  let k := kernelOf r 0 0 []
  let ent := fun (i : Nat) => fld r (8 + 8 * i) 8
  fld r 0 4 != 1 || roles == 0 || decide (roles > 4) || decide (hdr / 8 % 8 > 3) ||
    hdr / 8 % 8 != fld r 0x30 4 % 4 || decide (fld r 0x30 4 ≥ 256) || decide (fld r 0x34 4 ≥ 2 ^ 31) ||
    (List.range 4).any (fun i => if i < roles then !h.wordInCode (ent i) else ent i != 0) ||
    (if k.feed then !h.wordInCode (fld r 0x28 8) else fld r 0x28 8 != 0) ||
    (List.range 28).any (fun i => decide (fld r (0x80 + 8 * i + 6) 2 > 1)) ||
    (List.range 16).any (fun i => k.declared 0 i && (tbar == 0 || decide (i > tbar))) ||
    k.bars.any (fun b => decide (b.1 + b.2.1 + b.2.2.1 > 16383)) ||
    k.vats.any (fun v => v % 1024 != 0) || decide (k.vatSum > 2 ^ 21) ||
    (k.gvec ++ k.fvec).any (fun e => e != 0 && !h.wordInCode e.toNat)

/-! ## The feature scan (R373) -/

/-- The feature bits that an instruction's encoding carries (Table 17-3). -/
def wordBits (i : Instr) : List Nat :=
  match i with
  | .dadd _ _ _ _ _ | .dmul _ _ _ _ _ | .dfma _ _ _ _ _ => [1]
  | .fcmp _ _ t _ _ _ _ => if t = 1#1 then [1] else []
  | .cvt _ t _ _ e _ _ => (if t = 3#4 ∨ e = 3#4 then [1] else []) ++ (if t = 6#4 ∨ e = 6#4 then [2] else [])
  | .cvtpk _ t _ _ _ _ => if t = 4#3 then [2] else []
  | .cvtupk _ t _ _ _ _ => if t = 4#3 then [2] else []
  | .cbload _ _ _ _ _ | .cpyx _ _ _ _ _ => [5]
  | .decsub _ _ _ _ => [6]
  | .rshd _ _ _ _ => [7]
  | .hintMod rnd _ _ _ => if rnd = 5#3 then [9] else []
  | _ => []

/-- The feature bits that a word's encoding carries; every word of major 10 carries bit 1, whether or not it decodes. -/
def codeBits (w : BitVec 32) : List Nat := match decodeMarred w with
  | some x => wordBits x.1
  | none => if w.toNat / 2 ^ 25 % 64 = 10 then [1] else []

/-- The features that a kernel requires: those its record names, base, and compat16 where it has it (Table 17-3). -/
def recordReq (r : List Byte) : BitVec 512 :=
  BitVec.ofNat 512 (fld r 0x40 64) ||| 1#512 ||| (if (fld r 4 4).testBit 0 then 256#512 else 0)

/-- The first profile that holds a bit (Table 17-7). -/
def profileOf (b : Nat) : Nat :=
  if b = 0 ∨ b = 1 ∨ b = 8 then 1 else if b = 2 ∨ b = 4 ∨ b = 9 then 2 else if b < 12 then 3 else 0

/-- One entry of a refusal record: offset, word, bit. -/
def refusalEntry (e : Nat × Nat × Nat) : List Byte :=
  natToBytes 4 e.1 ++ natToBytes 4 e.2.1 ++ natToBytes 2 e.2.2 ++ natToBytes 2 (profileOf e.2.2)

/-- The entries for reason 5: the words of the code section, then the bits no word carries, in ascending offset. `miss` says that a
bit is missing and unbound; a kernel is its record's offset and REQ. -/
def scanEntries (h : ObjHeader) (code : List Byte) (req : BitVec 512) (miss : Nat → Bool) (ks : List (Nat × BitVec 512)) :
    List (Nat × Nat × Nat) :=
  let ws := (List.range (h.code.2 / 4)).map (fun i => let w := fieldAt code (4 * i) 4
    (h.code.1 + 4 * i, w, (codeBits (BitVec.ofNat 32 w)).filter miss))
  let words := ws.filterMap (fun w => w.2.2.head?.map (fun b => (w.1, w.2.1, b)))
  let only := (List.range 12).filter (fun b => req.getLsbD b && miss b && !ws.any (fun w => w.2.2.contains b))
  let values := ks.flatMap (fun k => (only.filter (fun b => k.2.getLsbD b)).map (fun b => (k.1, 0, b)))
  let unnamed := ((List.range 512).filter (fun b => decide (b ≥ 12) && req.getLsbD b && miss b)).map (fun b => (0x40, 0, b))
  (words ++ values ++ unnamed).mergeSort (fun a b => decide (a.1 ≤ b.1))

/-! ## OBJLOAD and OBJDROP -/

/-- A refusal: the record of Table 17-6 where the buffer takes it; VALUE says why, and whether the record was written (R373). -/
def refuseObject (s : State) (cmd : Command) (ctxid : Nat) (buf : Dword) (n reason kindex : Nat) (es : List (Nat × Nat × Nat)) : Done :=
  let k := min es.length ((n - 16) / 12)
  let rec_ := natToBytes 4 reason ++ natToBytes 4 k ++ natToBytes 4 es.length ++ natToBytes 4 kindex ++ (es.take k).flatMap refusalEntry
  let unwritten : Done := { st := s, status := 6, value := BitVec.ofNat 64 (reason + 2 ^ 32) }
  if n < 16 then unwritten
  else match writeRange s whoHost ctxid buf rec_ with
    | .ok s => { st := s, status := 6, value := BitVec.ofNat 64 reason }
    | .error e => failWith s cmd ctxid e unwritten

/-- What the load checks give: the object, or why it is refused. -/
def checkObject (s : State) (ctxid key : Nat) (a : Dword) : Except LoadFault LoadedObj :=
  let part := fun (off n : Nat) => (readRange s whoHost ctxid (a + BitVec.ofNat 64 off) n).mapError (LoadFault.access 2)
  (part 0 0x80).bind (fun hb =>
    let h := headerOf hb
    if fld hb 0 4 ≠ 0x4B4C4550 ∨ fld hb 4 2 ≠ 1 then .error (.refused 1 0 [])
    else match imageBad s ctxid h a with
      | some e => .error (.access 2 e)
      | none =>
        if layoutBad h then .error (.refused 3 0 [])
        else (part h.emutab (16 * h.nemu)).bind (fun emu => (part h.ktab (1024 * h.nkern)).bind (fun tab =>
          let es := (List.range h.nemu).map (fun i => (fld emu (16 * i) 2, fld emu (16 * i + 2) 6, fld emu (16 * i + 8) 8))
          let recs := (List.range h.nkern).map (fun i => (h.ktab + 1024 * i, (tab.drop (1024 * i)).take 1024))
          if emulBad h es || recs.any (fun r => recordReserved r.2) then .error (.refused 3 0 [])
          else match recs.findIdx? (fun r => recordBad h r.2) with
            | some i => .error (.refused 4 i [])
            | none =>
              let contract := (s.ctx ctxid).contract
              let miss := fun (b : Nat) => !contract.getLsbD b && !es.any (fun e => e.1 == b)
              let req := recs.foldl (fun m r => m ||| recordReq r.2) h.req
              if (List.range 512).any (fun b => req.getLsbD b && miss b) then
                (part h.code.1 h.code.2).bind (fun code => .error (.refused 5 0 (scanEntries h code req miss (recs.map (fun r => (r.1, recordReq r.2))))))
              else
                let bound := (es.filter (fun e => !contract.getLsbD e.1)).map (fun e => (e.1, BitVec.ofNat 64 e.2.2))
                .ok ⟨ctxid, a, h.size, recs.map (fun r => kernelOf r.2 (a + BitVec.ofNat 64 r.1) key bound), false⟩)))

/-- A load that fails: the refusal, or the freeze of the queue pair where the access that failed is a violation. -/
def refuseLoad (s : State) (cmd : Command) (ctxid : Nat) (b : List Byte) (f : LoadFault) : Done := match f with
  | .refused reason kindex es => refuseObject s cmd ctxid (fld64 b 8) (fld b 16 4) reason kindex es
  | .access reason e => match e.why with
    | .violation code p => refuse (freezeQp s cmd.qp ctxid code p) 3
    | _ => refuseObject s cmd ctxid (fld64 b 8) (fld b 16 4) reason 0 []

/-- The load table of a context: index i stands under CTXID × 256 + i. -/
def objKey (ctxid i : Nat) : Nat := ctxid * 256 + i
def State.obj (s : State) (k : Nat) : Option LoadedObj := Bank.get none s.objs k

/-- OBJLOAD (R372). The instruction caches hold nothing older than what is loaded (R374). -/
def execObjload (cmd : Command) (s : State) : Res :=
  command s cmd .bound 24 (fun b => fld b 0x14 4 != 0) (fun s id b =>
    match (List.range 256).find? (fun i => (s.obj (objKey id i)).isNone) with
    | none => refuse s 1
    | some i => match checkObject s id (objKey id i) (fld64 b 0) with
      | .ok o => { st := { s with objs := Bank.set none s.objs (objKey id i) (some o), l1i := [] }, status := 0, value := BitVec.ofNat 64 i }
      | .error f => refuseLoad s cmd id b f)

/-- OBJDROP (R374): the object takes no further packet; it leaves with its last grid. -/
def execObjdrop (cmd : Command) (s : State) : Res :=
  command s cmd .bound 4 (fun _ => false) (fun s id b =>
    let i := fld b 0 4
    match (if i < 256 then s.obj (objKey id i) else none) with
    | some o =>
      if o.dropping then refuse s 5
      else { st := { s with objs := Bank.set none s.objs (objKey id i) (some { o with dropping := true }) }, status := 0, await := .object (objKey id i) }
    | none => refuse s 5)

end Sys2Proof.Machine
end

