-- ==== Sys2Proof/Machine/Trace.lean ====
section
/-! DEFINITION. Sampling and trace: TRACECFG, the sample tag, and the blocks of the trace ring (R381 to R383). -/
namespace Sys2Proof.Machine

def zeros (n : Nat) : List Byte := List.replicate n 0

/-- A block of 4,096 bytes under the context's next SEQ: plain, or encrypted for a confidential context (R382, R383). -/
def sealBlock (s : State) (ctxid : Nat) (records : List Byte) : List Byte × State :=
  let c := s.ctx ctxid
  let n := c.trace.seq
  let head := natToBytes 8 n ++ natToBytes 2 ctxid ++ [if c.conf then 1 else 0] ++ zeros 5
  let body := (records ++ zeros 4032).take 4032
  let sealed := if c.conf then Config.sm4Gcm c.traceKey (natToBytes 2 ctxid ++ [0, 0] ++ natToBytes 8 n) head body else (body, [])
  (head ++ (sealed.1 ++ zeros 4032).take 4032 ++ (sealed.2 ++ zeros 16).take 16 ++ zeros 32,
    s.setCtx ctxid { c with trace := { c.trace with seq := n + 1 } })

/-- Writes the open block and the ring's header (R382); where the ring cannot be written its records are lost. The block engine is none of
the masters of Table 18-5: a violation it meets is entered in the black box, and nothing freezes (DESIGN CHOICE, log entry 98). -/
def writeTrace (s : State) (ctxid : Nat) : State :=
  let t := (s.ctx ctxid).trace
  let (block, s1) := sealBlock s ctxid t.recs.flatten
  let a := t.ring + BitVec.ofNat 64 (64 + t.written % ((t.bytes - 64) / 4096) * 4096)
  let c := s1.ctx ctxid
  match (do
      let s2 ← writeRange s1 whoHost ctxid a block
      writeRange s2 whoHost ctxid t.ring (natToBytes 8 (t.written + 1) ++ natToBytes 8 t.lost)) with
  | .ok s2 => s2.setCtx ctxid { c with trace := { c.trace with written := t.written + 1, recs := [] } }
  | .error e => (schedViolation s1 ctxid e).setCtx ctxid { c with trace := { c.trace with lost := t.lost + t.recs.length, recs := [] } }

/-- TRACE_BLOCK_WRITE (R382). -/
def execTraceBlockWrite (ctx : Nat) (s : State) : Res :=
  .next (if (s.ctx ctx).trace.on && !(s.ctx ctx).trace.recs.isEmpty then writeTrace s ctx else s)

/-- SAMPLE_TAG (R381): the next issue of the quadrant for the context is tagged, from P/2 to 3P/2 issues after the last. `n` counts the
issues since it, the tagged one among them; 0 where there was none. -/
def tagDue (period n : Nat) : Bool := n == 0 || (decide (period ≤ 2 * n) && decide (2 * n ≤ 3 * period))
def execSampleTag (core quad ctx : Nat) (s : State) : Res :=
  .next (let k := (core * 4 + quad) * 65536 + ctx
    let n := (Bank.get (false, 0) s.sample k).2
    if core < 128 ∧ quad < 4 ∧ ctx < 65536 ∧ (s.ctx ctx).trace.on ∧ tagDue (s.ctx ctx).trace.period n then
      { s with sample := Bank.set (false, 0) s.sample k (true, n) }
    else s)

/-- TRACECFG (R381, R382): P from 2^8 to 2^20, a ring of whole 4 KiB, at least 8 KiB. -/
def execTracecfg (cmd : Command) (s : State) : Res :=
  command s cmd .debug 24 (fun _ => false) (fun s id b =>
    let k := fld b 0 2
    let p := fld b 4 4
    let n := fld b 16 8
    if p < 2 ^ 8 ∨ p > 2 ^ 20 ∨ n % 4096 ≠ 0 ∨ n < 8192 then refuse s 3
    else if !ctxAlive s k then refuse s 5
    else if cmd.qp ≥ 2 ∧ k ≠ id then refuse s 2
    else accept (s.setCtx k { s.ctx k with
      trace := { on := true, mask := fld b 2 2, period := p, ring := fld64 b 8, bytes := n, seq := (s.ctx k).trace.seq } }))

end Sys2Proof.Machine
end

