-- ==== Sys2Proof/Machine/Debug.lean ====
section
/-! DEFINITION. The debugger: DEBUG and its actions, the group dump (R377 to R380). -/
namespace Sys2Proof.Machine

/-- The resident group that DEBUG names. -/
def findGroup (s : State) (grid cluster team group : Nat) : Option Nat :=
  (s.grps.find? (fun e => e.2.used && !e.2.isFeeder && e.2.grid == grid && e.2.cluster == cluster && e.2.team == team && e.2.group == group)).map (·.1)

/-- DEBUG with an action of Table 18-2; `f` is given the group and the body. -/
def debugCommand (act : Nat) (c : Command) (s : State) (f : State → Nat → List Byte → Done) : Res :=
  command s c .debug 32 (fun b => fld b 0xC 4 != 0) (fun s id b =>
    if fld b 0 2 ≠ act then refuse s 3
    else match findGroup s (fld b 2 2) (fld b 4 2) (fld b 6 1) (fld b 7 1) with
      | none => refuse s 5
      | some k => if c.qp ≥ 2 ∧ (s.grp k).ctxid ≠ id then refuse s 2 else f s k b)

def debugMask (b : List Byte) : Word := BitVec.ofNat 32 (fld b 8 4)
def debugAddr (b : List Byte) : Dword := fld64 b 16

/-- HALT: a halt request, with the save of the cluster that it brings (R139, R289). -/
def execDebugHalt (cmd : Command) (s : State) : Res :=
  debugCommand 1 cmd s (fun s k _ =>
    let g := s.grp k
    if g.halted then accept s
    else { st := requestCluster (s.modGrp k (fun g => { g with haltPend := true })) (clusterKey g.grid g.cluster) 0 true, status := 0, await := .halt k })

/-- A halted group goes on: the lanes that are trapped as after a TRET, the others where they stand. -/
def releaseGroup (s : State) (k : Nat) : State :=
  let g := s.grp k
  returnTrap (s.setGrp k { g with halted := false, hstat := 0 }) k g.tlanes

/-- RELEASE. -/
def execDebugRelease (cmd : Command) (s : State) : Res :=
  debugCommand 2 cmd s (fun s k _ =>
    if (s.grp k).frozen then refuse s 2 else if (s.grp k).halted then accept (releaseGroup s k) else accept s)

/-- HOLD. -/
def execDebugHold (cmd : Command) (s : State) : Res :=
  debugCommand 3 cmd s (fun s k _ => accept (s.modGrp k (fun g => { g with hold := true })))
/-- UNHOLD. -/
def execDebugUnhold (cmd : Command) (s : State) : Res :=
  debugCommand 4 cmd s (fun s k _ => accept (s.modGrp k (fun g => { g with hold := false })))

/-- STEP: single step on the lanes of the mask, and no others; the group is released (R146). -/
def execDebugStep (cmd : Command) (s : State) : Res :=
  debugCommand 5 cmd s (fun s k b =>
    let g := s.grp k
    if !g.halted || !g.hold || g.frozen then refuse s 2
    else accept (releaseGroup (s.modGrp k (fun g => g.modLanes g.live (fun l x => { x with stepArm := inMask (debugMask b) l }))) k))

/-- BKSET (R379). -/
def execDebugBkset (cmd : Command) (s : State) : Res :=
  debugCommand 6 cmd s (fun s k b => accept (s.modGrp k (fun g =>
    { g with bkpts := Bank.set none g.bkpts ((debugAddr b).toNat % 4) (some ⟨debugAddr b &&& ~~~ 3#64, debugMask b⟩) })))
/-- BKCLR. -/
def execDebugBkclr (cmd : Command) (s : State) : Res :=
  debugCommand 7 cmd s (fun s k b => accept (s.modGrp k (fun g => { g with bkpts := Bank.set none g.bkpts ((debugAddr b).toNat % 4) none })))

/-- SETPC: TPC of the trapped lanes of the mask, under the check of R143. -/
def execDebugSetpc (cmd : Command) (s : State) : Res :=
  debugCommand 8 cmd s (fun s k b =>
    let g := s.grp k
    if !g.halted then refuse s 2
    else if (debugAddr b).toNat % 4 ≠ 0 then refuse s 3
    else accept (s.setGrp k (g.modLanes (lanesOf (debugMask b &&& g.tlanes)) (fun _ x => { x with tpc := debugAddr b }))))

/-- A lane's state in a dump. -/
def laneState (g : Grp) (l : Nat) : Nat :=
  let x := g.lane l
  if x.exited then 4 else if inMask g.tlanes l then 3
  else match x.parked with
    | some n => 2 + 8 * n
    | none => if x.waiting then 1 else 0

/-- The dump of Table 18-3. -/
def dumpBytes (g : Grp) : List Byte :=
  natToBytes 4 (g.groupId 0).toNat ++ natToBytes 4 g.hstat.toNat ++ natToBytes 4 g.tcause.toNat ++ natToBytes 4 g.tlanes.toNat ++
  (List.range 8).flatMap (fun n => natToBytes 4 (g.rj n).toNat) ++ natToBytes 4 (cntOf g).toNat ++ natToBytes 4 (winOf g).toNat ++ zeros 8 ++
  lanes32.flatMap (fun l => natToBytes 8 (g.lane l).pc.toNat ++ natToBytes 4 (laneState g l) ++ natToBytes 4 (g.lane l).flags.toNat) ++
  (List.range 32).flatMap (fun n => natToBytes 8 (g.rs n).toNat) ++
  (List.range g.win).flatMap (fun n => lanes32.flatMap (fun l => natToBytes 4 (g.rv n l).toNat))

/-- The blocks that carry n pieces of 4,032 bytes. -/
def sealBlocks (ctxid : Nat) : Nat → State → List Byte → List Byte × State
  | 0, s, _ => ([], s)
  | n + 1, s, d =>
    let x := sealBlock s ctxid (d.take 4032)
    let r := sealBlocks ctxid n x.2 (d.drop 4032)
    (x.1 ++ r.1, r.2)

/-- DUMP (R380): of a confidential context only as encrypted blocks. -/
def execDebugDump (cmd : Command) (s : State) : Res :=
  debugCommand 9 cmd s (fun s k b =>
    let g := s.grp k
    if !g.halted then refuse s 2
    else
      let d := dumpBytes g
      let x := if (s.ctx g.ctxid).conf then sealBlocks g.ctxid ((d.length + 4031) / 4032) s d else (d, s)
      match writeRange x.2 whoHost g.ctxid (fld64 b 24) x.1 with
      | .ok s => accept s
      | .error e => failWith s cmd g.ctxid e (refuse s 3))

end Sys2Proof.Machine
end

