-- ==== Sys2Proof/Machine/Start.lean ====
section
/-! DEFINITION. Management, attestation, keys, the black box, soft errors, migration and starts (R3 to R5, R36, R275 to R277, R384 to
R390). -/
namespace Sys2Proof.Machine

/-! ## Management registers (Table 0-4) -/

/-- A management register's value; none where the offset names no register. -/
def mgmtRead (s : State) (off : Nat) : Option Dword :=
  let m := s.mgmt
  match off with
  | 0x000 => some 1
  | 0x008 => some (BitVec.ofNat 64 (m.clkStep % 32 + (if m.hold then 20 else m.clkLimit) % 32 * 256))
  | 0x010 => some (BitVec.ofNat 64 (m.clkCap % 32))
  | 0x018 => some (Config.therm s.free &&& 0x0000FFFFFFFFFFFF#64)
  | 0x020 =>
    let avg := min (Config.power s.free).1 1950
    some (BitVec.ofNat 64 (avg + max avg (min (Config.power s.free).2 1950) * 65536))
  | 0x028 => some (BitVec.ofNat 64 (bit64 m.hold 0 + bit64 m.limiting 1 + m.holds % 2 ^ 32 * 2 ^ 32))
  | 0x030 => some (BitVec.ofNat 64 (m.sramErr % 2 ^ 32 + m.dramErr % 2 ^ 32 * 2 ^ 32))
  | 0x038 => some m.start
  | 0x040 => some (BitVec.ofNat 64 (m.lastKind % 4 + (if m.failedRow < 3 then m.failedRow else Config.rowShown s.free % 3) * 4 + m.failStep % 256 * 256))
  | _ => none

/-- The power limit: the slowest step it imposes, 0 for none. -/
def Mgmt.limit (m : Mgmt) (k : Nat) : Mgmt := { m with clkLimit := k, limiting := decide (k ≠ 0) }

/-- A write of a management register: its STATUS and the controller after it. A cap at the step of a power limit or slower ends the limit
(log entry 58). -/
def mgmtWrite (m : Mgmt) (off : Nat) (v : Dword) : Nat × Mgmt :=
  if off = 0x010 then
    if v.toNat > 20 then (3, m) else 
      (0, { (if v.toNat ≥ m.clkLimit then m.limit 0 else m) with clkCap := v.toNat, clkStep := max m.clkStep v.toNat })
  else if off = 0x038 then
    if v.toNat ≥ 16 ∨ v.toNat % 4 = 3 then (3, m)
    else
      let m := { m with start := v &&& 7#64 }
      (0, if v.getLsbD 3 ∧ v.toNat % 4 ≠ 0 then { m with asked := some (v.toNat % 4, v.getLsbD 2) } else m)
  else if off % 8 = 0 ∧ off ≤ 0x040 then (3, m)
  else (5, m)

/-- MGMTRD (R5). -/
def execMgmtrd (cmd : Command) (s : State) : Res :=
  command s cmd .management 4 (fun _ => false) (fun s _ b => match mgmtRead s (fld b 0 4) with
    | some v => { st := { s with free := s.free + 1 }, status := 0, value := v }
    | none => refuse s 5)

/-- MGMTWR (R5). -/
def execMgmtwr (cmd : Command) (s : State) : Res :=
  command s cmd .management 16 (fun b => fld b 4 4 != 0) (fun s _ b =>
    let r := mgmtWrite s.mgmt (fld b 0 4) (fld64 b 8)
    { st := { s with mgmt := r.2 }, status := r.1 })

/-- MANAGEMENT_CONNECTOR_ACCESS (R5, R360). The spec does not say how the connector answers a read at an offset that Table 0-4 does not list,
or a write: nothing is sent for either (DESIGN CHOICE, log entry 102). -/
def execManagementConnectorAccess (x : MgmtAccess) (s : State) : Res :=
  .next (match x with
    | .read off => match mgmtRead s off.toNat with
      | some v => { s with free := s.free + 1 }.send (.mgmt (natToBytes 8 v.toNat))
      | none => s
    | .write off v => { s with mgmt := (mgmtWrite s.mgmt off.toNat v).2 }
    | .link j rx => if j ≤ 31 then s.send (.mgmt (linkRecord s j !rx)) else s)

/-- CLOCK_STEP_CHANGE (R3): a step slower for the power limit, or a step faster towards the cap, which relaxes a limit that stood at the
slower step and ends it at the cap. -/
def execClockStepChange (slower : Bool) (s : State) : Res :=
  .next (let m := s.mgmt
    if m.hold then s
    else if slower then
      if m.clkStep ≥ 20 then s else { s with mgmt := { m with clkStep := m.clkStep + 1 }.limit (m.clkStep + 1) }
    else if m.clkStep ≤ m.clkCap then s
    else
      let k := m.clkStep - 1
      { s with mgmt := { m with clkStep := k }.limit (if k ≤ m.clkCap then 0 else min m.clkLimit k) })

/-- COOLANT_HOLD (R4). -/
def execCoolantHold (s : State) : Res :=
  .next (let m := s.mgmt
    if m.hold then s else { s with mgmt := { m with hold := true, holds := (m.holds + 1) % 2 ^ 32, clkStep := 20 } })
/-- COOLANT_HOLD_RELEASE (R4): the clock then rises step by step (R3). -/
def execCoolantHoldRelease (s : State) : Res :=
  .next (let m := s.mgmt
    if m.hold then { s with mgmt := { m with hold := false } } else s)

/-! ## Soft errors (R275 to R277) -/

/-- CORRECTED_ERROR (R275). -/
def execCorrectedError (dram : Bool) (s : State) : Res :=
  .next (let m := s.mgmt
    { s with mgmt := if dram then { m with dramErr := (m.dramErr + 1) % 2 ^ 32 } else { m with sramErr := (m.sramErr + 1) % 2 ^ 32 } })

/-- The 32-byte word at a location is there: a byte of DRAM exists, a cache holds something of the word. -/
def wordHeld (s : State) (addr : Nat) : Bool :=
  if addr < 2 ^ 60 then !isDram addr || physExists addr
  else if addr < 2 ^ 61 then (List.range 32).any (fun i => (Bank.get none s.l1 ((addr - 2 ^ 60) / 32 * 32 + i)).isSome)
  else (Bank.get none s.l1i ((addr - 2 ^ 61) / 32)).isSome

/-- UNCORRECTABLE_ERROR (R276): the word at a location is poisoned: 32 bytes of a memory or of a cache, or a register. -/
def execUncorrectableError (addr : Nat) (s : State) : Res :=
  .next (if addr ≥ 2 ^ 62 then
      let n := (addr - 2 ^ 62) / 32
      if (s.grp (n / 2 ^ 13)).used then s.modGrp (n / 2 ^ 13) (fun g => { g with poison := (n % 2 ^ 13) :: g.poison.filter (· != n % 2 ^ 13) }) else s
    else if wordHeld s addr then { s with poison := Bank.set false s.poison (addr / 32) true } else s)

/-- PARITY_ERROR_REEXECUTION (R277): the run executes again with the same results; a second error in it freezes the group. It concerns no
word of memory: its black-box entry is of KIND 2 with ADDR 0 (DESIGN CHOICE, log entry 60). -/
def execParityErrorReexecution (c : Nat) (mask : BitVec 32) (s : State) : Res :=
  .next (let g := s.grp c
    let ls := (lanesOf mask).filter (fun l => stands g l && (g.lane l).run != 0)
    if ls.any (fun l => (g.lane l).parity) then s.freezeGrp c 3 0 2
    else s.modGrp c (fun g => g.modLanes ls (fun _ x => { x with parity := true })))

/-! ## Root of trust (R384 to R386) and the black box (R388) -/

/-- Writes a buffer that a command names: in the bound context's memory, or on a management pair at a physical address, in
plaintext. -/
def writeBuffer (s : State) (c : Command) (a : Dword) (d : List Byte) : Except RangeFault State :=
  match (if c.qp < 2 then none else (s.qp c.qp).ctxid) with
  | some k => writeRange s whoHost k a d
  | none =>
    if (List.range d.length).all (fun i => physExists (a.toNat + i)) then .ok (s.writeBytes none none 0 a.toNat d) else .error ⟨.noPage, a⟩

/-- The attestation report (R386). -/
def attestReport (s : State) (nonce : List Byte) (id : Nat) : List Byte :=
  let body := (Config.serial ++ zeros 16).take 16 ++ natToBytes 32 s.mgmt.measure.toNat ++ natToBytes 4 s.mgmt.lastKind ++
    natToBytes 4 s.mgmt.warmCount ++ natToBytes 8 id ++ natToBytes 32 (if id = 0 then 0 else (Config.sm3 (s.ctx id).desc).toNat) ++ nonce
  body ++ (Config.sm2Sign body ++ zeros 64).take 64 ++ zeros 64

/-- ATTEST (R386). -/
def execAttest (cmd : Command) (s : State) : Res :=
  command s cmd .either 48 (fun b => fld b 0x2A 6 != 0) (fun s _ b =>
    let id := fld b 0x28 2
    if id ≠ 0 ∧ !ctxAlive s id then refuse s 5
    else match writeBuffer s cmd (fld64 b 0x20) (attestReport s (b.take 32) id) with
      | .ok s => accept s
      | .error e => failWith s cmd (((s.qp cmd.qp).ctxid).getD 0) e (refuse s 3))

/-- The sectors that an L1 holds, and the L2 does not, with a word under a key tag: the L2 holds them too. -/
def l1Sectors (s : State) (tag : Nat) : List Nat :=
  ((s.l1.map (fun e => e.1 % 2 ^ 42 / 256)).eraseDups).filter (fun x =>
    (Bank.get none s.l2 x).isNone && (List.range 8).any (fun i => wordTag s (x * 8 + i) == tag))

/-- A slot takes a new key: what the caches hold under its key id stays as it is in plaintext, and what DRAM holds stays ciphertext of the
old one (R274). -/
def rekey (s : State) (slot : Nat) (key : BitVec 256) : State :=
  let old := keyTag s slot
  let s := if old = 0 then s else (l1Sectors s old).foldl (fun s x => { s with l2 := Bank.set none s.l2 x (some ⟨slot, old, false, false⟩) }) s
  let s := { s with keys := Bank.set none s.keys slot (some key) }
  let words := (s.l2.filter (fun e => e.2.any (fun x => x.key == slot))).flatMap (fun e => (List.range 8).map (e.1 * 8 + ·))
  { s with tags := words.foldl (fun b w => if Bank.get 0 b w = old then Bank.set 0 b w (keyTag s slot) else b) s.tags }

/-- KEYLOAD (R385): the slot holds the key that the body unwraps to. -/
def execKeyload (cmd : Command) (s : State) : Res :=
  command s cmd .management 116 (fun b => fld b 1 1 != 0 || fld b 0x72 2 != 0) (fun s _ b =>
    let slot := fld b 0 1
    if slot = 0 ∨ !Config.unwraps ((b.drop 2).take 112) then refuse s 3
    else accept (rekey s slot (Config.keyOf ((b.drop 2).take 112))))

/-- The 64 bytes of a black-box entry (Table 18-6). -/
def BBoxEntry.bytes (e : BBoxEntry) : List Byte :=
  natToBytes 8 e.seq ++ natToBytes 8 e.scyc.toNat ++ natToBytes 2 e.kind ++ natToBytes 2 e.master ++ natToBytes 2 e.ctxid ++
  natToBytes 2 e.code ++ natToBytes 8 e.addr ++ (e.info ++ zeros 32).take 32

/-- The entries of SEQ first to first + count − 1 that the ring still holds, in SEQ order; `first` gives 32 bits of the first. -/
def bboxEntries (b : BBox) (first count : Nat) : List BBoxEntry :=
  ((List.range (min b.seq 4096)).map (fun i => b.seq - min b.seq 4096 + i)).filterMap (fun n =>
    if (n + 2 ^ 32 - first) % 2 ^ 32 < count then Bank.get none b.entries (n % 4096) else none)

/-- BBREAD (R388). -/
def execBbread (cmd : Command) (s : State) : Res :=
  command s cmd .management 16 (fun _ => false) (fun s _ b =>
    let n := fld b 12 4
    if n < 1 ∨ n > 4096 then refuse s 3
    else
      let es := bboxEntries s.bbox (fld b 8 4) n
      match writeBuffer s cmd (fld64 b 0) (es.flatMap BBoxEntry.bytes) with
      | .ok s => { st := s, status := 0, value := BitVec.ofNat 64 es.length }
      | .error e => failWith s cmd 0 e (refuse s 3))

/-! ## Migration (R36, R376) -/

/-- A context leaves: all its clusters are saved, and the other module has every feature of its contract. -/
def migrateOut (s : State) (id : Nat) (features : BitVec 512) : State :=
  let c := s.ctx id
  let mine := fun (gk : Nat) => (s.grid gk).used && (s.grid gk).ctxid == id
  if s.grps.any (fun e => e.2.used && e.2.ctxid == id) then s
  else if (c.contract &&& ~~~ features) != 0 then s.setCtx id { c with saved := true }
  else
    let x : Migrated :=
      { ctxid := id, ctx := { c with saved := true }
        objs := s.objs.filter (fun e => (e.2.map (·.ctxid)) == some id)
        grids := s.sched.grids.filter (fun e => mine e.1)
        clusters := s.sched.clusters.filter (fun e => mine (e.1 / 65536))
        saved := s.sched.saved.filter (fun v => mine v.grid) }
    { s with
      away := s.away ++ [x]
      ctxs := Bank.set {} s.ctxs id {}
      objs := s.objs.filter (fun e => (e.2.map (·.ctxid)) != some id)
      sched := { s.sched with
        grids := s.sched.grids.filter (fun e => !mine e.1), clusters := s.sched.clusters.filter (fun e => !mine (e.1 / 65536))
        saved := s.sched.saved.filter (fun v => !mine v.grid) }
      tlb := s.tlb.filter (fun e => e.1 / 2 ^ 40 % 65536 != id) }

/-- A saved group as it arrives: GROUPID.SLOT and WIN.BASE keep the values they had (R36). -/
def keepShown (g : Grp) : Grp := { g with shown := some (g.shown.getD (g.slot, g.bases)) }

/-- A context that left comes back: nothing here has taken its number, its grids or its place in the load table. -/
def migrateIn (s : State) (x : Migrated) : State :=
  if (x.ctx.contract &&& ~~~ deviceFeatures) != 0 || x.grids.any (fun e => (s.grid e.1).used) then s
  else
    let s := x.grids.foldl (fun s e => s.setGrid e.1 e.2) (s.setCtx x.ctxid { x.ctx with saved := false })
    let s := x.clusters.foldl (fun s e => s.setClus e.1 e.2) s
    { s with
      away := s.away.filter (fun y => y.ctxid != x.ctxid)
      objs := x.objs.foldl (fun o e => Bank.set none o e.1 e.2) s.objs
      sched := { s.sched with saved := s.sched.saved ++ x.saved.map (fun (c : SavedCluster) =>
        { c with groups := c.groups.map (fun g => (keepShown g.1, keepShown g.2)) }) } }

/-- The resident clusters of a context. -/
def clustersOf (s : State) (id : Nat) : List Nat :=
  (s.sched.clusters.filter (fun e => e.2.st == .resident && (s.grid (e.1 / 65536)).used && (s.grid (e.1 / 65536)).ctxid == id)).map (·.1)

/-- LIVE_MIGRATION (R36): while clusters of the context are resident, the migrate request of R289 with its budget reaches each; then the
context leaves, or comes back. -/
def execLiveMigration (ctx : Nat) (move : Migration) (s : State) : Res :=
  .next (if ctxAlive s ctx then migrateOut ((clustersOf s ctx).foldl (fun s ck => requestCluster s ck move.budget false) s) ctx move.features
    else if (s.ctx ctx).used then s
    else match s.away.find? (fun x => x.ctxid == ctx) with
      | some x => migrateIn s x
      | none => s)

/-! ## Starts (R389, R390) -/

/-- The measurement over the images in load order, and whether every image verifies (R384). -/
def measureImages : List FwImage → BitVec 256 → BitVec 256 × Bool
  | [], m => (m, true)
  | i :: r, m =>
    if Config.sm2Verify i then
      measureImages r (Config.sm3 (natToBytes 32 m.toNat ++ natToBytes 32 (Config.sm3 i.bytes).toNat))
    else (m, false)

/-- What is in near memory. -/
def inNear (loc : Nat) : Bool := decide (loc < 2 * 2 ^ 40)

/-- The machine as any start leaves it before memory is considered: nothing survives but the management controller, the black box,
what hosts have been sent, the contexts that are on other modules, and the model's own counters. -/
def afterStart (s : State) (m : Mgmt) : State :=
  { mgmt := { m with asked := none, holds := 0 }, bbox := s.bbox, fabric := { self := s.fabric.self }, host := { out := s.host.out }
    away := s.away, free := s.free, tick := s.tick }

/-- The L2 gives up all that it holds, as a start has it: DRAM is left with what was written and, of sectors that were not, with what it held. -/
def emptyL2 (s : State) : State := s.l2.foldl (fun s e => e.2.elim s (s.leaveL2 (keyTag s (e.2.elim 0 (·.key))) e.1)) s

/-- A start that stops at a step, with the steps before it made: KIND 7, and only the management connector answers (R384, R390). START and CLKCAP keep their values even
where it was a cold start: R5 has a cold start clear them and does not say at which step. ERRCNT, which counts since the last cold start, keeps
its value; HOLD[63:32], which counts since the last start, is cleared: R5 does not say of either whether a start that fails is one (DESIGN
CHOICE, log entry 62). -/
def failStart (s0 : State) (m : Mgmt) (step : Nat) (warm : Bool) : State :=
  let s := emptyL2 s0
  let m := { m with failStep := step, failedRow := if warm then m.failedRow + 1 else m.failedRow, dead := true }
  let x := afterStart s m
  let keeps := fun (loc : Nat) => isDram loc && (if inNear loc then decide (step ≤ 5) || (warm && m.start.getLsbD 2) else decide (step ≤ 6))
  { x with
    host := { qps := [], out := s.host.out }, mem := s.mem.filter (fun e => keeps e.1), tags := s.tags.filter (fun e => keeps (e.1 * 32))
    poison := s.poison.filter (fun e => keeps (e.1 * 32))
    bbox := if !warm && decide (step > 4) then { seq := 0, entries := [] } else s.bbox }.bboxAdd 7 0 0 step 0

/-- A cold start. -/
def coldStart (s : State) (imgs : List FwImage) (fail : Nat) : State :=
  let r := measureImages imgs 0
  let m := { s.mgmt with measure := r.1 }
  if !r.2 then failStart s m 1 false
  else if 2 ≤ fail ∧ fail ≤ 7 then failStart s m fail false
  else
    { afterStart s { measure := r.1, failStep := m.failStep, hold := m.hold, clkStep := if m.hold then 20 else 0 } with bbox := {} }

/-- A warm start, which skips step 2; after three that failed in a row it is cold. -/
def warmStart (s : State) (imgs : List FwImage) (fail : Nat) : State :=
  if s.mgmt.failedRow ≥ 3 then coldStart s imgs fail
  else
    let r := measureImages imgs 0
    let m := { s.mgmt with measure := r.1 }
    if !r.2 then failStart s m 1 true
    else if 3 ≤ fail ∧ fail ≤ 7 then failStart s m fail true
    else
      let s := emptyL2 s
      let x := afterStart s { m with lastKind := 2, failedRow := 0, warmCount := m.warmCount + 1, dead := false }
      let x := if m.start.getLsbD 2 then
          { x with mem := s.mem.filter (fun e => inNear e.1), tags := s.tags.filter (fun e => inNear (e.1 * 32)), poison := s.poison.filter (fun e => inNear (e.1 * 32)) }
        else x
      x.bboxAdd 8 0 0 0 0

/-- COLD_START (R389). -/
def execColdStart (imgs : List FwImage) (fail : Nat) (s : State) : Res := .next (coldStart s imgs fail)
/-- WARM_START (R389). -/
def execWarmStart (imgs : List FwImage) (fail : Nat) (s : State) : Res := .next (warmStart s imgs fail)

/-- What a failed start, or a start that is asked for, leaves running: the management controller, which runs the clock and the coolant
hold whatever else stands (R3, R4); the start that was asked for, of its kind (R5); after a failure the management connector. -/
def answers (m : Mgmt) (i : Instr) : Bool :=
  match i with
  | .coldStart _ _ => m.asked.all (fun a => a.1 == 1)
  | .warmStart _ _ => m.asked.all (fun a => a.1 == 2)
  | .coolantHold => true
  | .coolantHoldRelease => true
  | .clockStepChange _ => true
  | .managementConnectorAccess _ => m.asked.isNone
  | _ => !m.dead && m.asked.isNone

end Sys2Proof.Machine
end

