-- ==== Sys2Proof/Machine/Dispatch.lean ====
section
/-! DEFINITION. One arm per instruction: each calls its meaning. -/
namespace Sys2Proof.Machine

def exec (i : Instr) (s : State) : Host.Outcome State Fault Refusal :=
  match i with
  | .add u d a b p => Sys2Proof.Machine.execAdd u d a b p s
  | .sub u d a b p => Sys2Proof.Machine.execSub u d a b p s
  | .mul u d a b p => Sys2Proof.Machine.execMul u d a b p s
  | .mulhi u d a b p => Sys2Proof.Machine.execMulhi u d a b p s
  | .mulhiu u d a b p => Sys2Proof.Machine.execMulhiu u d a b p s
  | .mad u d a b p => Sys2Proof.Machine.execMad u d a b p s
  | .and u d a b p => Sys2Proof.Machine.execAnd u d a b p s
  | .or u d a b p => Sys2Proof.Machine.execOr u d a b p s
  | .xor u d a b p => Sys2Proof.Machine.execXor u d a b p s
  | .andn u d a b p => Sys2Proof.Machine.execAndn u d a b p s
  | .min u d a b p => Sys2Proof.Machine.execMin u d a b p s
  | .max u d a b p => Sys2Proof.Machine.execMax u d a b p s
  | .minu u d a b p => Sys2Proof.Machine.execMinu u d a b p s
  | .maxu u d a b p => Sys2Proof.Machine.execMaxu u d a b p s
  | .add64 u d a b p => Sys2Proof.Machine.execAdd64 u d a b p s
  | .sub64 u d a b p => Sys2Proof.Machine.execSub64 u d a b p s
  | .mul64 u d a b p => Sys2Proof.Machine.execMul64 u d a b p s
  | .mulhi64 u d a b p => Sys2Proof.Machine.execMulhi64 u d a b p s
  | .mulhiu64 u d a b p => Sys2Proof.Machine.execMulhiu64 u d a b p s
  | .mad64 u d a b p => Sys2Proof.Machine.execMad64 u d a b p s
  | .and64 u d a b p => Sys2Proof.Machine.execAnd64 u d a b p s
  | .or64 u d a b p => Sys2Proof.Machine.execOr64 u d a b p s
  | .xor64 u d a b p => Sys2Proof.Machine.execXor64 u d a b p s
  | .andn64 u d a b p => Sys2Proof.Machine.execAndn64 u d a b p s
  | .min64 u d a b p => Sys2Proof.Machine.execMin64 u d a b p s
  | .max64 u d a b p => Sys2Proof.Machine.execMax64 u d a b p s
  | .minu64 u d a b p => Sys2Proof.Machine.execMinu64 u d a b p s
  | .maxu64 u d a b p => Sys2Proof.Machine.execMaxu64 u d a b p s
  | .shl u d a b p => Sys2Proof.Machine.execShl u d a b p s
  | .shr u d a b p => Sys2Proof.Machine.execShr u d a b p s
  | .sar u d a b p => Sys2Proof.Machine.execSar u d a b p s
  | .rot u d a b p => Sys2Proof.Machine.execRot u d a b p s
  | .abs u d a p => Sys2Proof.Machine.execAbs u d a p s
  | .clz u d a p => Sys2Proof.Machine.execClz u d a p s
  | .popc u d a p => Sys2Proof.Machine.execPopc u d a p s
  | .brev u d a p => Sys2Proof.Machine.execBrev u d a p s
  | .bfx u d a b p => Sys2Proof.Machine.execBfx u d a b p s
  | .bfi u d a b p => Sys2Proof.Machine.execBfi u d a b p s
  | .permb u d a b p => Sys2Proof.Machine.execPermb u d a b p s
  | .div u d a b p => Sys2Proof.Machine.execDiv u d a b p s
  | .divu u d a b p => Sys2Proof.Machine.execDivu u d a b p s
  | .rem u d a b p => Sys2Proof.Machine.execRem u d a b p s
  | .remu u d a b p => Sys2Proof.Machine.execRemu u d a b p s
  | .shl64 u d a b p => Sys2Proof.Machine.execShl64 u d a b p s
  | .shr64 u d a b p => Sys2Proof.Machine.execShr64 u d a b p s
  | .sar64 u d a b p => Sys2Proof.Machine.execSar64 u d a b p s
  | .rot64 u d a b p => Sys2Proof.Machine.execRot64 u d a b p s
  | .abs64 u d a p => Sys2Proof.Machine.execAbs64 u d a p s
  | .clz64 u d a p => Sys2Proof.Machine.execClz64 u d a p s
  | .popc64 u d a p => Sys2Proof.Machine.execPopc64 u d a p s
  | .brev64 u d a p => Sys2Proof.Machine.execBrev64 u d a p s
  | .bfx64 u d a b p => Sys2Proof.Machine.execBfx64 u d a b p s
  | .bfi64 u d a b p => Sys2Proof.Machine.execBfi64 u d a b p s
  | .permb64 u d a b p => Sys2Proof.Machine.execPermb64 u d a b p s
  | .div64 u d a b p => Sys2Proof.Machine.execDiv64 u d a b p s
  | .divu64 u d a b p => Sys2Proof.Machine.execDivu64 u d a b p s
  | .rem64 u d a b p => Sys2Proof.Machine.execRem64 u d a b p s
  | .remu64 u d a b p => Sys2Proof.Machine.execRemu64 u d a b p s
  | .addi u d a imm p => Sys2Proof.Machine.execAddi u d a imm p s
  | .muli u d a imm p => Sys2Proof.Machine.execMuli u d a imm p s
  | .andi u d a imm p => Sys2Proof.Machine.execAndi u d a imm p s
  | .ori u d a imm p => Sys2Proof.Machine.execOri u d a imm p s
  | .xori u d a imm p => Sys2Proof.Machine.execXori u d a imm p s
  | .shli u d a imm p => Sys2Proof.Machine.execShli u d a imm p s
  | .shri u d a imm p => Sys2Proof.Machine.execShri u d a imm p s
  | .sari u d a imm p => Sys2Proof.Machine.execSari u d a imm p s
  | .addi64 u d a imm p => Sys2Proof.Machine.execAddi64 u d a imm p s
  | .muli64 u d a imm p => Sys2Proof.Machine.execMuli64 u d a imm p s
  | .andi64 u d a imm p => Sys2Proof.Machine.execAndi64 u d a imm p s
  | .ori64 u d a imm p => Sys2Proof.Machine.execOri64 u d a imm p s
  | .xori64 u d a imm p => Sys2Proof.Machine.execXori64 u d a imm p s
  | .shli64 u d a imm p => Sys2Proof.Machine.execShli64 u d a imm p s
  | .shri64 u d a imm p => Sys2Proof.Machine.execShri64 u d a imm p s
  | .sari64 u d a imm p => Sys2Proof.Machine.execSari64 u d a imm p s
  | .movi u d imm p => Sys2Proof.Machine.execMovi u d imm p s
  | .movi64 u d imm p => Sys2Proof.Machine.execMovi64 u d imm p s
  | .fadd u d a b p => Sys2Proof.Machine.execFadd u d a b p s
  | .fsub u d a b p => Sys2Proof.Machine.execFsub u d a b p s
  | .fmul u d a b p => Sys2Proof.Machine.execFmul u d a b p s
  | .ffma u d a b p => Sys2Proof.Machine.execFfma u d a b p s
  | .fmin u d a b p => Sys2Proof.Machine.execFmin u d a b p s
  | .fmax u d a b p => Sys2Proof.Machine.execFmax u d a b p s
  | .fsgnJ u d a b p => Sys2Proof.Machine.execFsgnJ u d a b p s
  | .fsgnN u d a b p => Sys2Proof.Machine.execFsgnN u d a b p s
  | .fsgnX u d a b p => Sys2Proof.Machine.execFsgnX u d a b p s
  | .fclass u d a p => Sys2Proof.Machine.execFclass u d a p s
  | .fdiv u d a b p => Sys2Proof.Machine.execFdiv u d a b p s
  | .hadd2 u t d a b p => Sys2Proof.Machine.execHadd2 u t d a b p s
  | .hmul2 u t d a b p => Sys2Proof.Machine.execHmul2 u t d a b p s
  | .hfma2 u t d a b p => Sys2Proof.Machine.execHfma2 u t d a b p s
  | .hmin2 u t d a b p => Sys2Proof.Machine.execHmin2 u t d a b p s
  | .hmax2 u t d a b p => Sys2Proof.Machine.execHmax2 u t d a b p s
  | .dadd u d a b p => Sys2Proof.Machine.execDadd u d a b p s
  | .dmul u d a b p => Sys2Proof.Machine.execDmul u d a b p s
  | .dfma u d a b p => Sys2Proof.Machine.execDfma u d a b p s
  | .icmp u c q a b p => Sys2Proof.Machine.execIcmp u c q a b p s
  | .icmp64 u c q a b p => Sys2Proof.Machine.execIcmp64 u c q a b p s
  | .fcmp u c t q a b p => Sys2Proof.Machine.execFcmp u c t q a b p s
  | .plog u o q a b p => Sys2Proof.Machine.execPlog u o q a b p s
  | .sel u sc d a b p => Sys2Proof.Machine.execSel u sc d a b p s
  | .cvt u t d a e k p => Sys2Proof.Machine.execCvt u t d a e k p s
  | .cvtpk u t d a b p => Sys2Proof.Machine.execCvtpk u t d a b p s
  | .cvtupk u t d a k p => Sys2Proof.Machine.execCvtupk u t d a k p s
  | .rcp u d a p => Sys2Proof.Machine.execRcp u d a p s
  | .rsq u d a p => Sys2Proof.Machine.execRsq u d a p s
  | .sqrt u d a p => Sys2Proof.Machine.execSqrt u d a p s
  | .exp2 u d a p => Sys2Proof.Machine.execExp2 u d a p s
  | .log2 u d a p => Sys2Proof.Machine.execLog2 u d a p s
  | .sin u d a p => Sys2Proof.Machine.execSin u d a p s
  | .cos u d a p => Sys2Proof.Machine.execCos u d a p s
  | .tanh u d a p => Sys2Proof.Machine.execTanh u d a p s
  | .shfl u m d a b p => Sys2Proof.Machine.execShfl u m d a b p s
  | .shflImm u m d a n p => Sys2Proof.Machine.execShflImm u m d a n p s
  | .voteAll u q sc p => Sys2Proof.Machine.execVoteAll u q sc p s
  | .voteAny u q sc p => Sys2Proof.Machine.execVoteAny u q sc p s
  | .voteBallot u d sc p => Sys2Proof.Machine.execVoteBallot u d sc p s
  | .voteUni u q sc p => Sys2Proof.Machine.execVoteUni u q sc p s
  | .matchLanes u d a p => Sys2Proof.Machine.execMatchLanes u d a p s
  | .partset u k p => Sys2Proof.Machine.execPartset u k p s
  | .vred u o d a t p => Sys2Proof.Machine.execVred u o d a t p s
  | .vscan u o d a e t p => Sys2Proof.Machine.execVscan u o d a e t p s
  | .mov u d a p => Sys2Proof.Machine.execMov u d a p s
  | .mov64 u d a p => Sys2Proof.Machine.execMov64 u d a p s
  | .movs u d a p => Sys2Proof.Machine.execMovs u d a p s
  | .movsHi u d a p => Sys2Proof.Machine.execMovsHi u d a p s
  | .movs64 u d a p => Sys2Proof.Machine.execMovs64 u d a p s
  | .rdlane u d a n p => Sys2Proof.Machine.execRdlane u d a n p s
  | .rdlane64 u d a n p => Sys2Proof.Machine.execRdlane64 u d a n p s
  | .sadd u d a b p => Sys2Proof.Machine.execSadd u d a b p s
  | .ssub u d a b p => Sys2Proof.Machine.execSsub u d a b p s
  | .smul u d a b p => Sys2Proof.Machine.execSmul u d a b p s
  | .sand u d a b p => Sys2Proof.Machine.execSand u d a b p s
  | .sor u d a b p => Sys2Proof.Machine.execSor u d a b p s
  | .sxor u d a b p => Sys2Proof.Machine.execSxor u d a b p s
  | .sshl u d a b p => Sys2Proof.Machine.execSshl u d a b p s
  | .sshr u d a b p => Sys2Proof.Machine.execSshr u d a b p s
  | .scmp u c q a b p => Sys2Proof.Machine.execScmp u c q a b p s
  | .saddi u d a imm p => Sys2Proof.Machine.execSaddi u d a imm p s
  | .ld u sc d a o p => Sys2Proof.Machine.execLd u sc d a o p s
  | .st u sc d a o p => Sys2Proof.Machine.execSt u sc d a o p s
  | .lda u sc d a z o p => Sys2Proof.Machine.execLda u sc d a z o p s
  | .stl u sc d a z o p => Sys2Proof.Machine.execStl u sc d a z o p s
  | .atomTeam u f d a w b p => Sys2Proof.Machine.execAtomTeam u f d a w b p s
  | .atomCluster u f d a w b p => Sys2Proof.Machine.execAtomCluster u f d a w b p s
  | .atomDevice u f d a w b p => Sys2Proof.Machine.execAtomDevice u f d a w b p s
  | .atomFabric u f d a w b p => Sys2Proof.Machine.execAtomFabric u f d a w b p s
  | .red u f w sc a b p => Sys2Proof.Machine.execRed u f w sc a b p s
  | .atomcas u w sc d a b p => Sys2Proof.Machine.execAtomcas u w sc d a b p s
  | .atomincb u w sc d a b p => Sys2Proof.Machine.execAtomincb u w sc d a b p s
  | .sigf u sc a b p => Sys2Proof.Machine.execSigf u sc a b p s
  | .fence u sc p => Sys2Proof.Machine.execFence u sc p s
  | .wait u l sc t r c => Sys2Proof.Machine.execWait u l sc t r c s
  | .barv u l imm p => Sys2Proof.Machine.execBarv u l imm p s
  | .barw u l imm q p => Sys2Proof.Machine.execBarw u l imm q p s
  | .bars u l imm p => Sys2Proof.Machine.execBars u l imm p s
  | .barst u d l imm p => Sys2Proof.Machine.execBarst u d l imm p s
  | .bra o p => Sys2Proof.Machine.execBra o p s
  | .bru o p => Sys2Proof.Machine.execBru o p s
  | .call o p => Sys2Proof.Machine.execCall o p s
  | .callr a p => Sys2Proof.Machine.execCallr a p s
  | .ret p => Sys2Proof.Machine.execRet p s
  | .jmpr a p => Sys2Proof.Machine.execJmpr a p s
  | .exit p => Sys2Proof.Machine.execExit p s
  | .rjenrol u j p => Sys2Proof.Machine.execRjenrol u j p s
  | .rjpark u j p => Sys2Proof.Machine.execRjpark u j p s
  | .rjout u j p => Sys2Proof.Machine.execRjout u j p s
  | .rjget u d j p => Sys2Proof.Machine.execRjget u d j p s
  | .spawn u d a b p => Sys2Proof.Machine.execSpawn u d a b p s
  | .spawnb u d a b p => Sys2Proof.Machine.execSpawnb u d a b p s
  | .take u d p => Sys2Proof.Machine.execTake u d p s
  | .endt u p => Sys2Proof.Machine.execEndt u p s
  | .tjoin u a p => Sys2Proof.Machine.execTjoin u a p s
  | .role u k p => Sys2Proof.Machine.execRole u k p s
  | .launch u d a q p => Sys2Proof.Machine.execLaunch u d a q p s
  | .tmma u a b p => Sys2Proof.Machine.execTmma u a b p s
  | .tzero u a p => Sys2Proof.Machine.execTzero u a p s
  | .tacld u a p => Sys2Proof.Machine.execTacld u a p s
  | .tacst u a p => Sys2Proof.Machine.execTacst u a p s
  | .tquant u a b p => Sys2Proof.Machine.execTquant u a b p s
  | .tlend u d p => Sys2Proof.Machine.execTlend u d p s
  | .vchain u a p => Sys2Proof.Machine.execVchain u a p s
  | .vatwait u v p => Sys2Proof.Machine.execVatwait u v p s
  | .vattake u v p => Sys2Proof.Machine.execVattake u v p s
  | .vatfree u v p => Sys2Proof.Machine.execVatfree u v p s
  | .cpy u d a b p => Sys2Proof.Machine.execCpy u d a b p s
  | .cpya u d sc p => Sys2Proof.Machine.execCpya u d sc p s
  | .cpyg u d a p => Sys2Proof.Machine.execCpyg u d a p s
  | .cpyx u d a b p => Sys2Proof.Machine.execCpyx u d a b p s
  | .cbload u d a k p => Sys2Proof.Machine.execCbload u d a k p s
  | .qpush u sc q p => Sys2Proof.Machine.execQpush u sc q p s
  | .aaset u a sc p => Sys2Proof.Machine.execAaset u a sc p s
  | .vatarm u a v p => Sys2Proof.Machine.execVatarm u a v p s
  | .cpyabort u p => Sys2Proof.Machine.execCpyabort u p s
  | .decsub u d a p => Sys2Proof.Machine.execDecsub u d a p s
  | .rshd u d a p => Sys2Proof.Machine.execRshd u d a p s
  | .csrr u d c p => Sys2Proof.Machine.execCsrr u d c p s
  | .csrw u a c p => Sys2Proof.Machine.execCsrw u a c p s
  | .feat u d n p => Sys2Proof.Machine.execFeat u d n p s
  | .trap u n p => Sys2Proof.Machine.execTrap u n p s
  | .tret p => Sys2Proof.Machine.execTret p s
  | .brk u n p => Sys2Proof.Machine.execBrk u n p s
  | .nop u => Sys2Proof.Machine.execNop u s
  | .hintImm y => Sys2Proof.Machine.execHintImm y s
  | .hintSched u w h => Sys2Proof.Machine.execHintSched u w h s
  | .hintMod r q m c => Sys2Proof.Machine.execHintMod r q m c s
  | .chunkMovi d imm => Sys2Proof.Machine.execChunkMovi d imm s
  | .chunkMoviHi d imm => Sys2Proof.Machine.execChunkMoviHi d imm s
  | .chunkAddi d a b imm => Sys2Proof.Machine.execChunkAddi d a b imm s
  | .chunkAddiN d a b imm => Sys2Proof.Machine.execChunkAddiN d a b imm s
  | .loop d imm => Sys2Proof.Machine.execLoop d imm s
  | .bnz a imm => Sys2Proof.Machine.execBnz a imm s
  | .yield => Sys2Proof.Machine.execYield s
  | .chunkHalt => Sys2Proof.Machine.execChunkHalt s
  | .chunkCsrr d csr => Sys2Proof.Machine.execChunkCsrr d csr s
  | .chunkCsrw a csr => Sys2Proof.Machine.execChunkCsrw a csr s
  | .bind a ch => Sys2Proof.Machine.execBind a ch s
  | .waitf cc a b => Sys2Proof.Machine.execWaitf cc a b s
  | .chunkSigf a b => Sys2Proof.Machine.execChunkSigf a b s
  | .chunkSigfAdd a b => Sys2Proof.Machine.execChunkSigfAdd a b s
  | .xmit d a b ch => Sys2Proof.Machine.execXmit d a b ch s
  | .recv d a b ch => Sys2Proof.Machine.execRecv d a b ch s
  | .comb m op f d a b ch => Sys2Proof.Machine.execComb m op f d a b ch s
  | .cfwd m fw op f d a b ch => Sys2Proof.Machine.execCfwd m fw op f d a b ch s
  | .tlbinvWrite c v => Sys2Proof.Machine.execTlbinvWrite c v s
  | .hardwareBreakpoint c mask => Sys2Proof.Machine.execHardwareBreakpoint c mask s
  | .loadCompletion c k => Sys2Proof.Machine.execLoadCompletion c k s
  | .storePerformed c k => Sys2Proof.Machine.execStorePerformed c k s
  | .fenceCompletion c k => Sys2Proof.Machine.execFenceCompletion c k s
  | .fenceConflictRollback c k => Sys2Proof.Machine.execFenceConflictRollback c k s
  | .queueEntryArrival c k peer => Sys2Proof.Machine.execQueueEntryArrival c k peer s
  | .copyCompletion c k peer => Sys2Proof.Machine.execCopyCompletion c k peer s
  | .copyFault c k peer refused => Sys2Proof.Machine.execCopyFault c k peer refused s
  | .matrixOperationRetire c k => Sys2Proof.Machine.execMatrixOperationRetire c k s
  | .vchainRetire c k => Sys2Proof.Machine.execVchainRetire c k s
  | .tlbInvalidationComplete c => Sys2Proof.Machine.execTlbInvalidationComplete c s
  | .asyncEventTaken k => Sys2Proof.Machine.execAsyncEventTaken k s
  | .clusterRestore k => Sys2Proof.Machine.execClusterRestore k s
  | .preemptionRequest q => Sys2Proof.Machine.execPreemptionRequest q s
  | .sliceExpiry q => Sys2Proof.Machine.execSliceExpiry q s
  | .drainTimeout grid cluster => Sys2Proof.Machine.execDrainTimeout grid cluster s
  | .dependenceFlagRead q => Sys2Proof.Machine.execDependenceFlagRead q s
  | .clusterPlacement => Sys2Proof.Machine.execClusterPlacement s
  | .impositionStartArrival link slot => Sys2Proof.Machine.execImpositionStartArrival link slot s
  | .impositionStartTimeout k => Sys2Proof.Machine.execImpositionStartTimeout k s
  | .chunkArrival link slot src x => Sys2Proof.Machine.execChunkArrival link slot src x s
  | .waitfFlagRead link slot => Sys2Proof.Machine.execWaitfFlagRead link slot s
  | .reshardPlanning => Sys2Proof.Machine.execReshardPlanning s
  | .curdReceived curd bytes => Sys2Proof.Machine.execCurdReceived curd bytes s
  | .pendingCounterChange tensor => Sys2Proof.Machine.execPendingCounterChange tensor s
  | .commit => Sys2Proof.Machine.execCommit s
  | .participantStop rank => Sys2Proof.Machine.execParticipantStop rank s
  | .decodeRequestAssignment dec => Sys2Proof.Machine.execDecodeRequestAssignment dec s
  | .frameOutput dec fr => Sys2Proof.Machine.execFrameOutput dec fr s
  | .slotStart link slot => Sys2Proof.Machine.execSlotStart link slot s
  | .slotEnd link => Sys2Proof.Machine.execSlotEnd link s
  | .flitReception link f => Sys2Proof.Machine.execFlitReception link f s
  | .remoteRequestTimeout c k => Sys2Proof.Machine.execRemoteRequestTimeout c k s
  | .fecWindowEnd link w bits => Sys2Proof.Machine.execFecWindowEnd link w bits s
  | .retrainingEnd link w ok => Sys2Proof.Machine.execRetrainingEnd link w ok s
  | .clockStepChange slower => Sys2Proof.Machine.execClockStepChange slower s
  | .coolantHold => Sys2Proof.Machine.execCoolantHold s
  | .coolantHoldRelease => Sys2Proof.Machine.execCoolantHoldRelease s
  | .correctedError dram => Sys2Proof.Machine.execCorrectedError dram s
  | .uncorrectableError addr => Sys2Proof.Machine.execUncorrectableError addr s
  | .parityErrorReexecution c mask => Sys2Proof.Machine.execParityErrorReexecution c mask s
  | .sampleTag core quad ctx => Sys2Proof.Machine.execSampleTag core quad ctx s
  | .traceBlockWrite ctx => Sys2Proof.Machine.execTraceBlockWrite ctx s
  | .liveMigration ctx move => Sys2Proof.Machine.execLiveMigration ctx move s
  | .coldStart imgs fail => Sys2Proof.Machine.execColdStart imgs fail s
  | .warmStart imgs fail => Sys2Proof.Machine.execWarmStart imgs fail s
  | .ctxcreate cmd => Sys2Proof.Machine.execCtxcreate cmd s
  | .ctxdestroy cmd => Sys2Proof.Machine.execCtxdestroy cmd s
  | .qpbind cmd => Sys2Proof.Machine.execQpbind cmd s
  | .qopen cmd => Sys2Proof.Machine.execQopen cmd s
  | .qcancel cmd => Sys2Proof.Machine.execQcancel cmd s
  | .hostLaunch cmd => Sys2Proof.Machine.execHostLaunch cmd s
  | .hostTlbinv cmd => Sys2Proof.Machine.execHostTlbinv cmd s
  | .seqctlResume cmd => Sys2Proof.Machine.execSeqctlResume cmd s
  | .seqctlStep cmd => Sys2Proof.Machine.execSeqctlStep cmd s
  | .seqctlAbort cmd => Sys2Proof.Machine.execSeqctlAbort cmd s
  | .seqctlStop cmd => Sys2Proof.Machine.execSeqctlStop cmd s
  | .rsabort cmd => Sys2Proof.Machine.execRsabort cmd s
  | .mrreg cmd => Sys2Proof.Machine.execMrreg cmd s
  | .mrdereg cmd => Sys2Proof.Machine.execMrdereg cmd s
  | .suspend cmd => Sys2Proof.Machine.execSuspend cmd s
  | .linkstat cmd => Sys2Proof.Machine.execLinkstat cmd s
  | .objload cmd => Sys2Proof.Machine.execObjload cmd s
  | .objdrop cmd => Sys2Proof.Machine.execObjdrop cmd s
  | .debugHalt cmd => Sys2Proof.Machine.execDebugHalt cmd s
  | .debugRelease cmd => Sys2Proof.Machine.execDebugRelease cmd s
  | .debugHold cmd => Sys2Proof.Machine.execDebugHold cmd s
  | .debugUnhold cmd => Sys2Proof.Machine.execDebugUnhold cmd s
  | .debugStep cmd => Sys2Proof.Machine.execDebugStep cmd s
  | .debugBkset cmd => Sys2Proof.Machine.execDebugBkset cmd s
  | .debugBkclr cmd => Sys2Proof.Machine.execDebugBkclr cmd s
  | .debugSetpc cmd => Sys2Proof.Machine.execDebugSetpc cmd s
  | .debugDump cmd => Sys2Proof.Machine.execDebugDump cmd s
  | .tracecfg cmd => Sys2Proof.Machine.execTracecfg cmd s
  | .attest cmd => Sys2Proof.Machine.execAttest cmd s
  | .keyload cmd => Sys2Proof.Machine.execKeyload cmd s
  | .bbread cmd => Sys2Proof.Machine.execBbread cmd s
  | .mgmtrd cmd => Sys2Proof.Machine.execMgmtrd cmd s
  | .mgmtwr cmd => Sys2Proof.Machine.execMgmtwr cmd s
  | .rdmaWrite qp rkey off data => Sys2Proof.Machine.execRdmaWrite qp rkey off data s
  | .rdmaRead qp rkey off len => Sys2Proof.Machine.execRdmaRead qp rkey off len s
  | .invalidRequestNak qp => Sys2Proof.Machine.execInvalidRequestNak qp s
  | .ecnMark qp => Sys2Proof.Machine.execEcnMark qp s
  | .ethernetPortDown port => Sys2Proof.Machine.execEthernetPortDown port s
  | .queuedResultWrite c => Sys2Proof.Machine.execQueuedResultWrite c s
  | .managementConnectorAccess x => Sys2Proof.Machine.execManagementConnectorAccess x s

end Sys2Proof.Machine
end

