-- ==== Sys2Proof/Machine/Launch.lean ====
section
/-! DEFINITION. How a program is placed where a step runs it: the loading that State.withFetchWord stands for (log entry 9). -/
namespace Sys2Proof.Machine

/-- A page-table entry that names the next table (Table 11-3). -/
def tableEntry (next : Nat) : Nat := 3 + next / 256 * 2 ^ 8
/-- A leaf of 1 GiB at physical 0 of home 0, readable, writable and executable, plaintext, of a context. -/
def leafEntry (ctxid : Nat) : Nat := 1 + 16 + 32 + ctxid * 2 ^ 48

/-- Places a little-endian number of n bytes in memory. -/
def placeBytes (s : State) (loc n x : Nat) : State :=
  ((natToBytes n x).zipIdx).foldl (fun s b => s.setRaw (loc + b.2) b.1) s

/-- The page tables of the probe: virtual and physical addresses are equal below 1 GiB. -/
def probeTables (s : State) (ctxid : Nat) : State :=
  placeBytes (placeBytes (placeBytes s 0x100000 8 (tableEntry 0x101000)) 0x101000 8 (tableEntry 0x102000)) 0x102000 8 (leafEntry ctxid)

def probeCtx : Context := { used := true, fab := true, ptroot := 0x100000, keys := 1, contract := BitVec.allOnes 512 }
/-- Every barrier counts one group, no feeder and no decoder. -/
def probeKernel : Kernel := { wsizes := [3, 3], bars := List.replicate 28 (1, 0, 0, true) }

/-- A word of the feeder section (R223). -/
def isFeederWord (w : Word) : Bool := match decodeWord w with
  | some i => majorOf i == 46
  | none => false

/-- A group, or feeder context, at place 0 whose lanes stand at `pc`. -/
def probeGrp (feeder : Bool) (pc : Dword) : Grp :=
  { used := true, isFeeder := feeder, grid := 1, ctxid := 1, tq := 0, kern := probeKernel, bases := [0, 0]
    lanes := (if feeder then [0] else lanes32).map (fun l => (l, { pc := pc })) }

def probeWord (s : State) (w : Word) : State :=
  let feeder := isFeederWord w
  let k := if feeder then 1 else 0
  let s := placeBytes (probeTables s 1) 0x20000 4 w.toNat
  let s := (s.setCtx 1 probeCtx).setGrp k (probeGrp feeder 0x20000)
  { s with agenda := [.lanes k (if feeder then 1 else BitVec.allOnes 32)], cur := {} }

/-- A sequencer program of one word in slot 0 of link 0. -/
def probeSlot (w : Dword) : SeqSlot := { st := .ready, imp := { ctxid := 1, words := [w] } }

def probeChunk (s : State) (w : Dword) : State :=
  let s := (probeTables s 1).setCtx 1 probeCtx
  { s with agenda := [.seq 0], cur := {}, seqs := { s.seqs with
      slots := Bank.set {} s.seqs.slots 0 (probeSlot w), links := Bank.set {} s.seqs.links 0 {} } }

/-- The placing of a word of the opcode table: 32 bits for a group or feeder word, 64 for a Fjarmar word. -/
def probe (s : State) (nbits w : Nat) : State :=
  if nbits ≤ 32 then probeWord s (BitVec.ofNat 32 w) else probeChunk s (BitVec.ofNat 64 w)

end Sys2Proof.Machine
end

