-- ==== Sys2Proof/Machine/Schedule.lean ====
section
/-! DEFINITION. The order of issue: the age matrix of a quadrant (R287), the feeder's round-robin (R224), what must happen in the end
(R18, R19, R21), and the flag words that are read again when they are written (R282, R300, R334). -/
namespace Sys2Proof.Machine

/-! ## The age matrix (R287) -/

/-- A lane stands where it waits, or where its run stopped to wait. -/
def Lane.paused (x : Lane) : Bool := x.waiting || x.held || x.stopped == some x.pc

/-- Lane l of a group stands where it may start a run, or go on with one that stopped at a word that had to wait. -/
def startsRun (g : Grp) (l : Nat) : Bool :=
  stands g l && !g.isFeeder && !g.holds l && ((g.lane l).paused || ((g.lane l).run == 0 && !g.fenced (laneBit l)))

/-- The quadrant of a group. -/
def Grp.quadKey (g : Grp) : Nat := g.core * 4 + g.quad
/-- The register-bank half of a group's window base (R26). -/
def Grp.bankHalf (g : Grp) : Bool := decide (g.bases.getD g.role 0 / 512 % 2 = 1)

/-- The unit class of a word, as a bit of a port mask: vector ALU, FP64, special-function, memory, matrix and stream, lane network, scalar
and control (log entry 3); a hint uses none. -/
def unitClass (i : Instr) : Nat :=
  let m := majorOf i
  if m = 0 then 0 else if m = 10 then 2 else if 15 ≤ m ∧ m ≤ 17 then 4 else if 24 ≤ m ∧ m ≤ 36 then 8 else if m = 43 ∨ m = 44 then 16
  else if 18 ≤ m ∧ m ≤ 20 then 32 else if m ≤ 21 then 1 else 64

/-- The port mask of a run of a group from a word on, with so many words left to it. -/
def runPorts (s : State) (g : Grp) : Nat → Dword → Nat
  | 0, _ => 0
  | n + 1, pc => match fetchWord s g pc with
    | .word w => match decodeMarred w with
      | some (i, _) => if bFlag i then unitClass i else unitClass i ||| runPorts s g n (pc + 4)
      | none => 0
    | _ => 0

def State.quad (s : State) (q : Nat) : Quad := Bank.get {} s.order.quads q
def State.setQuad (s : State) (q : Nat) (x : Quad) : State := { s with order := { s.order with quads := Bank.set {} s.order.quads q x } }

/-- An entry holds lane l of group k. -/
def Entry.holds (e : Entry) (k l : Nat) : Bool := e.key == k && inMask e.lanes l
/-- The age matrix, or the second slot, holds lane l of group k. -/
def Quad.entered (x : Quad) (k l : Nat) : Bool := (x.ready ++ x.second.toList).any (fun e => e.holds k l)

/-- Two lanes stand alike: at one word, of one run, trapped or not. -/
def alike (g : Grp) (l l' : Nat) : Bool :=
  (g.lane l).pc == (g.lane l').pc && (g.lane l).sub == (g.lane l').sub && inMask g.tlanes l == inMask g.tlanes l'

/-- What is left of an entry: the lanes that are still ready at its word, and alike. -/
def Entry.left (s : State) (e : Entry) : Entry :=
  let g := s.grp e.key
  let ls := (lanesOf e.lanes).filter (fun l => startsRun g l && (g.lane l).pc == e.pc)
  { e with lanes := maskOf (ls.filter (alike g (ls.headD 0))) }

/-- Lanes of `ls` that the matrix does not hold enter it as the youngest, those that stand alike as one entry. -/
def enterLanes (g : Grp) (k : Nat) (ls : List Nat) (x : Quad) : Quad :=
  ls.foldl (fun x l =>
    if x.entered k l then x
    else { x with ready := x.ready ++ [⟨k, (g.lane l).pc, maskOf (ls.filter (fun l' => alike g l l' && !x.entered k l'))⟩] }) x

/-- Entries whose lanes are no longer ready leave the age matrices; lanes that have become ready to start a run enter. -/
def keepAge (s : State) : State :=
  let s := s.order.quads.foldl (fun s x =>
    let q := s.quad x.1
    s.setQuad x.1 { ready := (q.ready.map (fun e => e.left s)).filter (fun e => e.lanes != 0)
                    second := (q.second.map (fun e => e.left s)).filter (fun e => e.lanes != 0) }) s
  s.grps.foldl (fun s x =>
    s.setQuad x.2.quadKey (enterLanes x.2 x.1 (x.2.live.filter (fun l => startsRun x.2 l && !(x.2.lane l).paused)) (s.quad x.2.quadKey))) s

/-- Turn: lanes whose run stopped at a word that had to wait are ready to go on, and enter as the youngest (R287); a feeder's lane is ready
again (R224). When that is, is the schedule's choice (log entry 3). -/
def readyTurn (s : State) (k : Nat) (m : Word) : State :=
  let g := s.grp k
  if g.isFeeder then
    if stands g 0 then s.modGrp k (fun g => g.modLane 0 (fun x => { x with waiting := false, held := false, stopped := none })) else s
  else s.setQuad g.quadKey (enterLanes g k ((lanesOf m).filter (startsRun g)) (s.quad g.quadKey))

/-- Lanes of an entry start their run. -/
def Entry.hitBy (e : Entry) (k : Nat) (m : Word) : Bool := e.key == k && e.lanes &&& m != 0
/-- The entry that starts next: the second of a cycle, or the oldest of all. -/
def Quad.first (x : Quad) : Option Entry := x.second <|> x.ready.head?

/-- The entry that starts beside entry e: the oldest of those left, of the 64, in the other half of the register bank (R26), with no unit
class in common. -/
def State.secondOf (s : State) (e : Entry) (left : List Entry) : Option Entry :=
  let ports := fun (e : Entry) => runPorts s (s.grp e.key) (24 - ((s.grp e.key).lane ((lowest e.lanes).getD 0)).run) e.pc
  (left.take 63).find? (fun y => (s.grp y.key).bankHalf != (s.grp e.key).bankHalf && ports y &&& ports e == 0)

/-- A group that a tagged word may be of notes a reason for which it stands (R288, R381). -/
def noteStall (s : State) (k reason : Nat) : State :=
  let g := s.grp k
  if (s.ctx g.ctxid).trace.on && tagged s g && !g.stalls.contains reason then
    s.modGrp k (fun g => { g with stalls := g.stalls ++ [reason] }) else s

/-- The lanes that start leave the age matrix. The first run of a cycle finds its second; the entries passed over stand for a conflict, the
younger ones because older ones have started (Table 12-6). -/
def startRun (s : State) (k : Nat) (m : Word) : State :=
  let q := (s.grp k).quadKey
  let x := s.quad q
  let without := fun (es : List Entry) =>
    (es.map (fun e => if e.key == k then { e with lanes := e.lanes &&& ~~~ m } else e)).filter (fun e => e.lanes != 0)
  match x.second, x.ready with
  | none, e :: rest =>
    let second := s.secondOf e (without rest)
    let others := without rest
    let passed := match second with
      | some y => others.takeWhile (fun z => z != y)
      | none => others.take 63
    let s := others.foldl (fun s z => if second == some z then s else noteStall s z.key (if passed.contains z then 8 else 10)) s
    s.setQuad q { ready := (without (e :: rest)).filter (fun z => second != some z), second := second }
  | _, es => s.setQuad q { ready := without es, second := none }

/-! ## The feeder's round-robin (R224) -/

/-- A feeder context that is ready: its lane is active and not waiting. -/
def feederReady (s : State) (k : Nat) : Bool := (s.grp k).isFeeder && stands (s.grp k) 0 && !((s.grp k).lane 0).paused

/-- The context that a core's feeder serves next: the first ready one after the one it served last. -/
def nextFeeder (s : State) (core : Nat) : Option Nat :=
  let last := (Bank.get none s.order.feeders core).getD 47
  (List.range 48).findSome? (fun i =>
    let k := 2 * (core * 48 + (last + 1 + i) % 48) + 1
    if feederReady s k then some k else none)

/-! ## Which turns may be taken -/

/-- A turn that the order of issue allows: a feeder's next context, the entry that starts next, or lanes within a run. -/
def inOrder (s : State) (k : Nat) (m : Word) : Bool :=
  let g := s.grp k
  laneTurnOk g m &&
    (if g.isFeeder then nextFeeder s g.core == some k
     else !(lanesOf m).any (startsRun g) || ((s.quad g.quadKey).first).any (fun e => e.hitBy k m))

/-- The order of issue after lanes have been given a turn. -/
def noteTurn (s : State) (k : Nat) (m : Word) : State :=
  let g := s.grp k
  if g.isFeeder then
    { s with order := { s.order with feeders := Bank.set none s.order.feeders g.core (some (k / 2 % 48)) } }
  else if (lanesOf m).any (startsRun g) then startRun s k m else s

/-- A turn that is chosen: none where the order of issue forbids it. -/
def chosen (s : State) (t : Turn) : Turn × State :=
  match t with
  | .lanes k m => if inOrder s k m then (.lanes k m, noteTurn s k m) else (.lanes k 0, s)
  | t => (t, s)

/-! ## What must happen in the end -/

/-- The lanes that stand with lane l of a group and may issue with it. -/
def matesOf (g : Grp) (l : Nat) : Word :=
  maskOf (g.live.filter (fun x => stands g x && !g.holds x && alike g l x && (startsRun g x == startsRun g l || (g.lane l).sub != 0)))

/-- The turn that ends an operation of the core's own; a copy, or an access to another module, ends with what it moves or is answered
(log entry 3). -/
def OpBody.ending (k id : Nat) : OpBody → List Turn
  | .load _ => [.event (.loadCompletion k id)]
  | .store _ _ => [.event (.storePerformed k id)]
  | .matrix _ => [.event (.matrixOperationRetire k id)]
  | .vchain _ => [.event (.vchainRetire k id)]
  | .copy _ | .remote _ => []

/-- The turns that are due of a group or feeder context, beside those of its lanes. -/
def turnsDue (s : State) (k : Nat) : List Turn :=
  let g := s.grp k
  (g.ops.filter (fun o => !o.done)).flatMap (fun o => o.body.ending k o.id) ++
  g.fences.map (fun f => Turn.event (if f.conflict then .fenceConflictRollback k f.id else .fenceCompletion k f.id)) ++
  (if g.sfq.isEmpty then [] else [Turn.result k]) ++
  (if g.tlbinv.getLsbD 0 then [Turn.event (.tlbInvalidationComplete k)] else []) ++
  (if eventPending s k then [Turn.event (.asyncEventTaken k)] else []) ++
  (if mayRetire s k then [Turn.retire k] else [])

/-- What is due of a group or feeder context. -/
def dueOf (s : State) (k : Nat) : List Due :=
  let g := s.grp k
  (g.live.filter (fun l => stands g l && !g.holds l && !(s.quad g.quadKey).entered k l && !feederReady s k)).map (fun l => Due.lane k l) ++
    (turnsDue s k).map Due.turn

/-- A queue's head packet that waits for its dependences (R282). -/
def waitingHead (x : LaunchQ) : Option Queued := x.packets.head?.filter (fun h => h.checked && h.ready.isNone)

/-- What is due of the module: its quadrants, feeders and sequencers, the placing and retiring of work, the flags of
waiting packets. -/
def dueAll (s : State) : List Due :=
  (s.order.quads.filter (fun x => x.2.first.isSome)).map (fun x => Due.start x.1) ++
  ((List.range 128).filter (fun c => (nextFeeder s c).isSome)).map Due.feeder ++
  (((List.range 32).filter (fun j => (chooseSlot s j).isSome)).map Turn.seq ++
    (s.sched.teams.filter (fun x => x.2.used && x.2.retiring && !x.2.retired)).map (fun x => Turn.retireTeam x.1) ++
    (List.range s.sched.saved.length).map (fun i => Turn.event (.clusterRestore i)) ++
    (s.sched.queues.filter (fun x => (waitingHead x.2).isSome)).map (fun x => Turn.flagRead x.1) ++
    (s.host.qps.filter (fun x => x.2.ahead.isSome)).map (fun x => Turn.rdmaEnd x.1) ++ [Turn.event .clusterPlacement]).map Due.turn ++
  s.grps.flatMap (fun x => dueOf s x.1)

/-- What is due goes on being due a step less, in the order in which it became so; what has become due can be put off for any number of
steps, but only so long. -/
def keepDue (s : State) : State :=
  let now := dueAll s
  let kept := (s.order.due.filter (fun x => now.contains x.1)).map (fun x => (x.1, x.2 - 1))
  { s with order := { s.order with due := kept ++ (now.filter (fun d => !kept.any (fun x => x.1 == d))).map (fun d => (d, Config.patience s.tick)) } }

/-- The turn by which something due happens. -/
def Due.turnOf (s : State) : Due → Turn
  | .lane k l => if ((s.grp k).lane l).paused then .ready k (matesOf (s.grp k) l) else .lanes k (matesOf (s.grp k) l)
  | .start q => match (s.quad q).first with
    | some e =>
      let g := s.grp e.key
      let l := (lowest e.lanes).getD 0
      .lanes e.key (if (g.lane l).sub = 0 then e.lanes else matesOf g l)
    | none => .lanes 0 0
  | .feeder c => .lanes ((nextFeeder s c).getD 0) 1
  | .turn t => t

/-- What is due is taken off the list as it happens; what then still is comes after all that waits already. -/
def settleDue (s : State) (d : Due) : State :=
  { s with order := { s.order with due := s.order.due.filter (fun x => x.1 != d) } }

/-! ## Flag words that are watched -/

/-- A dependence of a packet that is not latched and that its flag word now satisfies. -/
def newlyMet (s : State) (ctxid : Nat) (h : Queued) : Bool :=
  (List.range h.packet.ndep).any (fun i => !h.latched.contains i && (match readFlag s whoHost ctxid (h.packet.depAddr i) with
    | .ok v => depMet (h.packet.cmp i) v (h.packet.depVal i)
    | .error _ => false))

/-- The queue whose head packet waits for a dependence that its flag word now satisfies (R282). -/
def flagDue (s : State) : Option Nat :=
  (s.sched.queues.find? (fun x => (waitingHead x.2).any (newlyMet s x.2.ctxid))).map (·.1)

/-- A sequencer context waits for a flag word that now ends its wait (R300). -/
def waitDue (s : State) : Option (Nat × Nat) :=
  s.seqs.slots.findSome? (fun x =>
    if x.1 < 128 && x.2.st == .waiting && !x.2.frozen && x.2.wait == some .flag then
      match decodeChunk (x.2.imp.words.getD x.2.pc 0) with
      | some (.waitf cc a b) => match waitfRead s (x.1 / 4) x.2 cc a b with
        | .go _ _ => some (x.1 / 4, x.1 % 4)
        | _ => none
      | _ => none
    else none)

/-- A tensor whose pending-reduction counter is not as the engine last read it (R334). -/
def counterDue (s : State) : Option Nat :=
  if !rsLive s then none
  else (List.range (s.rs.formes.elim 0 (fun f => f.1.tensors.length))).find? (fun t => match rsCounter s t with
    | .error _ => false
    | .ok n => decide (n ≠ 0) != s.rs.held.contains t)

/-- The reading of a watched word that a write has changed; it comes before any other turn. -/
def watched (s : State) : Option Turn :=
  if s.mgmt.dead || s.mgmt.asked.isSome then none
  else match flagDue s, waitDue s, counterDue s with
    | some q, _, _ => some (.flagRead q)
    | none, some (j, n), _ => some (.waitRead j n)
    | none, none, some t => some (.counterRead t)
    | none, none, none => none

/-- The next turn: the first of the agenda; else the reading of a watched word; else what can be put off no longer; else any that the
order of issue allows (log entry 3). -/
def nextTurn (s : State) (n : Nat) : Turn × State :=
  match s.agenda with
  | t :: rest => (t, { s with agenda := rest })
  | [] => match watched s with
    | some t => (t, s)
    | none =>
      let s := keepDue (keepAge s)
      match s.order.due.find? (fun x => x.2 == 0) with
      | some (d, _) => chosen (settleDue s d) (d.turnOf s)
      | none => chosen s (Config.turn n)

end Sys2Proof.Machine
end

