-- ==== Sys2Proof/Machine/Turns.lean ====
section
/-! DEFINITION. What each turn comes to (R17 to R19, R287, R318): issues, sequencers, retirements, caches and TLBs, messages,
completions; and what a start leaves running. -/
namespace Sys2Proof.Machine

/-- An L1 takes the sector of an address of a context, where its page may be held there (R264, R265): a clean copy of every byte it
does not hold, but not of a word that is poisoned; the sector streams if its page does. -/
def fillSector (s : State) (core ctxid : Nat) (va : Dword) : State :=
  if core ≥ 128 ∨ regionOf va ≠ .global then s
  else match translate s whoHost ctxid (s.ctx ctxid) .read va with
    | .ok phys _ cache =>
      if cache = 2 then s
      else
        let s := (List.range 256).foldl (fun s i =>
          let loc := phys / 256 * 256 + i
          if (s.l1Byte core loc).isSome || s.isPoisoned loc then s else s.setL1 core loc (some (false, s.rawByte loc))) s
        { s with streams := Bank.set false s.streams (streamKey core (phys / 256)) (cache == 1) }.fitL1 core
    | _ => s

/-- The L2 gives a sector up, unless an L1 holds bytes of it. -/
def dropL2 (s : State) (sector : Nat) : State :=
  match Bank.get none s.l2 sector with
  | none => s
  | some x => if s.l1.any (fun e => e.1 % 2 ^ 42 / 256 == sector) then s else s.leaveL2 (keyTag s x.key) sector x

/-- The L2 of a die holds 384 MiB: 1,572,864 sectors (Table 0-1). One more sends a sector of the die back: a streaming one first (R265). -/
def fitL2 (s : State) (die : Nat) : State :=
  let mine := s.l2.filter (fun e => homeDie (e.1 * 256) == die && !s.l1.any (fun y => y.1 % 2 ^ 42 / 256 == e.1))
  let first := mine.filter (fun e => e.2.any (·.stream))
  let from_ := (if first.isEmpty then mine else first).map (·.1)
  dropL2 s (from_.getD (Config.evicted s.tick % from_.length) 0)

/-- The L2 takes up the sector of an address of a context, under its page's key id (R265, R274). -/
def fillL2 (s : State) (ctxid : Nat) (va : Dword) : State :=
  if regionOf va ≠ .global then s
  else match translate s whoHost ctxid (s.ctx ctxid) .read va with
    | .ok phys key cache =>
      if cache = 2 ∨ (Bank.get none s.l2 (phys / 256)).any (fun x => x.key == key) then s
      else
        let full := fun (s : State) => decide ((s.l2.filter (fun e => homeDie (e.1 * 256) == homeDie phys)).length ≥ 1572864)
        let s := if full s then fitL2 s (homeDie phys) else s
        if full s then s else s.enterL2 (phys / 256) key (keyTag s key) (cache == 1)
    | _ => s

/-- An instruction cache keeps a word no longer, nor its poison (R276). -/
def State.dropCode (s : State) (key : Nat) : State :=
  { s with l1i := Bank.set none s.l1i key none, poison := Bank.set false s.poison (l1iPoisonLoc 0 key / 32) false }

/-- An instruction cache takes the word of an address of a context; of its 128 KiB, 32,768 words, one makes room, any one. -/
def fetchFill (s : State) (core ctxid : Nat) (va : Dword) : State :=
  if core ≥ 128 ∨ regionOf va ≠ .global then s
  else match translate s whoHost ctxid (s.ctx ctxid) .exec va with
    | .ok phys key cache =>
      if cache = 2 then s else
      match memWord s (some core) (keyTag s key) (phys / 4 * 4) with
      | .error _ => s
      | .ok w =>
        let mine := (s.l1i.filter (fun e => e.1 / 2 ^ 40 == core)).map (·.1)
        let s := if mine.length < 32768 then s else s.dropCode (mine.getD (Config.evicted s.tick % mine.length) 0)
        let s := s.dropCode (l1iKey core phys)
        { s with l1i := Bank.set none s.l1i (l1iKey core phys) (some (keyTag s key, w)) }
    | _ => s

/-- An instruction cache gives a word up. -/
def fetchDrop (s : State) (core word : Nat) : State := s.dropCode (core * 2 ^ 40 + word % 2 ^ 40)

/-- A turn of link j's sequencer: its slot runs the word at its PC (R295, R318); slot 3 moves the re-sharding engine's curds (R293). -/
def seqTurn (s : State) (j : Nat) : Doing :=
  match chooseSlot s j with
  | none => .done s
  | some 3 => .done (curdTurn s j)
  | some n =>
    let s := selectSlot s j n
    let k := slotKey j n
    let x := s.slot k
    if x.pc ≥ x.imp.words.length then .done (stopSlot s j k 0x41 0 0)
    else match decodeChunk (x.imp.words.getD x.pc 0) with
      | none => .done (stopSlot s j k 0x40 0 0)
      | some i => .run i { s with seqs := { s.seqs with cur := some j } }

/-- The state after an event that always happens. -/
def stateAfter (s : State) : Res → State
  | .next t => t
  | _ => s

/-- What a turn comes to. While a start is asked for, nothing else takes a turn, completions neither: the MGMTWR that asked for it is never
completed, since the start discards its queue pair (DESIGN CHOICE, log entry 102). -/
def turnOf (s : State) (t : Turn) : Doing :=
  match t with
  | .event i => if answers s.mgmt i then .run i ((commandPair i).elim s (endAhead s)) else .done s
  | t =>
    if s.mgmt.dead || s.mgmt.asked.isSome then .done s
    else match t with
      | .lanes k m => lanesTurn s k m
      | .ready k m => .done (readyTurn s k m)
      | .seq j => if j < 32 then seqTurn s j else .done s
      | .event _ => .done s
      | .retire k => .done (retireGroup s k)
      | .retireTeam tk => .done (retireTeam s tk)
      | .writeBack core sector => .done (s.flushSector core sector)
      | .perform k id i => .done (performPart s k id i)
      | .reload k id i => .done (reloadPart s k id i)
      | .engineSee k id loc => .done (engineSee s k id loc)
      | .engineDo k id i part => .done (engineDo s k id i part)
      | .frameStart dec fr => .done (beginFrame s dec fr)
      | .frameByte dec i => .done (frameByte s dec i)
      | .copySee k id i => .done (copyEarly s k id false i 1)
      | .copyMove k id i n => .done (copyEarly s k id true i n)
      | .fill core ctxid va => .done (fillSector s core ctxid va)
      | .l2Fill ctxid va => .done (fillL2 s ctxid va)
      | .l2Drop sector => .done (dropL2 s sector)
      | .rdmaPart x n => .done (rdmaPart s x n)
      | .rdmaEnd qp => .done (endAhead s qp)
      | .curdSee m c i n => .done (curdSee s m c i n)
      | .curdMove j i n => .done (curdMove s j i n)
      | .fetchFill core ctxid va => .done (fetchFill s core ctxid va)
      | .fetchDrop core word => .done (fetchDrop s core word)
      | .deliver k => .done (deliver s k)
      | .transmit j k => .done (transmit s j k)
      | .tlbFill who ctxid page => .done (tlbFill s who ctxid page)
      | .tlbDrop who ctxid page => .done (tlbDrop s who ctxid page)
      | .reply qp => .done (sendReply s qp)
      | .result k => .done (stateAfter s (execQueuedResultWrite k s))
      | .flagRead q => .done (stateAfter s (execDependenceFlagRead q s))
      | .waitRead j n => .done (stateAfter s (execWaitfFlagRead j n s))
      | .counterRead t => .done (stateAfter s (execPendingCounterChange t s))
      | .unknownCommand op cmd => .done (unknownCommand s op cmd)

/-- A prefix group is in progress, and goes on with its next word (R52). -/
def inGroup (s : State) : Bool := s.cur.lanes != 0 && !(s.mgmt.dead || s.mgmt.asked.isSome)

/-- What a step comes to: time passes, then the issue in progress goes on or the next turn is taken. -/
def stepDoing (s0 : State) : Doing :=
  let s := passTime s0
  if inGroup s then fetchTurn s
  else
    let x := nextTurn s s0.tick
    turnOf x.2 x.1

end Sys2Proof.Machine
end

