-- ==== Sys2Proof/Machine/Step.lean ====
section
/-! DEFINITION. One step of the machine, and the placing of one instruction where the next step runs it. -/
namespace Sys2Proof.Machine

/-- A step: what it comes to (Machine/Turns.lean) is a state, or an instruction that is executed. -/
def step (s : State) : Host.Outcome State Fault Refusal :=
  match stepDoing s with
  | .done s => .next s
  | .run i s => exec i s

/-- The state with an instruction of the opcode table placed where the next step runs it (log entry 9). -/
def State.withFetchWord (s : State) (nbits w : Nat) : State := probe s nbits w

end Sys2Proof.Machine
end

