-- ==== Sys2Proof/Safety.lean ====
section
/-! DEFINITION. What the claims are stated in: when a word in progress runs to its end, the group as its issue finds it, what an
issue leaves behind, and what a lane's result is. -/
namespace Sys2Proof.Machine

/-! ## The word in progress -/

/-- The group or feeder context of the issue in progress. -/
def State.key (s : State) : Nat := s.cur.key

/-- What the meaning of the word in progress is given: the group with its operand queues popped (R24), the lanes that stand at the word, those of them in Act (R11), the addresses of its prefix group and of the next word. -/
def viewOf (i : Instr) (s : State) : View :=
  let g := s.grp s.key
  let q := (popQueues g.qwinOn g (useOf i).src).getD ([], g)
  ⟨s.key, q.2.enterWord g.queues s.cur.lanes (actOf g s.cur.lanes i) i, s.cur.lanes, actOf g s.cur.lanes i, s.cur.pc, s.cur.next, s.cur.pre, q.1⟩

/-- The lanes of Act. -/
def acting (i : Instr) (s : State) : List Nat := lanesOf (viewOf i s).act

/-- The word in progress, instruction i, runs (Table 2-11, R24, R43, R132, R133, R174, Table 7-9): lanes stand at it; its run has
room for it; it passes the decode checks; no fence and no awaited register holds it back; every queue it pops has an entry; it reads no
poisoned register (R276); the contract of its context grants what it needs. `unobserved` adds that no lane is single-stepped (R146) and the
context is not traced (R381). -/
def runs (i : Instr) (s : State) : Bool :=
  s.cur.lanes != 0 && (s.cur.pos != 0 || overRun (s.grp s.key) s.cur.lanes 1 == 0) &&
    decodeTrap (s.grp s.key) s.cur.lanes s.cur.pre {} i == none && !mustStall (s.grp s.key) s.cur.lanes (viewOf i s).act i &&
    (popQueues (s.grp s.key).qwinOn (s.grp s.key) (useOf i).src).isSome &&
    poisonedSrc (s.grp s.key) (actOf (s.grp s.key) s.cur.lanes i) i == none &&
    missingFeature (s.ctx (s.grp s.key).ctxid).contract s.cur.pre i == none
def unobserved (s : State) : Bool :=
  (lanesOf s.cur.lanes).all (fun l => !((s.grp s.key).lane l).stepArm) && !(s.ctx (s.grp s.key).ctxid).trace.on
def ready (i : Instr) (s : State) : Bool := runs i s && unobserved s

/-- The state in which the word's effect starts: its queues are popped and the issue is over. -/
def enter (i : Instr) (s : State) : State := clearCur (s.setGrp s.key (viewOf i s).g)

/-- How a lane stands after it completes the word (R43, R121): at the next word, its run one instruction longer or, where the word
carries B, at its end. -/
def after (i : Instr) (s : State) (x : Lane) : Lane :=
  x.advance (bFlag i) (viewOf i s).words s.cur.lanes s.cur.next

/-- How an outcome moves its lane: on to the next word, to a target where a run starts, into waiting, or not at all. -/
def moved (i : Instr) (s : State) (o : LaneOut) (x : Lane) : Lane :=
  match o with
  | .ok => after i s x
  | .goto t => x.advance true (viewOf i s).words s.cur.lanes t
  | .wait => { x with waiting := true, stopped := some x.pc }
  | _ => x

/-- The lanes have moved as their outcomes say; a lane that stands at the word outside Act completes it (R121). -/
def settle (i : Instr) (s : State) (outs : List (Nat × LaneOut)) (t : State) : State :=
  t.modGrp s.key (fun g => moveLanes g (viewOf i s) (bFlag i) (outs ++ idleOuts s.cur.lanes (viewOf i s).act))

/-- What a word whose lanes in Act all trap leaves for the trap to be taken in: the lanes outside Act have gone on, and the registers of
the lanes that complete it (`done`) alone are poisoned no longer (R133, R276). -/
def trapping (i : Instr) (s : State) (done : Word) : State :=
  (settle i s [] (enter i s)).modGrp s.key (fun g => g.keepPoison (s.grp s.key).poison done)

/-- Every lane that stands at the word has completed it. -/
def leave (i : Instr) (s t : State) : State :=
  t.modGrp s.key (fun g => (acting i s ++ lanesOf (s.cur.lanes &&& ~~~ (viewOf i s).act)).foldl (fun g l => g.modLane l (after i s)) g)

/-- t is the state after the word i: nothing but the issuing group differs from s, that group has become G, and every lane that stood
at the word has completed it. -/
structure Leaves (i : Instr) (s t : State) (G : Grp) : Prop where
  rest : t = s.put t.grps
  others : ∀ k, k ≠ s.key → t.grp k = s.grp k
  group : t.grp s.key = G.put G.v (t.grp s.key).lanes
  moved : ∀ l, inMask s.cur.lanes l = true → (t.grp s.key).lane l = after i s (G.lane l)
  off : ∀ l, inMask s.cur.lanes l = false → (t.grp s.key).lane l = G.lane l

/-- The word i runs to its end and the issuing group becomes G. -/
def makes (i : Instr) (s : State) (G : Grp) : Prop := ∃ t, exec i s = .next t ∧ Leaves i s t G

/-- The word i runs to its end with the effect E. -/
def completes (i : Instr) (s : State) (E : State → State) : Prop := exec i s = .next (leave i s (E (enter i s)))

/-! ## Results lane by lane -/

/-- What a word gives one lane: registers and predicates with their new values, the flags it raises, and the lane's generator where
the word steps it. -/
structure LaneResult where
  regs  : List (Nat × Word) := []
  preds : List (Nat × Bool) := []
  flags : Word := 0
  seed  : Option Word := none
  deriving DecidableEq, Repr

/-- One 32-bit value in register d; a pair in d and d + 1, the low half first (R23); a predicate. -/
def one (d : Nat) (x : Word) (fl : Word := 0) : LaneResult := { regs := [(d, x)], flags := fl }
def two (d : Nat) (x : Dword) (fl : Word := 0) : LaneResult :=
  { regs := [(d, x.extractLsb' 0 32), (d + 1, x.extractLsb' 32 32)], flags := fl }
def predicate (q : Nat) (x : Bool) (fl : Word := 0) : LaneResult := { preds := [(q, x)], flags := fl }

/-- The generator of a lane after one step under mode m, and the random value of that step (R75). -/
def stepped (m : Nat) (seed : Word) : Word := if m = 4 then (stepGen seed).1 else seed
def drawn (m : Nat) (seed : Word) : Nat := if m = 4 then (stepGen seed).2 else 0

/-- The results of a rounding word: `f` is given the lane, the mode of R91 and the random value of R75; one register, a pair, or two
16-bit elements, element 0 rounded first (R99). -/
def rounded (i : Instr) (s : State) (d : Nat) (f : Nat → Nat → Nat → FRes) (l : Nat) : LaneResult :=
  let m := dynMode (viewOf i s)
  let seed := ((s.grp s.key).lane l).srseed
  let x := f l m (drawn m seed)
  { one d (FRes.w32 x) x.flags with seed := some (stepped m seed) }
def rounded64 (i : Instr) (s : State) (d : Nat) (f : Nat → Nat → Nat → FRes) (l : Nat) : LaneResult :=
  let m := dynMode (viewOf i s)
  let seed := ((s.grp s.key).lane l).srseed
  let x := f l m (drawn m seed)
  { two d (FRes.w64 x) x.flags with seed := some (stepped m seed) }
def roundedPair (i : Instr) (s : State) (d : Nat) (f : Nat → Nat → Nat → Nat → FRes) (l : Nat) : LaneResult :=
  let m := dynMode (viewOf i s)
  let seed := ((s.grp s.key).lane l).srseed
  let x := pair16 (f 0 l m (drawn m seed)) (f 1 l m (drawn m (stepped m seed))) 16
  { one d (FRes.w32 x) x.flags with seed := some (stepped m (stepped m seed)) }

/-- The predicates, FLAGS (sticky, R31) and generator of a lane that takes a result. -/
def LaneResult.into (r : LaneResult) (x : Lane) : Lane :=
  { x with preds := r.preds.foldl (fun m q => if q.1 = 0 then m else setBit8 m q.1 q.2) x.preds
           flags := x.flags ||| r.flags, srseed := r.seed.getD x.srseed }

/-- What register n reads in a lane that takes a result: the value given last, else what it held. -/
def LaneResult.reads (r : LaneResult) (old : Nat → Word) (n : Nat) : Word :=
  r.regs.foldl (fun v x => if x.1 = n then x.2 else v) (old n)

/-- The word i has run in s with the results r, and t is the state after it: nothing but the issuing group differs, and of that
group only the lanes that stood at the word and the registers of those in Act. -/
structure Gives (i : Instr) (s t : State) (r : Nat → LaneResult) : Prop where
  rest : t = s.put t.grps
  others : ∀ k, k ≠ s.key → t.grp k = s.grp k
  group : t.grp s.key = (viewOf i s).g.put (t.grp s.key).v (t.grp s.key).lanes
  act : ∀ l, inMask (viewOf i s).act l = true → (t.grp s.key).lane l = (after i s) ((r l).into ((s.grp s.key).lane l)) ∧
    ∀ n, n < 64 → (t.grp s.key).rv n l = (r l).reads (fun n => (s.grp s.key).rv n l) n
  idle : ∀ l, inMask s.cur.lanes l = true → inMask (viewOf i s).act l = false →
    (t.grp s.key).lane l = after i s ((s.grp s.key).lane l)
  off : ∀ l, inMask s.cur.lanes l = false → (t.grp s.key).lane l = (s.grp s.key).lane l
  kept : ∀ j, (∀ l n, inMask (viewOf i s).act l = true → n < 64 → j ≠ (s.grp s.key).vkey n l) →
    Bank.get 0 (t.grp s.key).v j = Bank.get 0 (s.grp s.key).v j

/-- A word gives its results: it runs to its end, and the state it leaves is the one `Gives` describes. -/
def yields (i : Instr) (s : State) (r : Nat → LaneResult) : Prop :=
  ∃ t, exec i s = .next t ∧ Gives i s t r

end Sys2Proof.Machine
end

