-- ==== Sys2Proof/WellFormed.lean ====
section
/-! DEFINITION. Which terms of Instr stand for something the hardware can meet: a word that has an encoding, a command whose
header and length are those of its row, an event whose party, indexes and data lie in the ranges the spec gives them. A word's
field values need no check here: their types hold exactly what the encoding holds, and the values that the spec reserves trap
when the word is executed (R46, R57). -/
namespace Sys2Proof

/-- Groups and feeder contexts have indexes 2 × place and 2 × place + 1, of 128 × 4 × 12 places (R11, R14). -/
def isCtxKey (k : Nat) : Bool := decide (k < 2 * (128 * 4 * 12))
def isGroupKey (k : Nat) : Bool := isCtxKey k && k % 2 == 0
def isFeederKey (k : Nat) : Bool := isCtxKey k && k % 2 == 1

/-- A command on one of the 256 queue pairs (R361) with a body of its row's length and no reserved bit set in its header
(R364, Table 16-5). -/
def Command.wf (c : Command) (n : Nat) : Bool :=
  decide (c.qp < 256) && c.len == n && c.body.length == n && c.rsvd == 0

/-- The action number a command carries at a byte of its body (Tables 13-12 and 18-1). -/
def actionAt (c : Command) (off n : Nat) : Bool := c.body.getD off 0 == BitVec.ofNat 8 n

/-- A chunk has 16 to 65,536 bytes in 16-byte units, a rank below 128 and a slot below 4: those of slot 3 are curds (R302, R303, R332). -/
def Chunk.wf (c : Chunk) : Bool :=
  c.payload.length % 16 == 0 && decide (16 ≤ c.payload.length) && decide (c.payload.length ≤ 65536) &&
    decide (c.rank < 128) && decide (c.slot < 4)

/-- A flit has eight waves at most and at most fifteen units of payload (R350). -/
def Flit.wf (f : Flit) : Bool := decide (f.waves.length ≤ 8) && decide (f.units.length ≤ 15)

/-- A decoder's finding has one of the error kinds of Table 15-5 and names reference slots 0 to 7. -/
def FrameInfo.wf (f : FrameInfo) : Bool :=
  decide (f.err ≤ 7) && f.refs.all (fun r => decide (r < 8)) && f.refresh.all (fun r => decide (r < 8)) && f.pic.wf &&
    f.existing.all (fun r => decide (r < 8)) &&
    f.hidden.all (fun x => x.refs.all (fun r => decide (r < 8)) && x.refresh.all (fun r => decide (r < 8)) && x.pic.wf)

/-- The management connector reaches the links 0 to 31 (R360). -/
def MgmtAccess.wf (x : MgmtAccess) : Bool :=
  match x with
  | .read _ => true
  | .write _ _ => true
  | .link j _ => decide (j < 32)

/-- The check of a term. -/
def Instr.wf (i : Instr) : Bool :=
  match i with
  | .add _ _ _ _ _ => true
  | .sub _ _ _ _ _ => true
  | .mul _ _ _ _ _ => true
  | .mulhi _ _ _ _ _ => true
  | .mulhiu _ _ _ _ _ => true
  | .mad _ _ _ _ _ => true
  | .and _ _ _ _ _ => true
  | .or _ _ _ _ _ => true
  | .xor _ _ _ _ _ => true
  | .andn _ _ _ _ _ => true
  | .min _ _ _ _ _ => true
  | .max _ _ _ _ _ => true
  | .minu _ _ _ _ _ => true
  | .maxu _ _ _ _ _ => true
  | .add64 _ _ _ _ _ => true
  | .sub64 _ _ _ _ _ => true
  | .mul64 _ _ _ _ _ => true
  | .mulhi64 _ _ _ _ _ => true
  | .mulhiu64 _ _ _ _ _ => true
  | .mad64 _ _ _ _ _ => true
  | .and64 _ _ _ _ _ => true
  | .or64 _ _ _ _ _ => true
  | .xor64 _ _ _ _ _ => true
  | .andn64 _ _ _ _ _ => true
  | .min64 _ _ _ _ _ => true
  | .max64 _ _ _ _ _ => true
  | .minu64 _ _ _ _ _ => true
  | .maxu64 _ _ _ _ _ => true
  | .shl _ _ _ _ _ => true
  | .shr _ _ _ _ _ => true
  | .sar _ _ _ _ _ => true
  | .rot _ _ _ _ _ => true
  | .abs _ _ _ _ => true
  | .clz _ _ _ _ => true
  | .popc _ _ _ _ => true
  | .brev _ _ _ _ => true
  | .bfx _ _ _ _ _ => true
  | .bfi _ _ _ _ _ => true
  | .permb _ _ _ _ _ => true
  | .div _ _ _ _ _ => true
  | .divu _ _ _ _ _ => true
  | .rem _ _ _ _ _ => true
  | .remu _ _ _ _ _ => true
  | .shl64 _ _ _ _ _ => true
  | .shr64 _ _ _ _ _ => true
  | .sar64 _ _ _ _ _ => true
  | .rot64 _ _ _ _ _ => true
  | .abs64 _ _ _ _ => true
  | .clz64 _ _ _ _ => true
  | .popc64 _ _ _ _ => true
  | .brev64 _ _ _ _ => true
  | .bfx64 _ _ _ _ _ => true
  | .bfi64 _ _ _ _ _ => true
  | .permb64 _ _ _ _ _ => true
  | .div64 _ _ _ _ _ => true
  | .divu64 _ _ _ _ _ => true
  | .rem64 _ _ _ _ _ => true
  | .remu64 _ _ _ _ _ => true
  | .addi _ _ _ _ _ => true
  | .muli _ _ _ _ _ => true
  | .andi _ _ _ _ _ => true
  | .ori _ _ _ _ _ => true
  | .xori _ _ _ _ _ => true
  | .shli _ _ _ _ _ => true
  | .shri _ _ _ _ _ => true
  | .sari _ _ _ _ _ => true
  | .addi64 _ _ _ _ _ => true
  | .muli64 _ _ _ _ _ => true
  | .andi64 _ _ _ _ _ => true
  | .ori64 _ _ _ _ _ => true
  | .xori64 _ _ _ _ _ => true
  | .shli64 _ _ _ _ _ => true
  | .shri64 _ _ _ _ _ => true
  | .sari64 _ _ _ _ _ => true
  | .movi _ _ _ _ => true
  | .movi64 _ _ _ _ => true
  | .fadd _ _ _ _ _ => true
  | .fsub _ _ _ _ _ => true
  | .fmul _ _ _ _ _ => true
  | .ffma _ _ _ _ _ => true
  | .fmin _ _ _ _ _ => true
  | .fmax _ _ _ _ _ => true
  | .fsgnJ _ _ _ _ _ => true
  | .fsgnN _ _ _ _ _ => true
  | .fsgnX _ _ _ _ _ => true
  | .fclass _ _ _ _ => true
  | .fdiv _ _ _ _ _ => true
  | .hadd2 _ _ _ _ _ _ => true
  | .hmul2 _ _ _ _ _ _ => true
  | .hfma2 _ _ _ _ _ _ => true
  | .hmin2 _ _ _ _ _ _ => true
  | .hmax2 _ _ _ _ _ _ => true
  | .dadd _ _ _ _ _ => true
  | .dmul _ _ _ _ _ => true
  | .dfma _ _ _ _ _ => true
  | .icmp _ _ _ _ _ _ => true
  | .icmp64 _ _ _ _ _ _ => true
  | .fcmp _ _ _ _ _ _ _ => true
  | .plog _ _ _ _ _ _ => true
  | .sel _ _ _ _ _ _ => true
  | .cvt _ _ _ _ _ _ _ => true
  | .cvtpk _ _ _ _ _ _ => true
  | .cvtupk _ _ _ _ _ _ => true
  | .rcp _ _ _ _ => true
  | .rsq _ _ _ _ => true
  | .sqrt _ _ _ _ => true
  | .exp2 _ _ _ _ => true
  | .log2 _ _ _ _ => true
  | .sin _ _ _ _ => true
  | .cos _ _ _ _ => true
  | .tanh _ _ _ _ => true
  | .shfl _ _ _ _ _ _ => true
  | .shflImm _ _ _ _ _ _ => true
  | .voteAll _ _ _ _ => true
  | .voteAny _ _ _ _ => true
  | .voteBallot _ _ _ _ => true
  | .voteUni _ _ _ _ => true
  | .matchLanes _ _ _ _ => true
  | .partset _ _ _ => true
  | .vred _ _ _ _ _ _ => true
  | .vscan _ _ _ _ _ _ _ => true
  | .mov _ _ _ _ => true
  | .mov64 _ _ _ _ => true
  | .movs _ _ _ _ => true
  | .movsHi _ _ _ _ => true
  | .movs64 _ _ _ _ => true
  | .rdlane _ _ _ _ _ => true
  | .rdlane64 _ _ _ _ _ => true
  | .sadd _ _ _ _ _ => true
  | .ssub _ _ _ _ _ => true
  | .smul _ _ _ _ _ => true
  | .sand _ _ _ _ _ => true
  | .sor _ _ _ _ _ => true
  | .sxor _ _ _ _ _ => true
  | .sshl _ _ _ _ _ => true
  | .sshr _ _ _ _ _ => true
  | .scmp _ _ _ _ _ _ => true
  | .saddi _ _ _ _ _ => true
  | .ld _ _ _ _ _ _ => true
  | .st _ _ _ _ _ _ => true
  | .lda _ _ _ _ _ _ _ => true
  | .stl _ _ _ _ _ _ _ => true
  | .atomTeam _ _ _ _ _ _ _ => true
  | .atomCluster _ _ _ _ _ _ _ => true
  | .atomDevice _ _ _ _ _ _ _ => true
  | .atomFabric _ _ _ _ _ _ _ => true
  | .red _ _ _ _ _ _ _ => true
  | .atomcas _ _ _ _ _ _ _ => true
  | .atomincb _ _ _ _ _ _ _ => true
  | .sigf _ _ _ _ _ => true
  | .fence _ _ _ => true
  | .wait _ _ _ _ _ _ => true
  | .barv _ _ _ _ => true
  | .barw _ _ _ _ _ => true
  | .bars _ _ _ _ => true
  | .barst _ _ _ _ _ => true
  | .bra _ _ => true
  | .bru _ _ => true
  | .call _ _ => true
  | .callr _ _ => true
  | .ret _ => true
  | .jmpr _ _ => true
  | .exit _ => true
  | .rjenrol _ _ _ => true
  | .rjpark _ _ _ => true
  | .rjout _ _ _ => true
  | .rjget _ _ _ _ => true
  | .spawn _ _ _ _ _ => true
  | .spawnb _ _ _ _ _ => true
  | .take _ _ _ => true
  | .endt _ _ => true
  | .tjoin _ _ _ => true
  | .role _ _ _ => true
  | .launch _ _ _ _ _ => true
  | .tmma _ _ _ _ => true
  | .tzero _ _ _ => true
  | .tacld _ _ _ => true
  | .tacst _ _ _ => true
  | .tquant _ _ _ _ => true
  | .tlend _ _ _ => true
  | .vchain _ _ _ => true
  | .vatwait _ _ _ => true
  | .vattake _ _ _ => true
  | .vatfree _ _ _ => true
  | .cpy _ _ _ _ _ => true
  | .cpya _ _ _ _ => true
  | .cpyg _ _ _ _ => true
  | .cpyx _ _ _ _ _ => true
  | .cbload _ _ _ _ _ => true
  | .qpush _ _ _ _ => true
  | .aaset _ _ _ _ => true
  | .vatarm _ _ _ _ => true
  | .cpyabort _ _ => true
  | .decsub _ _ _ _ => true
  | .rshd _ _ _ _ => true
  | .csrr _ _ _ _ => true
  | .csrw _ _ _ _ => true
  | .feat _ _ _ _ => true
  | .trap _ _ _ => true
  | .tret _ => true
  | .brk _ _ _ => true
  | .nop _ => true
  | .hintImm _ => true
  | .hintSched _ _ _ => true
  | .hintMod _ _ _ _ => true
  | .chunkMovi _ _ => true
  | .chunkMoviHi _ _ => true
  | .chunkAddi _ _ _ _ => true
  | .chunkAddiN _ _ _ _ => true
  | .loop _ _ => true
  | .bnz _ _ => true
  | .yield => true
  | .chunkHalt => true
  | .chunkCsrr _ _ => true
  | .chunkCsrw _ _ => true
  | .bind _ _ => true
  | .waitf cc _ _ => decide (cc.toNat < 3)
  | .chunkSigf _ _ => true
  | .chunkSigfAdd _ _ => true
  | .xmit _ _ _ _ => true
  | .recv _ _ _ _ => true
  | .comb _ op f _ _ _ _ => decide (op.toNat < 3) && decide (f.toNat < 3)
  | .cfwd _ _ op f _ _ _ _ => decide (op.toNat < 3) && decide (f.toNat < 3)
  | .tlbinvWrite c _ => isCtxKey c
  | .hardwareBreakpoint c mask => isCtxKey c && mask != 0
  | .loadCompletion c _ => isCtxKey c
  | .storePerformed c _ => isCtxKey c
  | .fenceCompletion c _ => isCtxKey c
  | .fenceConflictRollback c _ => isCtxKey c
  | .queueEntryArrival c _ _ => isFeederKey c
  | .copyCompletion c _ _ => isFeederKey c
  | .copyFault c _ _ _ => isFeederKey c
  | .matrixOperationRetire c _ => isGroupKey c
  | .vchainRetire c _ => isGroupKey c
  | .tlbInvalidationComplete c => isCtxKey c
  | .asyncEventTaken k => isCtxKey k
  | .clusterRestore _ => true
  | .preemptionRequest q => decide (q < 64)
  | .sliceExpiry q => decide (q < 64)
  | .drainTimeout grid cluster => decide (grid < 65536) && decide (cluster < 65536)
  | .dependenceFlagRead q => decide (q < 64)
  | .clusterPlacement => true
  | .impositionStartArrival link slot => decide (link < 32) && decide (slot < 3)
  | .impositionStartTimeout _ => true
  | .chunkArrival link slot src x => decide (link < 32) && decide (slot < 4) && decide (src < 128) && x.wf
  | .waitfFlagRead link slot => decide (link < 32) && decide (slot < 4)
  | .reshardPlanning => true
  | .curdReceived _ _ => true
  | .pendingCounterChange _ => true
  | .commit => true
  | .participantStop rank => decide (rank < 128)
  | .decodeRequestAssignment dec => decide (dec < 16)
  | .frameOutput dec fr => decide (dec < 16) && fr.wf
  | .slotStart link _ => decide (link < 32)
  | .slotEnd link => decide (link < 32)
  | .flitReception link f => decide (link < 32) && f.wf
  | .remoteRequestTimeout c _ => isCtxKey c
  | .fecWindowEnd link w _ => decide (link < 32) && decide (w < 8)
  | .retrainingEnd link w _ => decide (link < 32) && decide (w < 8)
  | .clockStepChange _ => true
  | .coolantHold => true
  | .coolantHoldRelease => true
  | .correctedError _ => true
  | .uncorrectableError _ => true
  | .parityErrorReexecution c mask => isGroupKey c && mask != 0
  | .sampleTag core quad ctx => decide (core < 128) && decide (quad < 4) && decide (ctx < 65536)
  | .traceBlockWrite ctx => decide (ctx < 65536)
  | .liveMigration ctx _ => decide (ctx < 65536)
  | .coldStart _ fail => decide (fail ≤ 7)
  | .warmStart _ fail => decide (fail ≤ 7)
  | .ctxcreate cmd => cmd.wf 256
  | .ctxdestroy cmd => cmd.wf 4
  | .qpbind cmd => cmd.wf 4
  | .qopen cmd => cmd.wf 16
  | .qcancel cmd => cmd.wf 4
  | .hostLaunch cmd => cmd.wf 144
  | .hostTlbinv cmd => cmd.wf 8
  | .seqctlResume cmd => cmd.wf 16 && actionAt cmd 2 1
  | .seqctlStep cmd => cmd.wf 16 && actionAt cmd 2 2
  | .seqctlAbort cmd => cmd.wf 16 && actionAt cmd 2 3
  | .seqctlStop cmd => cmd.wf 16 && actionAt cmd 2 4
  | .rsabort cmd => cmd.wf 8
  | .mrreg cmd => cmd.wf 24
  | .mrdereg cmd => cmd.wf 4
  | .suspend cmd => cmd.wf 16
  | .linkstat cmd => cmd.wf 4
  | .objload cmd => cmd.wf 24
  | .objdrop cmd => cmd.wf 4
  | .debugHalt cmd => cmd.wf 32 && actionAt cmd 0 1
  | .debugRelease cmd => cmd.wf 32 && actionAt cmd 0 2
  | .debugHold cmd => cmd.wf 32 && actionAt cmd 0 3
  | .debugUnhold cmd => cmd.wf 32 && actionAt cmd 0 4
  | .debugStep cmd => cmd.wf 32 && actionAt cmd 0 5
  | .debugBkset cmd => cmd.wf 32 && actionAt cmd 0 6
  | .debugBkclr cmd => cmd.wf 32 && actionAt cmd 0 7
  | .debugSetpc cmd => cmd.wf 32 && actionAt cmd 0 8
  | .debugDump cmd => cmd.wf 32 && actionAt cmd 0 9
  | .tracecfg cmd => cmd.wf 24
  | .attest cmd => cmd.wf 48
  | .keyload cmd => cmd.wf 116
  | .bbread cmd => cmd.wf 16
  | .mgmtrd cmd => cmd.wf 4
  | .mgmtwr cmd => cmd.wf 16
  | .rdmaWrite qp _ _ _ => decide (qp < 256)
  | .rdmaRead qp _ _ _ => decide (qp < 256)
  | .invalidRequestNak qp => decide (qp < 256)
  | .ecnMark qp => decide (qp < 256)
  | .ethernetPortDown port => decide (port < 2)
  | .queuedResultWrite c => isGroupKey c
  | .managementConnectorAccess x => x.wf

/-- The 32-bit words of a term: one for an instruction word, two for a Fjarmar word, none for a command or an event. -/
def Instr.words (i : Instr) : Nat :=
  match i with
  | .add _ _ _ _ _ => 1
  | .sub _ _ _ _ _ => 1
  | .mul _ _ _ _ _ => 1
  | .mulhi _ _ _ _ _ => 1
  | .mulhiu _ _ _ _ _ => 1
  | .mad _ _ _ _ _ => 1
  | .and _ _ _ _ _ => 1
  | .or _ _ _ _ _ => 1
  | .xor _ _ _ _ _ => 1
  | .andn _ _ _ _ _ => 1
  | .min _ _ _ _ _ => 1
  | .max _ _ _ _ _ => 1
  | .minu _ _ _ _ _ => 1
  | .maxu _ _ _ _ _ => 1
  | .add64 _ _ _ _ _ => 1
  | .sub64 _ _ _ _ _ => 1
  | .mul64 _ _ _ _ _ => 1
  | .mulhi64 _ _ _ _ _ => 1
  | .mulhiu64 _ _ _ _ _ => 1
  | .mad64 _ _ _ _ _ => 1
  | .and64 _ _ _ _ _ => 1
  | .or64 _ _ _ _ _ => 1
  | .xor64 _ _ _ _ _ => 1
  | .andn64 _ _ _ _ _ => 1
  | .min64 _ _ _ _ _ => 1
  | .max64 _ _ _ _ _ => 1
  | .minu64 _ _ _ _ _ => 1
  | .maxu64 _ _ _ _ _ => 1
  | .shl _ _ _ _ _ => 1
  | .shr _ _ _ _ _ => 1
  | .sar _ _ _ _ _ => 1
  | .rot _ _ _ _ _ => 1
  | .abs _ _ _ _ => 1
  | .clz _ _ _ _ => 1
  | .popc _ _ _ _ => 1
  | .brev _ _ _ _ => 1
  | .bfx _ _ _ _ _ => 1
  | .bfi _ _ _ _ _ => 1
  | .permb _ _ _ _ _ => 1
  | .div _ _ _ _ _ => 1
  | .divu _ _ _ _ _ => 1
  | .rem _ _ _ _ _ => 1
  | .remu _ _ _ _ _ => 1
  | .shl64 _ _ _ _ _ => 1
  | .shr64 _ _ _ _ _ => 1
  | .sar64 _ _ _ _ _ => 1
  | .rot64 _ _ _ _ _ => 1
  | .abs64 _ _ _ _ => 1
  | .clz64 _ _ _ _ => 1
  | .popc64 _ _ _ _ => 1
  | .brev64 _ _ _ _ => 1
  | .bfx64 _ _ _ _ _ => 1
  | .bfi64 _ _ _ _ _ => 1
  | .permb64 _ _ _ _ _ => 1
  | .div64 _ _ _ _ _ => 1
  | .divu64 _ _ _ _ _ => 1
  | .rem64 _ _ _ _ _ => 1
  | .remu64 _ _ _ _ _ => 1
  | .addi _ _ _ _ _ => 1
  | .muli _ _ _ _ _ => 1
  | .andi _ _ _ _ _ => 1
  | .ori _ _ _ _ _ => 1
  | .xori _ _ _ _ _ => 1
  | .shli _ _ _ _ _ => 1
  | .shri _ _ _ _ _ => 1
  | .sari _ _ _ _ _ => 1
  | .addi64 _ _ _ _ _ => 1
  | .muli64 _ _ _ _ _ => 1
  | .andi64 _ _ _ _ _ => 1
  | .ori64 _ _ _ _ _ => 1
  | .xori64 _ _ _ _ _ => 1
  | .shli64 _ _ _ _ _ => 1
  | .shri64 _ _ _ _ _ => 1
  | .sari64 _ _ _ _ _ => 1
  | .movi _ _ _ _ => 1
  | .movi64 _ _ _ _ => 1
  | .fadd _ _ _ _ _ => 1
  | .fsub _ _ _ _ _ => 1
  | .fmul _ _ _ _ _ => 1
  | .ffma _ _ _ _ _ => 1
  | .fmin _ _ _ _ _ => 1
  | .fmax _ _ _ _ _ => 1
  | .fsgnJ _ _ _ _ _ => 1
  | .fsgnN _ _ _ _ _ => 1
  | .fsgnX _ _ _ _ _ => 1
  | .fclass _ _ _ _ => 1
  | .fdiv _ _ _ _ _ => 1
  | .hadd2 _ _ _ _ _ _ => 1
  | .hmul2 _ _ _ _ _ _ => 1
  | .hfma2 _ _ _ _ _ _ => 1
  | .hmin2 _ _ _ _ _ _ => 1
  | .hmax2 _ _ _ _ _ _ => 1
  | .dadd _ _ _ _ _ => 1
  | .dmul _ _ _ _ _ => 1
  | .dfma _ _ _ _ _ => 1
  | .icmp _ _ _ _ _ _ => 1
  | .icmp64 _ _ _ _ _ _ => 1
  | .fcmp _ _ _ _ _ _ _ => 1
  | .plog _ _ _ _ _ _ => 1
  | .sel _ _ _ _ _ _ => 1
  | .cvt _ _ _ _ _ _ _ => 1
  | .cvtpk _ _ _ _ _ _ => 1
  | .cvtupk _ _ _ _ _ _ => 1
  | .rcp _ _ _ _ => 1
  | .rsq _ _ _ _ => 1
  | .sqrt _ _ _ _ => 1
  | .exp2 _ _ _ _ => 1
  | .log2 _ _ _ _ => 1
  | .sin _ _ _ _ => 1
  | .cos _ _ _ _ => 1
  | .tanh _ _ _ _ => 1
  | .shfl _ _ _ _ _ _ => 1
  | .shflImm _ _ _ _ _ _ => 1
  | .voteAll _ _ _ _ => 1
  | .voteAny _ _ _ _ => 1
  | .voteBallot _ _ _ _ => 1
  | .voteUni _ _ _ _ => 1
  | .matchLanes _ _ _ _ => 1
  | .partset _ _ _ => 1
  | .vred _ _ _ _ _ _ => 1
  | .vscan _ _ _ _ _ _ _ => 1
  | .mov _ _ _ _ => 1
  | .mov64 _ _ _ _ => 1
  | .movs _ _ _ _ => 1
  | .movsHi _ _ _ _ => 1
  | .movs64 _ _ _ _ => 1
  | .rdlane _ _ _ _ _ => 1
  | .rdlane64 _ _ _ _ _ => 1
  | .sadd _ _ _ _ _ => 1
  | .ssub _ _ _ _ _ => 1
  | .smul _ _ _ _ _ => 1
  | .sand _ _ _ _ _ => 1
  | .sor _ _ _ _ _ => 1
  | .sxor _ _ _ _ _ => 1
  | .sshl _ _ _ _ _ => 1
  | .sshr _ _ _ _ _ => 1
  | .scmp _ _ _ _ _ _ => 1
  | .saddi _ _ _ _ _ => 1
  | .ld _ _ _ _ _ _ => 1
  | .st _ _ _ _ _ _ => 1
  | .lda _ _ _ _ _ _ _ => 1
  | .stl _ _ _ _ _ _ _ => 1
  | .atomTeam _ _ _ _ _ _ _ => 1
  | .atomCluster _ _ _ _ _ _ _ => 1
  | .atomDevice _ _ _ _ _ _ _ => 1
  | .atomFabric _ _ _ _ _ _ _ => 1
  | .red _ _ _ _ _ _ _ => 1
  | .atomcas _ _ _ _ _ _ _ => 1
  | .atomincb _ _ _ _ _ _ _ => 1
  | .sigf _ _ _ _ _ => 1
  | .fence _ _ _ => 1
  | .wait _ _ _ _ _ _ => 1
  | .barv _ _ _ _ => 1
  | .barw _ _ _ _ _ => 1
  | .bars _ _ _ _ => 1
  | .barst _ _ _ _ _ => 1
  | .bra _ _ => 1
  | .bru _ _ => 1
  | .call _ _ => 1
  | .callr _ _ => 1
  | .ret _ => 1
  | .jmpr _ _ => 1
  | .exit _ => 1
  | .rjenrol _ _ _ => 1
  | .rjpark _ _ _ => 1
  | .rjout _ _ _ => 1
  | .rjget _ _ _ _ => 1
  | .spawn _ _ _ _ _ => 1
  | .spawnb _ _ _ _ _ => 1
  | .take _ _ _ => 1
  | .endt _ _ => 1
  | .tjoin _ _ _ => 1
  | .role _ _ _ => 1
  | .launch _ _ _ _ _ => 1
  | .tmma _ _ _ _ => 1
  | .tzero _ _ _ => 1
  | .tacld _ _ _ => 1
  | .tacst _ _ _ => 1
  | .tquant _ _ _ _ => 1
  | .tlend _ _ _ => 1
  | .vchain _ _ _ => 1
  | .vatwait _ _ _ => 1
  | .vattake _ _ _ => 1
  | .vatfree _ _ _ => 1
  | .cpy _ _ _ _ _ => 1
  | .cpya _ _ _ _ => 1
  | .cpyg _ _ _ _ => 1
  | .cpyx _ _ _ _ _ => 1
  | .cbload _ _ _ _ _ => 1
  | .qpush _ _ _ _ => 1
  | .aaset _ _ _ _ => 1
  | .vatarm _ _ _ _ => 1
  | .cpyabort _ _ => 1
  | .decsub _ _ _ _ => 1
  | .rshd _ _ _ _ => 1
  | .csrr _ _ _ _ => 1
  | .csrw _ _ _ _ => 1
  | .feat _ _ _ _ => 1
  | .trap _ _ _ => 1
  | .tret _ => 1
  | .brk _ _ _ => 1
  | .nop _ => 1
  | .hintImm _ => 1
  | .hintSched _ _ _ => 1
  | .hintMod _ _ _ _ => 1
  | .chunkMovi _ _ => 2
  | .chunkMoviHi _ _ => 2
  | .chunkAddi _ _ _ _ => 2
  | .chunkAddiN _ _ _ _ => 2
  | .loop _ _ => 2
  | .bnz _ _ => 2
  | .yield => 2
  | .chunkHalt => 2
  | .chunkCsrr _ _ => 2
  | .chunkCsrw _ _ => 2
  | .bind _ _ => 2
  | .waitf _ _ _ => 2
  | .chunkSigf _ _ => 2
  | .chunkSigfAdd _ _ => 2
  | .xmit _ _ _ _ => 2
  | .recv _ _ _ _ => 2
  | .comb _ _ _ _ _ _ _ => 2
  | .cfwd _ _ _ _ _ _ _ _ => 2
  | .tlbinvWrite _ _ => 0
  | .hardwareBreakpoint _ _ => 0
  | .loadCompletion _ _ => 0
  | .storePerformed _ _ => 0
  | .fenceCompletion _ _ => 0
  | .fenceConflictRollback _ _ => 0
  | .queueEntryArrival _ _ _ => 0
  | .copyCompletion _ _ _ => 0
  | .copyFault _ _ _ _ => 0
  | .matrixOperationRetire _ _ => 0
  | .vchainRetire _ _ => 0
  | .tlbInvalidationComplete _ => 0
  | .asyncEventTaken _ => 0
  | .clusterRestore _ => 0
  | .preemptionRequest _ => 0
  | .sliceExpiry _ => 0
  | .drainTimeout _ _ => 0
  | .dependenceFlagRead _ => 0
  | .clusterPlacement => 0
  | .impositionStartArrival _ _ => 0
  | .impositionStartTimeout _ => 0
  | .chunkArrival _ _ _ _ => 0
  | .waitfFlagRead _ _ => 0
  | .reshardPlanning => 0
  | .curdReceived _ _ => 0
  | .pendingCounterChange _ => 0
  | .commit => 0
  | .participantStop _ => 0
  | .decodeRequestAssignment _ => 0
  | .frameOutput _ _ => 0
  | .slotStart _ _ => 0
  | .slotEnd _ => 0
  | .flitReception _ _ => 0
  | .remoteRequestTimeout _ _ => 0
  | .fecWindowEnd _ _ _ => 0
  | .retrainingEnd _ _ _ => 0
  | .clockStepChange _ => 0
  | .coolantHold => 0
  | .coolantHoldRelease => 0
  | .correctedError _ => 0
  | .uncorrectableError _ => 0
  | .parityErrorReexecution _ _ => 0
  | .sampleTag _ _ _ => 0
  | .traceBlockWrite _ => 0
  | .liveMigration _ _ => 0
  | .coldStart _ _ => 0
  | .warmStart _ _ => 0
  | .ctxcreate _ => 0
  | .ctxdestroy _ => 0
  | .qpbind _ => 0
  | .qopen _ => 0
  | .qcancel _ => 0
  | .hostLaunch _ => 0
  | .hostTlbinv _ => 0
  | .seqctlResume _ => 0
  | .seqctlStep _ => 0
  | .seqctlAbort _ => 0
  | .seqctlStop _ => 0
  | .rsabort _ => 0
  | .mrreg _ => 0
  | .mrdereg _ => 0
  | .suspend _ => 0
  | .linkstat _ => 0
  | .objload _ => 0
  | .objdrop _ => 0
  | .debugHalt _ => 0
  | .debugRelease _ => 0
  | .debugHold _ => 0
  | .debugUnhold _ => 0
  | .debugStep _ => 0
  | .debugBkset _ => 0
  | .debugBkclr _ => 0
  | .debugSetpc _ => 0
  | .debugDump _ => 0
  | .tracecfg _ => 0
  | .attest _ => 0
  | .keyload _ => 0
  | .bbread _ => 0
  | .mgmtrd _ => 0
  | .mgmtwr _ => 0
  | .rdmaWrite _ _ _ _ => 0
  | .rdmaRead _ _ _ _ => 0
  | .invalidRequestNak _ => 0
  | .ecnMark _ => 0
  | .ethernetPortDown _ => 0
  | .queuedResultWrite _ => 0
  | .managementConnectorAccess _ => 0

end Sys2Proof
end

