-- ==== Sys2Proof/Certificates/Slice0/Obligations.lean ====
section
/-! DEFINITION. The statements for the provers, and the tables they are stated with: the result of each instruction as the spec's
tables give it. A statement about an instruction says that it completes (`exec` answers a next state) in every state in which its
word is `ready`, what it changes, and that nothing else changes. -/
namespace Sys2Proof.Claims
open Sys2Proof.Machine

/-! ## Tables of chapter 4 -/

/-- Table 4-1, majors 1 and 3: the result and the flags, by the operands x, y and c of the word. -/
def table41 (i : Instr) : Option (BitVec 6 × (View → Nat → Word × Word)) :=
  let f2 := fun (d a b : BitVec 6) (f : Word → Word → Word × Word) =>
    some (d, fun (w : View) (l : Nat) => f (w.opnd 0 a.toNat l) (w.opnd 1 b.toNat l))
  let f3 := fun (d a b : BitVec 6) (f : Word → Word → Word → Word × Word) =>
    some (d, fun (w : View) (l : Nat) => f (w.opnd 0 a.toNat l) (w.opnd 1 b.toNat l) (w.opnd 2 d.toNat l))
  let f1 := fun (d a : BitVec 6) (f : Word → Word × Word) => some (d, fun (w : View) (l : Nat) => f (w.opnd 0 a.toNat l))
  match i with
  | .add _ d a b _ => f2 d a b (fun x y => (x + y, 0))
  | .sub _ d a b _ => f2 d a b (fun x y => (x - y, 0))
  | .mul _ d a b _ => f2 d a b (fun x y => (x * y, 0))
  | .mulhi _ d a b _ => f2 d a b (fun x y => (mulHiS x y, 0))
  | .mulhiu _ d a b _ => f2 d a b (fun x y => (mulHiU x y, 0))
  | .mad _ d a b _ => f3 d a b (fun x y c => (x * y + c, 0))
  | .and _ d a b _ => f2 d a b (fun x y => (x &&& y, 0))
  | .or _ d a b _ => f2 d a b (fun x y => (x ||| y, 0))
  | .xor _ d a b _ => f2 d a b (fun x y => (x ^^^ y, 0))
  | .andn _ d a b _ => f2 d a b (fun x y => (x &&& ~~~ y, 0))
  | .min _ d a b _ => f2 d a b (fun x y => (if x.slt y then x else y, 0))
  | .max _ d a b _ => f2 d a b (fun x y => (if x.slt y then y else x, 0))
  | .minu _ d a b _ => f2 d a b (fun x y => (if x.ult y then x else y, 0))
  | .maxu _ d a b _ => f2 d a b (fun x y => (if x.ult y then y else x, 0))
  | .shl _ d a b _ => f2 d a b (fun x y => (shlW x (ctl y), 0))
  | .shr _ d a b _ => f2 d a b (fun x y => (shrW x (ctl y), 0))
  | .sar _ d a b _ => f2 d a b (fun x y => (sarW x (ctl y), 0))
  | .rot _ d a b _ => f2 d a b (fun x y => (rotW x (ctl y), 0))
  | .abs _ d a _ => f1 d a absW
  | .clz _ d a _ => f1 d a (fun x => (clzW x, 0))
  | .popc _ d a _ => f1 d a (fun x => (popcW x, 0))
  | .brev _ d a _ => f1 d a (fun x => (brevW x, 0))
  | .bfx _ d a b _ => f2 d a b (fun x y => (bfxW x y, 0))
  | .bfi _ d a b _ => f3 d a b (fun x y c => (bfiW x y c, 0))
  | .permb _ d a b _ => f2 d a b (fun x y => (permbW x y, 0))
  | .div _ d a b _ => f2 d a b divS
  | .divu _ d a b _ => f2 d a b divU
  | .rem _ d a b _ => f2 d a b remS
  | .remu _ d a b _ => f2 d a b remU
  | _ => none

/-- Table 4-1, majors 2 and 4, on pairs. -/
def table41W (i : Instr) : Option (BitVec 6 × (View → Nat → Dword × Word)) :=
  let f2 := fun (d a b : BitVec 6) (f : Dword → Dword → Dword × Word) =>
    some (d, fun (w : View) (l : Nat) => f (w.g.rv64 a.toNat l) (w.g.rv64 b.toNat l))
  let f3 := fun (d a b : BitVec 6) (f : Dword → Dword → Dword → Dword × Word) =>
    some (d, fun (w : View) (l : Nat) => f (w.g.rv64 a.toNat l) (w.g.rv64 b.toNat l) (w.g.rv64 d.toNat l))
  let f1 := fun (d a : BitVec 6) (f : Dword → Dword × Word) => some (d, fun (w : View) (l : Nat) => f (w.g.rv64 a.toNat l))
  match i with
  | .add64 _ d a b _ => f2 d a b (fun x y => (x + y, 0))
  | .sub64 _ d a b _ => f2 d a b (fun x y => (x - y, 0))
  | .mul64 _ d a b _ => f2 d a b (fun x y => (x * y, 0))
  | .mulhi64 _ d a b _ => f2 d a b (fun x y => (mulHiS x y, 0))
  | .mulhiu64 _ d a b _ => f2 d a b (fun x y => (mulHiU x y, 0))
  | .mad64 _ d a b _ => f3 d a b (fun x y c => (x * y + c, 0))
  | .and64 _ d a b _ => f2 d a b (fun x y => (x &&& y, 0))
  | .or64 _ d a b _ => f2 d a b (fun x y => (x ||| y, 0))
  | .xor64 _ d a b _ => f2 d a b (fun x y => (x ^^^ y, 0))
  | .andn64 _ d a b _ => f2 d a b (fun x y => (x &&& ~~~ y, 0))
  | .min64 _ d a b _ => f2 d a b (fun x y => (if x.slt y then x else y, 0))
  | .max64 _ d a b _ => f2 d a b (fun x y => (if x.slt y then y else x, 0))
  | .minu64 _ d a b _ => f2 d a b (fun x y => (if x.ult y then x else y, 0))
  | .maxu64 _ d a b _ => f2 d a b (fun x y => (if x.ult y then y else x, 0))
  | .shl64 _ d a b _ => f2 d a b (fun x y => (shlW x (ctl y), 0))
  | .shr64 _ d a b _ => f2 d a b (fun x y => (shrW x (ctl y), 0))
  | .sar64 _ d a b _ => f2 d a b (fun x y => (sarW x (ctl y), 0))
  | .rot64 _ d a b _ => f2 d a b (fun x y => (rotW x (ctl y), 0))
  | .abs64 _ d a _ => f1 d a absW
  | .clz64 _ d a _ => f1 d a (fun x => (clzW x, 0))
  | .popc64 _ d a _ => f1 d a (fun x => (popcW x, 0))
  | .brev64 _ d a _ => f1 d a (fun x => (brevW x, 0))
  | .bfx64 _ d a b _ => f2 d a b (fun x y => (bfxW x y, 0))
  | .bfi64 _ d a b _ => f3 d a b (fun x y c => (bfiW x y c, 0))
  | .permb64 _ d a b _ => f2 d a b (fun x y => (permbW x y, 0))
  | .div64 _ d a b _ => f2 d a b divS
  | .divu64 _ d a b _ => f2 d a b divU
  | .rem64 _ d a b _ => f2 d a b remS
  | .remu64 _ d a b _ => f2 d a b remU
  | _ => none

/-- R95 and R109: the immediate forms and the moves, 32 and 64 bits. -/
def immediate (i : Instr) : Option (View → Nat → LaneResult) :=
  let f1 := fun (d a : BitVec 6) (m : BitVec 7) (f : Word → Word → Word) =>
    some (fun (w : View) (l : Nat) => one d.toNat (f (w.opnd 0 a.toNat l) ((immOf w.pre m).extractLsb' 0 32)))
  let f2 := fun (d a : BitVec 6) (m : BitVec 7) (f : Dword → Dword → Dword) =>
    some (fun (w : View) (l : Nat) => two d.toNat (f (w.g.rv64 a.toNat l) (immOf w.pre m)))
  match i with
  | .addi _ d a m _ => f1 d a m (fun x y => x + y)
  | .muli _ d a m _ => f1 d a m (fun x y => x * y)
  | .andi _ d a m _ => f1 d a m (fun x y => x &&& y)
  | .ori _ d a m _ => f1 d a m (fun x y => x ||| y)
  | .xori _ d a m _ => f1 d a m (fun x y => x ^^^ y)
  | .shli _ d a m _ => some (fun w l => one d.toNat (shlW (w.opnd 0 a.toNat l) m.toNat))
  | .shri _ d a m _ => some (fun w l => one d.toNat (shrW (w.opnd 0 a.toNat l) m.toNat))
  | .sari _ d a m _ => some (fun w l => one d.toNat (sarW (w.opnd 0 a.toNat l) m.toNat))
  | .addi64 _ d a m _ => f2 d a m (fun x y => x + y)
  | .muli64 _ d a m _ => f2 d a m (fun x y => x * y)
  | .andi64 _ d a m _ => f2 d a m (fun x y => x &&& y)
  | .ori64 _ d a m _ => f2 d a m (fun x y => x ||| y)
  | .xori64 _ d a m _ => f2 d a m (fun x y => x ^^^ y)
  | .shli64 _ d a m _ => some (fun w l => two d.toNat (shlW (w.g.rv64 a.toNat l) m.toNat))
  | .shri64 _ d a m _ => some (fun w l => two d.toNat (shrW (w.g.rv64 a.toNat l) m.toNat))
  | .sari64 _ d a m _ => some (fun w l => two d.toNat (sarW (w.g.rv64 a.toNat l) m.toNat))
  | .movi _ d m _ => some (fun w _ => one d.toNat ((immOf w.pre m).extractLsb' 0 32))
  | .movi64 _ d m _ => some (fun w _ => two d.toNat (immOf w.pre m))
  | .mov _ d a _ => some (fun w l => one d.toNat (w.opnd 0 a.toNat l))
  | .mov64 _ d a _ => some (fun w l => two d.toNat (w.g.rv64 a.toNat l))
  | .movs _ d a _ => some (fun w _ => one d.toNat ((w.g.rs a.toNat).extractLsb' 0 32))
  | .movsHi _ d a _ => some (fun w _ => one d.toNat ((w.g.rs a.toNat).extractLsb' 32 32))
  | .movs64 _ d a _ => some (fun w _ => two d.toNat (w.g.rs a.toNat))
  | _ => none

/-- Table 4-2 and R99, R100: the words that round under the dynamic mode. -/
def rounding (i : Instr) (s : State) : Option (Nat → LaneResult) :=
  let w := viewOf i s
  match i with
  | .fadd _ d a b _ => some (rounded i s d.toNat (fun l m r => Sys2Proof.fadd fp32 m r (w.n32 0 a l) (w.n32 1 b l)))
  | .fsub _ d a b _ => some (rounded i s d.toNat (fun l m r => Sys2Proof.fsub fp32 m r (w.n32 0 a l) (w.n32 1 b l)))
  | .fmul _ d a b _ => some (rounded i s d.toNat (fun l m r => Sys2Proof.fmul fp32 m r (w.n32 0 a l) (w.n32 1 b l)))
  | .ffma _ d a b _ => some (rounded i s d.toNat (fun l m r => Sys2Proof.ffma fp32 m r (w.n32 0 a l) (w.n32 1 b l) (w.n32 2 d l)))
  | .fdiv _ d a b _ => some (rounded i s d.toNat (fun l m r => Sys2Proof.fdiv fp32 m r (w.n32 0 a l) (w.n32 1 b l)))
  | .hadd2 _ t d a b _ => some (roundedPair i s d.toNat (fun k l m r =>
      Sys2Proof.fadd (packFmt t) m r (elem16 (w.n32 0 a l) k) (elem16 (w.n32 1 b l) k)))
  | .hmul2 _ t d a b _ => some (roundedPair i s d.toNat (fun k l m r =>
      Sys2Proof.fmul (packFmt t) m r (elem16 (w.n32 0 a l) k) (elem16 (w.n32 1 b l) k)))
  | .hfma2 _ t d a b _ => some (roundedPair i s d.toNat (fun k l m r =>
      Sys2Proof.ffma (packFmt t) m r (elem16 (w.n32 0 a l) k) (elem16 (w.n32 1 b l) k) (elem16 (w.n32 2 d l) k)))
  | .dadd _ d a b _ => some (rounded64 i s d.toNat (fun l m r => Sys2Proof.fadd fp64 m r (w.n64 a l) (w.n64 b l)))
  | .dmul _ d a b _ => some (rounded64 i s d.toNat (fun l m r => Sys2Proof.fmul fp64 m r (w.n64 a l) (w.n64 b l)))
  | .dfma _ d a b _ => some (rounded64 i s d.toNat (fun l m r => Sys2Proof.ffma fp64 m r (w.n64 a l) (w.n64 b l) (w.n64 d l)))
  | _ => none

/-- Table 4-2, R98 and R99: floating-point words whose result is not rounded. -/
def unrounded (i : Instr) : Option (View → Nat → LaneResult) :=
  let fr := fun (d : BitVec 6) (f : View → Nat → FRes) => some (fun (w : View) (l : Nat) => one d.toNat (FRes.w32 (f w l)) (f w l).flags)
  let sg := fun (d a b : BitVec 6) (f : Bool → Bool → Bool) => some (fun (w : View) (l : Nat) =>
    let x := w.opnd 0 a.toNat l
    one d.toNat ((x &&& 0x7FFFFFFF#32) ||| (if f x.msb (w.opnd 1 b.toNat l).msb then 0x80000000#32 else 0)))
  match i with
  | .fmin _ d a b _ => fr d (fun w l => fminmax fp32 false (w.n32 0 a l) (w.n32 1 b l))
  | .fmax _ d a b _ => fr d (fun w l => fminmax fp32 true (w.n32 0 a l) (w.n32 1 b l))
  | .fsgnJ _ d a b _ => sg d a b (fun _ y => y)
  | .fsgnN _ d a b _ => sg d a b (fun _ y => !y)
  | .fsgnX _ d a b _ => sg d a b (fun x y => x != y)
  | .fclass _ d a _ => fr d (fun w l => ⟨Sys2Proof.fclass fp32 (w.n32 0 a l), 0⟩)
  | .hmin2 _ t d a b _ => fr d (fun w l => pair16 (fminmax (packFmt t) false (elem16 (w.n32 0 a l) 0) (elem16 (w.n32 1 b l) 0))
      (fminmax (packFmt t) false (elem16 (w.n32 0 a l) 1) (elem16 (w.n32 1 b l) 1)) 16)
  | .hmax2 _ t d a b _ => fr d (fun w l => pair16 (fminmax (packFmt t) true (elem16 (w.n32 0 a l) 0) (elem16 (w.n32 1 b l) 0))
      (fminmax (packFmt t) true (elem16 (w.n32 0 a l) 1) (elem16 (w.n32 1 b l) 1)) 16)
  | _ => none

/-- R96, R101 to R103, R112: a destination predicate. -/
def predicates (i : Instr) : Option (View → Nat → LaneResult) :=
  match i with
  | .icmp _ c q a b _ => some (fun w l => predicate q.toNat (icmpRel c.toNat (w.opnd 0 a.toNat l) (w.opnd 1 b.toNat l)))
  | .icmp64 _ c q a b _ => some (fun w l => predicate q.toNat (icmpRel c.toNat (w.g.rv64 a.toNat l) (w.g.rv64 b.toNat l)))
  | .fcmp _ c t q a b _ => some (fun w l =>
      let x := if t = 1#1 then fcompare fp64 c.toNat (w.n64 a l) (w.n64 b l) else fcompare fp32 c.toNat (w.n32 0 a l) (w.n32 1 b l)
      predicate q.toNat x.1 x.2)
  | .plog _ o q a b _ => some (fun w l => predicate q.toNat (plogOp o.toNat (w.g.pr a.toNat l) (w.g.pr b.toNat l)))
  | .scmp _ c q a b _ => some (fun w _ => predicate q.toNat (scmpRel c.toNat (w.g.rs a.toNat) (w.g.rs b.toNat)))
  | .voteAll _ q ps _ => some (fun w l => predicate q.toNat ((tileMates w l).all (fun c => w.g.pr ps.toNat c)))
  | .voteAny _ q ps _ => some (fun w l => predicate q.toNat ((tileMates w l).any (fun c => w.g.pr ps.toNat c)))
  | .voteUni _ q ps _ => some (fun w l =>
      predicate q.toNat ((tileMates w l).all (fun c => w.g.pr ps.toNat c == w.g.pr ps.toNat l)))
  | _ => none

/-- R103, R111 to R113, R115, R116: selects and lane operations; the predicate destination of HINT.MOD takes the second result. -/
def laneOps (i : Instr) : Option (View → Nat → LaneResult) :=
  let sh := fun (d a : BitVec 6) (m : BitVec 2) (n : View → Nat → Nat) => some (fun (w : View) (l : Nat) =>
    let src := (shflSrc (tileSize w.g) l m.toNat (n w l)).filter (fun c => inMask w.act c)
    ({ regs := [(d.toNat, w.opnd 0 a.toNat (src.getD l))], preds := [(w.pre.pd, src.isSome)] } : LaneResult))
  let red := fun (d a : BitVec 6) (t : BitVec 1) (o : BitVec 3) (keep : Nat → Nat → Bool) => some (fun (w : View) (l : Nat) =>
    let cs := (tileMates w l).filter (keep l)
    let r := redFold (t == 1#1) o.toNat (cs.map (fun c => w.opnd 0 a.toNat c))
    ({ regs := [(d.toNat, r.1)], preds := [(w.pre.pd, !cs.isEmpty)], flags := r.2 } : LaneResult))
  match i with
  | .sel _ sel d a b _ => some (fun w l => one d.toNat (if w.g.pr sel.toNat l then w.opnd 0 a.toNat l else w.opnd 1 b.toNat l))
  | .shfl _ m d a b _ => sh d a m (fun w l => (w.opnd 1 b.toNat l).toNat)
  | .shflImm _ m d a n _ => sh d a m (fun _ _ => n.toNat)
  | .voteBallot _ d ps _ => some (fun w l => one d.toNat (tileMask w l ((tileMates w l).filter (fun c => w.g.pr ps.toNat c))))
  | .matchLanes _ d a _ => some (fun w l =>
      let same := (tileMates w l).filter (fun c => w.opnd 0 a.toNat c == w.opnd 0 a.toNat l)
      { regs := [(d.toNat, tileMask w l same)], preds := [(w.pre.pd, same.length == (tileMates w l).length)] })
  | .vred _ o d a t _ => red d a t o (fun _ _ => true)
  | .vscan _ o d a e t _ => red d a t o (fun l c => if e = 1#1 then decide (c < l) else decide (c ≤ l))
  | _ => none

/-- R127, R142, R144, R196: registers that a word reads from the group's state. -/
def statusReads (i : Instr) (s : State) : Option (Nat → LaneResult) :=
  let w := viewOf i s
  let s' := enter i s
  match i with
  | .csrr _ d c _ => some (fun l => let x := readCsr s' w.g l c
      if csrWide c then two d.toNat x else one d.toNat (x.extractLsb' 0 32))
  | .feat _ d n _ => some (fun _ => one d.toNat ((s.ctx w.g.ctxid).contract.extractLsb' (32 * n.toNat) 32))
  | .rjget _ d j _ => some (fun _ => one d.toNat (w.g.rj j.toNat))
  | .barst _ d k x _ => some (fun l => one d.toNat (barstOf s' w.g k.toNat x.toNat l))
  | _ => none

/-- R96, R109: what a word writes to an s register, once per issue. -/
def scalars (i : Instr) : Option (BitVec 5 × (View → Dword)) :=
  let f := fun (d a b : BitVec 5) (f : Dword → Dword → Dword) => some (d, fun (w : View) => f (w.g.rs a.toNat) (w.g.rs b.toNat))
  match i with
  | .sadd _ d a b _ => f d a b (fun x y => x + y)
  | .ssub _ d a b _ => f d a b (fun x y => x - y)
  | .smul _ d a b _ => f d a b (fun x y => x * y)
  | .sand _ d a b _ => f d a b (fun x y => x &&& y)
  | .sor _ d a b _ => f d a b (fun x y => x ||| y)
  | .sxor _ d a b _ => f d a b (fun x y => x ^^^ y)
  | .sshl _ d a b _ => f d a b (fun x y => if y.toNat ≥ 64 then 0 else x <<< y.toNat)
  | .sshr _ d a b _ => f d a b (fun x y => if y.toNat ≥ 64 then 0 else x >>> y.toNat)
  | .saddi _ d a m _ => some (d, fun w => w.g.rs a.toNat + immOf w.pre m)
  | .rdlane _ d a n _ => some (d, fun w => if inMask w.act n.toNat then (w.opnd 0 a.toNat n.toNat).setWidth 64 else 0)
  | .rdlane64 _ d a n _ => some (d, fun w => if inMask w.act n.toNat then w.g.rv64 a.toNat n.toNat else 0)
  | _ => none

/-- R114, R127: PARTSET, and the masks that RJENROL adds Act to and RJOUT takes it from; a mask that can then release does (R128). -/
def groupWrites (i : Instr) : Option (View → Grp → Grp) :=
  match i with
  | .partset _ k _ => some (fun _ g => { g with part := k.setWidth 32 })
  | .rjenrol _ j _ => some (fun w g => (g.wj j.toNat (g.rj j.toNat ||| w.act)).evalRelease j.toNat)
  | .rjout _ j _ => some (fun w g => (g.wj j.toNat (g.rj j.toNat &&& ~~~ w.act)).evalRelease j.toNat)
  | _ => none

/-- R56, R123: the target of each lane of a control transfer, and whether it is a call. A relative target counts from the transfer's own
word, the last of its prefix group: the word before `next`. -/
def targets (i : Instr) : Option (Bool × (View → Nat → Dword)) :=
  match i with
  | .bra o _ | .bru o _ => some (false, fun w _ => w.next - 4 + (o.signExtend 64) * 4)
  | .call o _ => some (true, fun w _ => w.next - 4 + (o.signExtend 64) * 4)
  | .callr a _ => some (true, fun w l => w.g.rv64 a.toNat l)
  | .jmpr a _ => some (false, fun w l => w.g.rv64 a.toNat l)
  | .ret _ => some (false, fun w l => (w.next - 4).extractLsb' 32 32 ++ w.g.rv 63 l)
  | _ => none

/-- R124: a target that a transfer may go to. -/
def reachable (call : Bool) (w : View) (t : Dword) : Prop :=
  t.toNat % 4 = 0 ∧ (call = true → t.extractLsb' 32 32 = w.next.extractLsb' 32 32)

/-- R92, R104 to R108: the words whose results wait in the group's queue: lane l's flags and generator, and its words. -/
def queuedResults (i : Instr) (s : State) : Option (Nat → LaneResult) :=
  let w := viewOf i s
  let m := dynMode w
  let seed := fun (l : Nat) => ((s.grp s.key).lane l).srseed
  let sf := fun (fn : Nat) (d a : BitVec 6) => some (fun (l : Nat) =>
    let r := specialFn fn (w.n32 0 a l)
    one d.toNat (FRes.w32 r) r.flags)
  match i with
  | .rcp _ d a _ => sf 0 d a
  | .rsq _ d a _ => sf 1 d a
  | .sqrt _ d a _ => sf 2 d a
  | .exp2 _ d a _ => sf 3 d a
  | .log2 _ d a _ => sf 4 d a
  | .sin _ d a _ => sf 5 d a
  | .cos _ d a _ => sf 6 d a
  | .tanh _ d a _ => sf 7 d a
  | .cvt _ t d a e k _ => some (fun l =>
      let x := if wideType e then (w.g.rv64 a.toNat l).toNat else (w.opnd 0 a.toNat l).toNat
      let r := convert (styOf t.toNat) (styOf e.toNat) m (drawn m (seed l)) (k == 1#1) x
      let y := widen (styOf t.toNat) (if wideType t then 64 else 32) r.bits
      { if wideType t then two d.toNat (BitVec.ofNat 64 y) r.flags else one d.toNat (BitVec.ofNat 32 y) r.flags with
        seed := some (stepped m (seed l)) })
  | .cvtpk _ t d a b _ => some (fun l =>
      let e0 := convert (pkTy t.toNat) (.flt fp32) m (drawn m (seed l)) false (w.n32 0 a l)
      let e1 := convert (pkTy t.toNat) (.flt fp32) m (drawn m (stepped m (seed l))) false (w.n32 1 b l)
      let r := pair16 e0 e1 (pkTy t.toNat).width
      { one d.toNat (FRes.w32 r) r.flags with seed := some (stepped m (stepped m (seed l))) })
  | .cvtupk _ t d a k _ => some (fun l =>
      let x := w.n32 0 a l / 2 ^ ((pkTy t.toNat).width * k.toNat) % 2 ^ (pkTy t.toNat).width
      let r : FRes := match pkTy t.toNat with
        | .flt f => toFp32 f x
        | .int u => ⟨(⟨32, true⟩ : IFmt).code (u.val x), 0⟩
      one d.toNat (FRes.w32 r) r.flags)
  | _ => none

/-- The register entries that a lane's words go to. -/
def keyed (g : Grp) (l : Nat) (r : LaneResult) : List (Nat × Word) := r.regs.map (fun x => (g.vkey x.1 l, x.2))

/-! ## Tables of chapter 7 -/

/-- A load word (R173, R177): its bytes, whether it sign-extends (.B.S, .H.S), its destination, lane l's address, the scope of its acquire.
One without a scope is plain, and may be read again until it completes (R175, R249). -/
structure LoadForm where
  size  : Nat
  sgn   : Bool
  dest  : Nat
  ea    : View → Nat → Dword
  scope : Option Nat

def loads (i : Instr) : Option LoadForm :=
  match i with
  | .ld _ z d a o _ => some ⟨loadSize z, loadSigned z, d.toNat,
      fun w l => w.g.rv64 a.toNat l + immOf w.pre o * BitVec.ofNat 64 (loadSize z), none⟩
  | .lda _ sc d a z o _ => some ⟨accSize z, false, d.toNat,
      fun w l => w.g.rv64 a.toNat l + off6Of w.pre o * BitVec.ofNat 64 (accSize z), some sc.toNat⟩
  | _ => none

def LoadForm.plain (f : LoadForm) : Bool := f.scope.isNone

/-- What an acquire load does before it reads (R178). -/
def LoadForm.before (f : LoadForm) (w : View) (t : State) : State :=
  match f.scope with
  | none => t
  | some sc => ldaBefore sc w t

/-- An acquire load waits while something that an early release owes it cannot be made good yet (R245, log entry 103). -/
def LoadForm.mayAcquire (f : LoadForm) (w : View) (t : State) : Bool :=
  match f.scope with
  | none => true
  | some sc => !owedWaits t w.g sc

/-- A store word (R173, R177, R183): its bytes and access kind, the scope of its release, whether it is performed at the home slice, lane
l's data and address, and whether an address suits it. -/
structure StoreForm where
  size : Nat
  kind : AccKind
  rel  : Option Nat
  home : Bool
  data : View → Nat → Nat
  ea   : View → Nat → Dword
  suits : Dword → Bool

def stores (i : Instr) : Option StoreForm :=
  match i with
  | .st _ z d a o _ => some ⟨loadSize z, ⟨.write, false⟩, none, false, fun w l => dataOf w 1 d.toNat l (loadSize z),
      fun w l => w.g.rv64 a.toNat l + immOf w.pre o * BitVec.ofNat 64 (loadSize z), fun _ => true⟩
  | .stl _ sc d a z o _ => some ⟨accSize z, ⟨.write, false⟩, some sc.toNat, decide (sc.toNat ≥ 2), fun w l => dataOf w 1 d.toNat l (accSize z),
      fun w l => w.g.rv64 a.toNat l + off6Of w.pre o * BitVec.ofNat 64 (accSize z), fun _ => true⟩
  | .sigf _ sc a b _ => some ⟨8, ⟨.write, true⟩, some sc.toNat, true, fun w l => (w.g.rv64 b.toNat l).toNat,
      fun w l => w.g.rv64 a.toNat l, sigfPlaced⟩
  | _ => none

/-- An atomic word (R180, R181): 64 bits or 32, scope, operation, destination (none for RED), address pair, operand and expected value. -/
structure AtomForm where
  wide  : Bool
  scope : Nat
  fn    : Nat
  kind  : RemoteKind
  dest  : Option (BitVec 6)
  addr  : Nat
  x     : View → Nat → Nat
  e     : View → Nat → Nat

def AtomForm.size (f : AtomForm) : Nat := if f.wide then 8 else 4

def atomics (i : Instr) : Option AtomForm :=
  let val := fun (z : BitVec 1) (idx : Nat) (b : BitVec 6) (w : View) (l : Nat) => dataOf w idx b.toNat l (if z = 1#1 then 8 else 4)
  match i with
  | .atomTeam _ f d a z b _ => some ⟨z == 1#1, 1, f.toNat, .atom f.toNat, some d, 2 * a.toNat, val z 1 b, fun _ _ => 0⟩
  | .atomCluster _ f d a z b _ => some ⟨z == 1#1, 2, f.toNat, .atom f.toNat, some d, 2 * a.toNat, val z 1 b, fun _ _ => 0⟩
  | .atomDevice _ f d a z b _ => some ⟨z == 1#1, 3, f.toNat, .atom f.toNat, some d, 2 * a.toNat, val z 1 b, fun _ _ => 0⟩
  | .atomFabric _ f d a z b _ => some ⟨z == 1#1, 4, f.toNat, .atom f.toNat, some d, 2 * a.toNat, val z 1 b, fun _ _ => 0⟩
  | .red _ f z sc a b _ => some ⟨z == 1#1, sc.toNat, f.toNat, .atom f.toNat, none, a.toNat, val z 1 b, fun _ _ => 0⟩
  | .atomcas _ z sc d a b _ => some ⟨z == 1#1, sc.toNat, 0, .cas, some d, a.toNat, val z 1 b, val z 2 d⟩
  | .atomincb _ z sc d a b _ => some ⟨z == 1#1, sc.toNat, 0, .incb, some d, a.toNat, val z 1 b, fun _ _ => 0⟩
  | _ => none

/-- Every lane of Act reaches a place of this module (Table 7-2), has nothing of its own under a fabric address of this module to wait for
there (R175), and reads no poisoned word there where it reads (R276). -/
def local_ (i : Instr) (s : State) (k : AccKind) (reads : Bool) (size : Nat) (ea : Nat → Dword) (place : Nat → Place) : Prop :=
  ∀ l, inMask (viewOf i s).act l = true → checkAccess (enter i s) (viewOf i s).g l k (ea l) size = .ok (place l) ∧
    selfWaits (enter i s) (viewOf i s) size (ea l) l (.ok (place l)) = false ∧
    (reads = true → (enter i s).poisoned (if (place l).l1 then some (viewOf i s).g.core else none) (place l).loc size = none)

/-- The waits of chapters 6, 7 and 9 that pass with no other effect than an acquire: whether the wait is over, and the acquire. -/
def waits (i : Instr) (s : State) : Option (Bool × (State → State)) :=
  let w := viewOf i s
  let g := w.g
  match i with
  | .wait _ l st t r c => some (waitMet (g.count .ld) l && waitMet (g.count .st) st && waitMet (g.count .tl) t &&
      waitMet (g.count .rm) r && waitMet (g.count .cp) c, fun t => t)
  | .barw _ l n q _ =>
    let b := s.bar (g.barRef l.toNat n.toNat)
    some (b.parity == q.toNat && !dmgTraps s g l.toNat n.toNat (b.phase - 1) b.lastD, fun t => barAcquire t g l.toNat n.toNat)
  | .tjoin _ a _ => some ((acting i s).all (fun l => let j := g.rv64 a.toNat l
      j == 0 || (match joinPlace (enter i s) g .read j with
        | .ok p => ((enter i s).poisoned none p.loc 8).isNone && !incPending g l p.loc 8 &&
            readPlaceNat ((enter i s).flushSector g.core (p.loc / 256)) g l p.loc p.tag false 8 == 0
        | _ => false)), fun t => acquireAt t g.core 3)
  | .vatwait _ v _ =>
    let x := (s.vat g v.toNat).st
    some (g.kern.hasVat v.toNat && (x == .full || x == .draining), fun t => vatAcquire t g v.toNat)
  | _ => none

/-! ## Tables of chapters 6, 8, 9, 14 and 15 -/

/-- R154: what each lane of SPAWN and SPAWNB spawns. -/
def spawns (i : Instr) : Option (View → Nat → SpawnReq) :=
  match i with
  | .spawn _ d a b _ => some (fun w l => ⟨w.g.rv64 a.toNat l, w.g.rv64 d.toNat l, w.g.rv64 b.toNat l, 1, 0, false⟩)
  | .spawnb _ d a b _ => some (fun w l => ⟨w.g.rv64 a.toNat l, w.g.rv64 d.toNat l, w.g.rv64 b.toNat l,
      (w.g.rv (b.toNat + 2) l).toNat, (w.g.rv (b.toNat + 3) l).toNat, true⟩)
  | _ => none

/-- R119, R208: what the checks of a matrix or chain word answer in a state: the operation that it starts. -/
def engines (i : Instr) : Option (View → State → Except EngFault (State → State)) :=
  let mat := fun (fn : Nat) (a b : Nat) => some (fun (w : View) (t : State) =>
    (matIssue w fn a b t).map (fun x => startMat w fn x))
  match i with
  | .tmma _ a b _ => mat 0 a.toNat b.toNat
  | .tzero _ a _ => mat 1 a.toNat 0
  | .tacld _ a _ => mat 2 a.toNat 0
  | .tacst _ a _ => mat 3 a.toNat 0
  | .tquant _ a b _ => mat 4 a.toNat b.toNat
  | .vchain _ a _ => some (fun w t => (chainIssue w a.toNat t).map (fun op t => t.modGrp w.key (fun g => g.addOp .tl w.act (.vchain op))))
  | _ => none

/-- R233 to R235: a copy word: the copy, whether its limits (check 1) hold, the addresses of check 2, whether it waits for a codebook
slot, and what it does besides. -/
structure CopyForm where
  kind    : CopyKind
  inside  : Bool
  aligned : List (Dword × Nat)
  busy    : Bool
  extra   : State → State

def copies (i : Instr) (s : State) : Option CopyForm :=
  let w := viewOf i s
  match i with
  | .cpy _ d a b _ =>
    let n := (w.opnd 1 b.toNat 0).toNat
    some ⟨.cpy (w.g.rv64 d.toNat 0) (w.g.rv64 a.toNat 0) n, decide (n ≤ 2 ^ 30), [], false, fun t => t⟩
  | .cpya _ d k _ =>
    let p := Bank.get {} w.g.pats k.toNat
    some ⟨.cpya (w.g.rv64 d.toNat 0) p, true, [(w.g.rv64 d.toNat 0, patSize p)], false, fun t => t⟩
  | .cpyg _ d a _ => match readRecord (enter i s) w (w.g.rv64 a.toNat 0) with
    | .error _ => none
    | .ok b => some ⟨gatherOf (w.g.rv64 d.toNat 0) b, !gatherBad b, [(b.getD 1 0, 4)], false, fun t => dropFetched t s.key w.act⟩
  | .cpyx _ d a b _ =>
    let n := (w.g.rv b.toNat 0).toNat
    let slot := (w.g.rv (b.toNat + 1) 0).toNat
    let k := s.book w.g.core slot
    some ⟨.cpyx (w.g.rv64 d.toNat 0) (w.g.rv64 a.toNat 0) n slot k.iw k.vsize k.entries, decide (n ≤ 2 ^ 24) && decide (slot < 8), [], false,
      fun t => t⟩
  | .cbload _ d a k _ =>
    let c := w.opnd 1 d.toNat 0
    some ⟨.cbload (w.g.rv64 a.toNat 0) k.toNat (cbIw c) (cbVsize c) (cbEntries c), !cbBad c, [],
      (s.book w.g.core k.toNat).team.any (fun t => t != w.g.teamKey),
      fun t => { t with books := Bank.set {} t.books (bookKey w.g.core k.toNat) { t.book w.g.core k.toNat with team := some w.g.teamKey } }⟩
  | .qpush _ k q _ =>
    let p := Bank.get {} w.g.pats k.toNat
    some ⟨.qpush p q.toNat, p.esize == 2, [], false, fun t => t⟩
  | _ => none

/-- R200, R226, R229 to R231, R241: the words that a slot, a vat, a pattern or a copy answers at once: whether they may, and their effect. -/
def direct (i : Instr) (s : State) : Option (Bool × (State → State)) :=
  let w := viewOf i s
  let g := w.g
  let vat := fun (v : BitVec 6) => s.vat g v.toNat
  match i with
  | .tlend _ d _ =>
    let slot := 1 - slotOf s g g.group
    some (g.tq != 15 && !slotBound (enter i s) g g.quad slot, fun t =>
      (t.writeBytes none none 0 (stageLoc g.teamKey g.group slot 0) ((List.range 4096).map (lendByte w d.toNat))).setStage g slot)
  | .vattake _ v _ => some (g.kern.hasVat v.toNat && (vat v).st == .full, fun t =>
      let t := vatAcquire t g v.toNat
      t.setVat g v.toNat { t.vat g v.toNat with st := .draining })
  | .vatfree _ v _ => some (g.kern.hasVat v.toNat && (vat v).st == .draining && noRemote g w.act &&
      drained ((drainStores (enter i s) s.key w.act).grp s.key) w.act, fun t => (releaseLanes t s.key w.act).setVat g v.toNat {})
  | .vatarm _ a v _ =>
    let n := (w.opnd 0 a.toNat 0).toNat
    some (g.kern.hasVat v.toNat && n != 0 && decide (n ≤ 65535) && (vat v).st == .free, fun t => t.setVat g v.toNat { st := .filling, n := n })
  | .aaset _ a k _ => match readRecord (enter i s) w (g.rv64 a.toNat 0) with
    | .error _ => none
    | .ok b => some (!patternBad b (patternOf b), fun t => (dropFetched t s.key w.act).modGrp s.key (fun g => { g with pats := Bank.set {} g.pats k.toNat (patternOf b) }))
  | _ => none

/-! ## Tables of chapter 13 -/

/-- The context that executes a Fjarmar word: link j, its running slot n, and the state once the word is taken up. -/
structure SeqAt (s : State) (j n : Nat) : Prop where
  link    : s.seqs.cur = some j
  running : (s.seqLink j).running = some n
  free    : (s.slot (slotKey j n)).stepping = false
  still   : (s.slot (slotKey j n)).pend = none

def taken (s : State) : State := { s with seqs := { s.seqs with cur := none } }

/-- R298, R299, R310 (Table 13-5): the context after a scalar word, none where the word stops it. -/
def seqScalars (i : Instr) (j k : Nat) (x : SeqSlot) : Option SeqSlot :=
  let on := fun (y : SeqSlot) => some { y with pc := x.pc + 1, held := none }
  let branch := fun (y : SeqSlot) (imm : BitVec 32) =>
    let t := (x.pc : Int) + imm.toInt
    if 0 ≤ t ∧ t < x.imp.words.length then some { y with pc := t.toNat, held := none } else none
  match i with
  | .chunkMovi d imm => on (x.wc d.toNat (imm.signExtend 64))
  | .chunkMoviHi d imm => on (x.wc d.toNat (imm ++ (x.rc d.toNat).extractLsb' 0 32))
  | .chunkAddi d a b imm => on (x.wc d.toNat (x.rc a.toNat + x.rc b.toNat + imm.signExtend 64))
  | .chunkAddiN d a b imm => on (x.wc d.toNat (x.rc a.toNat - x.rc b.toNat + imm.signExtend 64))
  | .loop d imm =>
    let n := x.rc d.toNat
    if n = 0 then on x else if n = 1 then on (x.wc d.toNat 0) else branch (x.wc d.toNat (n - 1)) imm
  | .bnz a imm => if x.rc a.toNat = 0 then on x else branch x imm
  | .chunkCsrr d c => (seqCsr x j k c.toNat).bind (fun v => on (x.wc d.toNat v))
  | .chunkCsrw a c =>
    let v := (x.rc a.toNat).toNat
    if c.toNat = 2 ∧ 0 < v ∧ v < 2 ^ 32 then on { x with tleaf := v } else none
  | .bind a ch =>
    let v := (x.rc a.toNat).toNat
    let n := ch.toNat
    let mine := fun (c : Chunk) => c.impid == x.imp.impid && c.rank + 128 * c.slot == v
    if v < 2 ^ 9 ∧ v % 128 < x.imp.mods.length ∧ v / 128 ≠ 3 ∧ (∀ m, m < 16 → m ≠ n → x.bound m ≠ some v) ∧
        ((x.bound n).isSome = true → x.chan n = []) then
      on { x with bind := Bank.set none x.bind n (some v), chans := Bank.set [] x.chans n (x.chan n ++ x.staged.filter mine)
                  staged := x.staged.filter (fun c => !mine c) }
    else none
  | _ => none

/-- Where a chunk word stands at the end of its chunk (R318): at the next word, Ready, its link free for the next slot. -/
def atChunkEnd (s : State) (j k pc : Nat) : State :=
  leaveSlot (s.modSlot k (fun x => { x with pc := pc, held := none, st := .ready })) j k

/-- R304 to R307: what a chunk word does once its checks have passed with the pages `held`: the state at the end of its chunk; none
where it waits or stops. -/
def chunkWords (i : Instr) (s : State) (j k : Nat) : Option State :=
  let x := s.slot k
  let comb := fun (m : BitVec 1) (op f d a b ch : BitVec 4) (fwd : Option Nat) =>
    if m = 1 ∧ (s.ctx x.imp.ctxid).contract.getLsbD 11 = false then none
    else match chunkChecks s j x [.read, .write] (ch.toNat :: fwd.toList) (x.rc a.toNat) (x.rc b.toNat) with
    | .error _ => none
    | .ok held => (x.chan ch.toNat).head?.bind (fun c =>
      let n := (x.rc b.toNat).toNat
      if c.payload.length ≠ n ∨ (fwd.isSome = true ∧ roomFor s j n = false) then none
      else match (if m = 1 then treeLabels x.tleaf (x.rc d.toNat) c.label else .ok (true, c.label)), heldRead s held (x.rc a.toNat) n with
      | .ok (left, label), .ok y =>
        let z := if left then combineAll op.toNat f.toNat y c.payload else combineAll op.toNat f.toNat c.payload y
        let t := releaseChunk ((heldWrite s held (x.rc a.toNat) z).modSlot k (fun x => x.wc d.toNat label)) j k ch.toNat
        some (match fwd with
          | some n => sendChunk t j k n z ((t.slot k).rc d.toNat)
          | none => t)
      | _, _ => none)
  match i with
  | .xmit d a b ch => match chunkChecks s j x [.read] [ch.toNat] (x.rc a.toNat) (x.rc b.toNat) with
    | .error _ => none
    | .ok held =>
      if roomFor s j (x.rc b.toNat).toNat = false then none
      else match heldRead s held (x.rc a.toNat) (x.rc b.toNat).toNat with
        | .ok p => some (sendChunk s j k ch.toNat p (x.rc d.toNat))
        | .error _ => none
  | .recv d a b ch => match chunkChecks s j x [.write] [ch.toNat] (x.rc a.toNat) (x.rc b.toNat), (x.chan ch.toNat).head? with
    | .ok held, some c =>
      if c.payload.length = (x.rc b.toNat).toNat then
        some (releaseChunk ((heldWrite s held (x.rc a.toNat) c.payload).modSlot k (fun x => x.wc d.toNat c.label)) j k ch.toNat)
      else none
    | _, _ => none
  | .comb m op f d a b ch => comb m op f d a b ch none
  | .cfwd m fw op f d a b ch => comb m op f d a b ch (some fw.toNat)
  | _ => none

/-- R298, R303, R310 (Table 13-10): the stop code, DETAIL and ADDR with which a word stops its context. -/
def seqStops (i : Instr) (x : SeqSlot) : Option (Nat × Nat × Dword) :=
  let outside := fun (imm : BitVec 32) =>
    let t := (x.pc : Int) + imm.toInt
    if 0 ≤ t ∧ t < x.imp.words.length then none else some (0x41, 0, 0)
  match i with
  | .loop d imm => if (x.rc d.toNat).toNat ≤ 1 then none else outside imm
  | .bnz a imm => if x.rc a.toNat = 0 then none else outside imm
  | .chunkCsrr _ c => if c.toNat ≤ 5 then none else some (0x40, 1, 0)
  | .chunkCsrw a c =>
    let v := (x.rc a.toNat).toNat
    if c.toNat ≠ 2 then some (0x40, 1, 0) else if v = 0 ∨ v ≥ 2 ^ 32 then some (0x40, 3, 0) else none
  | .waitf _ a _ | .chunkSigf a _ | .chunkSigfAdd a _ => if (x.rc a.toNat).toNat % 8 ≠ 0 then some (0x45, 0, x.rc a.toNat) else none
  | _ => none

/-! ## Commands (R364) -/

/-- The commands of Tables 16-5, 17-4 and 18-1, where each is permitted, and the bytes of its body. -/
def commands (i : Instr) : Option (Command × Permit × Nat) :=
  match i with
  | .ctxcreate c => some (c, .management, 256)
  | .ctxdestroy c | .qpbind c => some (c, .management, 4)
  | .qopen c => some (c, .management, 16)
  | .qcancel c => some (c, .ownQueue, 4)
  | .hostLaunch c => some (c, .bound, 144)
  | .hostTlbinv c => some (c, .bound, 8)
  | .seqctlResume c | .seqctlStep c | .seqctlAbort c | .seqctlStop c => some (c, .bound, 16)
  | .rsabort c => some (c, .bound, 8)
  | .mrreg c => some (c, .bound, 24)
  | .mrdereg c => some (c, .bound, 4)
  | .suspend c => some (c, .bound, 16)
  | .linkstat c => some (c, .either, 4)
  | .objload c => some (c, .bound, 24)
  | .objdrop c => some (c, .bound, 4)
  | .debugHalt c | .debugRelease c | .debugHold c | .debugUnhold c | .debugStep c | .debugBkset c | .debugBkclr c | .debugSetpc c
  | .debugDump c => some (c, .debug, 32)
  | .tracecfg c => some (c, .debug, 24)
  | .attest c => some (c, .either, 48)
  | .keyload c => some (c, .management, 116)
  | .bbread c => some (c, .management, 16)
  | .mgmtrd c => some (c, .management, 4)
  | .mgmtwr c => some (c, .management, 16)
  | _ => none

/-- The command is heard, permitted and well formed up to its own fields. -/
def sound (i : Instr) (s : State) : Prop :=
  ∃ c p n, commands i = some (c, p, n) ∧ qpLive s c.qp = true ∧ permitted s c p = true ∧ c.len = n ∧ c.body.length = n ∧ c.rsvd = 0

/-- A command answers with STATUS 0: the state it leaves, VALUE, the bytes after its completion, what the completion awaits. -/
def acceptsWith (i : Instr) (c : Command) (s t : State) (value : Dword) (extra : List Byte) (await : Await) : Prop :=
  exec i s = .next (queueReply c { st := t, status := 0, value := value, extra := extra, await := await })
def accepts (i : Instr) (c : Command) (s t : State) : Prop := acceptsWith i c s t 0 [] .now

def bodyNat (c : Command) (off n : Nat) : Nat := fld c.body off n
def body64 (c : Command) (off : Nat) : Dword := fld64 c.body off
/-- The context of the command's queue pair. -/
def owner (s : State) (c : Command) : Nat := ((s.qp c.qp).ctxid).getD 0

/-- The group that a DEBUG command names, and the changes that the actions make to it (Table 18-2). -/
def debugs (i : Instr) (s : State) (k : Nat) : Option (Command × Nat × Bool × State) :=
  let g := s.grp k
  let mask := fun (c : Command) => BitVec.ofNat 32 (bodyNat c 8 4)
  match i with
  | .debugRelease c => some (c, 2, !g.frozen, if g.halted then releaseGroup s k else s)
  | .debugHold c => some (c, 3, true, s.modGrp k (fun g => { g with hold := true }))
  | .debugUnhold c => some (c, 4, true, s.modGrp k (fun g => { g with hold := false }))
  | .debugStep c => some (c, 5, g.halted && g.hold && !g.frozen,
      releaseGroup (s.modGrp k (fun g => g.modLanes g.live (fun l x => { x with stepArm := inMask (mask c) l }))) k)
  | .debugBkset c => some (c, 6, true, s.modGrp k (fun g =>
      { g with bkpts := Bank.set none g.bkpts ((body64 c 16).toNat % 4) (some ⟨body64 c 16 &&& ~~~ 3#64, mask c⟩) }))
  | .debugBkclr c => some (c, 7, true, s.modGrp k (fun g => { g with bkpts := Bank.set none g.bkpts ((body64 c 16).toNat % 4) none }))
  | .debugSetpc c => some (c, 8, g.halted && decide ((body64 c 16).toNat % 4 = 0),
      s.setGrp k (g.modLanes (lanesOf (mask c &&& g.tlanes)) (fun _ x => { x with tpc := body64 c 16 })))
  | _ => none

/-! ## What engines and copies leave -/

/-- Writes of an engine that touch each byte once, in words that stand under their key. -/
def apart (s : State) (ws : List EngWrite) : Prop :=
  (EngWrite.locs ws).Nodup ∧ ∀ w ∈ ws, ∀ i, i < w.data.length → isDram (w.loc + i) = true → wordTag s ((w.loc + i) / 32) = w.tag

/-- t has the bytes of some writes where they go, and of s every other byte. -/
def leavesBytes (s t : State) (ws : List EngWrite) : Prop :=
  (∀ w ∈ ws, ∀ i, i < w.data.length → t.rawByte (w.loc + i) = w.data.getD i 0) ∧ ∀ a, a ∉ EngWrite.locs ws → t.rawByte a = s.rawByte a

/-- R209 to R213, Table 8-8: what element (m, n) of the tile holds after a TMMA, TZERO or TACLD. -/
def matElem (s : State) (g : Grp) (op : MatOp) (m n : Nat) : Nat :=
  let b := op.block
  let f := fmtWord op.fw
  let K := pK b
  match op.fn with
  | 0 =>
    let rowA := bytesToNat (engineRead s g op.held op.seen (pAddr b 0 + BitVec.ofNat 64 (m * blockField b 0x08 4)) (ceilDiv (K * fmtWidth f.af) 8))
    let scA := if f.sm = 2 ∨ f.sm = 3 then scaleLine s g op (pAddr b 0x20) 256 m else []
    let scB := scaleLine s g op (pAddr b 0x28) 64 n
    let A : Operand := ⟨f.af, elemAt rowA (fmtWidth f.af), fun c => scA.getD c 0⟩
    let B : Operand := ⟨f.bf, fun k => elemAt ((boundQuarters s g op).getD (k / (kmaxOf f / 4)) 0) (fmtWidth f.bf) (k % (kmaxOf f / 4) * 64 + n),
      fun c => scB.getD c 0⟩
    let acc := if pZero b then 0 else readAcc s g [] (pTile b) m n
    if f.cf = 0 then sumFp32 K (prodFp f A B) acc else sumInt32 K (prodInt f A B) acc
  | 1 => 0
  | _ => tacldElem (pXctl b % 16)
      (elemAt (bytesToNat (engineRead s g op.held op.seen (xElem op (xWidth op) m 0) (xRowBytes 2 f b))) (xWidth op) n)

/-- R213, R215: element (m, n) as TACST stores it; a stochastic one's generator has stepped once for each element before. -/
def tacstOf (s : State) (g : Grp) (op : MatOp) (m n : Nat) : Nat :=
  let mode := pXctl op.block / 32 % 8
  tacstElem (pXctl op.block) mode (if mode = 4 then (stepGen ((fun x => (stepGen x).1)^[64 * m + n] op.seed)).2 else 0)
    (readAcc s g op.seen (pTile op.block) m n)

/-- R214: the 32 values of a TQUANT's block i. -/
def quantInputs (s : State) (g : Grp) (op : MatOp) (i : Nat) : List FVal :=
  (List.range 32).map (fun n =>
    let x := readAcc s g op.seen (pTile op.block) (i / 2) (i % 2 * 32 + n)
    if (fmtWord op.fw).cf = 0 then fdecode fp32 x else vint (IFmt.val ⟨32, true⟩ x))

/-- A byte of this module that a copy reads, in no poisoned word. -/
def copyByte (s : State) (g : Grp) (va : Dword) : Option Byte :=
  match spotOf s g false va 1 with
  | .inl (.here loc tag l1) =>
    let core := if l1 then some g.core else none
    if s.poisoned core loc 1 = none then some (s.readByte core tag loc) else none
  | _ => none

/-- Table 4-1, the divisions: signed or not, remainder or quotient, destination, and lane l's operands. -/
def divisions32 (i : Instr) : Option (Bool × Bool × BitVec 6 × (View → Nat → Word × Word)) :=
  let f := fun (sgn rem : Bool) (d a b : BitVec 6) =>
    some (sgn, rem, d, fun (w : View) (l : Nat) => (w.opnd 0 a.toNat l, w.opnd 1 b.toNat l))
  match i with
  | .div _ d a b _ => f true false d a b
  | .divu _ d a b _ => f false false d a b
  | .rem _ d a b _ => f true true d a b
  | .remu _ d a b _ => f false true d a b
  | _ => none
def divisions64 (i : Instr) : Option (Bool × Bool × BitVec 6 × (View → Nat → Dword × Dword)) :=
  let f := fun (sgn rem : Bool) (d a b : BitVec 6) =>
    some (sgn, rem, d, fun (w : View) (l : Nat) => (w.g.rv64 a.toNat l, w.g.rv64 b.toNat l))
  match i with
  | .div64 _ d a b _ => f true false d a b
  | .divu64 _ d a b _ => f false false d a b
  | .rem64 _ d a b _ => f true true d a b
  | .remu64 _ d a b _ => f false true d a b
  | _ => none

/-- R94: the result and the flags of a division: its two border cases, and the exact quotient, cut towards zero, and remainder of all
others. -/
def division {n : Nat} (sgn rem : Bool) (x y : BitVec n) : BitVec n × Word :=
  if y = 0 then (if rem then x else BitVec.ofNat n (2 ^ n - 1), flDZ)
  else if sgn = true ∧ x.toInt = -(2 ^ (n - 1)) ∧ y.toInt = -1 then (if rem then 0 else x, 0)
  else
    let a : Int := if sgn then x.toInt else x.toNat
    let b : Int := if sgn then y.toInt else y.toNat
    (BitVec.ofInt n (if rem then a - b * a.tdiv b else a.tdiv b), 0)

/-! ## Placing (R284, R285) -/

/-- The grid of a head packet, and the machine with it: the launcher's stores are visible (R167), and a packet that has none yet gets a new
grid of its kernel, every cluster pending, under a GRIDID no grid holds (log entry 28). -/
def headGrid (s : State) (q : Nat) (h : Queued) : Nat × State :=
  let x := s.queue q
  let t := h.after.foldl (fun s a => s.flushCore a.2.2) s
  let gk := h.grid.getD (freshGrid t)
  (gk, if h.grid.isSome then t else
    let t := t.setGrid gk (newGrid x.ctxid q x.level h.packet (h.kern.getD {}))
    { t with sched := { t.sched with nextGrid := gk % 65535 + 1 } })

/-- The core of team t of a cluster whose rectangle stands at (row, col) of a die: row-major order (R15, R284). -/
def teamCore (p : Packet) (die row col t : Nat) : Nat := die * 64 + (row + t / p.cols) * 8 + col + t % p.cols

/-- A fresh cluster fits the rectangle at (row, col) of a die: every core of it can hold its team. -/
def rectFits (s : State) (gk cid die row col : Nat) : Bool :=
  let p := (s.grid gk).packet
  ((launchTeams gk (s.grid gk) cid).foldlM (fun s y => placeTeam s gk cid (teamCore p die row col y.idx) p y) s).isSome

/-! ## Fabric accesses (R172, R356) -/

/-- The shares that the lanes of Act send: one for each lane, to its module. -/
def fabricShares (i : Instr) (s : State) (size : Nat) (ea : Nat → Dword) (module : Nat → Nat) (data : Nat → BitVec 128) (exp : Nat → Dword)
    (keys : Nat → List Nat) (sgn : Bool) : List Share :=
  (acting i s).map (fun l => ⟨l, module l, ea l, size, data l, exp l, keys l, sgn⟩)

/-- Every lane of Act reaches another module's memory by a fabric address, as the checks 1 to 4 of Table 7-2 find in state t. -/
def away (i : Instr) (s t : State) (k : AccKind) (size : Nat) (ea : Nat → Dword) (peer module : Nat → Nat) : Prop :=
  ∀ l, inMask (viewOf i s).act l = true → laneAcc t (viewOf i s) k size ea l = .fabric (peer l) (module l) ∧ module l ≠ t.fabric.self

/-- An access as its request carries it. -/
def Share.acc (x : Share) : RemoteAcc := ⟨x.lane, x.addr &&& 0x00FFFFFFFFFFFFFF#64, x.size, x.data, x.exp⟩

/-- The words that an answer gives the registers that await it. -/
def answered (r : ROut) (vals : List (Nat × BitVec 128)) : List (Nat × Word) :=
  r.lanes.flatMap (fun x => match vals.find? (fun v => v.1 == x.lane) with
    | some v => answerWords x v.2
    | none => [])

/-! ## Traps of accesses and of decoding -/

/-- The address of a load, store or atomic word, its size, its access kind, and what else its address must suit (R183). -/
def accesses (i : Instr) : Option (Nat × AccKind × (View → Nat → Dword) × (Dword → Bool)) :=
  match loads i, stores i, atomics i with
  | some f, _, _ => some (f.size, ⟨.read, f.size == 8⟩, f.ea, fun _ => true)
  | _, some f, _ => some (f.size, f.kind, f.ea, f.suits)
  | _, _, some f => some (f.size, ⟨.write, atomFlagOk f.wide f.fn f.scope⟩, fun w l => w.g.rv64 f.addr l, fun _ => true)
  | _, _, _ => none

/-- All of `runs` but the contract's grant (R369). -/
def runsUngranted (i : Instr) (s : State) : Bool :=
  s.cur.lanes != 0 && (s.cur.pos != 0 || overRun (s.grp s.key) s.cur.lanes 1 == 0) &&
    decodeTrap (s.grp s.key) s.cur.lanes s.cur.pre {} i == none && !mustStall (s.grp s.key) s.cur.lanes (viewOf i s).act i &&
    (popQueues (s.grp s.key).qwinOn (s.grp s.key) (useOf i).src).isSome &&
    poisonedSrc (s.grp s.key) (actOf (s.grp s.key) s.cur.lanes i) i == none

end Sys2Proof.Claims

open Sys2Proof Sys2Proof.Machine Sys2Proof.Claims

/-! ## Computation (chapters 2 to 4) -/

/-- R93, R94 (Table 4-1), 32 bits: the result goes to v[d] of every lane of Act, the flags it raises are ORed into FLAGS, and no other
register, flag, byte of memory or group changes. -/
def Obligations.Integer32Results : Prop :=
  ∀ (i : Instr) (s : State) (d : BitVec 6) (f : View → Nat → Word × Word), table41 i = some (d, f) → ready i s = true →
    yields i s (fun l => one d.toNat (f (viewOf i s) l).1 (f (viewOf i s) l).2)

/-- R93, R94 (Table 4-1), 64 bits on pairs. -/
def Obligations.Integer64Results : Prop :=
  ∀ (i : Instr) (s : State) (d : BitVec 6) (f : View → Nat → Dword × Word), table41W i = some (d, f) → ready i s = true →
    yields i s (fun l => two d.toNat (f (viewOf i s) l).1 (f (viewOf i s) l).2)

/-- R94: the four divisions, 32 and 64 bits, never trap; their two border cases. -/
def Obligations.Divisions : Prop :=
  (∀ (i : Instr) (s : State) (sgn rem : Bool) (d : BitVec 6) (f : View → Nat → Word × Word),
    divisions32 i = some (sgn, rem, d, f) → ready i s = true →
    yields i s (fun l => one d.toNat (division sgn rem (f (viewOf i s) l).1 (f (viewOf i s) l).2).1
      (division sgn rem (f (viewOf i s) l).1 (f (viewOf i s) l).2).2)) ∧
  (∀ (i : Instr) (s : State) (sgn rem : Bool) (d : BitVec 6) (f : View → Nat → Dword × Dword),
    divisions64 i = some (sgn, rem, d, f) → ready i s = true →
    yields i s (fun l => two d.toNat (division sgn rem (f (viewOf i s) l).1 (f (viewOf i s) l).2).1
      (division sgn rem (f (viewOf i s) l).1 (f (viewOf i s) l).2).2))

/-- R95 and R109: the immediate forms and the moves; none raises a flag. -/
def Obligations.ImmediateAndMoveResults : Prop :=
  ∀ (i : Instr) (s : State) (f : View → Nat → LaneResult), immediate i = some f → ready i s = true → yields i s (f (viewOf i s))

/-- R97, R99, R100 (Table 4-2): the words that round under the dynamic mode (R91) step the lane's generator only where that mode is
stochastic (R75). -/
def Obligations.RoundedResults : Prop :=
  ∀ (i : Instr) (s : State) (f : Nat → LaneResult), rounding i s = some f → ready i s = true → yields i s f

/-- R97 to R99: signs, classes, minima and maxima. -/
def Obligations.UnroundedFloatResults : Prop :=
  ∀ (i : Instr) (s : State) (f : View → Nat → LaneResult), unrounded i = some f → ready i s = true → yields i s (f (viewOf i s))

/-- R96, R101 to R103, R112: comparisons, predicate logic and votes. -/
def Obligations.PredicateResults : Prop :=
  ∀ (i : Instr) (s : State) (f : View → Nat → LaneResult), predicates i = some f → ready i s = true → yields i s (f (viewOf i s))

/-- R103, R111 to R113, R115, R116: select, shuffles, ballots, matches, reductions and scans. -/
def Obligations.LaneOperationResults : Prop :=
  ∀ (i : Instr) (s : State) (f : View → Nat → LaneResult), laneOps i = some f → ready i s = true → yields i s (f (viewOf i s))

/-- R127, R142, R144, R196: CSRR, FEAT, RJGET and BARST. -/
def Obligations.StatusReadResults : Prop :=
  ∀ (i : Instr) (s : State) (f : Nat → LaneResult), statusReads i s = some f → ready i s = true → yields i s f

/-- R96, R90, Table 1-1: a scalar word writes its s register once per issue, and not when Act is empty; s0 reads as zero and discards
writes, and a write to another s register touches no other. -/
def Obligations.ScalarResults : Prop :=
  (∀ (i : Instr) (s : State) (d : BitVec 5) (f : View → Dword), scalars i = some (d, f) → ready i s = true →
    makes i s (if (viewOf i s).act = 0 then (viewOf i s).g else (viewOf i s).g.ws d.toNat (f (viewOf i s)))) ∧
  (∀ (g : Grp) (n m : Nat) (x : Dword), g.rs 0 = 0 ∧ (g.ws n x).rs m = if m = n ∧ n ≠ 0 then x else g.rs m)

/-- R90, R114, R127, R128: PARTSET, RJENROL and RJOUT. -/
def Obligations.GroupWriteResults : Prop :=
  ∀ (i : Instr) (s : State) (f : View → Grp → Grp), groupWrites i = some f → ready i s = true →
    makes i s (if (viewOf i s).act = 0 then (viewOf i s).g else f (viewOf i s) (viewOf i s).g)

/-- R30, R142, R143: CSRW writes a lane register in each lane of Act, another register once, from the lowest lane of Act; what it has
written CSRR reads, and every other register reads as before. -/
def Obligations.CsrWrites : Prop :=
  (∀ (u : Bool) (a : BitVec 6) (c : BitVec 12) (p : BitVec 3) (s : State), ready (.csrw u a c p) s = true →
    let w := viewOf (.csrw u a c p) s
    let from_ := fun (l : Nat) => if csrPerLane c then l else (lowest w.act).getD l
    (∀ l, inMask w.act l = true → csrReserved c (csrwValue w c a (from_ l)) = false ∧
      csrwOut w (enter (.csrw u a c p) s) c (csrwValue w c a (from_ l)) = .ok) →
    completes (.csrw u a c p) s (fun t =>
      if w.act = 0 then t
      else if csrPerLane c then t.modGrp s.key (fun g => (lanesOf w.act).foldl (fun g l => writeLaneCsr g l c (csrwValue w c a l)) g)
      else writeCsr t s.key w.act c (csrwValue w c a (from_ 0)))) ∧
  ((∀ (s : State) (k l : Nat) (m : Word) (c c' : BitVec 12) (x : Dword), csrWritable c = true → csrPerLane c = false → csrKnown c' = true →
    csrReserved c x = false → (csrWide c = false → x.toNat < 2 ^ 32) →
    let t := writeCsr s k m c x
    readCsr t (t.grp k) l c' = if c' = c then (if c = 0x060#12 then (x &&& 0x00FFFFFFFFFF000C#64) ||| 1 else x)
      else readCsr s (s.grp k) l c') ∧
  (∀ (s : State) (g : Grp) (l l' : Nat) (c c' : BitVec 12) (x : Dword), csrPerLane c = true → csrKnown c' = true →
    (csrWide c = false → x.toNat < 2 ^ 32) →
    readCsr s (writeLaneCsr g l c x) l' c' = if c' = c ∧ l' = l then x else readCsr s g l' c'))

/-- R92: the results of the special functions and conversions join the group's queue; their flags and generator steps take effect at
once, and no register changes. QUEUED_RESULT_WRITE writes the oldest to their registers. -/
def Obligations.QueuedResults : Prop :=
  (∀ (i : Instr) (s : State) (f : Nat → LaneResult), queuedResults i s = some f → ready i s = true →
    ∃ t, exec i s = .next t ∧ t = s.put t.grps ∧ (∀ k, k ≠ s.key → t.grp k = s.grp k) ∧
      t.grp s.key = { (viewOf i s).g with
        lanes := (t.grp s.key).lanes
        sfq := if (viewOf i s).act = 0 then (viewOf i s).g.sfq
          else (viewOf i s).g.sfq ++ [⟨(acting i s).flatMap (fun l => keyed (s.grp s.key) l (f l))⟩] } ∧
      (∀ l, inMask s.cur.lanes l = true → (t.grp s.key).lane l = after i s
        (if inMask (viewOf i s).act l then (f l).into ((s.grp s.key).lane l) else (s.grp s.key).lane l)) ∧
      (∀ l, inMask s.cur.lanes l = false → (t.grp s.key).lane l = (s.grp s.key).lane l)) ∧
  (∀ (c : Nat) (s : State) (q : QueuedResult) (rest : List QueuedResult), (s.grp c).sfq = q :: rest →
    exec (.queuedResultWrite c) s = .next (s.setGrp c { (s.grp c).writeKeys q.keys with sfq := rest }))

/-- R47 to R52: NOP and HINT.SCHED change nothing but that their lanes go on; a prefix word that passes its checks joins the prefix
group of the issue in progress and changes nothing else. -/
def Obligations.NopsAndPrefixWords : Prop :=
  ((∀ (u : Bool) (s : State), ready (.nop u) s = true → makes (.nop u) s (viewOf (.nop u) s).g) ∧
  (∀ (u : Bool) (y : BitVec 1) (h : BitVec 4) (s : State), ready (.hintSched u y h) s = true →
    makes (.hintSched u y h) s (viewOf (.hintSched u y h) s).g)) ∧
  (∀ (s : State), s.cur.lanes ≠ 0 →
    (s.cur.pos = 0 → overRun (s.grp s.key) s.cur.lanes (groupLen s (s.grp s.key) s.cur.pc) = 0) →
    (∀ (y : BitVec 22), decodeTrap (s.grp s.key) s.cur.lanes s.cur.pre {} (.hintImm y) = none →
      exec (.hintImm y) s = .next { s with cur := { s.cur with
        pos := s.cur.pos + 1, pre := { s.cur.pre with imms := s.cur.pre.imms ++ [y] } } }) ∧
    (∀ (r q : BitVec 3) (m : BitVec 1) (c : BitVec 2), decodeTrap (s.grp s.key) s.cur.lanes s.cur.pre {} (.hintMod r q m c) = none →
      exec (.hintMod r q m c) s = .next { s with cur := { s.cur with
        pos := s.cur.pos + 1,
        pre := { s.cur.pre with hasMod := true, rnd := r.toNat, pd := q.toNat, promote := m == 1#1, cache := c.toNat } } }))

/-! ## Control and traps (chapters 2, 5 and 7) -/

/-- R121, R123: every lane of Act goes to its target, which starts a run; a call leaves the address of the word after it in v63; the
lanes outside Act go on at the next word. -/
def Obligations.ControlTransfers : Prop :=
  ∀ (i : Instr) (s : State) (call : Bool) (f : View → Nat → Dword), targets i = some (call, f) → ready i s = true →
    (∀ l, inMask (viewOf i s).act l = true → reachable call (viewOf i s) (f (viewOf i s) l)) →
    ∃ t, exec i s = .next t ∧ t = s.put t.grps ∧ (∀ k, k ≠ s.key → t.grp k = s.grp k) ∧
      t.grp s.key = (viewOf i s).g.put (t.grp s.key).v (t.grp s.key).lanes ∧
      (∀ l, inMask (viewOf i s).act l = true → (t.grp s.key).lane l =
        ((s.grp s.key).lane l).advance true (viewOf i s).words s.cur.lanes (f (viewOf i s) l)) ∧
      (∀ l, inMask s.cur.lanes l = true → inMask (viewOf i s).act l = false →
        (t.grp s.key).lane l = after i s ((s.grp s.key).lane l)) ∧
      (∀ l, inMask s.cur.lanes l = false → (t.grp s.key).lane l = (s.grp s.key).lane l) ∧
      (∀ l n, l < 32 → (t.grp s.key).rv n l =
        if call = true ∧ n = 63 ∧ inMask (viewOf i s).act l = true then s.cur.next.extractLsb' 0 32 else (s.grp s.key).rv n l)

/-- R127 to R129: RJPARK parks the lanes of Act that its mask holds, at its own word; its other lanes go on. A mask every lane of which is
parked on it clears, and its lanes go on at the word after their RJPARK; a mask that is not complete changes nothing. -/
def Obligations.RejoinParkAndRelease : Prop :=
  (∀ (u : Bool) (j p : BitVec 3) (s : State), ready (.rjpark u j p) s = true →
    let w := viewOf (.rjpark u j p) s
    exec (.rjpark u j p) s = .next (settle (.rjpark u j p) s
      ((lanesOf w.act).map (fun l => (l, if inMask (w.g.rj j.toNat) l then LaneOut.hold else LaneOut.ok)))
      (checkDeadlock ((enter (.rjpark u j p) s).modGrp s.key (fun g =>
        (g.modLanes ((lanesOf w.act).filter (fun l => inMask (w.g.rj j.toNat) l)) (fun _ x =>
          { x with parked := some j.toNat, unpark := w.next, waiting := false, bkPass := false
                   run := if u then 0 else x.run + w.words })).evalRelease j.toNat))
        s.key))) ∧
  (∀ (g : Grp) (n : Nat),
    (g.releases n = true →
      (g.evalRelease n).rj n = 0 ∧
      ∀ l, ((g.evalRelease n).lane l).parked = (if inMask (g.rj n) l then none else (g.lane l).parked) ∧
        ((g.evalRelease n).lane l).pc = (if inMask (g.rj n) l then (g.lane l).unpark else (g.lane l).pc)) ∧
    (g.releases n = false → g.evalRelease n = g))

/-- R126: EXIT, where no fabric access of its lanes is unanswered, takes the lanes of Act out for good: each reads exited, carries no task,
and its bits leave TLANES and every rejoin mask. No other lane exits or loses its task, no other mask bit is set, and no byte of memory and
no join counter changes. A lane with a fabric access that is not answered waits at the EXIT, where a refusal would trap it (R172). -/
def Obligations.ExitLeaves : Prop :=
  ∀ (p : BitVec 3) (s : State), ready (.exit p) s = true →
    let w := viewOf (.exit p) s
    (∀ l, inMask w.act l = true → noRemote w.g (laneBit l) = true) →
    ∃ t, exec (.exit p) s = .next t ∧ t.mem = s.mem ∧
      (∀ l, inMask w.act l = true → ((t.grp s.key).lane l).exited = true ∧ ((t.grp s.key).lane l).task = none ∧
        inMask (t.grp s.key).tlanes l = false ∧ ∀ n, n < 8 → inMask ((t.grp s.key).rj n) l = false) ∧
      (∀ l, inMask w.act l = false → ((t.grp s.key).lane l).exited = ((s.grp s.key).lane l).exited ∧
        ((t.grp s.key).lane l).task = ((s.grp s.key).lane l).task ∧
        ∀ n, n < 8 → inMask ((t.grp s.key).rj n) l = true → inMask ((s.grp s.key).rj n) l = true)

/-- R134, R136: a trap writes the results its group has queued, saves each lane's word address in TPC and fault address in TADDR, sets
TCAUSE and TLANES, and sends the lanes to the handler; no other lane, register, group or byte of memory changes. With no handler, or where
the debugger holds the group at a breakpoint or single step, the group halts instead, each lane at its own word. -/
def Obligations.TrapEntry : Prop :=
  (∀ (s : State) (k : Nat) (m : Word) (cause detail : Nat) (tpc taddr : Nat → Dword),
    let h := trapEntry (s.grp k) cause detail
    let t := takeTrap s k m cause detail tpc taddr
    h ≠ 0 → ((cause = 0x0B ∨ cause = 0x0C) → (s.grp k).hold = false) →
    t = { s with grps := t.grps, ctxs := t.ctxs } ∧ (∀ k', k' ≠ k → t.grp k' = s.grp k') ∧
    t.grp k = { (s.grp k).drainQueued with
      lanes := (t.grp k).lanes, tcause := tcauseOf cause detail, tlanes := m
      takes := (s.grp k).takesWithout m, fetched := (s.grp k).fetchedWithout m } ∧
    (∀ l, (t.grp k).lane l = if inMask m l then
        { (s.grp k).lane l with
          tpc := tpc l, taddr := taddr l, waiting := false, held := false, stopped := none, parity := false, parked := none,
          bkPass := false, pc := h, run := 0, sub := 0 }
      else (s.grp k).lane l)) ∧
  (∀ (s : State) (k : Nat) (m : Word) (cause detail : Nat) (tpc taddr : Nat → Dword),
    let h := trapEntry (s.grp k) cause detail
    let t := takeTrap s k m cause detail tpc taddr
    (h = 0 ∨ ((cause = 0x0B ∨ cause = 0x0C) ∧ (s.grp k).hold = true)) →
    (t.grp k).halted = true ∧ (t.grp k).hstat = (if h = 0 then 2 else 4) ∧
    (t.grp k).tcause = tcauseOf cause detail ∧ (t.grp k).tlanes = m ∧
    (∀ l, inMask m l = true → ((t.grp k).lane l).pc = (if cause = 0x0C then tpc l else ((s.grp k).lane l).pc) ∧ ((t.grp k).lane l).tpc = tpc l ∧ ((t.grp k).lane l).taddr = taddr l) ∧
    (∀ l, inMask m l = false → (t.grp k).lane l = (s.grp k).lane l))

/-- R145: TRAP n takes cause 0x20, DETAIL n, and TPC names the word after it; BRK n takes cause 0x0B, DETAIL n, and TPC names the BRK; with Act empty
neither has any effect. -/
def Obligations.TrapInstructions : Prop :=
  ∀ (u : Bool) (n : BitVec 8) (p : BitVec 3) (s : State), (s.grp s.key).tlanes = 0 → (s.grp s.key).fences = [] →
    (ready (.trap u n p) s = true → (viewOf (.trap u n p) s).act ≠ 0 →
      exec (.trap u n p) s = .next (takeTrap (trapping (.trap u n p) s (viewOf (.trap u n p) s).act) s.key (viewOf (.trap u n p) s).act
        0x20 n.toNat (fun _ => s.cur.next) (fun _ => 0))) ∧
    (ready (.brk u n p) s = true → (viewOf (.brk u n p) s).act ≠ 0 →
      exec (.brk u n p) s = .next (takeTrap (trapping (.brk u n p) s 0) s.key (viewOf (.brk u n p) s).act
        0x0B n.toNat (fun _ => s.cur.pc) (fun _ => 0))) ∧
    (ready (.trap u n p) s = true → (viewOf (.trap u n p) s).act = 0 → makes (.trap u n p) s (viewOf (.trap u n p) s).g) ∧
    (ready (.brk u n p) s = true → (viewOf (.brk u n p) s).act = 0 → makes (.brk u n p) s (viewOf (.brk u n p) s).g)

/-- R137, R133: TRET takes the lanes of Act out of TLANES and sends each to its TPC, where a run starts; TCAUSE and
TADDR keep their values; once no lane is trapped, the lanes whose issue was held are held no longer. A lane that is not trapped traps with
cause 2, DETAIL 2. -/
def Obligations.TrapReturn : Prop :=
  ∀ (p : BitVec 3) (s : State), ready (.tret p) s = true →
    let w := viewOf (.tret p) s
    w.act ≠ 0 →
    ((s.grp s.key).tlanes = 0 → (s.grp s.key).fences = [] → exec (.tret p) s = .next (takeTrap (trapping (.tret p) s 0)
      s.key w.act 2 2 (fun _ => s.cur.pc) (fun _ => 0))) ∧
    ((∀ l, inMask w.act l = true → inMask (s.grp s.key).tlanes l = true) →
    ∃ t, exec (.tret p) s = .next t ∧ t = s.put t.grps ∧ (∀ k, k ≠ s.key → t.grp k = s.grp k) ∧
      t.grp s.key = { (if w.g.isFeeder then resumeCopy w.g else w.g) with
        lanes := (t.grp s.key).lanes, tlanes := (s.grp s.key).tlanes &&& ~~~ w.act } ∧
      (∀ l, inMask w.act l = true → let x := (s.grp s.key).lane l
        (t.grp s.key).lane l = { x with
          pc := x.tpc, run := 0, sub := 0, waiting := false, held := false, stopped := none, parity := false, bkPass := true,
          stepDue := false }) ∧
      (∀ l, inMask s.cur.lanes l = true → inMask w.act l = false → (t.grp s.key).lane l = after (.tret p) s ((s.grp s.key).lane l)) ∧
      (∀ l, inMask s.cur.lanes l = false → (t.grp s.key).lane l = { (s.grp s.key).lane l with
        held := ((s.grp s.key).lane l).held && ((s.grp s.key).tlanes &&& ~~~ w.act != 0 || !(s.grp s.key).allLanes.contains l) }))

/-- R170, R124: where no lane's address is a multiple of the access size, a load or store traps with cause 8, DETAIL 0, TADDR holding its
address and TPC the word, and nothing is loaded or stored; where no lane's target is a multiple of four, a control transfer traps with
cause 8, DETAIL 1, TADDR holding the target. -/
def Obligations.MisalignedTraps : Prop :=
  (∀ (i : Instr) (s : State) (size : Nat) (ea : View → Nat → Dword),
    ((∃ f, loads i = some f ∧ size = f.size ∧ ea = f.ea) ∨ (∃ f, stores i = some f ∧ size = f.size ∧ ea = f.ea)) →
    ready i s = true → (viewOf i s).act ≠ 0 → (s.grp s.key).tlanes = 0 → (s.grp s.key).fences = [] →
    (∀ l, inMask (viewOf i s).act l = true → (ea (viewOf i s) l).toNat % size ≠ 0) →
    exec i s = .next (takeTrap (trapping i s 0) s.key (viewOf i s).act 8 0 (fun _ => s.cur.pc)
      (fun l => if inMask (viewOf i s).act l then ea (viewOf i s) l else 0))) ∧
  (∀ (i : Instr) (s : State) (call : Bool) (f : View → Nat → Dword), targets i = some (call, f) → ready i s = true →
    (viewOf i s).act ≠ 0 → (s.grp s.key).tlanes = 0 → (s.grp s.key).fences = [] →
    (∀ l, inMask (viewOf i s).act l = true → (f (viewOf i s) l).toNat % 4 ≠ 0) →
    exec i s = .next (takeTrap (trapping i s 0) s.key (viewOf i s).act 8 1 (fun _ => s.cur.pc)
      (fun l => if inMask (viewOf i s).act l then f (viewOf i s) l else 0)))

/-- R132, R170, R268, R270, Table 7-2: a load, store or atomic of which every lane of Act fails the access checks with one cause and
DETAIL takes that trap, TADDR holding each lane's address and TPC the word; nothing is loaded or stored. The checks: alignment (8); no
region, or an offset outside its extent (7/1); a fabric address without FAB (7/0) or a peer (7/1); no page, 5 for a read and 6 for a write; a
page without write permission, or a form that the flag window bars (7/0); a key outside KEYS (7/2). A fabric address also asks for the feature of
bit 10 of the context's contract (Table 17-3). -/
def Obligations.AccessTraps : Prop :=
  (∀ (i : Instr) (s : State) (size : Nat) (k : AccKind) (ea : View → Nat → Dword) (suits : Dword → Bool) (c d : Nat),
    accesses i = some (size, k, ea, suits) → ready i s = true →
    (viewOf i s).act ≠ 0 → (s.grp s.key).tlanes = 0 → (s.grp s.key).fences = [] → d < 256 →
    (∀ l, inMask (viewOf i s).act l = true → suits (ea (viewOf i s) l) = true ∧
      checkAccess (enter i s) (viewOf i s).g l k (ea (viewOf i s) l) size = .trap c d) →
    exec i s = .next (takeTrap (trapping i s 0) s.key (viewOf i s).act c d (fun _ => s.cur.pc)
      (fun l => if inMask (viewOf i s).act l then ea (viewOf i s) l else 0))) ∧
  (∀ (s : State) (g : Grp) (l : Nat) (k : AccKind) (ea : Dword) (size : Nat),
    let r := checkAccess s g l k ea size
    let top := bitsOf ea 48 16
    let off := bitsOf ea 0 48
    let t := s.team g.teamKey
    let c := s.ctx g.ctxid
    let low := ea &&& 0x00FFFFFFFFFFFFFF#64
    (ea.toNat % size ≠ 0 → r = .trap 8 0) ∧
    (ea.toNat % size = 0 → ea.getLsbD 63 = false →
      (0x80 ≤ top → top < 0xF0 ∨ 0xF4 < top → r = .trap 7 1) ∧
      (top = 0xF0 → 65536 ≤ off → r = .trap 7 1) ∧
      (top = 0xF1 → t.opBytes < off + size → r = .trap 7 1) ∧
      (top = 0xF1 → off + size ≤ t.opBytes → r = .ok { loc := opLoc t.core (t.opBase + off), tag := 0, l1 := false, page := none }) ∧
      (top = 0xF2 → (s.clus (clusterKey g.grid g.cluster)).teams ≤ off / 2 ^ 21 → r = .trap 7 1) ∧
      (top = 0xF3 → Bank.get none (s.grid g.grid).scr (dieOf g.core) = none → r = .trap 7 1) ∧
      (top = 0xF4 → 2 ^ 32 ≤ off → r = .trap 7 1) ∧
      ((top < 0x80 ∨ (top = 0xF4 ∧ off < 2 ^ 32)) →
        (translate s g.asker g.ctxid c k.need ea = .noPage → r = .trap (if k.need = .write then 6 else 5) 0) ∧
        (top = 0xF4 → k.flagOk = false → translate s g.asker g.ctxid c k.need ea ≠ .noPage → r = .trap 7 0) ∧
        (∀ d, translate s g.asker g.ctxid c k.need ea = .deny d → (top = 0xF4 → k.flagOk = true) → r = .trap 7 d))) ∧
    (ea.toNat % size = 0 → ea.getLsbD 63 = true →
      (regionOf low ≠ .global → ¬(regionOf low = .flag ∧ off < 2 ^ 32) → r = .trap 7 1) ∧
      ((regionOf low = .global ∨ (regionOf low = .flag ∧ off < 2 ^ 32)) →
        ((c.fab = false ∨ c.contract.getLsbD 10 = false) → r = .trap 7 0) ∧
        (c.fab = true → c.contract.getLsbD 10 = true →
          r = match Config.peerEntry c.peers (bitsOf ea 56 7) with
            | none => .trap 7 1
            | some m => .fabric (bitsOf ea 56 7) m)))) ∧
  (∀ (s : State) (who ctxid : Nat) (c : Context) (need : Need) (va e : Dword) (shift : Nat),
    leafOf s who ctxid c (va.toNat % 2 ^ 56) = .leaf e shift →
    (need = .write → e.getLsbD 4 = false → translate s who ctxid c need va = .deny 0) ∧
    ((need = .write → e.getLsbD 4 = true) → (need = .exec → e.getLsbD 5 = true) → bitsOf e 48 16 = ctxid → (e.getLsbD 6 = true → c.conf = true) →
      c.keys.getLsbD (bitsOf e 40 8) = false → translate s who ctxid c need va = .deny 2))

/-- R57, R58, R43, R24, R223, R369, Table 2-11: a word that fails a check of Table 2-11 traps every lane that stands at it, whatever its guard,
TPC naming the word or its prefix group; lanes that the word would take past the 24th of their run trap for that first. Of the checks the first
that fails decides: limits (1), prefixes (1/2), the context (2), register fields (1/4), the window (0x0E), the queues (0x0D). A word that passes
them and needs a feature that the contract of its context does not grant traps the lanes of Act with cause 0x0A, DETAIL naming the
feature. That the lanes beside the issue that stand at its word trap with it is the model's reading (log entry 74). -/
def Obligations.DecodeTraps : Prop :=
  (∀ (i : Instr) (s : State), (encodeWord i).isSome = true → isPrefix i = false → s.cur.lanes ≠ 0 →
    let g := s.grp s.key
    let m := g.standingWith s.cur.lanes s.cur.pc
    g.tlanes = 0 → g.fences = [] → (s.ctx g.ctxid).trace.on = false →
    (s.cur.pos = 0 → overRun g s.cur.lanes 1 ≠ 0 →
      exec i s = .next (takeTrap ((clearCur s).setGrp s.key g) s.key (overRun g m 1) 1 1 (fun _ => s.cur.pc) (fun _ => 0))) ∧
    ((s.cur.pos = 0 → overRun g s.cur.lanes 1 = 0) → ∀ c d, decodeTrap g s.cur.lanes s.cur.pre {} i = some (c, d) →
      exec i s = .next (takeTrap ((clearCur s).setGrp s.key g) s.key (m &&& ~~~ overRun g m (s.cur.pos + 1)) c d
        (fun _ => s.cur.pc) (fun _ => 0)))) ∧
  (∀ (i : Instr) (g : Grp) (m : Word) (q : Prefix),
    let u := useOf i
    let trap := decodeTrap g m q {} i
    (∀ d, limitTrap g.kern i = some d → trap = some (1, d)) ∧
    (limitTrap g.kern i = none → (prefixBad q i = true → trap = some (1, 2)) ∧
      (prefixBad q i = false →
        (g.isFeeder = false → majorOf i = 46 → trap = some (2, 0)) ∧
        (g.isFeeder = true → feederBars i = true → trap = some (2, 3)) ∧
        (g.isFeeder = false → g.kern.compat = true → writesPart i = true → trap = some (2, 1)) ∧
        (contextTrap g i = none →
          ((∃ o ∈ u.src ++ u.dst.toList, o.reg % o.align ≠ 0) → trap = some (1, 4)) ∧
          (g.qwinOn = true → (∃ o ∈ u.dst.toList, o.reg ≤ 55 ∧ 48 < o.reg + o.len) → trap = some (1, 4)) ∧
          (fieldBad g i = false →
            ((∃ o ∈ u.src ++ u.dst.toList, g.win ≤ o.reg + o.len - 1) → trap = some (0x0E, 0)) ∧
            ((∀ o ∈ u.src ++ u.dst.toList, o.reg + o.len - 1 < g.win) →
              (∀ k, roleOf i = some k → g.nroles ≤ k → trap = some (0x0E, 1)) ∧
              ((∀ k, roleOf i = some k → k < g.nroles) →
                (g.qwinOn = true → (∃ o ∈ u.src, o.len = 1 ∧ o.reg ≤ 55 ∧ 48 < o.reg + o.len) →
                  (∃ l ∈ g.live, inMask m l = false) → trap = some (0x0D, 0)) ∧
                (g.qwinOn = true → (∃ o ∈ u.src, o.len ≠ 1 ∧ o.reg ≤ 55 ∧ 48 < o.reg + o.len) →
                  (∀ l ∈ g.live, inMask m l = true) → trap = some (0x0D, 1))))))))) ∧
  (∀ (i : Instr) (s : State) (b : Nat), (encodeWord i).isSome = true → isPrefix i = false → runsUngranted i s = true → unobserved s = true →
    missingFeature (s.ctx (s.grp s.key).ctxid).contract s.cur.pre i = some b → (viewOf i s).act ≠ 0 →
    (s.grp s.key).tlanes = 0 → (s.grp s.key).fences = [] →
    exec i s = .next (takeTrap (trapping i s 0) s.key (viewOf i s).act 0x0A b (fun _ => s.cur.pc) (fun _ => 0)))

/-! ## Tasks (chapter 6) -/

/-- R151, R152, R154, R164, R167: SPAWN and SPAWNB, where every lane of Act may spawn, do so in ascending lane order. A lane's join counter, if
it has one, is first raised by its records; its task is then pushed at the bottom of its core's deque with the next sequence number. A full
deque first gives entries, among its 32 oldest, to their rings; where some ring has no room the lane waits, and no store, counter or deque
has changed; where a ring cannot be written it traps (cause 6), its counter not raised. The counter that is raised behind the lane's own
store is the model's reading (log entry 80), and is not stated here. -/
def Obligations.Spawns : Prop :=
  (∀ (i : Instr) (s : State) (q : View → Nat → SpawnReq), spawns i = some q → ready i s = true →
    (∀ o ∈ (spawnLanes (viewOf i s) (q (viewOf i s)) (acting i s) (enter i s)).1, o.2 = .ok) →
    completes i s (fun t => (spawnLanes (viewOf i s) (q (viewOf i s)) (acting i s) t).2)) ∧
  (∀ (w : View) (q : SpawnReq) (l : Nat) (s s2 : State), spawnCheck s w.g q = .ok → q.n ≠ 0 →
    spawnStep (releaseAt (releaseLanes s w.key (laneBit l)) w.g.core 3) w l q.join q.n = (.ok, s2) →
    let r := spawnLane w q l s
    let pushed := fun (t : State) => r.1 = .ok ∧ (r.2.deque w.g.core).seq = (s2.deque w.g.core).seq + 1 ∧
      (r.2.deque w.g.core).frames = (t.deque w.g.core).frames ++ [
        { entry := q.entry, arg := q.arg, join := q.join, batch := q.batch, resv := false, team := w.g.team, grid := w.g.grid,
          count := q.n, size := q.size, next := 0, origin := w.g.core, seq := (s2.deque w.g.core).seq }]
    ((s2.deque w.g.core).frames.length < 64 → pushed s2) ∧
    (64 ≤ (s2.deque w.g.core).frames.length → match spill s2 w.g.core w.g.ctxid with
      | .ok t => pushed t
      | .full => r = (.wait, s)
      | .fault e => r.2 = s ∧ r.1 = match e.why with
        | .violation c p => .violation c p
        | _ => .late 6 0 e.addr)) ∧
  (∀ (w : View) (l n : Nat) (j : Dword) (p : Place) (s : State), let h := s.flushSector w.g.core (p.loc / 256)
    j ≠ 0 → joinPlace s w.g .write j = .ok p → s.poisoned none p.loc 8 = none → pendingOver (s.grp w.key) l p.loc 8 = false →
    (∀ i, i < 8 → isDram (p.loc + i) = true → wordTag h ((p.loc + i) / 32) = p.tag) →
    ∃ t, spawnStep s w l j n = (.ok, t) ∧ t.deques = s.deques ∧
      (∀ i, i < 8 → t.rawByte (p.loc + i) =
        (natToBytes 8 (BitVec.ofNat 64 (h.readNat none p.tag p.loc 8) + BitVec.ofNat 64 n).toNat).getD i 0) ∧
      (∀ a, a < p.loc ∨ p.loc + 8 ≤ a → t.rawByte a = h.rawByte a)) ∧
  (∀ (w : View) (l n : Nat) (s : State), spawnStep s w l 0 n = (.ok, s)) ∧
  (∀ (s t : State) (core own : Nat), spill s core own = .ok t →
    ∃ gone, gone ≠ [] ∧ (∀ f ∈ gone, f ∈ (s.deque core).frames.take 32) ∧
      (t.deque core).frames = (s.deque core).frames.filter (fun f => !gone.contains f))

/-- R158, Table 6-5: TAKE, where every lane of Act has no task and finds a frame or an empty census, deals to the lanes in ascending
order; a lane dealt records gets the descriptor in v[d] to v[d+5] and its current task. A plain task is dealt whole and leaves the deque. Of a
card with rem records left, n are dealt, from record NEXT on: the least n of at least 1 with 2 × W × n at least rem, never more than rem;
NEXT goes up by n, and the card leaves when all are dealt, else keeps its place. -/
def Obligations.Takes : Prop :=
  (∀ (u : Bool) (d : BitVec 6) (p : BitVec 3) (s : State), ready (.take u d p) s = true →
    let i : Instr := .take u d p
    (∀ o ∈ (takeRun (viewOf i s) d.toNat (acting i s) (enter i s)).1, o.2 = .ok) →
    completes i s (fun t => (takeRun (viewOf i s) d.toNat (acting i s) t).2)) ∧
  (∀ (g : Grp) (d l n : Nat) (e a j : Dword) (b st : Bool), l < 32 →
    ((giveTask g d l (.got e a n b st j)).lane l).task = some (j, n) ∧
    (giveTask g d l (.got e a n b st j)).rv64 d l = e ∧ (giveTask g d l (.got e a n b st j)).rv64 (d + 2) l = a ∧
    (giveTask g d l (.got e a n b st j)).rv (d + 4) l = BitVec.ofNat 32 n ∧
    (giveTask g d l (.got e a n b st j)).rv (d + 5) l = (if b then 1 else 0) + (if st then 2 else 0) ∧
    (∀ m, m < d ∨ d + 5 < m → (giveTask g d l (.got e a n b st j)).rv m l = g.rv m l)) ∧
  (∀ (W core : Nat) (f : Frame) (stolen : Bool) (s : State), f.batch = false →
    (deal W (.deque core) f stolen s).1 = .got f.entry f.arg 1 false stolen f.join ∧
    ((deal W (.deque core) f stolen s).2.deque core).frames = (s.deque core).frames.filter (fun x => x ≠ f)) ∧
  (∀ (W core : Nat) (f : Frame) (stolen : Bool) (s : State), f.batch = true → f.next < f.count → 1 ≤ W →
    ∃ n, (deal W (.deque core) f stolen s).1 = .got f.entry (f.arg + BitVec.ofNat 64 (f.next * f.size)) n true stolen f.join ∧
      1 ≤ n ∧ n ≤ f.count - f.next ∧ f.count - f.next ≤ 2 * W * n ∧ (n = 1 ∨ 2 * W * (n - 1) < f.count - f.next) ∧
      ((deal W (.deque core) f stolen s).2.deque core).frames =
        if f.next + n = f.count then (s.deque core).frames.filter (fun x => x ≠ f)
        else (s.deque core).frames.map (fun x => if x = f then { f with next := f.next + n, resv := false } else x))

/-- R161: ENDT, where every lane of Act has a task whose counter it may reach and may release, acts lane by lane: the lane's records are
taken off its join counter, in memory, its task is empty, and no other byte of memory changes but what its release makes visible; after it
no lane of Act has a task, and the other lanes keep theirs. R166: ROLE, where all its live lanes are in Act and the counters read zero, sends
them to the role's entry. R167: LAUNCH releases, checks the packet and, where it is accepted, queues it with the stores that must come first;
s[d] takes the code, with the sequence number above it. That the packet is read for the lowest lane of Act is the model's choice (log entry
27), and so is that the packet being placed counts in its queue's depth (log entry 32). -/
def Obligations.TaskEndsRolesAndLaunches : Prop :=
  ((∀ (u : Bool) (p : BitVec 3) (s : State), ready (.endt u p) s = true →
    let i : Instr := .endt u p
    (∀ l, inMask (viewOf i s).act l = true → endtOut (enter i s) (viewOf i s) l = .ok) →
    completes i s (fun t => (acting i s).foldl (endtLane (viewOf i s)) t) ∧
    ∃ t, exec i s = .next t ∧ (∀ l, inMask (viewOf i s).act l = true → ((t.grp s.key).lane l).task = none) ∧
      (∀ l, inMask (viewOf i s).act l = false → ((t.grp s.key).lane l).task = ((s.grp s.key).lane l).task)) ∧
  (∀ (w : View) (l n : Nat) (j : Dword) (p : Place) (s : State), (w.g.lane l).task = some (j, n) → j ≠ 0 →
    let s1 := releaseAt (releaseLanes s w.key (laneBit l)) w.g.core 3
    let h := s1.flushSector w.g.core (p.loc / 256)
    joinPlace s1 w.g .write j = .ok p → s1.poisoned none p.loc 8 = none → pendingOver (s1.grp w.key) l p.loc 8 = false →
    (∀ i, i < 8 → isDram (p.loc + i) = true → wordTag h ((p.loc + i) / 32) = p.tag) →
    (((endtLane w s l).grp w.key).lane l).task = none ∧
    (∀ i, i < 8 → (endtLane w s l).rawByte (p.loc + i) =
      (natToBytes 8 (BitVec.ofNat 64 (h.readNat none p.tag p.loc 8) - BitVec.ofNat 64 n).toNat).getD i 0) ∧
    (∀ a, a < p.loc ∨ p.loc + 8 ≤ a → (endtLane w s l).rawByte a = h.rawByte a)) ∧
  (∀ (u : Bool) (k : BitVec 2) (p : BitVec 3) (s : State), ready (.role u k p) s = true →
    let i : Instr := .role u k p
    let w := viewOf i s
    (∀ l ∈ w.g.live, inMask w.act l = true) → (w.g.qwinOn = true → 64 ≤ w.g.winOf k.toNat) → roleIdle (enter i s) w = true →
    exec i s = .next (settle i s ((acting i s).map (fun l => (l, LaneOut.goto (w.g.kern.entries.getD k.toNat 0))))
      (if w.act = 0 then enter i s else (enter i s).modGrp s.key (fun g => { g with role := k.toNat }))))) ∧
  (∀ (u : Bool) (d a : BitVec 5) (q : BitVec 6) (p : BitVec 3) (s : State), ready (.launch u d a q p) s = true →
    let i : Instr := .launch u d a q p
    let w := viewOf i s
    ∀ (l : Nat) (pkt : Packet), lowest w.act = some l →
      launchPacket (drainStores (enter i s) s.key w.act) w l (w.g.rs a.toNat) = .ok pkt →
      completes i s (fun t =>
        let t := releaseAt (releaseLanes (dropFetched t s.key w.act) s.key w.act) w.g.core 3
        let code := enqueueCode t q.toNat w.g.ctxid pkt
        let r := if code = 0 then enqueue t q.toNat pkt (unperformed (t.grp s.key) s.key w.act) else (t, 0)
        r.1.modGrp s.key (fun g => g.ws d.toNat (BitVec.ofNat 64 (code + r.2 * 2 ^ 32)))))

/-! ## Memory and synchronisation (chapters 7 and 16) -/

/-- R173, R174, R177: a load reads every lane of Act at its place and counts in LD; its registers await the values, which it holds.
LOAD_COMPLETION writes them, the last of two to one register standing, and no other register; nothing else than its group changes. The
reading of a load at its issue, and of a plain one again until it completes, is the model's choice (log entry 19), and so is what an acquire
makes good of early releases (log entry 103). -/
def Obligations.Loads : Prop :=
  (∀ (i : Instr) (s : State) (f : LoadForm) (place : Nat → Place), loads i = some f → ready i s = true →
    let w := viewOf i s
    w.act ≠ 0 → w.g.count .ld < 63 → local_ i s ⟨.read, f.size == 8⟩ true f.size (f.ea w) place → f.mayAcquire w (enter i s) = true →
    (∀ l, inMask w.act l = true → laneAcc (f.before w (enter i s)) w ⟨.read, f.size == 8⟩ f.size (f.ea w) l = .ok (place l)) →
    completes i s (fun t =>
      let t := f.before w t
      let g := t.grp s.key
      let ps := (acting i s).map (fun l => (l, place l))
      hinted (issueOp (t.setGrp s.key (settleLoads g ps f.size)) s.key .ld w.act
        (.load ((ps.flatMap (fun x => partsOf g f.size f.sgn f.plain f.dest x.1 x.2)).map (fun p => p.read t g)))
        (ps.flatMap (fun x => (sectorsOf x.2.loc f.size).map (fun y => (x.1, y))))) w (f.ea w) f.size ps)) ∧
  (∀ (c k : Nat) (s : State) (o : PendOp) (ps : List LPart),
    (s.grp c).findOp k = some o → o.body = .load ps → o.done = false →
    let ds := ps.flatMap (·.data)
    ∃ t, exec (.loadCompletion c k) s = .next t ∧ t = { s with grps := t.grps } ∧ (∀ c', c' ≠ c → t.grp c' = s.grp c') ∧
      t.grp c = { ((s.grp c).returnData k ds).finishOp k with lanes := (s.grp c).lanes } ∧
      (∀ j, Bank.get 0 (t.grp c).v j = ds.foldl (fun v x => if x.1 = j then x.2 else v) (Bank.get 0 (s.grp c).v j)))

/-- R173, R177, R183, R188: a store takes every lane's bytes at its issue and counts in ST; no byte of memory changes. STORE_PERFORMED
performs the bytes of a plain store that its order lets go, in the core's L1 or at the home, in words that stand under its key: those
bytes hold the data, and every other byte of memory and of every L1 is as before, but for a sector that a full L1 sends home. That a store
is performed piece by piece in steps of its own is the model's choice (log entry 19), as are what the L1 holds apart from memory and which
sector it gives up (log entries 18 and 76). -/
def Obligations.Stores : Prop :=
  (∀ (i : Instr) (s : State) (f : StoreForm) (place : Nat → Place), stores i = some f → ready i s = true →
    let w := viewOf i s
    w.act ≠ 0 → w.g.count .st < 63 → local_ i s f.kind false f.size (f.ea w) place →
    (∀ l, inMask w.act l = true → f.suits (f.ea w l) = true) →
    completes i s (fun t =>
      let ps := (acting i s).map (fun l => (l, place l))
      issueOp (t.modGrp s.key (fun g => settleLoads g ps f.size)) s.key .st w.act (.store (ps.flatMap (fun x =>
          (piecesOf f.size).map (fun c => (⟨x.1, x.2.loc + c.1, x.2.tag, x.2.l1 && !f.home && !takesHint w (f.ea w x.1) 2, x.2.page,
            ((natToBytes f.size (f.data w x.1)).drop c.1).take c.2.1, w.g.fenced (laneBit x.1),
            x.2.stream || takesHint w (f.ea w x.1) 1, []⟩ : PStore))))
        f.rel) [])) ∧
  (∀ (c k : Nat) (s : State) (o : PendOp) (p : PStore), (s.grp c).findOp k = some o → o.body = .store [p] none → o.done = false →
    storeReady (s.grp c) o none p = true → p.incs = [] → p.lane < 32 → (p.l1 = true → p.loc + p.data.length ≤ 2 ^ 42) →
    (∀ a, p.loc ≤ a → a < p.loc + p.data.length → isDram a = true ∨ p.l1 = true → wordTag s (a / 32) = p.tag) →
    ∃ t, exec (.storePerformed c k) s = .next t ∧
      (∀ n, n < p.data.length → if p.l1 = true then t.readByte (some (s.grp c).core) p.tag (p.loc + n) = p.data.getD n 0
        else t.rawByte (p.loc + n) = p.data.getD n 0) ∧
      (∀ a, a < p.loc ∨ p.loc + p.data.length ≤ a → t.rawByte a = s.rawByte a ∨
        (p.l1 = true ∧ s.l1Byte (s.grp c).core a = some (true, t.rawByte a) ∧ t.l1Byte (s.grp c).core a = none)) ∧
      (∀ core a, a < 2 ^ 42 → a < p.loc ∨ p.loc + p.data.length ≤ a → t.l1Byte core a = s.l1Byte core a ∨
        (p.l1 = true ∧ core = (s.grp c).core ∧ t.l1Byte core a = none)))

/-- R171, R180, R181, Table 7-7: an atomic performs each lane of Act in ascending order on what the lane before left, and holds the old
values for its destination; RED returns none and counts in ST. At a home, in words that stand under its key, it answers the old value,
leaves the result of its operation, and changes no other byte of memory. That it is performed in the step that issues it is the model's choice
(log entry 19). -/
def Obligations.Atomics : Prop :=
  (∀ (i : Instr) (s : State) (f : AtomForm) (place : Nat → Place), atomics i = some f → ready i s = true →
    let w := viewOf i s
    let ea := fun (l : Nat) => w.g.rv64 f.addr l
    let k : AccKind := ⟨.write, atomFlagOk f.wide f.fn f.scope⟩
    w.act ≠ 0 → w.g.count (if f.dest.isSome then .ld else .st) < 63 → local_ i s k true f.size ea place →
    (∀ l, inMask w.act l = true → atomWaits (enter i s) w k f.size ea l = false) →
    completes i s (fun t =>
      let ps := (acting i s).map (fun l => (l, place l))
      let t := (ps.foldl (fun t x => drainOver t s.key x.1 x.2.loc f.size) t).modGrp s.key (fun g => settleLoads g ps f.size)
      let r := atomLanes w f.scope f.size f.kind ea (f.x w) (f.e w) ps t
      match f.dest with
      | some d => issueOp r.1 s.key .ld w.act (.load (r.2.map (fun y => ⟨y.1, 0, 0, false, none, f.size, false,
          destWords (t.grp s.key) d.toNat y.1 (wordsOf f.size) y.2, false⟩))) []
      | none => issueOp r.1 s.key .st w.act (.store [] none) [])) ∧
  (∀ (s : State) (k core sc size : Nat) (rk : RemoteKind) (l : Nat) (p : Place) (x e : Nat), p.l1 = false →
    (∀ a, p.loc ≤ a → a < p.loc + size → isDram a = true → wordTag s (a / 32) = p.tag) →
    let r := atomAt s k core sc size rk l p x e
    let old := s.readNat none p.tag p.loc size
    r.2 = old ∧
    (∀ n, n < size → r.1.rawByte (p.loc + n) =
      (natToBytes size (remoteOp (8 * size) rk (BitVec.ofNat _ old) (BitVec.ofNat _ x) (BitVec.ofNat _ e)).toNat).getD n 0) ∧
    (∀ a, a < p.loc ∨ p.loc + size ≤ a → r.1.rawByte a = s.rawByte a))

/-- R29, R172, R177, R244, R356: a fabric access passes the checks at issue, counts in RM, and leaves as request messages, one for each sector
of each module; a release first has its lanes' stores performed and written back; an LDA asks for what it must have first. The peer performs an
access by the page its own translation finds: a read answers the bytes, a write leaves them, an atomic answers the old value and leaves its
result, and no other byte of memory changes. An answer writes the registers that await it and ends the RM entry; a refusal writes none, and its lane
traps with the peer's cause before its next word, TADDR holding the fabric address. How a message's INFO and UNITS are laid out is the
model's (log entry 47), and so is the order of what a lane is refused more than once (log entry 90). -/
def Obligations.FabricAccesses : Prop :=
  (∀ (i : Instr) (s : State) (f : LoadForm) (peer module : Nat → Nat), loads i = some f → ready i s = true →
    let w := viewOf i s
    let k : AccKind := ⟨.read, f.size == 8⟩
    w.g.count .rm < 63 → w.g.fenced w.lanes = false → f.mayAcquire w (enter i s) = true → w.act ≠ 0 →
    away i s (enter i s) k f.size (f.ea w) peer module → away i s (f.before w (enter i s)) k f.size (f.ea w) peer module →
    completes i s (fun t => let t := f.before w t
      issueRemote t s.key .read (!f.plain) (fabricShares i s f.size (f.ea w) module (fun _ => 0) (fun _ => 0)
        (fun l => keysOf (t.grp s.key) f.dest l (wordsOf f.size)) f.sgn))) ∧
  (∀ (i : Instr) (s : State) (f : StoreForm) (peer module : Nat → Nat), stores i = some f → ready i s = true →
    let w := viewOf i s
    w.g.count .rm < 63 → w.g.fenced w.lanes = false → w.act ≠ 0 → away i s (enter i s) f.kind f.size (f.ea w) peer module →
    (∀ l, inMask w.act l = true → f.suits (f.ea w l) = true ∧ (f.rel.isSome = true → mayRelease (enter i s) s.key w.g l = true)) →
    completes i s (fun t =>
      let sh := fabricShares i s f.size (f.ea w) module (fun l => BitVec.ofNat 128 (f.data w l)) (fun _ => 0) (fun _ => []) false
      issueRemote (if f.rel.isSome then releaseRemote t w sh else t) s.key (if f.kind.flagOk then .sigf else .write) false sh)) ∧
  (∀ (i : Instr) (s : State) (f : AtomForm) (peer module : Nat → Nat), atomics i = some f → ready i s = true →
    let w := viewOf i s
    let ea := fun (l : Nat) => w.g.rv64 f.addr l
    w.g.count .rm < 63 → w.g.fenced w.lanes = false → w.act ≠ 0 →
    away i s (enter i s) ⟨.write, atomFlagOk f.wide f.fn f.scope⟩ f.size ea peer module →
    completes i s (fun t =>
      let t := t.modGrp s.key (fun g => settleLoads g [] f.size)
      issueRemote t s.key f.kind false (fabricShares i s f.size ea module (fun l => BitVec.ofNat 128 (f.x w l))
        (fun l => BitVec.ofNat 64 (f.e w l)) (fun l => match f.dest with
          | some d => keysOf (t.grp s.key) d.toNat l (wordsOf f.size)
          | none => []) false))) ∧
  (∀ (s : State) (k : Nat) (kind : RemoteKind) (acq : Bool) (sh : List Share), sh ≠ [] →
    let t := issueRemote s k kind acq sh
    let secs := (sh.map Share.sector).eraseDups
    (t.grp k).count .rm = (s.grp k).count .rm + 1 ∧ t.mem = s.mem ∧ t.l1 = s.l1 ∧ (t.grp k).v = (s.grp k).v ∧
    ((∀ x ∈ sh, x.module ≠ s.fabric.self) → ∃ ms : List Message, t.fabric.outbox = s.fabric.outbox ++ ms ∧ ms.length = secs.length ∧
      ∀ (n : Nat) (sec : Nat × Nat) (m : Message), secs[n]? = some sec → ms[n]? = some m → m.dst = sec.1 ∧ m.kind = BitVec.ofNat 8 (reqKind kind) ∧
        m.ctxid = BitVec.ofNat 16 (s.grp k).ctxid ∧
        m.body = .request ⟨s.fabric.nextReq + n, kind, (sh.filter (fun x => x.sector == sec)).map Share.acc⟩)) ∧
  (∀ (s : State) (ctxid : Nat) (k : RemoteKind) (a : RemoteAcc) (phys key cache : Nat),
    translate s whoPeer ctxid (s.ctx ctxid) (if k = .read then .read else .write) a.addr = .ok phys key cache →
    (regionOf a.addr = .flag → remoteFlagOk k a.size = true) → s.poisoned none phys a.size = none →
    (∀ x, phys ≤ x → x < phys + a.size → isDram x = true → wordTag s (x / 32) = keyTag s key) →
    let r := performAcc s ctxid k a
    let old := s.readNat none (keyTag s key) phys a.size
    (k = .read → r = (s, .inl (BitVec.ofNat 128 old))) ∧
    ((k = .write ∨ k = .sigf) → r.2 = .inl 0 ∧ ∀ n, n < a.size → r.1.rawByte (phys + n) = (natToBytes a.size a.data.toNat).getD n 0) ∧
    (k ≠ .read → k ≠ .write → k ≠ .sigf → r.2 = .inl (BitVec.ofNat 128 old) ∧ ∀ n, n < a.size → r.1.rawByte (phys + n) =
      (natToBytes a.size (remoteOp (8 * a.size) k (BitVec.ofNat _ old) (BitVec.ofNat _ a.data.toNat) (BitVec.ofNat _ a.exp.toNat)).toNat).getD n 0) ∧
    ∀ x, x < phys ∨ phys + a.size ≤ x → r.1.rawByte x = s.rawByte x) ∧
  (∀ (s : State) (id k : Nat) (o : PendOp) (rs : List ROut) (r : ROut), askerOf s id = some k → findRequest (s.grp k) id = some (o, rs, r) →
    (∀ vals : List (Nat × BitVec 128), let t := onResponse s id vals
      t.mem = s.mem ∧ (t.grp k).lanes = (s.grp k).lanes ∧
      (∀ j, Bank.get 0 (t.grp k).v j = (answered r vals).foldl (fun v x => if x.1 = j then x.2 else v) (Bank.get 0 (s.grp k).v j)) ∧
      ((∀ x ∈ r.lanes, x.lane ∈ vals.map (·.1)) → (∀ q ∈ rs, q.id = id ∨ q.done = true) → ∀ o' ∈ (t.grp k).ops, o'.id = o.id → o'.done = true)) ∧
    (∀ lanes : List (Nat × Nat × Nat), (∀ y ∈ lanes, y.2.1 ≠ 0) → (r.lanes.map (·.lane)).Nodup → let t := onRefusal s id lanes
      t.mem = s.mem ∧ (t.grp k).v = (s.grp k).v ∧
      (∀ x ∈ r.lanes, ∀ y, lanes.find? (fun y => y.1 == x.lane) = some y → (t.grp k).lane x.lane =
        { (s.grp k).lane x.lane with refusals := ((s.grp k).lane x.lane).refusals ++ [⟨y.2.1, y.2.2, x.addr⟩] }) ∧
      ((∀ x ∈ r.lanes, x.lane ∈ lanes.map (·.1)) → (∀ q ∈ rs, q.id = id ∨ q.done = true) →
        ∀ o' ∈ (t.grp k).ops, o'.id = o.id → o'.done = true))) ∧
  (∀ (s : State) (k l : Nat) (pc : Dword) (r : TrapInfo) (rest : List TrapInfo), l < 32 → ((s.grp k).lane l).stepDue = false →
    ((s.grp k).lane l).refusals = r :: rest → r.detail < 256 → (s.grp k).tlanes = 0 → (s.grp k).fences = [] →
    frontTrap s k (laneBit l) pc = some (takeTrap ((clearCur s).setGrp k ((s.grp k).modLanes [l] (fun _ x => { x with refusals := x.refusals.drop 1 })))
      k (laneBit l) r.cause r.detail (fun _ => pc) (fun n => if n = l then r.addr else 0)))

/-- R184 to R186: FENCE saves what a rollback gives back and lets its lanes run on; FENCE_COMPLETION makes visible what its scope orders, once
what early releases owe it is made good (log entry 103); FENCE_CONFLICT_ROLLBACK puts every lane that passed it back at the FENCE with the
predicates, FLAGS and generator it had and the registers it had there, discards the stores that those lanes have issued since and drops their
loads; the other lanes, their registers, stores and loads, and every byte of memory and of every L1 stay. That operand queues and PART go
back too is the model's reading (DESIGN CHOICE, log entry 36). -/
def Obligations.Fences : Prop :=
  (∀ (u : Bool) (sc : BitVec 4) (p : BitVec 3) (s : State), ready (.fence u sc p) s = true →
    let w := viewOf (.fence u sc p) s
    (∀ l, inMask w.act l = true → noRemote w.g (laneBit l) = true) →
    makes (.fence u sc p) s (if w.act = 0 then w.g else
      { w.g.drainQueued with
        fences := w.g.fences ++ [newFence w.g.drainQueued sc.toNat w.pc w.act], nextOp := w.g.nextOp + 1 })) ∧
  (∀ (c k : Nat) (s : State) (f : Fence), (s.grp c).findFence k = some f →
    (∀ f', f.conflict = false → fenceReady (s.grp c) f = true →
      let t := settleFor s (s.grp c) f.scope
      owedTo t (s.grp c) f.scope = [] → (t.grp c).findFence k = some f' → f'.conflict = false →
      exec (.fenceCompletion c k) s = .next (completeFence t c f') ∧ ((completeFence t c f').grp c).findFence k = none) ∧
    (f.conflict = true → (f.lanes.map (·.lane)).Nodup →
      ∃ t, exec (.fenceConflictRollback c k) s = .next t ∧ (t.grp c).findFence k = none ∧
        (∀ x ∈ f.lanes, (t.grp c).lane x.lane = backToFence f x ((s.grp c).lane x.lane)) ∧
        (∀ l, l ∉ f.lanes.map (·.lane) → (t.grp c).lane l = (s.grp c).lane l) ∧ t.mem = s.mem ∧ t.l1 = s.l1 ∧
        (∀ j, Bank.get 0 (t.grp c).v j = if inMask f.mask (j % 32) then f.regs.foldl (fun x e => if e.1 = j then e.2 else x) 0
          else Bank.get 0 (s.grp c).v j) ∧
        (∀ o ∈ (t.grp c).ops, o.id ∈ f.specOps → match o.body with
          | .load ps => ∀ p ∈ ps, inMask f.mask p.lane = false
          | .store ps _ => ∀ p ∈ ps, inMask f.mask p.lane = false
          | _ => True) ∧
        (∀ o ∈ (s.grp c).ops, o.id ∉ f.specOps → o.done = false → o ∈ (t.grp c).ops) ∧
        (t.grp c).queues = f.queues ∧ (t.grp c).part = f.part))

/-- R165, R187, R193, R231: a wait whose condition holds lets its lanes go on; BARW, TJOIN and VATWAIT then acquire (R243, R245, R256). -/
def Obligations.WaitsComplete : Prop :=
  ∀ (i : Instr) (s : State) (acq : State → State), waits i s = some (true, acq) → ready i s = true →
    completes i s (fun t => if (viewOf i s).act = 0 then t else acq t)

/-- R190, R192, R194, R32: BARV's lanes arrive and go on. BARS's lanes arrive, marked, and stay; a lane whose phase has completed
without a damage trap drops its mark, acquires, and goes on. When a phase completes its number goes up by one, the parity P flips, and D
takes the damage of the phase. The mark by which a BARS knows its phase is the model's (log entry 37), and so is how a group is counted whose
lanes exit (log entry 84). -/
def Obligations.BarrierArrivals : Prop :=
  ((∀ (u : Bool) (l : BitVec 2) (n : BitVec 4) (p : BitVec 3) (s : State), ready (.barv u l n p) s = true →
    let i : Instr := .barv u l n p
    let w := viewOf i s
    (∀ x, inMask w.act x = true → mustWaitToArrive (enter i s) w l.toNat n.toNat x = false) →
    completes i s (fun t => if w.act = 0 then t else
      let t := releaseAt (releaseLanes t s.key w.act) w.g.core (l.toNat + 1)
      arriveLanes t (t.grp s.key) l.toNat n.toNat w.act)) ∧
  (∀ (u : Bool) (l : BitVec 2) (n : BitVec 4) (p : BitVec 3) (s : State), ready (.bars u l n p) s = true →
    let i : Instr := .bars u l n p
    let w := viewOf i s
    (∀ x, inMask w.act x = true → barMark (w.g.lane x) l.toNat n.toNat w.pc = none ∧
      mustWaitToArrive (enter i s) w l.toNat n.toNat x = false) →
    exec i s = .next (settle i s ((acting i s).map (fun x => (x, LaneOut.hold))) (arriveGroup ((enter i s).modGrp s.key (fun g =>
      g.modLanes (acting i s) (fun _ y => { y with bars := y.bars ++ [⟨l.toNat, n.toNat, w.pc, none⟩], waiting := true })))
      w l.toNat n.toNat w.act))) ∧
  (∀ (u : Bool) (l : BitVec 2) (n : BitVec 4) (p : BitVec 3) (s : State), ready (.bars u l n p) s = true →
    let i : Instr := .bars u l n p
    let w := viewOf i s
    (∀ x, inMask w.act x = true → ∃ m ph d, barMark (w.g.lane x) l.toNat n.toNat w.pc = some m ∧ m.done = some (ph, d) ∧
      dmgTraps (enter i s) w.g l.toNat n.toNat ph d = false) → w.act ≠ 0 →
    completes i s (fun t => barAcquire (t.modGrp s.key (fun g => g.modLanes (acting i s) (fun _ y =>
      { y with bars := y.bars.filter (fun m => !(m.level == l.toNat && m.idx == n.toNat && m.pc == w.pc)) }))) w.g l.toNat n.toNat))) ∧
  (∀ (s : State) (grid G F C : Nat) (b : Barrier),
    (b.nextPhase s grid G F C).phase = b.phase + 1 ∧ (b.nextPhase s grid G F C).parity = 1 - b.parity ∧
    (b.nextPhase s grid G F C).lastD = b.dmg)

/-! ## Matrix, chains, feeders, submissions (chapters 4, 8, 9, 14, 15) -/

/-- R117, R119, R208, R255: a matrix or chain word whose checks pass, whose lanes' stores are performed and for which TL has room, starts
its operation. R233 to R235, R237: a copy word of a feeder context whose checks pass, which waits for nothing, whose context's stores and fabric
accesses are performed, and for which CP has room, starts its copy. The DETAILs of the checks that Tables 5-5 and 9-9 do not place are the
model's reading (log entries 42 and 43), and so is a CBLOAD that comes between a CPYX's issue and its reads (log entry 83). -/
def Obligations.EngineAndCopyWordsStart : Prop :=
  (∀ (i : Instr) (s : State) (f : View → State → Except EngFault (State → State)) (start : State → State), engines i = some f →
    ready i s = true →
    let w := viewOf i s
    w.act ≠ 0 → f w (drainStores (enter i s) s.key w.act) = .ok start → engineReady (enter i s) w = true → w.g.count .tl < 63 →
    completes i s (fun t => start (dropFetched (drainStores t s.key w.act) s.key w.act))) ∧
  (∀ (i : Instr) (s : State) (f : CopyForm), copies i s = some f → ready i s = true →
    let w := viewOf i s
    w.act ≠ 0 → f.inside = true → f.busy = false → copyChecks (enter i s) w.g f.kind f.aligned = .ok →
    copyReady (enter i s) w = true → w.g.count .cp < 63 →
    completes i s (fun t => startCopy f.kind s.key (f.extra (drainStores t s.key w.act))))

/-- R200, R226, R229 to R231: TLEND, VATTAKE, VATFREE, VATARM and AASET. R240: CPYABORT ends the copy whose fault the feeder context
reported, as a damaged one; with none it does nothing; that one fault is reported at a time is the model's reading (log entry 39). R241, R328,
R341: DECSUB and RSHD, whose record is read after the context's own stores, write their status to v[d]; with status 0 they release and the
request is taken up, its work to start once the stores and fabric accesses noted with it are performed, unless the context is being destroyed
(R333, R348). A record at another module's address is read by a request and its answer (log entry 15); the points that the request tables
leave open are the model's (log entries 65 and 66). -/
def Obligations.DirectWordsAndSubmissions : Prop :=
  (∀ (i : Instr) (s : State) (f : State → State), direct i s = some (true, f) → ready i s = true → (viewOf i s).act ≠ 0 →
    completes i s f) ∧
  (∀ (u : Bool) (p : BitVec 3) (s : State), ready (.cpyabort u p) s = true → (viewOf (.cpyabort u p) s).act ≠ 0 →
    (∀ (id : Nat) (o : PendOp) (op : CopyOp), (s.grp s.key).cfOp = some id → (s.grp s.key).findOp id = some o → o.body = .copy op →
      completes (.cpyabort u p) s (fun t => (endCopy t s.key o op true).modGrp s.key (fun g => { g with cfOp := none }))) ∧
    ((s.grp s.key).cfOp = none → completes (.cpyabort u p) s (fun t => t))) ∧
  (∀ (u : Bool) (d a : BitVec 6) (p : BitVec 3) (s : State) (b : List Dword),
    (ready (.decsub u d a p) s = true →
      let i : Instr := .decsub u d a p
      let w := viewOf i s
      w.act ≠ 0 → readRecord (drainStores (enter i s) s.key w.act) w (w.g.rv64 a.toNat 0) = .ok b →
      let st := decStatus (enter i s) w.g b
      completes i s (fun t =>
        let t := (dropFetched t s.key w.act).modGrp s.key (fun g => g.wv d.toNat 0 (BitVec.ofNat 32 st))
        if st ≠ 0 then t else
        let t := releaseAt (releaseLanes t s.key w.act) w.g.core 3
        if (t.ctx w.g.ctxid).dying then t else
        { t with decs := { t.decs with
            nextId := t.decs.nextId + 1
            reqs := t.decs.reqs ++ [{ id := t.decs.nextId, key := s.key, ctxid := w.g.ctxid, grid := w.g.grid, cluster := w.g.cluster
                                      team := w.g.team, block := b, dec := none, next := 0, dead := 0
                                      after := unperformed (t.grp s.key) s.key w.act }] } })) ∧
    (ready (.rshd u d a p) s = true →
      let i : Instr := .rshd u d a p
      let w := viewOf i s
      let t1 := drainStores (enter i s) s.key w.act
      let status := fun (t : State) (st : Nat) =>
        (dropFetched t s.key w.act).modGrp s.key (fun g => g.wv d.toNat 0 (BitVec.ofNat 32 st))
      w.act ≠ 0 → readRecord t1 w (w.g.rv64 a.toNat 0) = .ok b →
      (∀ (st : Nat), rshdCheck t1 (t1.grp s.key) b = .status st → completes i s (fun t => status t st)) ∧
      (∀ (plist : List Nat), rshdCheck t1 (t1.grp s.key) b = .accept plist → completes i s (fun t =>
        let t := acquireAt (releaseAt (releaseLanes (status t 0) s.key w.act) w.g.core 3) w.g.core 3
        if (t.ctx w.g.ctxid).dying then t
        else rsBegin (rsAccept t w.g.ctxid (w.g.rv64 a.toNat 0) b plist (unperformed (t.grp s.key) s.key w.act))))))

/-- R209 to R214, R216, R217: a matrix operation that may do its work and reads no poison does it, arrives at its arrive link, and leaves TL. With
nothing of it written before (that an operation reads and writes by turns until its end is the model's choice, log entry 44), each element of
the tile then holds: after a TMMA the sum of its products over what it held (R83, R84), or over 0, as log entry 45 reads R85; after TZERO 0;
after TACLD the converted element of memory. TACST's memory holds the converted elements, a stochastic one's
with one step of the generator each; TQUANT's holds each block's codes and scale, each block quantised from the generator that the one before
left, and SCALEH and QOV report the largest scale, the most raises, and saturation. No other byte changes. The addresses a TACST or TQUANT
writes are those its translations lead to; where two coincide, or a word stands under another key, nothing is said.
R118, R120: a stream chain none of whose bytes still to be read is poisoned writes its destination and leaves TL: with none of it written
before (log entry 44), element i of DST holds what its steps make of element i of X and, where one reads it, of Y, and no other byte changes;
where two addresses of DST coincide, or a word stands under another key, nothing is said. -/
def Obligations.EngineRetirements : Prop :=
  ((∀ (c k : Nat) (s : State) (o : PendOp) (op : MatOp), (s.grp c).findOp k = some o → o.body = .matrix op → matReady s (s.grp c) o op = true →
    let u := linkEnd s c o op
    placesPoison u (u.grp c).core op.seen (matSources u (u.grp c) op ++ tmmaSums u (u.grp c) op) = none →
    let x := pLink op.block
    let t := matWork u c { op with go := true }
    let r := (if linkAen x then arriveLink t (t.grp c) (linkAidx x) op.lanes else t).modGrp c (fun g => g.finishOp o.id)
    exec (.matrixOperationRetire c k) s = .next r ∧ r.mem = t.mem ∧ ∀ y ∈ (r.grp c).ops, y.id = o.id → y.done = true) ∧
  (∀ (s : State) (c : Nat) (op : MatOp), op.wrote = [] → op.fn ≤ 2 →
    leavesBytes s (matWork s c op) ((List.range 256).flatMap (fun m => (List.range 64).map (fun n =>
      ⟨accAt s (s.grp c) (pTile op.block) m n, 0, natToBytes 4 (matElem s (s.grp c) op m n)⟩)))) ∧
  (∀ (s : State) (c : Nat) (op : MatOp), op.wrote = [] → op.fn = 3 →
    let ws := (List.range 256).flatMap (fun m => engineBytes s (s.grp c) op.held (xElem op (xWidth op) m 0)
      (packElems (xWidth op) ((List.range 64).map (tacstOf s (s.grp c) op m))))
    apart s ws → leavesBytes s (matWork s c op) ws) ∧
  (∀ (s : State) (c : Nat) (op : MatOp), op.wrote = [] → op.fn = 4 →
    let qs := quantBlocks s (s.grp c) op
    let f := fmtWord op.fw
    qs.length = 512 ∧
    (∀ i, i < 512 → qs[i]? = some (quantizeBlock (fltOf f.af) f.rnd op.start (quantInputs s (s.grp c) op i)
      (if i = 0 then op.seed else (qs[i - 1]?).elim 0 (·.gen)))) ∧
    (let ws := (List.range 512).flatMap (fun i => (qs[i]?).elim [] (quantWrites s (s.grp c) op i))
     apart s ws → leavesBytes s (matWork s c op) ws) ∧
    ((matWork s c op).grp c).scaleh = BitVec.ofNat 64 ((s.grp c).scaleh.toNat % 256 + qs.foldl (fun x q => Nat.max x q.e) 0 * 2 ^ 8 +
      qs.foldl (fun x q => Nat.max x q.nr) 0 * 2 ^ 16 + (if qs.any (·.sat) then 2 ^ 18 else 0)) ∧
    (∀ l, (((matWork s c op).grp c).lane l).flags = ((s.grp c).lane l).flags ||| (if qs.any (·.sat) ∧ inMask op.lanes l = true then flQOV else 0)))) ∧
  (∀ (c k : Nat) (s : State) (o : PendOp) (op : ChainOp), (s.grp c).findOp k = some o → o.done = false → o.body = .vchain op →
    let g := s.grp c
    let b := op.block
    (cCount b = 0 ∨ enginePoison s g op.held op.seen (chainX b :: chainY b) = none) →
    ∃ t, exec (.vchainRetire c k) s = .next t ∧ (∀ y ∈ (t.grp c).ops, y.id = o.id → y.done = true) ∧
      (let ws := (List.range (cCount b)).flatMap (fun i =>
        engineBytes s g op.held (pAddr b 0x10 + BitVec.ofNat 64 (i * tyBytes (cDtype b))) (natToBytes (tyBytes (cDtype b)) (chainElem b
          (bytesToNat (engineRead s g op.held op.seen (pAddr b 0 + BitVec.ofNat 64 (i * tyBytes (cXtype b))) (tyBytes (cXtype b))))
          (if usesY b then bytesToNat (engineRead s g op.held op.seen (pAddr b 8 + BitVec.ofNat 64 (i * 4)) 4) else 0))))
       op.wrote = [] → apart s ws → leavesBytes s t ws))

/-- R228, R233, R236, R238: a copy that may run and meets no fault delivers its bytes and ends: its vat has one fill more, and is full with
the last; its barrier has one feeder arrival more; its CP operation is done. A CPY that has not begun leaves the bytes of its source, as its
core reads them, at its destination, and no other byte changes; so does every unit that lies in one page on either side. An entry of a QPUSH
holds its 32 elements, 0 beyond the last, at the end of its queue. A copy that meets a fault is suspended on it. That copies move what they
have left at their end, and other bytes in the turns of log entry 40 before, is the model's choice. -/
def Obligations.CopyEvents : Prop :=
  (∀ (c k : Nat) (s : State) (peer : List Byte) (o : PendOp) (op : CopyOp), findCopy s c k = some (o, op) →
    (op.kind.isQpush = false → (runCopy s (s.grp c) op).stopped = false →
      let r := runCopy s (s.grp c) op
      exec (.copyCompletion c k peer) s = .next (endCopy (fillBook r.st (s.grp c) r.op) c o op false)) ∧
    (op.kind.isQpush = true → op.bytes = copyTotal op →
      exec (.copyCompletion c k peer) s = .next (endCopy s c o op false)) ∧
    (∀ d src len a ta la b tb lb, op.kind = .cpy d src len → op.bytes = 0 → op.seen = [] → op.moved = [] → op.pages = [] → 0 < len →
      src.toNat % 65536 + len ≤ 65536 → d.toNat % 65536 + len ≤ 65536 →
      spotOf s (s.grp c) false src len = .inl (.here a ta la) → spotOf s (s.grp c) true d len = .inl (.here b tb lb) →
      let core := if la then some (s.grp c).core else none
      (∀ i, i < len → s.poisoned core (a + i) 1 = none ∧ (isDram (b + i) = true → wordTag s ((b + i) / 32) = tb)) →
      ∃ t, exec (.copyCompletion c k peer) s = .next t ∧ (∀ i, i < len → t.rawByte (b + i) = s.readByte core ta (a + i)) ∧
        ∀ x, x < b ∨ b + len ≤ x → t.rawByte x = s.rawByte x) ∧
    (∀ p q, op.kind = .qpush p q → op.bytes ≠ copyTotal op → queueBehind (s.grp c) o q = false →
      ((s.grp (c - 1)).queue q).length < 16 → (nextEntry s (s.grp c) op p).2.stopped = false →
      exec (.queueEntryArrival c k peer) s = .next (setCopy (pushEntry (nextEntry s (s.grp c) op p).2.st c q
        (nextEntry s (s.grp c) op p).1) c o { op with bytes := Nat.min (op.bytes + 128) (copyTotal op) })) ∧
    (∀ refused f, (faultRun s (s.grp c) op).viol = none → (faultRun s (s.grp c) op).fault = some f →
      exec (.copyFault c k peer refused) s = .next (setCopy (faultRun s (s.grp c) op).st c o
        { (faultRun s (s.grp c) op).copy with fault := some f, sent := [], pages := [] }))) ∧
  (∀ (g : Grp) (fuel : Nat) (va vb : Dword) (n a ta : Nat) (la : Bool) (b tb : Nat) (lb : Bool) (r : Run), r.stopped = false → r.dry = false →
    r.op.seen = [] → r.op.moved = [] → r.op.pages = [] → 0 < n → va.toNat % 65536 + n ≤ 65536 → vb.toNat % 65536 + n ≤ 65536 →
    spotOf r.st g false va n = .inl (.here a ta la) → spotOf r.st g true vb n = .inl (.here b tb lb) →
    let core := if la then some g.core else none
    (∀ i, i < n → r.st.poisoned core (a + i) 1 = none ∧ (isDram (b + i) = true → wordTag r.st ((b + i) / 32) = tb)) →
    let t := moveBytes g (fuel + 1) (.mem va) (.mem vb) n r
    t.stopped = false ∧ t.pos = r.pos + n ∧ t.op = r.op ∧ (∀ i, i < n → t.st.rawByte (b + i) = r.st.readByte core ta (a + i)) ∧
      ∀ x, x < b ∨ b + n ≤ x → t.st.rawByte x = r.st.rawByte x) ∧
  (∀ (s : State) (g : Grp) (op : CopyOp) (p : Pattern) (q : Nat) (word : Nat → Word), op.kind = .qpush p q → op.seen = [] → op.pages = [] →
    let e := op.bytes / 128
    (∀ l, l < 32 → 32 * e + l < patCount p → ∀ i, i < 4 → copyByte s g (patAddr p (32 * e + l) + BitVec.ofNat 64 i) =
      some ((word l).extractLsb' (8 * i) 8)) →
    (nextEntry s g op p).2.stopped = false ∧
      ∀ l, l < 32 → Bank.get 0 (nextEntry s g op p).1 l = if 32 * e + l < patCount p then word l else 0) ∧
  (∀ (s : State) (c q : Nat) (e : Bank Word), ((pushEntry s c q e).grp (c - 1)).queue q = (s.grp (c - 1)).queue q ++ [e]) ∧
  (∀ (s : State) (c : Nat) (o : PendOp) (op : CopyOp) (dmg : Bool), let t := endCopy s c o op dmg
    let g := s.grp c
    let r := g.barRef (bindLvl op.bind) (bindIdx op.bind)
    (∀ y ∈ (t.grp c).ops, y.id = o.id → y.done = true) ∧
    (bindVen op.bind = true → op.kind.isQpush = false →
      let v := s.vat g (bindVat op.bind)
      t.vat g (bindVat op.bind) = { v with
        filled := v.filled + 1, dmg := v.dmg || dmg, st := if v.filled + 1 = v.n then .full else v.st }) ∧
    (bindBen op.bind = true → (s.bar r).fcount + 1 < (g.kern.bar (bindLvl op.bind) (bindIdx op.bind)).2.1 →
      t.bar r = { s.bar r with fcount := (s.bar r).fcount + 1, dmg := (s.bar r).dmg || dmg }))

/-! ## Link sequencers (chapter 13) -/

/-- R298, R299, R310: a scalar Fjarmar word changes its context as Table 13-4 says, and nothing else; c0 keeps reading as zero
(`SeqSlot.wc`). The last word of the program does so too, and reaching WORDS then stops the context with code 0x41. -/
def Obligations.SequencerScalars : Prop :=
  ∀ (i : Instr) (s : State) (j n : Nat) (x : SeqSlot), SeqAt s j n → seqScalars i j (slotKey j n) (s.slot (slotKey j n)) = some x →
    exec i s = .next (if x.pc < x.imp.words.length then (taken s).setSlot (slotKey j n) x
      else stopSlot ((taken s).setSlot (slotKey j n) x) j (slotKey j n) 0x41 0 0)

/-- R318, R322, R300: YIELD ends the turn of its context, which stays Ready at the next word; HALT ends the context. WAITF goes on where
its flag compares true; SIGF and SIGF.ADD write the flag. -/
def Obligations.SequencerFlagsAndTurns : Prop :=
  (∀ (s : State) (j n : Nat), SeqAt s j n →
    ((s.slot (slotKey j n)).pc + 1 < (s.slot (slotKey j n)).imp.words.length →
      exec .yield s = .next (atChunkEnd (taken s) j (slotKey j n) ((s.slot (slotKey j n)).pc + 1))) ∧
    exec .chunkHalt s = .next (endSlot (taken s) j (slotKey j n) false)) ∧
  (∀ (s : State) (j n : Nat) (a b cc : BitVec 4) (loc tag : Nat), SeqAt s j n →
    let k := slotKey j n
    let x := s.slot k
    let next := fun (t : State) => t.setSlot k { t.slot k with pc := x.pc + 1, held := none }
    x.pc + 1 < x.imp.words.length →
    (seqFlag (taken s) (whoLink j) x.imp.ctxid .read (x.rc a.toNat) = .ok (loc, tag) →
      let v := BitVec.ofNat 64 (s.readNat none tag loc 8)
      (cc = 0 → x.rc b.toNat ≤ v → exec (.waitf cc a b) s = .next (next (taken s))) ∧
      (cc = 1 → x.rc b.toNat = v → exec (.waitf cc a b) s = .next (next (taken s))) ∧
      (cc = 2 → x.rc b.toNat ≠ v → exec (.waitf cc a b) s = .next (next (taken s)))) ∧
    (seqFlag (taken s) (whoLink j) x.imp.ctxid .write (x.rc a.toNat) = .ok (loc, tag) →
      exec (.chunkSigf a b) s = .next (next ((taken s).writeBytes none none tag loc (natToBytes 8 (x.rc b.toNat).toNat))) ∧
      ((taken s).poisoned none loc 8 = none → exec (.chunkSigfAdd a b) s = .next (next ((taken s).writeBytes none none tag loc
        (natToBytes 8 (BitVec.ofNat 64 (s.readNat none tag loc 8) + x.rc b.toNat).toNat))))))

/-- R303 to R307: XMIT, RECV, COMB and CFWD, whose checks pass and whose chunk and room are there, complete and end their chunk. -/
def Obligations.ChunkWords : Prop :=
  ∀ (i : Instr) (s t : State) (j n : Nat), SeqAt s j n → chunkWords i (taken s) j (slotKey j n) = some t →
    (t.slot (slotKey j n)).stepping = false → (t.slot (slotKey j n)).pend = none →
    (s.slot (slotKey j n)).pc + 1 < (t.slot (slotKey j n)).imp.words.length →
    exec i s = .next (atChunkEnd t j (slotKey j n) ((s.slot (slotKey j n)).pc + 1))

/-- R298, R300, R303, R310 (Table 13-10): a branch out of the program, an unassigned register, a bad TLEAF or a misaligned flag stops the
context with the code the table gives. -/
def Obligations.SequencerStops : Prop :=
  ∀ (i : Instr) (s : State) (j n : Nat) (c d : Nat) (a : Dword), SeqAt s j n → seqStops i (s.slot (slotKey j n)) = some (c, d, a) →
    exec i s = .next (stopSlot (taken s) j (slotKey j n) c d a)

/-! ## Events (chapters 11 to 18) -/

/-- R283 to R285, R291: CLUSTER_PLACEMENT serves the highest level of which something can be placed: its saved clusters, whose restore is an
event of its own, then a discarded one (log entry 99), then the next head packet in round-robin order. A head
packet places its next cluster, or with COSCHED all that it has pending, and leaves its queue with the last. A cluster stands on the first
rectangle of the scan that can hold it: one team a core in row-major order, each with its groups in the quadrants of R284, every lane at its
role's entry with launch values and PARAM in s1. -/
def Obligations.Placements : Prop :=
  (∀ (s : State), let t := settleAll s
    ((∀ l, l < 8 → levelServable t l = false) → exec .clusterPlacement s = .next t) ∧
    ∀ l, l < 8 → (∀ h, l < h → h < 8 → levelServable t h = false) →
      (restorable t l = true → exec .clusterPlacement s = .next t) ∧
      (restorable t l = false →
        (∀ u, placeDiscarded t l = some u → exec .clusterPlacement s = .next u) ∧
        (placeDiscarded t l = none → ∀ u, placeNew t l = some u → exec .clusterPlacement s = .next u))) ∧
  (∀ (s u : State) (l : Nat), placeNew s l = some u → ∃ before q rest t, queuesOf s l = before ++ q :: rest ∧
    (∀ p ∈ before, placeHead s p = none) ∧ placeHead s q = some t ∧
    u = { t with sched := { t.sched with rr := Bank.set none t.sched.rr l (some q) } }) ∧
  (∀ (s : State) (l q : Nat), (q ∈ queuesOf s l ↔ q < 64 ∧ (s.queue q).isOpen = true ∧ (s.queue q).level = l) ∧
    (q ∈ queuesOf s l → Bank.get none s.sched.rr l = some q → (queuesOf s l).getLast? = some q)) ∧
  (∀ (s : State) (q : Nat) (h : Queued), placeable s q = some h → (headGrid s q h).1 ≠ 0 →
    let gk := (headGrid s q h).1
    let t := (headGrid s q h).2
    let x := s.queue q
    let todo := (t.grid gk).pending
    let placed := placeClusters gk true (if h.packet.cosched then todo else todo.take 1) t
    (placed = none → placeHead s q = none) ∧
    ∀ v, placed = some v → placeHead s q = some (if (v.grid gk).pending = [] then
        (v.setQueue q { x with packets := x.packets.tail }).settle q
      else v.setQueue q { x with packets := { h with grid := some gk } :: x.packets.tail })) ∧
  (∀ (s t : State) (gk cid : Nat), placeCluster s gk cid = some t →
    let g := s.grid gk
    let p := g.packet
    let c := t.clus (clusterKey gk cid)
    c.st = .resident ∧ c.placed = s.sched.cycle.toNat ∧ c.die ∈ diesOf p ∧ c.row + p.rows ≤ 8 ∧ c.col + p.cols ≤ 8 ∧
    (t.grid gk).pending = g.pending.filter (fun n => n != cid) ∧
    (∀ u, takeScratch s gk = some u → ∀ row col, row + p.rows ≤ 8 → col + p.cols ≤ 8 → row < c.row ∨ row = c.row ∧ col < c.col →
      rectFits u gk cid c.die row col = false) ∧
    ∀ n, n < p.teams → let y := t.team (teamKey gk cid n)
      y.used = true ∧ y.core = teamCore p c.die c.row c.col n ∧ y.gids.length = p.groups ∧
      ∀ j, j < p.groups → let x := t.grp (2 * y.gids.getD j 0)
        x.used = true ∧ x.grid = gk ∧ x.cluster = cid ∧ x.team = n ∧ x.group = j ∧ x.core = y.core ∧ x.quad = j % 4 ∧ x.ctxid = g.ctxid ∧
        x.v = [] ∧ x.rs 1 = p.param ∧ ∀ l, l < 32 → x.lane l = { pc := g.kern.entries.getD 0 0, sub := BitVec.allOnes 32 })

/-- R282, R289 to R291, R139: the scheduler's events. A head packet's flags that compare true are latched, and all of them make it ready. A
saved cluster is restored where nothing of a higher level can be placed. A request for room asks of the victims whose removal makes it; a
slice that has run out asks of the earliest placed of its level; a drain that has lasted out its budget is decided anew. An event of a group is
taken at its boundary. The order of equal victims and the comparison of costs by their products are the model's (log entry 30), when an event
happens is (log entries 3 and 34), and what of a copy or of the deque is saved with a cluster is (log entries 26 and 35). -/
def Obligations.SchedulingEvents : Prop :=
  (∀ (q : Nat) (s : State) (h : Queued) (rest : List Queued) (ls : List Nat),
    let t := s.settle q
    (t.queue q).packets = h :: rest → h.ready = none → h.checked = true →
    latchDeps t (t.queue q).ctxid h.packet h.latched = some ls →
    exec (.dependenceFlagRead q) s = .next ((t.setQueue q { t.queue q with packets := { h with
      latched := ls, ready := if ls.length = h.packet.ndep then some t.sched.cycle.toNat else none } :: rest }).settle q)) ∧
  (∀ (k : Nat) (s u : State) (c : SavedCluster), let t := settleAll s
    t.sched.saved[k]? = some c → (∀ l, l < 8 → (t.grid c.grid).level < l → levelServable t l = false) → restoreCluster t c = some u →
    exec (.clusterRestore k) s = .next u) ∧
  (∀ (q : Nat) (s : State) (h : Queued) (cks : List Nat), placeable s q = some h → h.packet.deadline ≠ 0 → placeHead s q = none →
    roomBy s q ((victims s (fun l => decide (l < (s.queue q).level))).map (·.1)) [] = some cks →
    exec (.preemptionRequest q) s = .next (cks.foldl (fun s' ck => requestCluster s' ck
      (h.packet.deadline - (s.sched.cycle.toNat - h.ready.getD 0)) false) s)) ∧
  (∀ (q : Nat) (s : State) (h : Queued) (e : Nat × Cluster) (es : List (Nat × Cluster)), placeable s q = some h → placeHead s q = none →
    ((victims s (fun l => l == (s.queue q).level)).filter (fun e => e.2.st == .resident &&
      decide (s.sched.cycle.toNat - e.2.placed ≥ (s.queue (s.grid (e.1 / 65536)).queue).slice))).mergeSort
        (fun a b => decide (a.2.placed ≤ b.2.placed)) = e :: es →
    exec (.sliceExpiry q) s = .next (requestCluster s e.1 0 false)) ∧
  (∀ (gk ck T made : Nat) (s : State), let c := s.clus (clusterKey gk ck)
    c.st = .draining → c.request = some (T, made) → made + T ≤ s.sched.cycle.toNat →
    exec (.drainTimeout gk ck) s = .next (applyDecision (s.setClus (clusterKey gk ck) { c with st := .resident }) (clusterKey gk ck)
      (decideCluster s (clusterKey gk ck) T true))) ∧
  (∀ (k : Nat) (s : State), (s.grp k).used = true → atEventBoundary (s.grp k) = true →
    exec (.asyncEventTaken k) s = .next (takeAsync s k) ∧
    ((s.ctx (s.grp k).ctxid).dying = false → (s.grp k).haltPend = true → (s.grp k).halted = false →
      takeAsync s k = (settleForEvent s k).haltGrp k 1 0))

/-- R350 to R354, R357, R358: the links' events. A flit that is sent has a header unit whose CRC holds and whose fields are those of Table 16-1,
with the active wavelengths of this module and the sequence number it expects; it is striped by the map announced before, an opening flit
sent on every wavelength. A slot opens with the opening flit; a flit that is accepted is taken in its order, one that is not is counted and
not taken. That an event brings a flit's units by wavelength, the FEC's counts and the outcome of a retraining is the model's choice (log
entry 47). -/
def Obligations.LinkEvents : Prop :=
  (∀ (x : Link) (typ seq src dest : Nat) (hop nak opening : Bool) (payload : List (BitVec 128)),
    ∃ us, us.length = 16 ∧ crcHolds us = true ∧
      headOf (us.headD 0) = ⟨typ % 256, seq % 2 ^ 24, x.rx.active % 256, (if opening then 0 else x.peerMask) % 256, hop, src % 128, dest % 128, nak,
        x.rxSeq % 2 ^ 24⟩ ∧
      x.send typ seq src dest hop nak opening payload =
        { x with out := x.out ++ [if opening then List.replicate 8 us else striped x.map us], map := if opening then x.map else x.peerMask }) ∧
  (∀ (m u : Nat), wavesOf m ≠ [] → m.testBit (waveOf m u) = true ∧ waveOf m (u + (wavesOf m).length) = waveOf m u) ∧
  (∀ (j : Nat) (s : State), j < 32 →
    let x := s.link j
    (∀ n, n < 127 → x.up = true → x.slot = none →
      exec (.slotStart j n) s = .next (s.setLink j ((({ x with
        slot := some n, peer := (s.fabric.self ^^^ matching n j) % 128, relaySpace := 0, announced := relayRoom s, rxMap := x.rx.active
        out := [] } : Link).send 2 0 s.fabric.self ((s.fabric.self ^^^ matching n j) % 128) false false true
          ((List.range 15).map (Config.openingUnit (relayRoom s))))))) ∧
    (x.slot.isSome = true → exec (.slotEnd j) s = .next (endConnection s j)) ∧
    (∀ (f : Flit), x.slot.isSome = true → x.up = true → flitBad s (gathered (!x.opened) x.rxMap f) = true →
      exec (.flitReception j f) s = .next (s.setLink j (discardFlit x s.fabric.self x.opened)) ∧
      (discardFlit x s.fabric.self x.opened).rx.discard = inc32 x.rx.discard 1 ∧
      (discardFlit x s.fabric.self x.opened).rxSeq = x.rxSeq) ∧
    (∀ (f : Flit) (u : BitVec 128) (p : List (BitVec 128)), x.slot.isSome = true → x.up = true →
      gathered (!x.opened) x.rxMap f = some (u :: p) → flitBad s (some (u :: p)) = false → unitsAgree (headOf u) p f.units = true →
      let y := readHeader x s.fabric.self (headOf u) f.relay
      ((headOf u).typ ≠ 1 → exec (.flitReception j f) s = .next (s.setLink j y)) ∧
      ((headOf u).typ = 1 → y.opened = true → (headOf u).seq = y.rxSeq →
        exec (.flitReception j f) s = .next (if Config.rxFull j s.tick then s.setLink j (discardFlit y s.fabric.self true) else acceptMessages (s.setLink j { y with
          rxSeq := y.rxSeq + 1, naking := false, part := (gatherUnits f.units y.part []).1 }) j (gatherUnits f.units y.part []).2))) ∧
    (∀ c k o rs r, findRequest (s.grp c) k = some (o, rs, r) →
      exec (.remoteRequestTimeout c k) s = .next (onRefusal s k (r.lanes.map (fun y => (y.lane, 7, 4))))) ∧
    (∀ w bits bad, w < 8 →
      let d := { x.rx with cbits := Bank.set 0 x.rx.cbits w (inc32 (Bank.get 0 x.rx.cbits w) bits), uncorr := inc32 x.rx.uncorr bad }
      (bits ≤ 21474 → exec (.fecWindowEnd j w (bits, bad)) s = .next (s.setLink j { x with rx := d })) ∧
      (21474 < bits → x.rx.failed.testBit w = false → x.rx.retraining.testBit w = false → w ∉ x.rx.queue →
        exec (.fecWindowEnd j w (bits, bad)) s = .next (s.setLink j { x with rx := startRetrain d w }))) ∧
    (∀ w, w < 8 → x.rx.retraining.testBit w = true → exec (.retrainingEnd j w true) s = .next (s.setLink j { x with
      rx := nextRetrain { x.rx with
        active := x.rx.active ||| 2 ^ w, retraining := x.rx.retraining - 2 ^ w, fails := Bank.set 0 x.rx.fails w 0 } })))

/-- R302, R320: CHUNK_ARRIVAL. A chunk that has no room in its slot's staging stays with the transaction layer, behind those that came before
it, and its sender gets no credit. One that has room is credited and goes to the channel that is bound to its sender's rank and slot, last of
that channel's chunks, where a context that waits for it becomes Ready; with no such channel, or in a slot that runs another imposition or
none, it is held in staging; one of the imposition that ended last in the slot is discarded and entered in the black box. In slot 3 it is a
curd of the re-sharding engine, kept while its part goes on (log entry 67). -/
def Obligations.ChunkArrivals : Prop :=
  ∀ (j n src : Nat) (c : Chunk) (s : State), j < 32 → n < 4 →
    let k := slotKey j n
    let x := s.slot k
    let bound := (List.range 16).find? (fun m => x.bound m == some (c.rank + 128 * c.slot))
    (((x.backlog = [] ∧ stagingBytes < x.used + c.payload.length) ∨
        (∃ b rest, x.backlog = b :: rest ∧ stagingBytes < x.used + b.2.payload.length)) →
      exec (.chunkArrival j n src c) s = .next (s.setSlot k { x with backlog := x.backlog ++ [(src, c)] })) ∧
    (x.backlog = [] → x.used + c.payload.length ≤ stagingBytes →
      ∃ t, exec (.chunkArrival j n src c) s = .next t ∧ t.mem = s.mem ∧ t.grps = s.grps ∧
      let y := t.slot k
      y.backlog = [] ∧ y.bind = x.bind ∧ y.pc = x.pc ∧ y.c = x.c ∧
      (src ≠ s.fabric.self → ∃ m, t.fabric.outbox = s.fabric.outbox ++ [m] ∧ m.dst = src ∧ m.kind = 9 ∧ m.body = .credit j c.payload.length) ∧
      (src = s.fabric.self → (t.seqLink j).tx = (s.seqLink j).tx - c.payload.length) ∧
      (n = 3 → y.chans = x.chans ∧ y.staged = if s.rs.active && s.rs.addr == c.impid then x.staged ++ [c] else x.staged) ∧
      (n ≠ 3 → x.last = some c.impid → y.staged = x.staged ∧ y.chans = x.chans ∧ t.bbox.seq = s.bbox.seq + 1 ∧
        ∃ e, Bank.get none t.bbox.entries (s.bbox.seq % 4096) = some e ∧ e.kind = 4) ∧
      (n ≠ 3 → x.last ≠ some c.impid → x.st ≠ .free → x.imp.impid = c.impid → ∀ m, bound = some m →
        y.chan m = x.chan m ++ [c] ∧ (∀ m', m' ≠ m → y.chan m' = x.chan m') ∧ y.staged = x.staged ∧
        (x.st = .waiting → x.wait = some (.chunk m) → y.st = .ready ∧ y.wait = none)) ∧
      (n ≠ 3 → x.last ≠ some c.impid → (x.st = .free ∨ x.imp.impid ≠ c.impid ∨ bound = none) →
        y.staged = x.staged ++ [c] ∧ y.chans = x.chans))

/-- R272: a TLBINV starts, BUSY, and completes once what its writer issued before is performed and no operation holds a translation of
its extent: the extent leaves the TLBs and BUSY falls. R300, R314, R317: a context that waits for a flag goes on once it compares true; a start
loads its slot with c1 to c4 set and the others zero; the modules that do not answer a start are given up. Which requester a translation is
held for, and that it is held by 64 KiB page, is the model's choice (log entries 20 and 78); that the flag is read by an event, and a module
given up by one, is too (log entries 3 and 67). -/
def Obligations.InvalidationAndSequencerEvents : Prop :=
  (∀ (c : Nat) (v : Dword) (s : State), (s.grp c).used = true → (s.grp c).tlbinv.getLsbD 0 = false → csrReserved 0x060#12 v = false →
    exec (.tlbinvWrite c v) s = .next (startTlbinv s c v) ∧ ((startTlbinv s c v).grp c).tlbinv.getLsbD 0 = true) ∧
  (∀ (c : Nat) (s : State), let g := s.grp c
    g.tlbinv.getLsbD 0 = true → invalPerformed g = true → extentFree s g.ctxid g.tlbinv = true →
    ∃ t, exec (.tlbInvalidationComplete c) s = .next t ∧ (t.grp c).tlbinv.getLsbD 0 = false ∧ (t.grp c).tlbAfter = [] ∧
      t.tlb = s.tlb.filter (fun e => !(e.1 / 2 ^ 40 % 65536 == g.ctxid && inExtent g.tlbinv (e.1 % 2 ^ 40)))) ∧
  (∀ (j n loc tag : Nat) (a b : BitVec 4) (s : State), let x := s.slot (slotKey j n)
    x.st = .waiting → x.wait = some .flag → decodeChunk (x.imp.words.getD x.pc 0) = some (.waitf 0 a b) →
    let t := s.setSlot (slotKey j n) { x with st := .ready, wait := none }
    seqFlag t (whoLink j) x.imp.ctxid .read (x.rc a.toNat) = .ok (loc, tag) → x.rc b.toNat ≤ BitVec.ofNat 64 (t.readNat none tag loc 8) →
    x.pc + 1 < x.imp.words.length → x.stepping = false → j < 32 → n < 4 →
    exec (.waitfFlagRead j n) s = .next (t.modSlot (slotKey j n) (fun y => { y with pc := x.pc + 1, held := none }))) ∧
  (∀ (j n : Nat) (i : SeqImp) (rest : List SeqImp) (s : State), let x := s.slot (slotKey j n)
    x.starts = i :: rest → x.st = .free →
    exec (.impositionStartArrival j n) s = .next (s.setSlot (slotKey j n) (loadSlot x j i)) ∧
    (loadSlot x j i).pc = 0 ∧ (loadSlot x j i).rc 1 = i.param ∧ (loadSlot x j i).rc 2 = BitVec.ofNat 64 i.rank ∧
    (loadSlot x j i).rc 3 = BitVec.ofNat 64 i.mods.length ∧ (loadSlot x j i).rc 4 = BitVec.ofNat 64 j ∧
    (∀ m, 4 < m → (loadSlot x j i).rc m = 0)) ∧
  (∀ (k : Nat) (i : Imposition) (s : State), s.seqs.imps[k]? = some i → i.mods.filter (fun m => !i.answered.contains m) ≠ [] →
    let lost := i.mods.filter (fun m => !i.answered.contains m)
    exec (.impositionStartTimeout k) s = .next (lost.foldl (fun s m => hearEnded s i.uid m true)
      (i.mods.foldl (fun s m => sendAbort s i.ctxid i.uid m)
        (modImp s i.uid (fun i => { i with aborted := true, answered := i.answered ++ lost })))))

/-- R329 to R335, R339, R343: the re-sharding engine's events and the decoders'. Planning fails with an error of Table 14-6, stops on a violation,
or fixes the plan and asks for its curds; a curd received is stored and its bit set; a counter at 0 lets what it held back move; the commit writes
the generation words. That a curd moves by the turns of slot 3 and a counter is looked at by an event is the model's choice (log entry 67). A
request goes to a free decoder in arrival order; a frame, what it decodes to being an operand (log entries 17, 66, 96 and 97), fills its vat. -/
def Obligations.ReshardAndDecodeEvents : Prop :=
  (∀ (s : State), s.rs.active = true → s.rs.st = 1 → rsAllAccepted s = true →
    (∀ e, rsPlan s = .error (.error e) → exec .reshardPlanning s = .next (rsStop s e)) ∧
    (∀ kind c p, rsPlan s = .error (.violation kind c p) → exec .reshardPlanning s = .next (rsFreeze s kind c p)) ∧
    (∀ old new cs, rsPlan s = .ok (old, new, cs) → s.rs.rank = 0 →
      let t := rsState (rsPut (rsForget { s with rs := { s.rs with formes := some (old, new), curds := cs } }) 4 4 cs.length) 2 0
      ∀ ns, (List.range old.tensors.length).mapM (rsCounter t) = .ok ns →
        let u := { t with rs := { t.rs with held := (List.range ns.length).filter (fun n => ns.getD n 0 != 0) } }
        let u := u.rs.clears.foldl (fun s c => rsMark s c false) u
        exec .reshardPlanning s = .next (rsSettled (rsCheckMoved (rsServeAll (rsAsk { u with rs := { u.rs with clears := [] } }
          (List.range cs.length))))))) ∧
  (∀ (c : Nat) (x : Curd) (d : List Byte) (s : State), s.rs.curds[c]? = some x → s.rs.active = true → s.rs.st = 2 → rsIsDone s c = false →
    x.source ≠ s.fabric.self → x.len ≤ d.length → (∀ i, (c, i) ∉ s.rs.landed) →
    ∀ h, seqHold s whoReshard s.rs.ctxid [.write] x.dst x.len = .ok h →
      let t := heldWrite s h x.dst (d.take x.len)
      exec (.curdReceived c d) s = .next (rsSettled (rsCheckMoved (rsMark (rsUnsee t t.fabric.self c) c true)))) ∧
  (∀ (n : Nat) (s : State), rsLive s = true → (s.rs.st = 2 ∨ s.rs.st = 3) → rsCounter s n = .ok 0 →
    let t := { s with rs := { s.rs with held := s.rs.held.filter (fun t => t != n) } }
    exec (.pendingCounterChange n) s = .next (rsSettled (rsCheckMoved (rsServeAll (rsAsk t (rsSourced t n t.fabric.self)))))) ∧
  (∀ (s : State), s.rs.active = true → s.rs.rank = 0 → s.rs.st = 3 → s.rs.commit = true → s.rs.committing = false →
    (∀ r, r < s.rs.parts.length → r ∈ s.rs.reports) →
    let gen := s.rs.req.getD 6 0 + 1
    exec .commit s = .next (rsSettled (rsCommitted (rsTell s (.commit gen)) gen))) ∧
  (∀ (r : Nat) (s : State), r < s.rs.parts.length → r ≠ s.rs.rank → exec (.participantStop r) s = .next (rsStop s 7)) ∧
  (∀ (dec : Nat) (s : State) (r : DecReq), dec < 16 → (∀ x ∈ s.decs.reqs, x.dec ≠ some dec) → Bank.get none s.decs.frozen dec = none →
    s.decs.reqs.find? (fun r => r.dec.isNone) = some r → opsPerformed s r.after = true →
    let t := r.after.foldl (fun s a => s.flushCore a.2.2) s
    exec (.decodeRequestAssignment dec) s = .next (setReq t { r with
      dec := some dec, strm := if decFlags r.block / 8 % 2 = 1 then (t.decs.streams.reverse.find? (holdsStream t r)).getD {} else {} })) ∧
  (∀ (dec : Nat) (fr : FrameInfo) (s : State) (r : DecReq) (err : Nat), s.decs.reqs.find? (fun r => r.dec == some dec) = some r →
    (∀ y ∈ s.decs.reqs, y.dec = some dec → y.frame = none) →
    let vat := decVat0 r.block + r.next % decNvat r.block
    teamRuns s r.grid r.cluster r.team = true → (s.vat (r.grp s) vat).st = .free → framePlaced r fr = true →
    frameErr s r fr (if r.dead = 0 then frameFault s r fr else none) = some err →
    let ended : Prop := r.dead ≠ 0 ∨ err = 5 ∨ err = 6
    let x := decodeFrame r (if ended then r.strm.header else (frameHeader s r fr).or r.strm.header) fr err
    let t := (if r.dead ≠ 0 ∨ err = 6 then s else leaveStream s r fr x.2.2.2).setVat (r.grp s) vat { st := .filling, n := 1 }
    exec (.frameOutput dec fr) s = .next (endFrame (setReq t { r with
      dead := if err = 5 ∨ err = 6 then err else r.dead
      pos := if ended then r.pos else if err = 0 then fr.bits.1 + fr.bits.2 else nextUnit s r (blockField r.block 0x10 4) r.pos
      strm := x.2.2.2, frame := some ⟨vat, windowBytes r.block x.1, [], x.2.1, x.2.2.1⟩ }) dec))

/-- R260, R361, R363: RDMA in its region writes and reads memory, where its queue pair has no access under way; what lies outside its region is
answered with a NAK; the network's events. Which queue pairs stand on which port is the model's choice (log entry 48), and so is that a
region's key serves only the context that registered it (log entry 49).
R3, R4, R275 to R277, R379, R381, R382: the management controller's events, soft errors, breakpoints and samples. That a step faster ends or
relaxes the power limit (log entry 58), that the re-execution of a run leaves its results as they are and its second error names no address
(log entry 60), the locations of words outside DRAM (log entry 101), TADDR of a breakpoint (log entry 38) and the tag as an event (log entry
10) are the model's choices. -/
def Obligations.NetworkAndManagementEvents : Prop :=
  ((∀ (q : Nat) (rkey : Word) (off : Dword) (d : List Byte) (s : State), qpLive s q = true → (s.qp q).ahead = none →
    (rdmaRegion s q rkey off d.length true = none → exec (.rdmaWrite q rkey off d) s = .next (s.send (.accessNak q))) ∧
    (∀ r ps, rdmaRegion s q rkey off d.length true = some r → rdmaPlaces s r.ctxid .write (r.vbase + off) d.length = .ok ps →
      exec (.rdmaWrite q rkey off d) s = .next (ps.foldl (fun s p =>
        s.writeBytes none none p.2.1 p.1 ((d.drop p.2.2.1).take p.2.2.2)) s))) ∧
  (∀ (q n : Nat) (rkey : Word) (off : Dword) (s : State), qpLive s q = true → (s.qp q).ahead = none →
    (rdmaRegion s q rkey off n false = none → exec (.rdmaRead q rkey off n) s = .next (s.send (.accessNak q))) ∧
    (∀ r ps, rdmaRegion s q rkey off n false = some r → rdmaPlaces s r.ctxid .read (r.vbase + off) n = .ok ps → rdmaPoison s ps [] = none →
      exec (.rdmaRead q rkey off n) s = .next (s.send (.readData q (ps.flatMap (fun p => s.readBytes none p.2.1 p.1 p.2.2.2)))))) ∧
  (∀ (q : Nat) (s : State), (s.qp q).enabled = true → (s.qp q).error = false →
    exec (.invalidRequestNak q) s = .next (s.send (.invalidNak q)) ∧ exec (.ecnMark q) s = .next (s.send (.congestion q))) ∧
  (∀ (p : Nat) (s : State), ∃ t, exec (.ethernetPortDown p) s = .next t ∧ t = { s with host := { s.host with qps := t.host.qps } } ∧
    ∀ q x, (q, x) ∈ t.host.qps ↔ ∃ y, (q, y) ∈ s.host.qps ∧ x = if portOf q = p then { y with error := true } else y)) ∧
  (∀ (s : State), let m := s.mgmt
    (∀ o v, mgmtRead s o.toNat = some v → exec (.managementConnectorAccess (.read o)) s =
      .next ({ s with free := s.free + 1 }.send (.mgmt (natToBytes 8 v.toNat)))) ∧
    (∀ o v, exec (.managementConnectorAccess (.write o v)) s = .next { s with mgmt := (mgmtWrite m o.toNat v).2 }) ∧
    (∀ j rx, j ≤ 31 → exec (.managementConnectorAccess (.link j rx)) s = .next (s.send (.mgmt (linkRecord s j !rx)))) ∧
    (m.hold = false → m.clkStep < 20 → exec (.clockStepChange true) s = .next { s with mgmt := { m with
      clkStep := m.clkStep + 1, clkLimit := m.clkStep + 1, limiting := true } }) ∧
    (m.hold = false → m.clkCap < m.clkStep →
      let k := if m.clkStep - 1 ≤ m.clkCap then 0 else min m.clkLimit (m.clkStep - 1)
      exec (.clockStepChange false) s = .next { s with mgmt := { m with
        clkStep := m.clkStep - 1, clkLimit := k, limiting := decide (k ≠ 0) } }) ∧
    (m.hold = false → exec .coolantHold s = .next { s with mgmt := { m with
      hold := true, holds := (m.holds + 1) % 2 ^ 32, clkStep := 20 } }) ∧
    (m.hold = true → exec .coolantHoldRelease s = .next { s with mgmt := { m with hold := false } }) ∧
    (exec (.correctedError true) s = .next { s with mgmt := { m with dramErr := (m.dramErr + 1) % 2 ^ 32 } }) ∧
    (exec (.correctedError false) s = .next { s with mgmt := { m with sramErr := (m.sramErr + 1) % 2 ^ 32 } }) ∧
    (∀ a, a < 2 ^ 62 → wordHeld s a = true → exec (.uncorrectableError a) s = .next { s with poison := Bank.set false s.poison (a / 32) true }) ∧
    (∀ k r, r < 2 ^ 13 → (s.grp k).used = true → ∃ t, exec (.uncorrectableError (regPoisonLoc k r)) s = .next t ∧ r ∈ (t.grp k).poison ∧
      ∀ x, x ∈ (t.grp k).poison ↔ x = r ∨ x ∈ (s.grp k).poison) ∧
    (∀ c mask, let ls := (lanesOf mask).filter (fun l => stands (s.grp c) l && ((s.grp c).lane l).run != 0)
      ((∀ l ∈ ls, ((s.grp c).lane l).parity = false) →
        exec (.parityErrorReexecution c mask) s = .next (s.modGrp c (fun g => g.modLanes ls (fun _ x => { x with parity := true })))) ∧
      ((∃ l ∈ ls, ((s.grp c).lane l).parity = true) → exec (.parityErrorReexecution c mask) s = .next (s.freezeGrp c 3 0 2))) ∧
    (∀ c mask l0 n hit a, lowest mask = some l0 → let pc := ((s.grp c).lane l0).pc
      let m := maskOf ((lanesOf mask).filter (fun l => stands (s.grp c) l && ((s.grp c).lane l).pc == pc))
      breakLanes (s.grp c) m pc (groupLen s (s.grp c) pc) = some (n, hit, a) →
      exec (.hardwareBreakpoint c mask) s = .next (meetTrap (rollbackTakes s c (lanesOf m)) c hit m 0x0B (0xF0 + n) pc (fun _ => a) id)) ∧
    (∀ core quad ctx, let n := (Bank.get (false, 0) s.sample ((core * 4 + quad) * 65536 + ctx)).2
      core < 128 → quad < 4 → ctx < 65536 → (s.ctx ctx).trace.on = true →
      (n = 0 ∨ ((s.ctx ctx).trace.period ≤ 2 * n ∧ 2 * n ≤ 3 * (s.ctx ctx).trace.period)) → exec (.sampleTag core quad ctx) s =
        .next { s with sample := Bank.set (false, 0) s.sample ((core * 4 + quad) * 65536 + ctx) (true, n) }) ∧
    (∀ ctx, (s.ctx ctx).trace.on = true → (s.ctx ctx).trace.recs ≠ [] → exec (.traceBlockWrite ctx) s = .next (writeTrace s ctx)))

/-- R36, R384, R389, R390: a cold start whose images verify leaves the machine as reset does, but for the measurement and what lies outside
the module; one whose images do not leaves only the management connector. A warm start with KEEPNEAR keeps near memory. A migration
asks for the save of each resident cluster. A context with no resident group leaves for a module that has its features: its descriptor, load
table, grids and saved clusters leave together; it comes back where its grids' numbers are free. What a start that fails keeps and has done, the
row that counts failed warm starts, and that the environment is the module a context moves to are the model's choices (log entries 14, 61, 62
and 63). -/
def Obligations.StartsAndMigration : Prop :=
  (∀ (s : State) (imgs : List FwImage),
    (∃ t, exec (.coldStart imgs 0) s = .next t ∧ t.grps = [] ∧ t.ctxs = [] ∧ t.keys = [] ∧
      if (measureImages imgs 0).2 then
        t.mem = [] ∧ t.l1 = [] ∧ t.sched = {} ∧ t.bbox = {} ∧ t.tags = [] ∧ t.poison = [] ∧
        t.mgmt.measure = (measureImages imgs 0).1 ∧ t.mgmt.lastKind = 1 ∧ t.mgmt.warmCount = 0
      else t.mgmt.dead = true ∧ t.mgmt.failStep = 1 ∧ t.host.qps = []) ∧
    (s.mgmt.failedRow < 3 → ∃ t, exec (.warmStart imgs 0) s = .next t ∧ t.l1 = [] ∧ t.grps = [] ∧ t.ctxs = [] ∧ t.keys = [] ∧
      if (measureImages imgs 0).2 then
        t.mgmt.lastKind = 2 ∧ t.mgmt.warmCount = s.mgmt.warmCount + 1 ∧ t.mgmt.measure = (measureImages imgs 0).1 ∧
        t.mem = (if s.mgmt.start.getLsbD 2 then s.mem.filter (fun e => decide (e.1 < 2 * 2 ^ 40)) else [])
      else t.mgmt.dead = true ∧ t.mgmt.failStep = 1 ∧ t.host.qps = []) ∧
    (s.mgmt.failedRow ≥ 3 → exec (.warmStart imgs 0) s = exec (.coldStart imgs 0) s)) ∧
  (∀ (id T : Nat) (features : BitVec 512) (s : State),
    (ctxAlive s id = true → (∃ e ∈ s.grps, e.2.used = true ∧ e.2.ctxid = id) → (s.ctx id).contract &&& ~~~ features = 0 →
      exec (.liveMigration id ⟨features, T⟩) s = .next (migrateOut ((clustersOf s id).foldl (fun s ck => requestCluster s ck T false) s) id features)) ∧
    (ctxAlive s id = true → clustersOf s id = [] → (∀ e ∈ s.grps, e.2.used = true → e.2.ctxid ≠ id) → (s.ctx id).contract &&& ~~~ features = 0 →
      ∃ t x, exec (.liveMigration id ⟨features, T⟩) s = .next t ∧ t.away = s.away ++ [x] ∧ x.ctxid = id ∧ x.ctx = { s.ctx id with saved := true } ∧
        (t.ctx id).used = false ∧ x.saved = s.sched.saved.filter (fun v => (s.grid v.grid).used && (s.grid v.grid).ctxid == id) ∧ t.mem = s.mem) ∧
    (∀ x, (s.ctx id).used = false → s.away.find? (fun x => x.ctxid == id) = some x → x.ctx.contract &&& ~~~ deviceFeatures = 0 →
      (∀ e ∈ x.grids, (s.grid e.1).used = false) →
      exec (.liveMigration id ⟨features, T⟩) s = .next (migrateIn s x) ∧ (migrateIn s x).ctx id = { x.ctx with saved := false }))

/-! ## Commands (chapters 16 to 18) -/

/-- R364: a command that its queue pair does not permit answers STATUS 2, one whose length or reserved field is wrong STATUS 3; neither
changes anything but the queue pair's completions. A queue pair that takes no commands does nothing. -/
def Obligations.CommandRefusals : Prop :=
  ∀ (i : Instr) (s : State) (c : Command) (p : Permit) (n : Nat), commands i = some (c, p, n) →
    (qpLive s c.qp = false → exec i s = .next s) ∧
    (qpLive s c.qp = true → permitted s c p = false → exec i s = .next (s.setQp c.qp { s.qp c.qp with
      replies := (s.qp c.qp).replies ++ [⟨c.tag, 2, 0, [], .now⟩] })) ∧
    (qpLive s c.qp = true → permitted s c p = true → (c.len ≠ n ∨ c.body.length ≠ n ∨ c.rsvd ≠ 0) →
      exec i s = .next (s.setQp c.qp { s.qp c.qp with replies := (s.qp c.qp).replies ++ [⟨c.tag, 3, 0, [], .now⟩] }))

/-- R34, R279, R280, R272, R289, R362, R364: contexts, queue pairs, launch queues, invalidations and suspension. R333, R360, R363, R372,
R374, R381: objects, memory regions, link records, a re-sharding abort and a trace. The status of what Table 16-5 does not list, the REASON of
what R372 does not order, the context that a region's key serves, and what a trace starts with are the model's choices (log entries 49, 50, 53,
54 and 57); a context that is suspended or destroyed is as log entries 32 and 34 say. -/
def Obligations.ContextAndObjectCommands : Prop :=
  (∀ (c : Command) (s : State),
    (sound (.ctxcreate c) s → descriptorBad s c.body = false → (contextOf c.body).conf = false →
      accepts (.ctxcreate c) c s (s.setCtx (bodyNat c 0 2) (contextOf c.body))) ∧
    (sound (.ctxdestroy c) s → bodyNat c 2 2 = 0 → ctxAlive s (bodyNat c 0 2) = true →
      accepts (.ctxdestroy c) c s (destroyContext s (bodyNat c 0 2))) ∧
    (sound (.qpbind c) s → 2 ≤ bodyNat c 2 2 → bodyNat c 2 2 ≤ 255 → ctxAlive s (bodyNat c 0 2) = true →
      accepts (.qpbind c) c s (s.setQp (bodyNat c 2 2) { s.qp (bodyNat c 2 2) with enabled := true, ctxid := some (bodyNat c 0 2) })) ∧
    (sound (.qopen c) s → bodyNat c 6 2 = 0 → bodyNat c 0 1 < 64 → bodyNat c 1 1 < 8 → 1 ≤ bodyNat c 2 2 → bodyNat c 2 2 ≤ 1024 →
      2 ^ 16 ≤ bodyNat c 8 8 → bodyNat c 8 8 ≤ 2 ^ 40 → ctxAlive s (bodyNat c 4 2) = true → (s.queue (bodyNat c 0 1)).isOpen = false →
      accepts (.qopen c) c s (s.setQueue (bodyNat c 0 1)
        { isOpen := true, level := bodyNat c 1 1, depth := bodyNat c 2 2, ctxid := bodyNat c 4 2, slice := bodyNat c 8 8 })) ∧
    (sound (.qcancel c) s → bodyNat c 1 3 = 0 → bodyNat c 0 1 < 64 → (s.queue (bodyNat c 0 1)).isOpen = true →
      (2 ≤ c.qp → (s.queue (bodyNat c 0 1)).ctxid = owner s c) → accepts (.qcancel c) c s (cancelPackets s (bodyNat c 0 1) true)) ∧
    (sound (.hostLaunch c) s → bodyNat c 1 15 = 0 → enqueueCode s (bodyNat c 0 1) (owner s c) ⟨dwordsOf (c.body.drop 16)⟩ = 0 →
      acceptsWith (.hostLaunch c) c s (enqueue s (bodyNat c 0 1) ⟨dwordsOf (c.body.drop 16)⟩ []).1
        (BitVec.ofNat 64 (s.queue (bodyNat c 0 1)).next) [] .now) ∧
    (sound (.hostTlbinv c) s → csrReserved 0x060#12 (body64 c 0) = false →
      acceptsWith (.hostTlbinv c) c s s 0 [] (.inval (owner s c) (body64 c 0))) ∧
    (sound (.suspend c) s → bodyNat c 4 4 = 0 → (s.grid (bodyNat c 0 2)).used = true → (s.grid (bodyNat c 0 2)).ctxid = owner s c →
      bodyNat c 2 2 < (s.grid (bodyNat c 0 2)).nclus →
      acceptsWith (.suspend c) c s (requestCluster s (clusterKey (bodyNat c 0 2) (bodyNat c 2 2)) (bodyNat c 8 8) false) 0 []
        (.cluster (clusterKey (bodyNat c 0 2) (bodyNat c 2 2))))) ∧
  (∀ (c : Command) (s : State),
    (∀ n o, sound (.objload c) s → bodyNat c 0x14 4 = 0 →
      (List.range 256).find? (fun i => (s.obj (objKey (owner s c) i)).isNone) = some n →
      checkObject s (owner s c) (objKey (owner s c) n) (body64 c 0) = .ok o →
      acceptsWith (.objload c) c s { s with objs := Bank.set none s.objs (objKey (owner s c) n) (some o), l1i := [] } (BitVec.ofNat 64 n) [] .now) ∧
    (∀ o, sound (.objdrop c) s → bodyNat c 0 4 < 256 → s.obj (objKey (owner s c) (bodyNat c 0 4)) = some o → o.dropping = false →
      acceptsWith (.objdrop c) c s { s with objs := Bank.set none s.objs (objKey (owner s c) (bodyNat c 0 4)) (some { o with dropping := true }) }
        0 [] (.object (objKey (owner s c) (bodyNat c 0 4)))) ∧
    (sound (.mrreg c) s → bodyNat c 0x10 4 < 2 → bodyNat c 0x14 4 = 0 →
      acceptsWith (.mrreg c) c s { s with host := { s.host with
          nextKey := s.host.nextKey + 1
          regions := Bank.set none s.host.regions (s.host.nextKey % 2 ^ 32)
            (some ⟨owner s c, body64 c 0, body64 c 8, bodyNat c 0x10 4 == 1⟩) } }
        (BitVec.ofNat 64 (s.host.nextKey % 2 ^ 32)) [] .now) ∧
    (∀ r, sound (.mrdereg c) s → Bank.get none s.host.regions (bodyNat c 0 4) = some r → r.ctxid = owner s c →
      accepts (.mrdereg c) c s { s with host := { s.host with regions := Bank.set none s.host.regions (bodyNat c 0 4) none } }) ∧
    (sound (.linkstat c) s → bodyNat c 0 1 ≤ 31 → bodyNat c 1 1 < 4 → bodyNat c 2 2 = 0 →
      acceptsWith (.linkstat c) c s (if 2 ≤ bodyNat c 1 1 then clearCounters s (bodyNat c 0 1) (bodyNat c 1 1 % 2 == 0) else s) 0
        (linkRecord s (bodyNat c 0 1) (bodyNat c 1 1 % 2 == 0)) .now) ∧
    (sound (.rsabort c) s → s.rs.active = true → s.rs.ctxid = owner s c → rsProg s = body64 c 0 → accepts (.rsabort c) c s (rsStop s 8)) ∧
    (sound (.tracecfg c) s → 2 ^ 8 ≤ bodyNat c 4 4 → bodyNat c 4 4 ≤ 2 ^ 20 → bodyNat c 16 8 % 4096 = 0 → 8192 ≤ bodyNat c 16 8 →
      ctxAlive s (bodyNat c 0 2) = true → (2 ≤ c.qp → bodyNat c 0 2 = owner s c) →
      accepts (.tracecfg c) c s (s.setCtx (bodyNat c 0 2) { s.ctx (bodyNat c 0 2) with trace :=
        { on := true, mask := bodyNat c 2 2, period := bodyNat c 4 4, ring := body64 c 8, bytes := bodyNat c 16 8
          seq := (s.ctx (bodyNat c 0 2)).trace.seq } })))

/-- R322: RESUME, STEP, ABORT and STOP of a context whose CTXID the command names. -/
def Obligations.SequencerCommands : Prop :=
  ∀ (c : Command) (s : State), bodyNat c 3 1 = 0 → bodyNat c 6 10 = 0 → bodyNat c 0 1 ≤ 31 → bodyNat c 1 1 < 3 →
    let j := bodyNat c 0 1
    let k := slotKey j (bodyNat c 1 1)
    let x := s.slot k
    x.st ≠ .free → bodyNat c 4 2 = x.imp.ctxid → x.frozen = false →
    (sound (.seqctlResume c) s → bodyNat c 2 1 = 1 → x.st = .stopped → accepts (.seqctlResume c) c s (s.setSlot k { x with st := .ready })) ∧
    (sound (.seqctlStep c) s → bodyNat c 2 1 = 2 → x.st = .stopped →
      accepts (.seqctlStep c) c s (s.setSlot k { x with st := .ready, stepping := true })) ∧
    (sound (.seqctlAbort c) s → bodyNat c 2 1 = 3 → accepts (.seqctlAbort c) c s (abortSlot s k)) ∧
    (sound (.seqctlStop c) s → bodyNat c 2 1 = 4 → accepts (.seqctlStop c) c s
      (if x.st = .stopped then s else if x.st = .running then s.setSlot k { x with pend := some (x.pend.getD false) }
       else stopSlot s j k 0x4E 0 0))

/-- R378 to R380, Table 18-2: the actions of DEBUG on a resident group that the queue pair may debug. R5, R385, R386, R388: management
registers, attestation, keys and the black box. A RELEASE of a group that runs, the action byte of each row, the buffers of the management queue
pairs, a physical address in plaintext, and what a key slot holds are the model's choices (log entries 51, 56 and 59); what the algorithms of
the root of trust give is free (log entries 11 and 12). -/
def Obligations.DebugAndManagementCommands : Prop :=
  (∀ (i : Instr) (s : State) (c : Command) (k : Nat), bodyNat c 0xC 4 = 0 →
    findGroup s (bodyNat c 2 2) (bodyNat c 4 2) (bodyNat c 6 1) (bodyNat c 7 1) = some k → (2 ≤ c.qp → (s.grp k).ctxid = owner s c) →
    (∀ act t, debugs i s k = some (c, act, true, t) → sound i s → bodyNat c 0 2 = act → accepts i c s t) ∧
    (i = .debugHalt c → sound i s → bodyNat c 0 2 = 1 →
      ((s.grp k).halted = true → accepts i c s s) ∧
      ((s.grp k).halted = false → acceptsWith i c s (requestCluster (s.modGrp k (fun g => { g with haltPend := true }))
        (clusterKey (s.grp k).grid (s.grp k).cluster) 0 true) 0 [] (.halt k))) ∧
    (∀ t, i = .debugDump c → sound i s → bodyNat c 0 2 = 9 → (s.grp k).halted = true → (s.ctx (s.grp k).ctxid).conf = false →
      writeRange s whoHost (s.grp k).ctxid (body64 c 24) (dumpBytes (s.grp k)) = .ok t → accepts i c s t)) ∧
  (∀ (c : Command) (s : State),
    (∀ v, sound (.mgmtrd c) s → mgmtRead s (bodyNat c 0 4) = some v → acceptsWith (.mgmtrd c) c s { s with free := s.free + 1 } v [] .now) ∧
    (sound (.mgmtwr c) s → bodyNat c 4 4 = 0 → exec (.mgmtwr c) s = .next (queueReply c
      { st := { s with mgmt := (mgmtWrite s.mgmt (bodyNat c 0 4) (body64 c 8)).2 },
        status := (mgmtWrite s.mgmt (bodyNat c 0 4) (body64 c 8)).1 })) ∧
    (∀ t, sound (.attest c) s → bodyNat c 0x2A 6 = 0 → (bodyNat c 0x28 2 ≠ 0 → ctxAlive s (bodyNat c 0x28 2) = true) →
      writeBuffer s c (body64 c 0x20) (attestReport s (c.body.take 32) (bodyNat c 0x28 2)) = .ok t → accepts (.attest c) c s t) ∧
    (sound (.keyload c) s → bodyNat c 1 1 = 0 → bodyNat c 0x72 2 = 0 → bodyNat c 0 1 ≠ 0 → exec (.keyload c) s = .next (queueReply c
      (if Config.unwraps ((c.body.drop 2).take 112) then
        { st := rekey s (bodyNat c 0 1) (Config.keyOf ((c.body.drop 2).take 112)), status := 0 }
      else { st := s, status := 3 }))) ∧
    (∀ t, sound (.bbread c) s → 1 ≤ bodyNat c 12 4 → bodyNat c 12 4 ≤ 4096 →
      writeBuffer s c (body64 c 0) ((bboxEntries s.bbox (bodyNat c 8 4) (bodyNat c 12 4)).flatMap BBoxEntry.bytes) = .ok t →
      acceptsWith (.bbread c) c s t (BitVec.ofNat 64 (bboxEntries s.bbox (bodyNat c 8 4) (bodyNat c 12 4)).length) [] .now))

/-! ## The whole machine -/

/-- R389, R388, R3, Tables 1-3, 12-1 and 18-7: what reset leaves: every byte of memory zero and its list in canonical form, the clocks at
zero, no group, context, open queue or loaded key, the management queue pairs alone enabled, and the KIND 8 entry in the black box. That reset
is the state after a cold start that the tables do not picture byte by byte is the model's choice: the clock step and the last start's kind have the
values of log entry 1, and memory those of log entry 2. -/
def Obligations.ResetState : Prop :=
  Memory.wf State.reset.mem = true ∧ (∀ a, State.reset.rawByte a = 0) ∧ (∀ core a, State.reset.l1Byte core a = none) ∧
  (∀ core, State.reset.cycleOf core = 0) ∧ State.reset.sched.cycle = 0 ∧ (∀ k, (State.reset.grp k).used = false) ∧
  (∀ id, (State.reset.ctx id).used = false) ∧ (∀ q, (State.reset.queue q).isOpen = false) ∧
  (∀ k, Bank.get none State.reset.keys k = none) ∧ (∀ q, (State.reset.qp q).enabled = decide (q < 2)) ∧
  State.reset.mgmt.lastKind = 1 ∧ State.reset.mgmt.clkStep = 0 ∧ State.reset.bbox.seq = 1 ∧
  (Bank.get none State.reset.bbox.entries 0).map (·.kind) = some 8

/-- Every step that answers a next state keeps the memory in its canonical form: addresses strictly rising, and no cell that holds what an
unlisted address reads as. -/
def Obligations.MemoryStaysWellFormed : Prop :=
  ∀ (s t : State), Memory.wf s.mem = true → step s = .next t → Memory.wf t.mem = true

/-- Every step answers a next state: no instruction of the table is refused, and none stops the machine. -/
def Obligations.EveryStepAnswers : Prop :=
  (∀ (i : Instr) (s : State), ∃ t, exec i s = .next t) ∧ ∀ (s : State), ∃ t, step s = .next t

/-- R17, R52, R58, R121, R124, R139, R163, R295, R318: a step runs exactly the instruction that stands where it fetches. The lanes that take
their turn at a word with no event, trap or breakpoint before it run the instruction that the four bytes there decode to, having left the TAKE
at which they stood where that is none; a prefix group goes on with its next word; a sequencer runs the Fjarmar word at its context's PC; an
event whose turn it is happens. The clocks go on, and the turn leaves the agenda, the model's own list of turns that are to come (log entries 3
and 72). A word that decodes to nothing, no prefix, traps with cause 1, DETAIL 0. -/
def Obligations.StepRunsInstruction : Prop :=
  (∀ (s : State) (k : Nat) (m : Word) (rest : List Turn) (w : Word), s.cur.lanes = 0 → s.mgmt.dead = false → s.mgmt.asked = none →
    s.agenda = .lanes k m :: rest →
    let t : State := { passTime s with agenda := rest }
    let pc := ((t.grp k).lane ((lowest m).getD 0)).pc
    laneTurnOk (t.grp k) m = true → (eventPending t k && atEventBoundary (t.grp k)) = false → keptForEvent t k m = false →
    frontTrap t k m pc = none → breakLanes (t.grp k) m pc (groupLen t (t.grp k) pc) = none →
    let t : State := { t with cur := { key := k, lanes := m, pc := pc } }
    fetchWord t (t.grp k) pc = .word w →
    let t : State := { t with cur := { t.cur with word := w } }
    (∀ i, decodeMarred w = some (i, {}) → step s = exec i (leaveTakes t (some i))) ∧
    (decodeMarred w = none → hintKind w = 0 → (s.ctx (s.grp k).ctxid).trace.on = false → (∀ l, inMask m l = true → ((s.grp k).lane l).resv = none) →
      overRun (s.grp k) m 1 = 0 → step s = .next (trapAll (leaveTakes t none) 1 1 0 0))) ∧
  (∀ (s : State) (w : Word) (i : Instr), s.cur.lanes ≠ 0 → s.mgmt.dead = false → s.mgmt.asked = none →
    let t := passTime s
    fetchWord t (t.grp s.cur.key) (s.cur.pc + BitVec.ofNat 64 (4 * s.cur.pos)) = .word w → decodeMarred w = some (i, {}) →
    step s = exec i (leaveTakes { t with cur := { s.cur with word := w } } (some i))) ∧
  (∀ (s : State) (j n : Nat) (rest : List Turn) (i : Instr), s.cur.lanes = 0 → s.mgmt.dead = false → s.mgmt.asked = none → j < 32 →
    s.agenda = .seq j :: rest →
    let t : State := { passTime s with agenda := rest }
    chooseSlot t j = some n → n ≠ 3 →
    let t := selectSlot t j n
    let x := t.slot (slotKey j n)
    x.pc < x.imp.words.length → decodeChunk (x.imp.words.getD x.pc 0) = some i →
    step s = exec i { t with seqs := { t.seqs with cur := some j } }) ∧
  (∀ (s : State) (i : Instr) (rest : List Turn), s.cur.lanes = 0 → s.agenda = .event i :: rest → answers s.mgmt i = true →
    let t : State := { passTime s with agenda := rest }
    step s = exec i (match commandPair i with
      | some q => endAhead t q
      | none => t))

/-- Words written out from Tables 2-1 to 2-10 and 13-2 to 13-4 decode to the instructions they stand for. -/
def Obligations.WrittenWords : Prop :=
  decodeWord (0#1 ++ 1#6 ++ 0#4 ++ 1#6 ++ 2#6 ++ 3#6 ++ 4#3) = some (.add false 1 2 3 4) ∧
  decodeWord (1#1 ++ 8#6 ++ 0#4 ++ 1#6 ++ 2#6 ++ 3#6 ++ 0#3) = some (.fadd true 1 2 3 0) ∧
  decodeWord 0x4A1FFFFF#32 = some (.wait false 1 31 31 31 31) ∧
  decodeWord (1#1 ++ 47#6 ++ 4#4 ++ 0#6 ++ 0#12 ++ 0#3) = some (.tret 0) ∧
  decodeChunk (8#6 ++ 0#4 ++ 5#4 ++ 0#4 ++ 0#4 ++ 0#4 ++ 0#6 ++ 7#32) = some (.chunkMovi 5 7)

/-- Tables 2-1 to 2-10 and 13-2 to 13-5: for every well-formed instruction that has words, decoding its encoding gives it back, every operand
at every value. -/
def Obligations.DecodeEncode : Prop :=
  ∀ (i : Instr), i.wf = true → i.words ≠ 0 → (encode i).length = i.words ∧ decodeWords (encode i) = some i

/-- Every word that decodes is the encoding of the instruction it decodes to: no bit of a word is ignored, and no word has two
meanings. -/
def Obligations.EncodeDecode : Prop :=
  (∀ (w : BitVec 32) (i : Instr), decodeWord w = some i → encodeWord i = some w) ∧
  (∀ (x : BitVec 64) (i : Instr), decodeChunk x = some i → encodeChunk i = some x)
end

