-- ==== Sys2Proof/Laws/Bank.lean ====
section
/-! SUPPORT. The laws of the sparse stores: a read after a write, and that a write keeps the canonical form. -/
namespace Sys2Proof

variable {α : Type}

theorem Bank.get_del_same (d : α) (m : Bank α) (k : Nat) : (m.del k).get d k = d := by
  induction m with
  | nil => rfl
  | cons e r ih => obtain ⟨k', v⟩ := e; by_cases h : k' = k <;> simp [Bank.del, Bank.get, h, ih]

theorem Bank.get_del_other (d : α) (m : Bank α) {k j : Nat} (h : j ≠ k) : (m.del k).get d j = m.get d j := by
  induction m with
  | nil => rfl
  | cons e r ih =>
    obtain ⟨k', v⟩ := e
    by_cases h' : k' = k
    · have : k' ≠ j := fun hh => h (hh ▸ h')
      simp [Bank.del, Bank.get, h', ih]; intro hk; exact absurd hk.symm h
    · simp [Bank.del, Bank.get, h', ih]

theorem Bank.get_ins_same (d : α) (m : Bank α) (k : Nat) (v : α) (h : ∀ e ∈ m, e.1 ≠ k) :
    (m.ins k v).get d k = v := by
  induction m with
  | nil => simp [Bank.ins, Bank.get]
  | cons e r ih =>
    obtain ⟨k', v'⟩ := e
    have h1 : k' ≠ k := h (k', v') (by simp)
    have h2 := ih (fun e he => h e (by simp [he]))
    by_cases hl : k < k' <;> simp [Bank.ins, Bank.get, hl, h1, h2]

theorem Bank.get_ins_other (d : α) (m : Bank α) {k j : Nat} (v : α) (h : j ≠ k) :
    (m.ins k v).get d j = m.get d j := by
  induction m with
  | nil => simp [Bank.ins, Bank.get, Ne.symm h]
  | cons e r ih =>
    obtain ⟨k', v'⟩ := e
    by_cases hl : k < k' <;> simp [Bank.ins, Bank.get, hl, ih, Ne.symm h]

theorem Bank.del_keys (m : Bank α) (k : Nat) : ∀ e ∈ m.del k, e.1 ≠ k := by
  induction m with
  | nil => simp [Bank.del]
  | cons e r ih =>
    obtain ⟨k', v⟩ := e
    by_cases h : k' = k
    · simpa [Bank.del, h] using ih
    · simp only [Bank.del, h, if_false, List.mem_cons, forall_eq_or_imp]
      exact ⟨h, ih⟩

@[simp] theorem Bank.get_nil (d : α) (k : Nat) : Bank.get d [] k = d := rfl

/-- A read after a write to the same index gives the value written. -/
@[simp] theorem Bank.get_set_same [DecidableEq α] (d : α) (m : Bank α) (k : Nat) (v : α) :
    (m.set d k v).get d k = v := by
  unfold Bank.set
  split
  · next h => rw [Bank.get_del_same, h]
  · exact Bank.get_ins_same d _ k v (Bank.del_keys m k)

/-- A write leaves every other index alone. -/
theorem Bank.get_set_other [DecidableEq α] (d : α) (m : Bank α) {k j : Nat} (v : α) (h : j ≠ k) :
    (m.set d k v).get d j = m.get d j := by
  unfold Bank.set
  split
  · exact Bank.get_del_other d m h
  · rw [Bank.get_ins_other d _ v h, Bank.get_del_other d m h]

theorem Bank.get_set [DecidableEq α] (d : α) (m : Bank α) (k j : Nat) (v : α) :
    (m.set d k v).get d j = if j = k then v else m.get d j := by
  split
  · next h => subst h; simp
  · next h => exact Bank.get_set_other d m v h

theorem Bank.del_sub (m : Bank α) (k : Nat) : ∀ e ∈ m.del k, e ∈ m := by
  induction m with
  | nil => simp [Bank.del]
  | cons e r ih =>
    obtain ⟨k', v⟩ := e
    intro e he
    by_cases h : k' = k
    · simp only [Bank.del, h, if_true] at he; exact List.mem_cons_of_mem _ (ih e he)
    · simp only [Bank.del, h, if_false, List.mem_cons] at he
      rcases he with he | he
      · exact he ▸ List.mem_cons_self ..
      · exact List.mem_cons_of_mem _ (ih e he)

theorem Bank.mem_ins {m : Bank α} {k : Nat} {v : α} {e : Nat × α} (h : e ∈ m.ins k v) : e = (k, v) ∨ e ∈ m := by
  induction m with
  | nil => simpa [Bank.ins] using h
  | cons e' r ih =>
    obtain ⟨k', v'⟩ := e'
    by_cases hl : k < k'
    · simpa [Bank.ins, hl] using h
    · simp only [Bank.ins, hl, if_false, List.mem_cons] at h
      rcases h with h | h
      · exact .inr (h ▸ List.mem_cons_self ..)
      · rcases ih h with h | h
        · exact .inl h
        · exact .inr (List.mem_cons_of_mem _ h)

/-- The indexes of a store rise strictly. -/
def Bank.Rising (m : Bank α) : Prop := m.Pairwise (fun a b => a.1 < b.1)

theorem Bank.wf_iff [DecidableEq α] (d : α) (m : Bank α) :
    m.wf d = true ↔ m.Rising ∧ ∀ e ∈ m, e.2 ≠ d := by
  simp only [Bank.wf, Bool.and_eq_true, decide_eq_true_eq, List.pairwise_map, Bank.Rising, List.all_eq_true]

theorem Bank.del_rising {m : Bank α} (h : m.Rising) (k : Nat) : (m.del k).Rising := by
  induction m with
  | nil => exact List.Pairwise.nil
  | cons e r ih =>
    obtain ⟨k', v⟩ := e
    obtain ⟨h1, h2⟩ := List.pairwise_cons.mp h
    by_cases hk : k' = k
    · simpa [Bank.del, hk] using ih h2
    · simp only [Bank.del, hk, if_false]
      exact List.pairwise_cons.mpr ⟨fun e he => h1 e (Bank.del_sub r k e he), ih h2⟩

theorem Bank.ins_rising {m : Bank α} (h : m.Rising) (k : Nat) (v : α) (hk : ∀ e ∈ m, e.1 ≠ k) :
    (m.ins k v).Rising := by
  induction m with
  | nil => exact List.pairwise_singleton ..
  | cons e r ih =>
    obtain ⟨k', v'⟩ := e
    obtain ⟨h1, h2⟩ := List.pairwise_cons.mp h
    by_cases hl : k < k'
    · simp only [Bank.ins, hl, if_true]
      refine List.pairwise_cons.mpr ⟨fun e he => ?_, h⟩
      rcases List.mem_cons.mp he with he | he
      · subst he; exact hl
      · exact Nat.lt_trans hl (h1 e he)
    · simp only [Bank.ins, hl, if_false]
      have hne : k' ≠ k := hk (k', v') (by simp)
      refine List.pairwise_cons.mpr ⟨fun e he => ?_, ih h2 (fun e he => hk e (by simp [he]))⟩
      rcases Bank.mem_ins he with he | he
      · subst he; show k' < k; omega
      · exact h1 e he

/-- A write keeps the canonical form. -/
theorem Bank.set_wf [DecidableEq α] (d : α) {m : Bank α} (h : m.wf d = true) (k : Nat) (v : α) :
    (m.set d k v).wf d = true := by
  rw [Bank.wf_iff] at h ⊢
  obtain ⟨hr, hd⟩ := h
  unfold Bank.set
  split
  · exact ⟨Bank.del_rising hr k, fun e he => hd e (Bank.del_sub m k e he)⟩
  · next hv =>
    refine ⟨Bank.ins_rising (Bank.del_rising hr k) k v (Bank.del_keys m k), fun e he => ?_⟩
    rcases Bank.mem_ins he with he | he
    · subst he; exact hv
    · exact hd e (Bank.del_sub m k e he)

end Sys2Proof
end

