-- ==== Sys2Proof/Laws/Mask.lean ====
section
/-! SUPPORT. The laws of lane masks: which lanes a mask holds, and that a mask is the mask of its lanes. -/
namespace Sys2Proof.Machine

theorem mem_lanes32 (l : Nat) : l ∈ lanes32 ↔ l < 32 := by simp [lanes32]

theorem inMask_lt {m : Word} {l : Nat} (h : inMask m l = true) : l < 32 := by
  unfold inMask at h
  exact BitVec.lt_of_getLsbD h

theorem mem_lanesOf (m : Word) (l : Nat) : l ∈ lanesOf m ↔ inMask m l = true := by
  simp only [lanesOf, List.mem_filter, mem_lanes32]
  exact ⟨fun h => h.2, fun h => ⟨inMask_lt h, h⟩⟩

theorem lanesOf_nodup (m : Word) : (lanesOf m).Nodup := List.Nodup.filter _ List.nodup_range

theorem inMask_laneBit (l k : Nat) : inMask (laneBit l) k = decide (l < 32 ∧ k = l) := by
  unfold inMask laneBit
  rw [BitVec.getLsbD_ofNat, Nat.testBit_two_pow]
  by_cases h : l = k
  · subst h; simp
  · simp [h, Ne.symm h]

theorem inMask_or (a b : Word) (l : Nat) : inMask (a ||| b) l = (inMask a l || inMask b l) := by simp [inMask]
theorem inMask_and (a b : Word) (l : Nat) : inMask (a &&& b) l = (inMask a l && inMask b l) := by simp [inMask]
theorem inMask_not (a : Word) (l : Nat) (h : l < 32) : inMask (~~~ a) l = !inMask a l := by simp [inMask, h]
theorem inMask_diff (a b : Word) (l : Nat) : inMask (a &&& ~~~ b) l = (inMask a l && !inMask b l) := by
  by_cases h : l < 32
  · rw [inMask_and, inMask_not b l h]
  · have : inMask a l = false := by
      by_contra hc
      exact h (inMask_lt (by simpa using hc))
    rw [inMask_and, this]; rfl
theorem inMask_zero (l : Nat) : inMask 0 l = false := by simp [inMask]

theorem foldl_mask (ls : List Nat) (m : Word) (k : Nat) :
    inMask (ls.foldl (fun m l => m ||| laneBit l) m) k = (inMask m k || decide (k < 32 ∧ k ∈ ls)) := by
  induction ls generalizing m with
  | nil => simp
  | cons a r ih =>
    rw [List.foldl_cons, ih, inMask_or, inMask_laneBit]
    by_cases h : k = a
    · subst h; by_cases h2 : k < 32 <;> simp [h2]
    · simp [h]

/-- The lanes of the mask of a list are its members below 32. -/
theorem inMask_maskOf (ls : List Nat) (k : Nat) : inMask (maskOf ls) k = decide (k < 32 ∧ k ∈ ls) := by
  rw [maskOf, foldl_mask, inMask_zero, Bool.false_or]

theorem mask_ext {a b : Word} (h : ∀ l, inMask a l = inMask b l) : a = b :=
  BitVec.eq_of_getLsbD_eq (fun i _ => h i)

/-- A mask is the mask of its lanes. -/
theorem maskOf_lanesOf (m : Word) : maskOf (lanesOf m) = m := by
  apply mask_ext
  intro l
  rw [inMask_maskOf]
  by_cases h : inMask m l = true
  · simp [mem_lanesOf, h, inMask_lt h]
  · simp [mem_lanesOf, h]

theorem maskOf_filter (m : Word) (f : Nat → Bool) (l : Nat) :
    inMask (maskOf ((lanesOf m).filter f)) l = (inMask m l && f l) := by
  rw [inMask_maskOf]
  by_cases h : inMask m l = true
  · by_cases h2 : f l = true <;> simp [mem_lanesOf, h, inMask_lt h, h2]
  · simp [mem_lanesOf, h]

theorem lanesOf_zero : lanesOf 0 = [] := by decide

theorem lanesOf_nil {m : Word} (h : m = 0) : lanesOf m = [] := h ▸ lanesOf_zero

theorem mask_zero_iff (m : Word) : m = 0 ↔ ∀ l, inMask m l = false :=
  ⟨fun h l => by rw [h, inMask_zero], fun h => mask_ext (fun l => by rw [h, inMask_zero])⟩

end Sys2Proof.Machine
end

