-- ==== Sys2Proof/Laws/Group.lean ====
section
/-! SUPPORT. The laws of a group's registers and lanes: what each write changes, one lemma a field. -/
namespace Sys2Proof.Machine

/-! ## State and groups -/

@[simp] theorem State.grp_setGrp (s : State) (k : Nat) (g : Grp) : (s.setGrp k g).grp k = g := by
  simp [State.grp, State.setGrp]
theorem State.grp_setGrp_other (s : State) {k j : Nat} (g : Grp) (h : j ≠ k) : (s.setGrp k g).grp j = s.grp j := by
  simp [State.grp, State.setGrp, Bank.get_set_other _ _ _ h]
@[simp] theorem State.grp_modGrp (s : State) (k : Nat) (f : Grp → Grp) : (s.modGrp k f).grp k = f (s.grp k) := by
  simp [State.modGrp]
theorem State.grp_modGrp_other (s : State) {k j : Nat} (f : Grp → Grp) (h : j ≠ k) : (s.modGrp k f).grp j = s.grp j := by
  simp [State.modGrp, State.grp_setGrp_other s _ h]

/-- Writing a group changes nothing beside the groups. -/
theorem State.setGrp_rest (s : State) (k : Nat) (g : Grp) : s.setGrp k g = { s with grps := (s.setGrp k g).grps } := rfl
theorem State.modGrp_rest (s : State) (k : Nat) (f : Grp → Grp) : s.modGrp k f = { s with grps := (s.modGrp k f).grps } := rfl

theorem State.modGrp_put {s t : State} {gs : Bank Grp} (h : t = s.put gs) (k : Nat) (f : Grp → Grp) :
    t.modGrp k f = s.put (t.modGrp k f).grps := by
  subst h
  rfl

/-! ## Other registers and lanes -/

@[simp] theorem Grp.v_put (g : Grp) (v : Bank Word) (x : Bank Lane) : (g.put v x).v = v := rfl
@[simp] theorem Grp.lanes_put (g : Grp) (v : Bank Word) (x : Bank Lane) : (g.put v x).lanes = x := rfl
@[simp] theorem Grp.role_put (g : Grp) (v : Bank Word) (x : Bank Lane) : (g.put v x).role = g.role := rfl
@[simp] theorem Grp.vkey_put (g : Grp) (v : Bank Word) (x : Bank Lane) (n l : Nat) : (g.put v x).vkey n l = g.vkey n l := rfl
@[simp] theorem Grp.put_put (g : Grp) (v v' : Bank Word) (x x' : Bank Lane) : (g.put v x).put v' x' = g.put v' x' := rfl
theorem Grp.vkey_of {a b : Grp} {v : Bank Word} {x : Bank Lane} (h : a = b.put v x) (n l : Nat) : a.vkey n l = b.vkey n l := by
  rw [h]; rfl
theorem Grp.put_trans {a b c : Grp} {v v' : Bank Word} {x x' : Bank Lane} (h : a = b.put v x) (h' : b = c.put v' x') : a = c.put v x := by
  rw [h, h']; rfl
theorem Grp.put_norm {a b : Grp} {v : Bank Word} {x : Bank Lane} (h : a = b.put v x) : a = b.put a.v a.lanes := by
  subst h; rfl
theorem Grp.put_self (g : Grp) : g.put g.v g.lanes = g := rfl
theorem Grp.lane_put (g : Grp) (v : Bank Word) (x : Bank Lane) (l : Nat) : (g.put v x).lane l = Bank.get {} x l := rfl
theorem Grp.rv_put (g : Grp) (v : Bank Word) (x : Bank Lane) (n l : Nat) : (g.put v x).rv n l = Bank.get 0 v (g.vkey n l) := rfl

/-! ## Registers -/

theorem Grp.vkey_inj (g : Grp) {n l n' l' : Nat} (h : g.vkey n l = g.vkey n' l') (hl : l < 32) (hl' : l' < 32) :
    n = n' ∧ l = l' := by
  unfold Grp.vkey at h
  omega

@[simp] theorem Grp.vkey_wv (g : Grp) (n l : Nat) (x : Word) (n' l' : Nat) : (g.wv n l x).vkey n' l' = g.vkey n' l' := rfl
@[simp] theorem Grp.lane_wv (g : Grp) (n l : Nat) (x : Word) (j : Nat) : (g.wv n l x).lane j = g.lane j := rfl

theorem Grp.get_wv (g : Grp) (n l : Nat) (x : Word) (j : Nat) :
    Bank.get 0 (g.wv n l x).v j = if j = g.vkey n l then x else Bank.get 0 g.v j := by
  simp [Grp.wv, Bank.get_set]

theorem Grp.wv_rest (g : Grp) (n l : Nat) (x : Word) : g.wv n l x = g.put (g.wv n l x).v g.lanes := rfl

@[simp] theorem Grp.lane_setLane (g : Grp) (l : Nat) (x : Lane) : (g.setLane l x).lane l = x := by
  simp [Grp.lane, Grp.setLane]
theorem Grp.lane_setLane_other (g : Grp) {l j : Nat} (x : Lane) (h : j ≠ l) : (g.setLane l x).lane j = g.lane j := by
  simp [Grp.lane, Grp.setLane, Bank.get_set_other _ _ _ h]
theorem Grp.lane_modLane (g : Grp) (l j : Nat) (f : Lane → Lane) :
    (g.modLane l f).lane j = if j = l then f (g.lane l) else g.lane j := by
  unfold Grp.modLane
  split
  · next h => subst h; simp
  · next h => exact Grp.lane_setLane_other g _ h
@[simp] theorem Grp.v_modLane (g : Grp) (l : Nat) (f : Lane → Lane) : (g.modLane l f).v = g.v := rfl
theorem Grp.modLane_rest (g : Grp) (l : Nat) (f : Lane → Lane) : g.modLane l f = g.put g.v (g.modLane l f).lanes := rfl

/-! ## One lane after another -/

/-- Changing each lane of a list without repeats. -/
theorem Grp.lane_foldl_modLane (ls : List Nat) (h : ls.Nodup) (f : Nat → Lane → Lane) (g : Grp) (j : Nat) :
    (ls.foldl (fun g l => g.modLane l (f l)) g).lane j = if j ∈ ls then f j (g.lane j) else g.lane j := by
  induction ls generalizing g with
  | nil => simp
  | cons a r ih =>
    obtain ⟨ha, hr⟩ := List.nodup_cons.mp h
    rw [List.foldl_cons, ih hr]
    by_cases hj : j = a
    · subst hj
      simp [ha, Grp.lane_modLane]
    · simp [hj, Grp.lane_modLane]

theorem Grp.foldl_modLane_rest (ls : List Nat) (f : Nat → Lane → Lane) (g : Grp) :
    ls.foldl (fun g l => g.modLane l (f l)) g = g.put g.v (ls.foldl (fun g l => g.modLane l (f l)) g).lanes := by
  induction ls generalizing g with
  | nil => rfl
  | cons a r ih => rw [List.foldl_cons, ih, Grp.modLane_rest g]; rfl

theorem Grp.lane_modLanes (ls : List Nat) (h : ls.Nodup) (f : Nat → Lane → Lane) (g : Grp) (j : Nat) :
    (g.modLanes ls f).lane j = if j ∈ ls then f j (g.lane j) else g.lane j := Grp.lane_foldl_modLane ls h f g j
theorem Grp.modLanes_rest (ls : List Nat) (f : Nat → Lane → Lane) (g : Grp) :
    g.modLanes ls f = g.put g.v (g.modLanes ls f).lanes := Grp.foldl_modLane_rest ls f g

end Sys2Proof.Machine
end

