-- ==== Sys2Proof/Laws/Issue.lean ====
section
/-! SUPPORT. What an issue does, said once: a word that is ready and whose lanes all complete leaves the state that its effect
makes, every standing lane moved on. -/
namespace Sys2Proof.Machine

/-! ## Popping operand queues changes the queues alone -/

theorem popQueues_rest (on : Bool) (os : List Opnd) (g : Grp) (x : List (Option (Bank Word)) × Grp)
    (h : popQueues on g os = some x) : x.2 = { g with queues := x.2.queues } := by
  induction os generalizing g x with
  | nil => simp only [popQueues, Option.some.injEq] at h; subst h; rfl
  | cons o r ih =>
    unfold popQueues at h
    split at h
    · split at h
      · exact absurd h (by simp)
      · simp only [Option.map_eq_some_iff] at h
        obtain ⟨y, hy, rfl⟩ := h
        have := ih _ y hy
        simpa using this
    · simp only [Option.map_eq_some_iff] at h
      obtain ⟨y, hy, rfl⟩ := h
      exact ih g y hy

/-- Popping queues and entering a word change the queues, what the fences hold, and poison alone. -/
theorem enterWord_rest (g g1 : Grp) (old : Bank (List (Bank Word))) (m act : Word) (i : Instr) (h : g1 = { g with queues := g1.queues }) :
    g1.enterWord old m act i =
      { g with queues := g1.queues, fences := (g1.enterWord old m act i).fences, poison := (g1.enterWord old m act i).poison } := by
  rw [h]
  rfl

theorem viewOf_g (i : Instr) (s : State) :
    (viewOf i s).g = { s.grp s.key with queues := (viewOf i s).g.queues, fences := (viewOf i s).g.fences, poison := (viewOf i s).g.poison } := by
  refine enterWord_rest (s.grp s.key) _ _ s.cur.lanes _ i ?_
  cases h : popQueues (s.grp s.key).qwinOn (s.grp s.key) (useOf i).src with
  | none => rfl
  | some x => exact popQueues_rest _ _ _ x h

@[simp] theorem viewOf_lane (i : Instr) (s : State) (l : Nat) : (viewOf i s).g.lane l = (s.grp s.key).lane l := by
  rw [viewOf_g]; rfl
@[simp] theorem viewOf_v (i : Instr) (s : State) : (viewOf i s).g.v = (s.grp s.key).v := by rw [viewOf_g]
@[simp] theorem viewOf_role (i : Instr) (s : State) : (viewOf i s).g.role = (s.grp s.key).role := by rw [viewOf_g]
@[simp] theorem viewOf_vkey (i : Instr) (s : State) (n l : Nat) : (viewOf i s).g.vkey n l = (s.grp s.key).vkey n l := by
  rw [viewOf_g]; rfl
@[simp] theorem viewOf_rv (i : Instr) (s : State) (n l : Nat) : (viewOf i s).g.rv n l = (s.grp s.key).rv n l := by
  rw [viewOf_g]; rfl

/-! ## Act and the lanes that stand -/

theorem inMask_act (i : Instr) (s : State) (l : Nat) :
    inMask (viewOf i s).act l = (inMask s.cur.lanes l && (s.grp s.key).pr (guardOf i) l) := by
  simp [viewOf, actOf, maskOf_filter]

theorem act_sub (i : Instr) (s : State) {l : Nat} (h : inMask (viewOf i s).act l = true) : inMask s.cur.lanes l = true := by
  rw [inMask_act] at h
  exact (Bool.and_eq_true _ _ ▸ h).1

/-- The lanes that complete the word: those of Act, then the others that stand at it. -/
def movers (i : Instr) (s : State) : List Nat := acting i s ++ lanesOf (s.cur.lanes &&& ~~~ (viewOf i s).act)

theorem mem_movers (i : Instr) (s : State) (l : Nat) : l ∈ movers i s ↔ inMask s.cur.lanes l = true := by
  simp only [movers, acting, List.mem_append, mem_lanesOf, inMask_diff]
  constructor
  · rintro (h | h)
    · exact act_sub i s h
    · exact (Bool.and_eq_true _ _ ▸ h).1
  · intro h
    by_cases ha : inMask (viewOf i s).act l = true
    · exact .inl ha
    · exact .inr (by simp [h, ha])

theorem movers_nodup (i : Instr) (s : State) : (movers i s).Nodup := by
  refine List.Nodup.append (lanesOf_nodup _) (lanesOf_nodup _) ?_
  intro l h1 h2
  simp only [acting, mem_lanesOf] at h1
  simp [mem_lanesOf, inMask_diff, h1] at h2

theorem moveLanes_ok (w : View) (ends : Bool) (ls : List Nat) (g : Grp) :
    moveLanes g w ends (ls.map (fun l => (l, LaneOut.ok))) =
      ls.foldl (fun g l => g.modLane l (fun x => x.advance ends w.words w.lanes w.next)) g := by
  unfold moveLanes
  rw [List.foldl_map]
  rfl

theorem leave_eq (i : Instr) (s t : State) :
    leave i s t = t.modGrp s.key (fun g => moveLanes g (viewOf i s) (bFlag i) ((movers i s).map (fun l => (l, LaneOut.ok)))) := by
  simp only [moveLanes_ok]
  rfl

/-- One outcome after another, each lane once. -/
theorem moveLanes_lanes (i : Instr) (s : State) (ls : List Nat) (hn : ls.Nodup) (out : Nat → LaneOut) (g : Grp) :
    moveLanes g (viewOf i s) (bFlag i) (ls.map (fun l => (l, out l))) =
        g.put g.v (moveLanes g (viewOf i s) (bFlag i) (ls.map (fun l => (l, out l)))).lanes ∧
      ∀ j, (moveLanes g (viewOf i s) (bFlag i) (ls.map (fun l => (l, out l)))).lane j =
        if j ∈ ls then moved i s (out j) (g.lane j) else g.lane j := by
  have hone : ∀ (l : Nat) (g : Grp), ∃ f : Lane → Lane,
      (moveLanes g (viewOf i s) (bFlag i) [(l, out l)] = g.modLane l f ∨ moveLanes g (viewOf i s) (bFlag i) [(l, out l)] = g) ∧
      (moveLanes g (viewOf i s) (bFlag i) [(l, out l)]).lane l = moved i s (out l) (g.lane l) := by
    intro l g
    show ∃ f, (moveLane _ _ g (l, out l) = _ ∨ moveLane _ _ g (l, out l) = g) ∧ (moveLane _ _ g (l, out l)).lane l = _
    generalize out l = o
    cases o with
    | ok => exact ⟨after i s, .inl rfl, (Grp.lane_modLane ..).trans (if_pos rfl)⟩
    | goto t => exact ⟨fun x => x.advance true (viewOf i s).words (viewOf i s).lanes t, .inl rfl, (Grp.lane_modLane ..).trans (if_pos rfl)⟩
    | wait => exact ⟨fun x => { x with waiting := true, stopped := some x.pc }, .inl rfl, (Grp.lane_modLane ..).trans (if_pos rfl)⟩
    | hold => exact ⟨id, .inr rfl, rfl⟩
    | trap c d a r => exact ⟨id, .inr rfl, rfl⟩
    | late c d a => exact ⟨id, .inr rfl, rfl⟩
    | violation c p => exact ⟨id, .inr rfl, rfl⟩
  induction ls generalizing g with
  | nil => exact ⟨rfl, by simp [moveLanes]⟩
  | cons a r ih =>
    obtain ⟨ha, hr⟩ := List.nodup_cons.mp hn
    have hsplit : moveLanes g (viewOf i s) (bFlag i) ((a :: r).map (fun l => (l, out l))) =
        moveLanes (moveLanes g (viewOf i s) (bFlag i) [(a, out a)]) (viewOf i s) (bFlag i) (r.map (fun l => (l, out l))) := rfl
    obtain ⟨f, hf, hfl⟩ := hone a g
    have hput : moveLanes g (viewOf i s) (bFlag i) [(a, out a)] = g.put g.v (moveLanes g (viewOf i s) (bFlag i) [(a, out a)]).lanes := by
      rcases hf with hf | hf
      · rw [hf]; rfl
      · rw [hf]; rfl
    have hother : ∀ j, j ≠ a → (moveLanes g (viewOf i s) (bFlag i) [(a, out a)]).lane j = g.lane j := by
      intro j hj
      rcases hf with hf | hf
      · rw [hf, Grp.lane_modLane, if_neg hj]
      · rw [hf]
    obtain ⟨i1, i2⟩ := ih hr (moveLanes g (viewOf i s) (bFlag i) [(a, out a)])
    rw [hsplit]
    constructor
    · exact (Grp.put_trans i1 hput).trans (by rw [congrArg Grp.v hput]; rfl)
    · intro j
      rw [i2]
      by_cases hj : j = a
      · subst hj; simp [ha, hfl]
      · simp [hj, hother j hj]

/-- The outcomes of the lanes that stand at the word, those outside Act completing it. -/
theorem settle_outs (i : Instr) (s : State) (out : Nat → LaneOut) :
    (acting i s).map (fun l => (l, out l)) ++ idleOuts s.cur.lanes (viewOf i s).act =
      (movers i s).map (fun l => (l, if inMask (viewOf i s).act l then out l else LaneOut.ok)) := by
  unfold movers idleOuts
  rw [List.map_append]
  congr 1
  · apply List.map_congr_left
    intro l hl
    rw [if_pos ((mem_lanesOf _ _).mp hl)]
  · apply List.map_congr_left
    intro l hl
    rw [mem_lanesOf, inMask_diff] at hl
    rw [Bool.and_eq_true, Bool.not_eq_true'] at hl
    rw [if_neg (by rw [hl.2]; exact Bool.false_ne_true)]

/-- What `settle` leaves of a state T: nothing differs but the lanes of the issuing group that stood at the word. -/
theorem settle_facts (i : Instr) (s T : State) (out : Nat → LaneOut) :
    (∀ k, k ≠ s.key → (settle i s ((acting i s).map (fun l => (l, out l))) T).grp k = T.grp k) ∧
    ((settle i s ((acting i s).map (fun l => (l, out l))) T).grp s.key =
      (T.grp s.key).put (T.grp s.key).v ((settle i s ((acting i s).map (fun l => (l, out l))) T).grp s.key).lanes) ∧
    (∀ l, ((settle i s ((acting i s).map (fun l => (l, out l))) T).grp s.key).lane l =
      if inMask (viewOf i s).act l then moved i s (out l) ((T.grp s.key).lane l)
      else if inMask s.cur.lanes l then after i s ((T.grp s.key).lane l) else (T.grp s.key).lane l) := by
  unfold settle
  rw [settle_outs]
  obtain ⟨h1, h2⟩ := moveLanes_lanes i s (movers i s) (movers_nodup i s)
    (fun l => if inMask (viewOf i s).act l then out l else LaneOut.ok) (T.grp s.key)
  refine ⟨fun k hk => State.grp_modGrp_other _ _ hk, ?_, ?_⟩
  · rw [State.grp_modGrp]
    exact h1
  · intro l
    rw [State.grp_modGrp, h2]
    simp only [mem_movers]
    by_cases ha : inMask (viewOf i s).act l = true
    · rw [if_pos (act_sub i s ha), if_pos ha, if_pos ha]
    · rw [if_neg ha, if_neg ha]
      rfl

/-! ## The issue -/

theorem stepTraps_id (g : Grp) (next : Dword) (outs : List (Nat × LaneOut)) (h : ∀ o ∈ outs, (g.lane o.1).stepArm = false) :
    stepTraps g next outs = outs := by
  unfold stepTraps
  conv_rhs => rw [← List.map_id outs]
  apply List.map_congr_left
  intro o ho
  simp [h o ho]

/-- The outcomes that neither trap nor violate. -/
def LaneOut.calm : LaneOut → Bool
  | .trap _ _ _ _ | .late _ _ _ | .violation _ _ => false
  | _ => true

theorem commit_calm (s0 s : State) (w : View) (ends : Bool) (outs : List (Nat × LaneOut)) (eff : Word → State → State)
    (hstep : ∀ o ∈ outs, (w.g.lane o.1).stepArm = false) (hq : ∀ o ∈ outs, o.2.calm = true) :
    commit s0 s w ends ⟨outs, eff⟩ =
      (eff (maskOf ((outs.filter (fun o => o.2.completes)).map (·.1)) &&& w.act) s).modGrp w.key
        (fun g => moveLanes g w ends outs) := by
  have h1 : outs.findSome? (fun o => o.2.violates) = none := by
    rw [List.findSome?_eq_none_iff]
    intro o ho
    have := hq o ho
    revert this
    cases o.2 <;> simp [LaneOut.calm, LaneOut.violates]
  have h2 : stepTraps w.g w.next outs = outs := stepTraps_id _ _ _ hstep
  have h3 : bestTrap outs = none := by
    have : outs.filterMap (fun o => o.2.trapCode) = [] := by
      rw [List.filterMap_eq_nil_iff]
      intro o ho
      have := hq o ho
      revert this
      cases o.2 <;> simp [LaneOut.calm, LaneOut.trapCode]
    rw [bestTrap, this, List.min?_nil]
  have h4 : outs.filter (fun o => o.2.completes || o.2.resume.isSome) = outs.filter (fun o => o.2.completes) := by
    apply List.filter_congr
    intro o ho
    have := hq o ho
    revert this
    cases o.2 <;> simp [LaneOut.calm, LaneOut.resume]
  simp only [commit, h1, h2, h3, finish, View.done, h4]

theorem ready_parts {i : Instr} {s : State} (h : ready i s = true) : runs i s = true ∧ unobserved s = true :=
  Bool.and_eq_true _ _ ▸ h

theorem ready_step {i : Instr} {s : State} (h : ready i s = true) {l : Nat} (hl : inMask s.cur.lanes l = true) :
    ((s.grp s.key).lane l).stepArm = false := by
  have := (ready_parts h).2
  simp only [unobserved, Bool.and_eq_true, List.all_eq_true, mem_lanesOf] at this
  simpa using this.1 l hl

/-- A word that makes no lane wait is not held back. -/
theorem holdsBack_calm (w : View) (outs : List (Nat × LaneOut)) (h : ∀ o ∈ outs, o.2 ≠ .wait) : w.holdsBack outs = false := by
  have : outs.any (fun o => o.2 == .wait) = false := by
    rw [List.any_eq_false]
    intro o ho
    simpa using h o ho
  simp [View.holdsBack, this]
theorem holdsBack_ok (w : View) (ls : List Nat) : w.holdsBack (ls.map (fun l => (l, LaneOut.ok))) = false :=
  holdsBack_calm _ _ (fun o ho => by obtain ⟨l, -, rfl⟩ := List.mem_map.mp ho; simp)

/-- No lane that stands at a word that is not held back waits for a fence alone. -/
theorem splitFence_calm (s : State) (i : Instr) (act : Word) (h : mustStall (s.grp s.cur.key) s.cur.lanes act i = false) : splitFence s i = s := by
  simp only [mustStall, Bool.or_eq_false_iff, Bool.and_eq_false_iff] at h
  unfold splitFence
  refine if_pos (.inl ?_)
  split
  · rfl
  · rename_i hc
    simp only [Bool.or_eq_true, Bool.not_eq_true', not_or, Bool.not_eq_true, Bool.not_eq_false] at hc
    have hf : (s.grp s.cur.key).fenced s.cur.lanes = false := h.1.resolve_right (by simp [hc.2])
    apply mask_ext
    intro l
    rw [Grp.fencedLanes, maskOf_filter, inMask_zero]
    by_cases hl : inMask s.cur.lanes l = true
    · have : (s.grp s.cur.key).fenced (laneBit l) = false := by
        simp only [Grp.fenced, List.any_eq_false, Bool.not_eq_true] at hf ⊢
        intro f hfm x hx
        have hx' := hf f hfm x hx
        rw [inMask_laneBit]
        by_contra hc
        simp only [Bool.not_eq_false, decide_eq_true_eq] at hc
        rw [hc.2, hl] at hx'
        exact absurd hx' (by decide)
      rw [this, Bool.and_false]
    · simp [hl]

/-- Up to the meaning's outcomes, the issue of a ready word. -/
theorem issue_commits (i : Instr) (s : State) (m : View → State → Meaning) (h : ready i s = true)
    (hb : (viewOf i s).holdsBack (m (viewOf i s) (enter i s)).outs = false) :
    issue i s m = .next (commit (clearCur s) (enter i s) (viewOf i s) (bFlag i)
      ⟨(m (viewOf i s) (enter i s)).outs ++ idleOuts s.cur.lanes (viewOf i s).act,
        (m (viewOf i s) (enter i s)).eff⟩) := by
  obtain ⟨hr, hu⟩ := ready_parts h
  simp only [runs, Bool.and_eq_true, bne_iff_ne, ne_eq, Bool.or_eq_true, beq_iff_eq, Bool.not_eq_true'] at hr
  obtain ⟨⟨⟨⟨⟨⟨h0, h1⟩, h2⟩, h3⟩, h4⟩, h6⟩, h5⟩ := hr
  have htrace : (s.ctx (s.grp s.cur.key).ctxid).trace.on = false := by
    simp only [unobserved, Bool.and_eq_true, Bool.not_eq_true'] at hu
    exact hu.2
  obtain ⟨q, hq⟩ := Option.isSome_iff_exists.mp h4
  have hover : ¬ (s.cur.pos = 0 ∧ overRun (s.grp s.cur.key) s.cur.lanes 1 ≠ 0) := by
    rintro ⟨ha, hb⟩
    rcases h1 with h1 | h1
    · exact h1 ha
    · exact hb h1
  have hv : viewOf i s = ⟨s.key, q.2.enterWord (s.grp s.key).queues s.cur.lanes (actOf (s.grp s.key) s.cur.lanes i) i, s.cur.lanes,
      actOf (s.grp s.key) s.cur.lanes i, s.cur.pc, s.cur.next, s.cur.pre, q.1⟩ := by
    simp [viewOf, hq]
  have h3' : mustStall (s.grp s.cur.key) s.cur.lanes (actOf (s.grp s.cur.key) s.cur.lanes i) i = false := by
    simpa [viewOf, State.key] using h3
  unfold issue issueState
  have hs : ∀ s', sampled s i s' = s' := by
    intro s'
    unfold sampled
    simp [htrace]
  rw [hs]
  unfold issueCore
  rw [splitFence_calm s i _ h3']
  simp only [h0, if_false, hover, State.key] at h2 h3 hq h5 h6 ⊢
  simp only [h2, h3', hq, h5, h6]
  unfold enter at hb ⊢
  rw [hv] at hb ⊢
  exact congrArg Host.Outcome.next (if_neg (Bool.eq_false_iff.mp hb))

/-- The issue of a ready word none of whose lanes traps: its effect on the lanes that complete, then their moves. -/
theorem issue_settles (i : Instr) (s : State) (m : View → State → Meaning) (h : ready i s = true)
    (outs : List (Nat × LaneOut)) (eff : Word → State → State)
    (hm : m (viewOf i s) (enter i s) = ⟨outs, eff⟩)
    (hsub : ∀ o ∈ outs, inMask (viewOf i s).act o.1 = true) (hq : ∀ o ∈ outs, o.2.calm = true)
    (hb : (viewOf i s).holdsBack outs = false) :
    issue i s m = .next (settle i s outs (eff (maskOf ((outs.filter (fun o => o.2.completes)).map (·.1))) (enter i s))) := by
  rw [issue_commits i s m h (by rw [hm]; exact hb), hm, commit_calm]
  · have hmask : maskOf (((outs ++ idleOuts s.cur.lanes (viewOf i s).act).filter (fun o => o.2.completes)).map (·.1)) &&& (viewOf i s).act =
        maskOf ((outs.filter (fun o => o.2.completes)).map (·.1)) := by
      apply mask_ext
      intro l
      rw [inMask_and, inMask_maskOf, inMask_maskOf, List.filter_append, List.map_append]
      by_cases ha : inMask (viewOf i s).act l = true
      · have : l ∉ ((idleOuts s.cur.lanes (viewOf i s).act).filter (fun o => o.2.completes)).map (·.1) := by
          intro hc
          obtain ⟨o, ho, rfl⟩ := List.mem_map.mp hc
          obtain ⟨k, hk, rfl⟩ := List.mem_map.mp (List.mem_of_mem_filter ho)
          rw [mem_lanesOf, inMask_diff, ha] at hk
          simp at hk
        rw [ha, Bool.and_true, Bool.decide_and, Bool.decide_and]
        congr 1
        rw [decide_eq_decide, List.mem_append]
        exact ⟨fun hc => hc.resolve_right this, .inl⟩
      · have : l ∉ (outs.filter (fun o => o.2.completes)).map (·.1) := by
          intro hc
          obtain ⟨o, ho, rfl⟩ := List.mem_map.mp hc
          exact ha (hsub o (List.mem_of_mem_filter ho))
        simp [ha, this]
    rw [hmask]
    rfl
  · intro o ho
    rw [viewOf_lane]
    rcases List.mem_append.mp ho with ho | ho
    · exact ready_step h (act_sub i s (hsub o ho))
    · obtain ⟨k, hk, rfl⟩ := List.mem_map.mp ho
      rw [mem_lanesOf, inMask_diff] at hk
      exact ready_step h (Bool.and_eq_true _ _ ▸ hk).1
  · intro o ho
    rcases List.mem_append.mp ho with ho | ho
    · exact hq o ho
    · obtain ⟨k, hk, rfl⟩ := List.mem_map.mp ho
      rfl

theorem leave_settle (i : Instr) (s t : State) : leave i s t = settle i s ((acting i s).map (fun l => (l, LaneOut.ok))) t := by
  rw [leave_eq]
  simp [settle, movers, idleOuts]

/-- The issue of a ready word whose lanes in Act all complete. -/
theorem issue_ready (i : Instr) (s : State) (m : View → State → Meaning) (h : ready i s = true)
    (hm : (m (viewOf i s) (enter i s)).outs = (acting i s).map (fun l => (l, LaneOut.ok))) :
    issue i s m = .next (leave i s ((m (viewOf i s) (enter i s)).eff (viewOf i s).act (enter i s))) := by
  rw [issue_settles i s m h ((acting i s).map (fun l => (l, LaneOut.ok))) ((m (viewOf i s) (enter i s)).eff)
    (by rw [← hm]), leave_settle]
  · congr 2
    have : (((acting i s).map (fun l => (l, LaneOut.ok))).filter (fun o => o.2.completes)).map (·.1) = acting i s := by
      rw [List.filter_eq_self.mpr, List.map_map]
      · exact List.map_id _
      · intro o ho
        obtain ⟨l, -, rfl⟩ := List.mem_map.mp ho
        rfl
    rw [this, acting, maskOf_lanesOf]
  · intro o ho
    obtain ⟨l, hl, rfl⟩ := List.mem_map.mp ho
    exact (mem_lanesOf _ _).mp hl
  · intro o ho
    obtain ⟨l, -, rfl⟩ := List.mem_map.mp ho
    rfl
  · exact holdsBack_ok _ _

/-- What a word leaves whose effect is to make the issuing group f of it. -/
theorem leaves_modGrp (i : Instr) (s : State) (f : Grp → Grp) :
    Leaves i s (leave i s ((enter i s).modGrp s.key f)) (f (viewOf i s).g) := by
  have hstate : leave i s ((enter i s).modGrp s.key f) = ((enter i s).modGrp s.key f).modGrp s.key
      (fun g => (movers i s).foldl (fun g l => g.modLane l (after i s)) g) := rfl
  have hent : (enter i s).grp s.key = (viewOf i s).g := State.grp_setGrp s s.key (viewOf i s).g
  have hgrp : (leave i s ((enter i s).modGrp s.key f)).grp s.key =
      (movers i s).foldl (fun g l => g.modLane l (after i s)) (f (viewOf i s).g) := by
    rw [hstate, State.grp_modGrp, State.grp_modGrp, hent]
  have hrest := Grp.foldl_modLane_rest (movers i s) (fun _ => after i s) (f (viewOf i s).g)
  have hlane := Grp.lane_foldl_modLane (movers i s) (movers_nodup i s) (fun _ => after i s) (f (viewOf i s).g)
  have hput : enter i s = s.put (enter i s).grps := rfl
  constructor
  · exact State.modGrp_put (State.modGrp_put hput _ _) _ _
  · intro k hk
    rw [hstate, State.grp_modGrp_other _ _ hk, State.grp_modGrp_other _ _ hk]
    exact State.grp_setGrp_other s _ hk
  · rw [hgrp]
    exact hrest
  · intro l hl
    rw [hgrp, hlane, if_pos ((mem_movers i s l).mpr hl)]
  · intro l hl
    have : l ∉ movers i s := fun hc => by
      have := (mem_movers i s l).mp hc
      simp [this] at hl
    rw [hgrp, hlane, if_neg this]

theorem leaves_enter (i : Instr) (s : State) : Leaves i s (leave i s (enter i s)) (viewOf i s).g := by
  have hent : (enter i s).grp s.key = (viewOf i s).g := State.grp_setGrp s s.key (viewOf i s).g
  have hgrp : (leave i s (enter i s)).grp s.key =
      (movers i s).foldl (fun g l => g.modLane l (after i s)) (viewOf i s).g := by
    show ((enter i s).modGrp s.key _).grp s.key = _
    rw [State.grp_modGrp, hent]
    rfl
  have hrest := Grp.foldl_modLane_rest (movers i s) (fun _ => after i s) (viewOf i s).g
  have hlane := Grp.lane_foldl_modLane (movers i s) (movers_nodup i s) (fun _ => after i s) (viewOf i s).g
  have hput : enter i s = s.put (enter i s).grps := rfl
  constructor
  · exact State.modGrp_put hput _ _
  · intro k hk
    show ((enter i s).modGrp s.key _).grp k = _
    rw [State.grp_modGrp_other _ _ hk]
    exact State.grp_setGrp_other s _ hk
  · rw [hgrp]
    exact hrest
  · intro l hl
    rw [hgrp, hlane, if_pos ((mem_movers i s l).mpr hl)]
  · intro l hl
    have : l ∉ movers i s := fun hc => by
      have := (mem_movers i s l).mp hc
      simp [this] at hl
    rw [hgrp, hlane, if_neg this]

/-- A word that takes effect once per issue, and not when Act is empty (R90). -/
theorem makes_once (i : Instr) (s : State) (m : View → State → Meaning) (f : Word → Grp → Grp)
    (he : exec i s = issue i s m) (h : ready i s = true)
    (hm : m (viewOf i s) (enter i s) = once (viewOf i s) f) :
    makes i s (if (viewOf i s).act = 0 then (viewOf i s).g else f (viewOf i s).act (viewOf i s).g) := by
  have hi := issue_ready i s m h (by rw [hm]; rfl)
  refine ⟨_, he.trans hi, ?_⟩
  rw [hm]
  have : (once (viewOf i s) f).eff (viewOf i s).act (enter i s) =
      if (viewOf i s).act = 0 then enter i s else (enter i s).modGrp s.key (f (viewOf i s).act) := rfl
  rw [this]
  split
  · exact leaves_enter i s
  · exact leaves_modGrp i s _

end Sys2Proof.Machine
end

