-- ==== Sys2Proof/Laws/State.lean ====
section
/-! SUPPORT. What each update of State leaves, one lemma a field, and what each accessor reads after it. -/
namespace Sys2Proof.Machine

section
variable (s : State) (k : Nat) (g : Grp)

@[simp] theorem State.setGrp_mem : (s.setGrp k g).mem = s.mem := rfl
@[simp] theorem State.setGrp_l1 : (s.setGrp k g).l1 = s.l1 := rfl
@[simp] theorem State.setGrp_streams : (s.setGrp k g).streams = s.streams := rfl
@[simp] theorem State.setGrp_l2 : (s.setGrp k g).l2 = s.l2 := rfl
@[simp] theorem State.setGrp_poison : (s.setGrp k g).poison = s.poison := rfl
@[simp] theorem State.setGrp_owners : (s.setGrp k g).owners = s.owners := rfl
@[simp] theorem State.setGrp_l1i : (s.setGrp k g).l1i = s.l1i := rfl
@[simp] theorem State.setGrp_tlb : (s.setGrp k g).tlb = s.tlb := rfl
@[simp] theorem State.setGrp_keys : (s.setGrp k g).keys = s.keys := rfl
@[simp] theorem State.setGrp_cycles : (s.setGrp k g).cycles = s.cycles := rfl
@[simp] theorem State.setGrp_deques : (s.setGrp k g).deques = s.deques := rfl
@[simp] theorem State.setGrp_books : (s.setGrp k g).books = s.books := rfl
@[simp] theorem State.setGrp_ctxs : (s.setGrp k g).ctxs = s.ctxs := rfl
@[simp] theorem State.setGrp_objs : (s.setGrp k g).objs = s.objs := rfl
@[simp] theorem State.setGrp_sched : (s.setGrp k g).sched = s.sched := rfl
@[simp] theorem State.setGrp_bbox : (s.setGrp k g).bbox = s.bbox := rfl
@[simp] theorem State.setGrp_fabric : (s.setGrp k g).fabric = s.fabric := rfl
@[simp] theorem State.setGrp_seqs : (s.setGrp k g).seqs = s.seqs := rfl
@[simp] theorem State.setGrp_rs : (s.setGrp k g).rs = s.rs := rfl
@[simp] theorem State.setGrp_decs : (s.setGrp k g).decs = s.decs := rfl
@[simp] theorem State.setGrp_host : (s.setGrp k g).host = s.host := rfl
@[simp] theorem State.setGrp_mgmt : (s.setGrp k g).mgmt = s.mgmt := rfl
@[simp] theorem State.setGrp_away : (s.setGrp k g).away = s.away := rfl
@[simp] theorem State.setGrp_tags : (s.setGrp k g).tags = s.tags := rfl
@[simp] theorem State.setGrp_sample : (s.setGrp k g).sample = s.sample := rfl
@[simp] theorem State.setGrp_cur : (s.setGrp k g).cur = s.cur := rfl
@[simp] theorem State.setGrp_agenda : (s.setGrp k g).agenda = s.agenda := rfl
@[simp] theorem State.setGrp_order : (s.setGrp k g).order = s.order := rfl
@[simp] theorem State.setGrp_free : (s.setGrp k g).free = s.free := rfl
@[simp] theorem State.setGrp_tick : (s.setGrp k g).tick = s.tick := rfl
@[simp] theorem State.ctx_setGrp (a : Nat) : (s.setGrp k g).ctx a = s.ctx a := rfl
@[simp] theorem State.grid_setGrp (a : Nat) : (s.setGrp k g).grid a = s.grid a := rfl
@[simp] theorem State.clus_setGrp (a : Nat) : (s.setGrp k g).clus a = s.clus a := rfl
@[simp] theorem State.team_setGrp (a : Nat) : (s.setGrp k g).team a = s.team a := rfl
@[simp] theorem State.queue_setGrp (a : Nat) : (s.setGrp k g).queue a = s.queue a := rfl
@[simp] theorem State.rawByte_setGrp (a : Nat) : (s.setGrp k g).rawByte a = s.rawByte a := rfl
@[simp] theorem State.l1Byte_setGrp (c a : Nat) : (s.setGrp k g).l1Byte c a = s.l1Byte c a := rfl
@[simp] theorem State.link_setGrp (a : Nat) : (s.setGrp k g).link a = s.link a := rfl
@[simp] theorem State.slot_setGrp (a : Nat) : (s.setGrp k g).slot a = s.slot a := rfl
@[simp] theorem State.seqLink_setGrp (a : Nat) : (s.setGrp k g).seqLink a = s.seqLink a := rfl
@[simp] theorem State.qp_setGrp (a : Nat) : (s.setGrp k g).qp a = s.qp a := rfl
@[simp] theorem State.deque_setGrp (a : Nat) : (s.setGrp k g).deque a = s.deque a := rfl
@[simp] theorem State.quad_setGrp (a : Nat) : (s.setGrp k g).quad a = s.quad a := rfl

end

section
variable (s : State) (k : Nat) (f : Grp → Grp)

@[simp] theorem State.modGrp_mem : (s.modGrp k f).mem = s.mem := rfl
@[simp] theorem State.modGrp_l1 : (s.modGrp k f).l1 = s.l1 := rfl
@[simp] theorem State.modGrp_streams : (s.modGrp k f).streams = s.streams := rfl
@[simp] theorem State.modGrp_l2 : (s.modGrp k f).l2 = s.l2 := rfl
@[simp] theorem State.modGrp_poison : (s.modGrp k f).poison = s.poison := rfl
@[simp] theorem State.modGrp_owners : (s.modGrp k f).owners = s.owners := rfl
@[simp] theorem State.modGrp_l1i : (s.modGrp k f).l1i = s.l1i := rfl
@[simp] theorem State.modGrp_tlb : (s.modGrp k f).tlb = s.tlb := rfl
@[simp] theorem State.modGrp_keys : (s.modGrp k f).keys = s.keys := rfl
@[simp] theorem State.modGrp_cycles : (s.modGrp k f).cycles = s.cycles := rfl
@[simp] theorem State.modGrp_deques : (s.modGrp k f).deques = s.deques := rfl
@[simp] theorem State.modGrp_books : (s.modGrp k f).books = s.books := rfl
@[simp] theorem State.modGrp_ctxs : (s.modGrp k f).ctxs = s.ctxs := rfl
@[simp] theorem State.modGrp_objs : (s.modGrp k f).objs = s.objs := rfl
@[simp] theorem State.modGrp_sched : (s.modGrp k f).sched = s.sched := rfl
@[simp] theorem State.modGrp_bbox : (s.modGrp k f).bbox = s.bbox := rfl
@[simp] theorem State.modGrp_fabric : (s.modGrp k f).fabric = s.fabric := rfl
@[simp] theorem State.modGrp_seqs : (s.modGrp k f).seqs = s.seqs := rfl
@[simp] theorem State.modGrp_rs : (s.modGrp k f).rs = s.rs := rfl
@[simp] theorem State.modGrp_decs : (s.modGrp k f).decs = s.decs := rfl
@[simp] theorem State.modGrp_host : (s.modGrp k f).host = s.host := rfl
@[simp] theorem State.modGrp_mgmt : (s.modGrp k f).mgmt = s.mgmt := rfl
@[simp] theorem State.modGrp_away : (s.modGrp k f).away = s.away := rfl
@[simp] theorem State.modGrp_tags : (s.modGrp k f).tags = s.tags := rfl
@[simp] theorem State.modGrp_sample : (s.modGrp k f).sample = s.sample := rfl
@[simp] theorem State.modGrp_cur : (s.modGrp k f).cur = s.cur := rfl
@[simp] theorem State.modGrp_agenda : (s.modGrp k f).agenda = s.agenda := rfl
@[simp] theorem State.modGrp_order : (s.modGrp k f).order = s.order := rfl
@[simp] theorem State.modGrp_free : (s.modGrp k f).free = s.free := rfl
@[simp] theorem State.modGrp_tick : (s.modGrp k f).tick = s.tick := rfl
@[simp] theorem State.ctx_modGrp (a : Nat) : (s.modGrp k f).ctx a = s.ctx a := rfl
@[simp] theorem State.grid_modGrp (a : Nat) : (s.modGrp k f).grid a = s.grid a := rfl
@[simp] theorem State.clus_modGrp (a : Nat) : (s.modGrp k f).clus a = s.clus a := rfl
@[simp] theorem State.team_modGrp (a : Nat) : (s.modGrp k f).team a = s.team a := rfl
@[simp] theorem State.queue_modGrp (a : Nat) : (s.modGrp k f).queue a = s.queue a := rfl
@[simp] theorem State.rawByte_modGrp (a : Nat) : (s.modGrp k f).rawByte a = s.rawByte a := rfl
@[simp] theorem State.l1Byte_modGrp (c a : Nat) : (s.modGrp k f).l1Byte c a = s.l1Byte c a := rfl
@[simp] theorem State.link_modGrp (a : Nat) : (s.modGrp k f).link a = s.link a := rfl
@[simp] theorem State.slot_modGrp (a : Nat) : (s.modGrp k f).slot a = s.slot a := rfl
@[simp] theorem State.seqLink_modGrp (a : Nat) : (s.modGrp k f).seqLink a = s.seqLink a := rfl
@[simp] theorem State.qp_modGrp (a : Nat) : (s.modGrp k f).qp a = s.qp a := rfl
@[simp] theorem State.deque_modGrp (a : Nat) : (s.modGrp k f).deque a = s.deque a := rfl
@[simp] theorem State.quad_modGrp (a : Nat) : (s.modGrp k f).quad a = s.quad a := rfl

end

section
variable (s : State) (k : Nat) (x : Context)

@[simp] theorem State.setCtx_mem : (s.setCtx k x).mem = s.mem := rfl
@[simp] theorem State.setCtx_l1 : (s.setCtx k x).l1 = s.l1 := rfl
@[simp] theorem State.setCtx_streams : (s.setCtx k x).streams = s.streams := rfl
@[simp] theorem State.setCtx_l2 : (s.setCtx k x).l2 = s.l2 := rfl
@[simp] theorem State.setCtx_poison : (s.setCtx k x).poison = s.poison := rfl
@[simp] theorem State.setCtx_owners : (s.setCtx k x).owners = s.owners := rfl
@[simp] theorem State.setCtx_l1i : (s.setCtx k x).l1i = s.l1i := rfl
@[simp] theorem State.setCtx_tlb : (s.setCtx k x).tlb = s.tlb := rfl
@[simp] theorem State.setCtx_keys : (s.setCtx k x).keys = s.keys := rfl
@[simp] theorem State.setCtx_grps : (s.setCtx k x).grps = s.grps := rfl
@[simp] theorem State.setCtx_cycles : (s.setCtx k x).cycles = s.cycles := rfl
@[simp] theorem State.setCtx_deques : (s.setCtx k x).deques = s.deques := rfl
@[simp] theorem State.setCtx_books : (s.setCtx k x).books = s.books := rfl
@[simp] theorem State.setCtx_objs : (s.setCtx k x).objs = s.objs := rfl
@[simp] theorem State.setCtx_sched : (s.setCtx k x).sched = s.sched := rfl
@[simp] theorem State.setCtx_bbox : (s.setCtx k x).bbox = s.bbox := rfl
@[simp] theorem State.setCtx_fabric : (s.setCtx k x).fabric = s.fabric := rfl
@[simp] theorem State.setCtx_seqs : (s.setCtx k x).seqs = s.seqs := rfl
@[simp] theorem State.setCtx_rs : (s.setCtx k x).rs = s.rs := rfl
@[simp] theorem State.setCtx_decs : (s.setCtx k x).decs = s.decs := rfl
@[simp] theorem State.setCtx_host : (s.setCtx k x).host = s.host := rfl
@[simp] theorem State.setCtx_mgmt : (s.setCtx k x).mgmt = s.mgmt := rfl
@[simp] theorem State.setCtx_away : (s.setCtx k x).away = s.away := rfl
@[simp] theorem State.setCtx_tags : (s.setCtx k x).tags = s.tags := rfl
@[simp] theorem State.setCtx_sample : (s.setCtx k x).sample = s.sample := rfl
@[simp] theorem State.setCtx_cur : (s.setCtx k x).cur = s.cur := rfl
@[simp] theorem State.setCtx_agenda : (s.setCtx k x).agenda = s.agenda := rfl
@[simp] theorem State.setCtx_order : (s.setCtx k x).order = s.order := rfl
@[simp] theorem State.setCtx_free : (s.setCtx k x).free = s.free := rfl
@[simp] theorem State.setCtx_tick : (s.setCtx k x).tick = s.tick := rfl
@[simp] theorem State.grp_setCtx (a : Nat) : (s.setCtx k x).grp a = s.grp a := rfl
@[simp] theorem State.grid_setCtx (a : Nat) : (s.setCtx k x).grid a = s.grid a := rfl
@[simp] theorem State.clus_setCtx (a : Nat) : (s.setCtx k x).clus a = s.clus a := rfl
@[simp] theorem State.team_setCtx (a : Nat) : (s.setCtx k x).team a = s.team a := rfl
@[simp] theorem State.queue_setCtx (a : Nat) : (s.setCtx k x).queue a = s.queue a := rfl
@[simp] theorem State.rawByte_setCtx (a : Nat) : (s.setCtx k x).rawByte a = s.rawByte a := rfl
@[simp] theorem State.l1Byte_setCtx (c a : Nat) : (s.setCtx k x).l1Byte c a = s.l1Byte c a := rfl
@[simp] theorem State.link_setCtx (a : Nat) : (s.setCtx k x).link a = s.link a := rfl
@[simp] theorem State.slot_setCtx (a : Nat) : (s.setCtx k x).slot a = s.slot a := rfl
@[simp] theorem State.seqLink_setCtx (a : Nat) : (s.setCtx k x).seqLink a = s.seqLink a := rfl
@[simp] theorem State.qp_setCtx (a : Nat) : (s.setCtx k x).qp a = s.qp a := rfl
@[simp] theorem State.deque_setCtx (a : Nat) : (s.setCtx k x).deque a = s.deque a := rfl
@[simp] theorem State.quad_setCtx (a : Nat) : (s.setCtx k x).quad a = s.quad a := rfl

end

section
variable (s : State) (k : Nat) (x : Grid)

@[simp] theorem State.setGrid_mem : (s.setGrid k x).mem = s.mem := rfl
@[simp] theorem State.setGrid_l1 : (s.setGrid k x).l1 = s.l1 := rfl
@[simp] theorem State.setGrid_streams : (s.setGrid k x).streams = s.streams := rfl
@[simp] theorem State.setGrid_l2 : (s.setGrid k x).l2 = s.l2 := rfl
@[simp] theorem State.setGrid_poison : (s.setGrid k x).poison = s.poison := rfl
@[simp] theorem State.setGrid_owners : (s.setGrid k x).owners = s.owners := rfl
@[simp] theorem State.setGrid_l1i : (s.setGrid k x).l1i = s.l1i := rfl
@[simp] theorem State.setGrid_tlb : (s.setGrid k x).tlb = s.tlb := rfl
@[simp] theorem State.setGrid_keys : (s.setGrid k x).keys = s.keys := rfl
@[simp] theorem State.setGrid_grps : (s.setGrid k x).grps = s.grps := rfl
@[simp] theorem State.setGrid_cycles : (s.setGrid k x).cycles = s.cycles := rfl
@[simp] theorem State.setGrid_deques : (s.setGrid k x).deques = s.deques := rfl
@[simp] theorem State.setGrid_books : (s.setGrid k x).books = s.books := rfl
@[simp] theorem State.setGrid_ctxs : (s.setGrid k x).ctxs = s.ctxs := rfl
@[simp] theorem State.setGrid_objs : (s.setGrid k x).objs = s.objs := rfl
@[simp] theorem State.setGrid_bbox : (s.setGrid k x).bbox = s.bbox := rfl
@[simp] theorem State.setGrid_fabric : (s.setGrid k x).fabric = s.fabric := rfl
@[simp] theorem State.setGrid_seqs : (s.setGrid k x).seqs = s.seqs := rfl
@[simp] theorem State.setGrid_rs : (s.setGrid k x).rs = s.rs := rfl
@[simp] theorem State.setGrid_decs : (s.setGrid k x).decs = s.decs := rfl
@[simp] theorem State.setGrid_host : (s.setGrid k x).host = s.host := rfl
@[simp] theorem State.setGrid_mgmt : (s.setGrid k x).mgmt = s.mgmt := rfl
@[simp] theorem State.setGrid_away : (s.setGrid k x).away = s.away := rfl
@[simp] theorem State.setGrid_tags : (s.setGrid k x).tags = s.tags := rfl
@[simp] theorem State.setGrid_sample : (s.setGrid k x).sample = s.sample := rfl
@[simp] theorem State.setGrid_cur : (s.setGrid k x).cur = s.cur := rfl
@[simp] theorem State.setGrid_agenda : (s.setGrid k x).agenda = s.agenda := rfl
@[simp] theorem State.setGrid_order : (s.setGrid k x).order = s.order := rfl
@[simp] theorem State.setGrid_free : (s.setGrid k x).free = s.free := rfl
@[simp] theorem State.setGrid_tick : (s.setGrid k x).tick = s.tick := rfl
@[simp] theorem State.setGrid_sched_cycle : (s.setGrid k x).sched.cycle = s.sched.cycle := rfl
@[simp] theorem State.setGrid_sched_queues : (s.setGrid k x).sched.queues = s.sched.queues := rfl
@[simp] theorem State.setGrid_sched_rr : (s.setGrid k x).sched.rr = s.sched.rr := rfl
@[simp] theorem State.setGrid_sched_nextGrid : (s.setGrid k x).sched.nextGrid = s.sched.nextGrid := rfl
@[simp] theorem State.setGrid_sched_placeNo : (s.setGrid k x).sched.placeNo = s.sched.placeNo := rfl
@[simp] theorem State.setGrid_sched_clusters : (s.setGrid k x).sched.clusters = s.sched.clusters := rfl
@[simp] theorem State.setGrid_sched_teams : (s.setGrid k x).sched.teams = s.sched.teams := rfl
@[simp] theorem State.setGrid_sched_saved : (s.setGrid k x).sched.saved = s.sched.saved := rfl
@[simp] theorem State.grp_setGrid (a : Nat) : (s.setGrid k x).grp a = s.grp a := rfl
@[simp] theorem State.ctx_setGrid (a : Nat) : (s.setGrid k x).ctx a = s.ctx a := rfl
@[simp] theorem State.clus_setGrid (a : Nat) : (s.setGrid k x).clus a = s.clus a := rfl
@[simp] theorem State.team_setGrid (a : Nat) : (s.setGrid k x).team a = s.team a := rfl
@[simp] theorem State.queue_setGrid (a : Nat) : (s.setGrid k x).queue a = s.queue a := rfl
@[simp] theorem State.rawByte_setGrid (a : Nat) : (s.setGrid k x).rawByte a = s.rawByte a := rfl
@[simp] theorem State.l1Byte_setGrid (c a : Nat) : (s.setGrid k x).l1Byte c a = s.l1Byte c a := rfl
@[simp] theorem State.link_setGrid (a : Nat) : (s.setGrid k x).link a = s.link a := rfl
@[simp] theorem State.slot_setGrid (a : Nat) : (s.setGrid k x).slot a = s.slot a := rfl
@[simp] theorem State.seqLink_setGrid (a : Nat) : (s.setGrid k x).seqLink a = s.seqLink a := rfl
@[simp] theorem State.qp_setGrid (a : Nat) : (s.setGrid k x).qp a = s.qp a := rfl
@[simp] theorem State.deque_setGrid (a : Nat) : (s.setGrid k x).deque a = s.deque a := rfl
@[simp] theorem State.quad_setGrid (a : Nat) : (s.setGrid k x).quad a = s.quad a := rfl

end

section
variable (s : State) (k : Nat) (x : Cluster)

@[simp] theorem State.setClus_mem : (s.setClus k x).mem = s.mem := rfl
@[simp] theorem State.setClus_l1 : (s.setClus k x).l1 = s.l1 := rfl
@[simp] theorem State.setClus_streams : (s.setClus k x).streams = s.streams := rfl
@[simp] theorem State.setClus_l2 : (s.setClus k x).l2 = s.l2 := rfl
@[simp] theorem State.setClus_poison : (s.setClus k x).poison = s.poison := rfl
@[simp] theorem State.setClus_owners : (s.setClus k x).owners = s.owners := rfl
@[simp] theorem State.setClus_l1i : (s.setClus k x).l1i = s.l1i := rfl
@[simp] theorem State.setClus_tlb : (s.setClus k x).tlb = s.tlb := rfl
@[simp] theorem State.setClus_keys : (s.setClus k x).keys = s.keys := rfl
@[simp] theorem State.setClus_grps : (s.setClus k x).grps = s.grps := rfl
@[simp] theorem State.setClus_cycles : (s.setClus k x).cycles = s.cycles := rfl
@[simp] theorem State.setClus_deques : (s.setClus k x).deques = s.deques := rfl
@[simp] theorem State.setClus_books : (s.setClus k x).books = s.books := rfl
@[simp] theorem State.setClus_ctxs : (s.setClus k x).ctxs = s.ctxs := rfl
@[simp] theorem State.setClus_objs : (s.setClus k x).objs = s.objs := rfl
@[simp] theorem State.setClus_bbox : (s.setClus k x).bbox = s.bbox := rfl
@[simp] theorem State.setClus_fabric : (s.setClus k x).fabric = s.fabric := rfl
@[simp] theorem State.setClus_seqs : (s.setClus k x).seqs = s.seqs := rfl
@[simp] theorem State.setClus_rs : (s.setClus k x).rs = s.rs := rfl
@[simp] theorem State.setClus_decs : (s.setClus k x).decs = s.decs := rfl
@[simp] theorem State.setClus_host : (s.setClus k x).host = s.host := rfl
@[simp] theorem State.setClus_mgmt : (s.setClus k x).mgmt = s.mgmt := rfl
@[simp] theorem State.setClus_away : (s.setClus k x).away = s.away := rfl
@[simp] theorem State.setClus_tags : (s.setClus k x).tags = s.tags := rfl
@[simp] theorem State.setClus_sample : (s.setClus k x).sample = s.sample := rfl
@[simp] theorem State.setClus_cur : (s.setClus k x).cur = s.cur := rfl
@[simp] theorem State.setClus_agenda : (s.setClus k x).agenda = s.agenda := rfl
@[simp] theorem State.setClus_order : (s.setClus k x).order = s.order := rfl
@[simp] theorem State.setClus_free : (s.setClus k x).free = s.free := rfl
@[simp] theorem State.setClus_tick : (s.setClus k x).tick = s.tick := rfl
@[simp] theorem State.setClus_sched_cycle : (s.setClus k x).sched.cycle = s.sched.cycle := rfl
@[simp] theorem State.setClus_sched_queues : (s.setClus k x).sched.queues = s.sched.queues := rfl
@[simp] theorem State.setClus_sched_rr : (s.setClus k x).sched.rr = s.sched.rr := rfl
@[simp] theorem State.setClus_sched_nextGrid : (s.setClus k x).sched.nextGrid = s.sched.nextGrid := rfl
@[simp] theorem State.setClus_sched_placeNo : (s.setClus k x).sched.placeNo = s.sched.placeNo := rfl
@[simp] theorem State.setClus_sched_grids : (s.setClus k x).sched.grids = s.sched.grids := rfl
@[simp] theorem State.setClus_sched_teams : (s.setClus k x).sched.teams = s.sched.teams := rfl
@[simp] theorem State.setClus_sched_saved : (s.setClus k x).sched.saved = s.sched.saved := rfl
@[simp] theorem State.grp_setClus (a : Nat) : (s.setClus k x).grp a = s.grp a := rfl
@[simp] theorem State.ctx_setClus (a : Nat) : (s.setClus k x).ctx a = s.ctx a := rfl
@[simp] theorem State.grid_setClus (a : Nat) : (s.setClus k x).grid a = s.grid a := rfl
@[simp] theorem State.team_setClus (a : Nat) : (s.setClus k x).team a = s.team a := rfl
@[simp] theorem State.queue_setClus (a : Nat) : (s.setClus k x).queue a = s.queue a := rfl
@[simp] theorem State.rawByte_setClus (a : Nat) : (s.setClus k x).rawByte a = s.rawByte a := rfl
@[simp] theorem State.l1Byte_setClus (c a : Nat) : (s.setClus k x).l1Byte c a = s.l1Byte c a := rfl
@[simp] theorem State.link_setClus (a : Nat) : (s.setClus k x).link a = s.link a := rfl
@[simp] theorem State.slot_setClus (a : Nat) : (s.setClus k x).slot a = s.slot a := rfl
@[simp] theorem State.seqLink_setClus (a : Nat) : (s.setClus k x).seqLink a = s.seqLink a := rfl
@[simp] theorem State.qp_setClus (a : Nat) : (s.setClus k x).qp a = s.qp a := rfl
@[simp] theorem State.deque_setClus (a : Nat) : (s.setClus k x).deque a = s.deque a := rfl
@[simp] theorem State.quad_setClus (a : Nat) : (s.setClus k x).quad a = s.quad a := rfl

end

section
variable (s : State) (k : Nat) (x : Team)

@[simp] theorem State.setTeam_mem : (s.setTeam k x).mem = s.mem := rfl
@[simp] theorem State.setTeam_l1 : (s.setTeam k x).l1 = s.l1 := rfl
@[simp] theorem State.setTeam_streams : (s.setTeam k x).streams = s.streams := rfl
@[simp] theorem State.setTeam_l2 : (s.setTeam k x).l2 = s.l2 := rfl
@[simp] theorem State.setTeam_poison : (s.setTeam k x).poison = s.poison := rfl
@[simp] theorem State.setTeam_owners : (s.setTeam k x).owners = s.owners := rfl
@[simp] theorem State.setTeam_l1i : (s.setTeam k x).l1i = s.l1i := rfl
@[simp] theorem State.setTeam_tlb : (s.setTeam k x).tlb = s.tlb := rfl
@[simp] theorem State.setTeam_keys : (s.setTeam k x).keys = s.keys := rfl
@[simp] theorem State.setTeam_grps : (s.setTeam k x).grps = s.grps := rfl
@[simp] theorem State.setTeam_cycles : (s.setTeam k x).cycles = s.cycles := rfl
@[simp] theorem State.setTeam_deques : (s.setTeam k x).deques = s.deques := rfl
@[simp] theorem State.setTeam_books : (s.setTeam k x).books = s.books := rfl
@[simp] theorem State.setTeam_ctxs : (s.setTeam k x).ctxs = s.ctxs := rfl
@[simp] theorem State.setTeam_objs : (s.setTeam k x).objs = s.objs := rfl
@[simp] theorem State.setTeam_bbox : (s.setTeam k x).bbox = s.bbox := rfl
@[simp] theorem State.setTeam_fabric : (s.setTeam k x).fabric = s.fabric := rfl
@[simp] theorem State.setTeam_seqs : (s.setTeam k x).seqs = s.seqs := rfl
@[simp] theorem State.setTeam_rs : (s.setTeam k x).rs = s.rs := rfl
@[simp] theorem State.setTeam_decs : (s.setTeam k x).decs = s.decs := rfl
@[simp] theorem State.setTeam_host : (s.setTeam k x).host = s.host := rfl
@[simp] theorem State.setTeam_mgmt : (s.setTeam k x).mgmt = s.mgmt := rfl
@[simp] theorem State.setTeam_away : (s.setTeam k x).away = s.away := rfl
@[simp] theorem State.setTeam_tags : (s.setTeam k x).tags = s.tags := rfl
@[simp] theorem State.setTeam_sample : (s.setTeam k x).sample = s.sample := rfl
@[simp] theorem State.setTeam_cur : (s.setTeam k x).cur = s.cur := rfl
@[simp] theorem State.setTeam_agenda : (s.setTeam k x).agenda = s.agenda := rfl
@[simp] theorem State.setTeam_order : (s.setTeam k x).order = s.order := rfl
@[simp] theorem State.setTeam_free : (s.setTeam k x).free = s.free := rfl
@[simp] theorem State.setTeam_tick : (s.setTeam k x).tick = s.tick := rfl
@[simp] theorem State.setTeam_sched_cycle : (s.setTeam k x).sched.cycle = s.sched.cycle := rfl
@[simp] theorem State.setTeam_sched_queues : (s.setTeam k x).sched.queues = s.sched.queues := rfl
@[simp] theorem State.setTeam_sched_rr : (s.setTeam k x).sched.rr = s.sched.rr := rfl
@[simp] theorem State.setTeam_sched_nextGrid : (s.setTeam k x).sched.nextGrid = s.sched.nextGrid := rfl
@[simp] theorem State.setTeam_sched_placeNo : (s.setTeam k x).sched.placeNo = s.sched.placeNo := rfl
@[simp] theorem State.setTeam_sched_grids : (s.setTeam k x).sched.grids = s.sched.grids := rfl
@[simp] theorem State.setTeam_sched_clusters : (s.setTeam k x).sched.clusters = s.sched.clusters := rfl
@[simp] theorem State.setTeam_sched_saved : (s.setTeam k x).sched.saved = s.sched.saved := rfl
@[simp] theorem State.grp_setTeam (a : Nat) : (s.setTeam k x).grp a = s.grp a := rfl
@[simp] theorem State.ctx_setTeam (a : Nat) : (s.setTeam k x).ctx a = s.ctx a := rfl
@[simp] theorem State.grid_setTeam (a : Nat) : (s.setTeam k x).grid a = s.grid a := rfl
@[simp] theorem State.clus_setTeam (a : Nat) : (s.setTeam k x).clus a = s.clus a := rfl
@[simp] theorem State.queue_setTeam (a : Nat) : (s.setTeam k x).queue a = s.queue a := rfl
@[simp] theorem State.rawByte_setTeam (a : Nat) : (s.setTeam k x).rawByte a = s.rawByte a := rfl
@[simp] theorem State.l1Byte_setTeam (c a : Nat) : (s.setTeam k x).l1Byte c a = s.l1Byte c a := rfl
@[simp] theorem State.link_setTeam (a : Nat) : (s.setTeam k x).link a = s.link a := rfl
@[simp] theorem State.slot_setTeam (a : Nat) : (s.setTeam k x).slot a = s.slot a := rfl
@[simp] theorem State.seqLink_setTeam (a : Nat) : (s.setTeam k x).seqLink a = s.seqLink a := rfl
@[simp] theorem State.qp_setTeam (a : Nat) : (s.setTeam k x).qp a = s.qp a := rfl
@[simp] theorem State.deque_setTeam (a : Nat) : (s.setTeam k x).deque a = s.deque a := rfl
@[simp] theorem State.quad_setTeam (a : Nat) : (s.setTeam k x).quad a = s.quad a := rfl

end

section
variable (s : State) (g : Grp) (n : Nat) (v : Vat)

@[simp] theorem State.setVat_mem : (s.setVat g n v).mem = s.mem := rfl
@[simp] theorem State.setVat_l1 : (s.setVat g n v).l1 = s.l1 := rfl
@[simp] theorem State.setVat_streams : (s.setVat g n v).streams = s.streams := rfl
@[simp] theorem State.setVat_l2 : (s.setVat g n v).l2 = s.l2 := rfl
@[simp] theorem State.setVat_poison : (s.setVat g n v).poison = s.poison := rfl
@[simp] theorem State.setVat_owners : (s.setVat g n v).owners = s.owners := rfl
@[simp] theorem State.setVat_l1i : (s.setVat g n v).l1i = s.l1i := rfl
@[simp] theorem State.setVat_tlb : (s.setVat g n v).tlb = s.tlb := rfl
@[simp] theorem State.setVat_keys : (s.setVat g n v).keys = s.keys := rfl
@[simp] theorem State.setVat_grps : (s.setVat g n v).grps = s.grps := rfl
@[simp] theorem State.setVat_cycles : (s.setVat g n v).cycles = s.cycles := rfl
@[simp] theorem State.setVat_deques : (s.setVat g n v).deques = s.deques := rfl
@[simp] theorem State.setVat_books : (s.setVat g n v).books = s.books := rfl
@[simp] theorem State.setVat_ctxs : (s.setVat g n v).ctxs = s.ctxs := rfl
@[simp] theorem State.setVat_objs : (s.setVat g n v).objs = s.objs := rfl
@[simp] theorem State.setVat_bbox : (s.setVat g n v).bbox = s.bbox := rfl
@[simp] theorem State.setVat_fabric : (s.setVat g n v).fabric = s.fabric := rfl
@[simp] theorem State.setVat_seqs : (s.setVat g n v).seqs = s.seqs := rfl
@[simp] theorem State.setVat_rs : (s.setVat g n v).rs = s.rs := rfl
@[simp] theorem State.setVat_decs : (s.setVat g n v).decs = s.decs := rfl
@[simp] theorem State.setVat_host : (s.setVat g n v).host = s.host := rfl
@[simp] theorem State.setVat_mgmt : (s.setVat g n v).mgmt = s.mgmt := rfl
@[simp] theorem State.setVat_away : (s.setVat g n v).away = s.away := rfl
@[simp] theorem State.setVat_tags : (s.setVat g n v).tags = s.tags := rfl
@[simp] theorem State.setVat_sample : (s.setVat g n v).sample = s.sample := rfl
@[simp] theorem State.setVat_cur : (s.setVat g n v).cur = s.cur := rfl
@[simp] theorem State.setVat_agenda : (s.setVat g n v).agenda = s.agenda := rfl
@[simp] theorem State.setVat_order : (s.setVat g n v).order = s.order := rfl
@[simp] theorem State.setVat_free : (s.setVat g n v).free = s.free := rfl
@[simp] theorem State.setVat_tick : (s.setVat g n v).tick = s.tick := rfl
@[simp] theorem State.setVat_sched_cycle : (s.setVat g n v).sched.cycle = s.sched.cycle := rfl
@[simp] theorem State.setVat_sched_queues : (s.setVat g n v).sched.queues = s.sched.queues := rfl
@[simp] theorem State.setVat_sched_rr : (s.setVat g n v).sched.rr = s.sched.rr := rfl
@[simp] theorem State.setVat_sched_nextGrid : (s.setVat g n v).sched.nextGrid = s.sched.nextGrid := rfl
@[simp] theorem State.setVat_sched_placeNo : (s.setVat g n v).sched.placeNo = s.sched.placeNo := rfl
@[simp] theorem State.setVat_sched_grids : (s.setVat g n v).sched.grids = s.sched.grids := rfl
@[simp] theorem State.setVat_sched_clusters : (s.setVat g n v).sched.clusters = s.sched.clusters := rfl
@[simp] theorem State.setVat_sched_saved : (s.setVat g n v).sched.saved = s.sched.saved := rfl
@[simp] theorem State.grp_setVat (a : Nat) : (s.setVat g n v).grp a = s.grp a := rfl
@[simp] theorem State.ctx_setVat (a : Nat) : (s.setVat g n v).ctx a = s.ctx a := rfl
@[simp] theorem State.grid_setVat (a : Nat) : (s.setVat g n v).grid a = s.grid a := rfl
@[simp] theorem State.clus_setVat (a : Nat) : (s.setVat g n v).clus a = s.clus a := rfl
@[simp] theorem State.queue_setVat (a : Nat) : (s.setVat g n v).queue a = s.queue a := rfl
@[simp] theorem State.rawByte_setVat (a : Nat) : (s.setVat g n v).rawByte a = s.rawByte a := rfl
@[simp] theorem State.l1Byte_setVat (c a : Nat) : (s.setVat g n v).l1Byte c a = s.l1Byte c a := rfl
@[simp] theorem State.link_setVat (a : Nat) : (s.setVat g n v).link a = s.link a := rfl
@[simp] theorem State.slot_setVat (a : Nat) : (s.setVat g n v).slot a = s.slot a := rfl
@[simp] theorem State.seqLink_setVat (a : Nat) : (s.setVat g n v).seqLink a = s.seqLink a := rfl
@[simp] theorem State.qp_setVat (a : Nat) : (s.setVat g n v).qp a = s.qp a := rfl
@[simp] theorem State.deque_setVat (a : Nat) : (s.setVat g n v).deque a = s.deque a := rfl
@[simp] theorem State.quad_setVat (a : Nat) : (s.setVat g n v).quad a = s.quad a := rfl

end

section
variable (s : State) (q : Nat) (x : LaunchQ)

@[simp] theorem State.setQueue_mem : (s.setQueue q x).mem = s.mem := rfl
@[simp] theorem State.setQueue_l1 : (s.setQueue q x).l1 = s.l1 := rfl
@[simp] theorem State.setQueue_streams : (s.setQueue q x).streams = s.streams := rfl
@[simp] theorem State.setQueue_l2 : (s.setQueue q x).l2 = s.l2 := rfl
@[simp] theorem State.setQueue_poison : (s.setQueue q x).poison = s.poison := rfl
@[simp] theorem State.setQueue_owners : (s.setQueue q x).owners = s.owners := rfl
@[simp] theorem State.setQueue_l1i : (s.setQueue q x).l1i = s.l1i := rfl
@[simp] theorem State.setQueue_tlb : (s.setQueue q x).tlb = s.tlb := rfl
@[simp] theorem State.setQueue_keys : (s.setQueue q x).keys = s.keys := rfl
@[simp] theorem State.setQueue_grps : (s.setQueue q x).grps = s.grps := rfl
@[simp] theorem State.setQueue_cycles : (s.setQueue q x).cycles = s.cycles := rfl
@[simp] theorem State.setQueue_deques : (s.setQueue q x).deques = s.deques := rfl
@[simp] theorem State.setQueue_books : (s.setQueue q x).books = s.books := rfl
@[simp] theorem State.setQueue_ctxs : (s.setQueue q x).ctxs = s.ctxs := rfl
@[simp] theorem State.setQueue_objs : (s.setQueue q x).objs = s.objs := rfl
@[simp] theorem State.setQueue_bbox : (s.setQueue q x).bbox = s.bbox := rfl
@[simp] theorem State.setQueue_fabric : (s.setQueue q x).fabric = s.fabric := rfl
@[simp] theorem State.setQueue_seqs : (s.setQueue q x).seqs = s.seqs := rfl
@[simp] theorem State.setQueue_rs : (s.setQueue q x).rs = s.rs := rfl
@[simp] theorem State.setQueue_decs : (s.setQueue q x).decs = s.decs := rfl
@[simp] theorem State.setQueue_host : (s.setQueue q x).host = s.host := rfl
@[simp] theorem State.setQueue_mgmt : (s.setQueue q x).mgmt = s.mgmt := rfl
@[simp] theorem State.setQueue_away : (s.setQueue q x).away = s.away := rfl
@[simp] theorem State.setQueue_tags : (s.setQueue q x).tags = s.tags := rfl
@[simp] theorem State.setQueue_sample : (s.setQueue q x).sample = s.sample := rfl
@[simp] theorem State.setQueue_cur : (s.setQueue q x).cur = s.cur := rfl
@[simp] theorem State.setQueue_agenda : (s.setQueue q x).agenda = s.agenda := rfl
@[simp] theorem State.setQueue_order : (s.setQueue q x).order = s.order := rfl
@[simp] theorem State.setQueue_free : (s.setQueue q x).free = s.free := rfl
@[simp] theorem State.setQueue_tick : (s.setQueue q x).tick = s.tick := rfl
@[simp] theorem State.setQueue_sched_cycle : (s.setQueue q x).sched.cycle = s.sched.cycle := rfl
@[simp] theorem State.setQueue_sched_rr : (s.setQueue q x).sched.rr = s.sched.rr := rfl
@[simp] theorem State.setQueue_sched_nextGrid : (s.setQueue q x).sched.nextGrid = s.sched.nextGrid := rfl
@[simp] theorem State.setQueue_sched_placeNo : (s.setQueue q x).sched.placeNo = s.sched.placeNo := rfl
@[simp] theorem State.setQueue_sched_grids : (s.setQueue q x).sched.grids = s.sched.grids := rfl
@[simp] theorem State.setQueue_sched_clusters : (s.setQueue q x).sched.clusters = s.sched.clusters := rfl
@[simp] theorem State.setQueue_sched_teams : (s.setQueue q x).sched.teams = s.sched.teams := rfl
@[simp] theorem State.setQueue_sched_saved : (s.setQueue q x).sched.saved = s.sched.saved := rfl
@[simp] theorem State.grp_setQueue (a : Nat) : (s.setQueue q x).grp a = s.grp a := rfl
@[simp] theorem State.ctx_setQueue (a : Nat) : (s.setQueue q x).ctx a = s.ctx a := rfl
@[simp] theorem State.grid_setQueue (a : Nat) : (s.setQueue q x).grid a = s.grid a := rfl
@[simp] theorem State.clus_setQueue (a : Nat) : (s.setQueue q x).clus a = s.clus a := rfl
@[simp] theorem State.team_setQueue (a : Nat) : (s.setQueue q x).team a = s.team a := rfl
@[simp] theorem State.rawByte_setQueue (a : Nat) : (s.setQueue q x).rawByte a = s.rawByte a := rfl
@[simp] theorem State.l1Byte_setQueue (c a : Nat) : (s.setQueue q x).l1Byte c a = s.l1Byte c a := rfl
@[simp] theorem State.link_setQueue (a : Nat) : (s.setQueue q x).link a = s.link a := rfl
@[simp] theorem State.slot_setQueue (a : Nat) : (s.setQueue q x).slot a = s.slot a := rfl
@[simp] theorem State.seqLink_setQueue (a : Nat) : (s.setQueue q x).seqLink a = s.seqLink a := rfl
@[simp] theorem State.qp_setQueue (a : Nat) : (s.setQueue q x).qp a = s.qp a := rfl
@[simp] theorem State.deque_setQueue (a : Nat) : (s.setQueue q x).deque a = s.deque a := rfl
@[simp] theorem State.quad_setQueue (a : Nat) : (s.setQueue q x).quad a = s.quad a := rfl

end

section
variable (s : State) (loc : Nat) (b : Byte)

@[simp] theorem State.setRaw_l1 : (s.setRaw loc b).l1 = s.l1 := rfl
@[simp] theorem State.setRaw_streams : (s.setRaw loc b).streams = s.streams := rfl
@[simp] theorem State.setRaw_l2 : (s.setRaw loc b).l2 = s.l2 := rfl
@[simp] theorem State.setRaw_poison : (s.setRaw loc b).poison = s.poison := rfl
@[simp] theorem State.setRaw_owners : (s.setRaw loc b).owners = s.owners := rfl
@[simp] theorem State.setRaw_l1i : (s.setRaw loc b).l1i = s.l1i := rfl
@[simp] theorem State.setRaw_tlb : (s.setRaw loc b).tlb = s.tlb := rfl
@[simp] theorem State.setRaw_keys : (s.setRaw loc b).keys = s.keys := rfl
@[simp] theorem State.setRaw_grps : (s.setRaw loc b).grps = s.grps := rfl
@[simp] theorem State.setRaw_cycles : (s.setRaw loc b).cycles = s.cycles := rfl
@[simp] theorem State.setRaw_deques : (s.setRaw loc b).deques = s.deques := rfl
@[simp] theorem State.setRaw_books : (s.setRaw loc b).books = s.books := rfl
@[simp] theorem State.setRaw_ctxs : (s.setRaw loc b).ctxs = s.ctxs := rfl
@[simp] theorem State.setRaw_objs : (s.setRaw loc b).objs = s.objs := rfl
@[simp] theorem State.setRaw_sched : (s.setRaw loc b).sched = s.sched := rfl
@[simp] theorem State.setRaw_bbox : (s.setRaw loc b).bbox = s.bbox := rfl
@[simp] theorem State.setRaw_fabric : (s.setRaw loc b).fabric = s.fabric := rfl
@[simp] theorem State.setRaw_seqs : (s.setRaw loc b).seqs = s.seqs := rfl
@[simp] theorem State.setRaw_rs : (s.setRaw loc b).rs = s.rs := rfl
@[simp] theorem State.setRaw_decs : (s.setRaw loc b).decs = s.decs := rfl
@[simp] theorem State.setRaw_host : (s.setRaw loc b).host = s.host := rfl
@[simp] theorem State.setRaw_mgmt : (s.setRaw loc b).mgmt = s.mgmt := rfl
@[simp] theorem State.setRaw_away : (s.setRaw loc b).away = s.away := rfl
@[simp] theorem State.setRaw_tags : (s.setRaw loc b).tags = s.tags := rfl
@[simp] theorem State.setRaw_sample : (s.setRaw loc b).sample = s.sample := rfl
@[simp] theorem State.setRaw_cur : (s.setRaw loc b).cur = s.cur := rfl
@[simp] theorem State.setRaw_agenda : (s.setRaw loc b).agenda = s.agenda := rfl
@[simp] theorem State.setRaw_order : (s.setRaw loc b).order = s.order := rfl
@[simp] theorem State.setRaw_free : (s.setRaw loc b).free = s.free := rfl
@[simp] theorem State.setRaw_tick : (s.setRaw loc b).tick = s.tick := rfl
@[simp] theorem State.grp_setRaw (a : Nat) : (s.setRaw loc b).grp a = s.grp a := rfl
@[simp] theorem State.ctx_setRaw (a : Nat) : (s.setRaw loc b).ctx a = s.ctx a := rfl
@[simp] theorem State.grid_setRaw (a : Nat) : (s.setRaw loc b).grid a = s.grid a := rfl
@[simp] theorem State.clus_setRaw (a : Nat) : (s.setRaw loc b).clus a = s.clus a := rfl
@[simp] theorem State.team_setRaw (a : Nat) : (s.setRaw loc b).team a = s.team a := rfl
@[simp] theorem State.queue_setRaw (a : Nat) : (s.setRaw loc b).queue a = s.queue a := rfl
@[simp] theorem State.link_setRaw (a : Nat) : (s.setRaw loc b).link a = s.link a := rfl
@[simp] theorem State.slot_setRaw (a : Nat) : (s.setRaw loc b).slot a = s.slot a := rfl
@[simp] theorem State.seqLink_setRaw (a : Nat) : (s.setRaw loc b).seqLink a = s.seqLink a := rfl
@[simp] theorem State.qp_setRaw (a : Nat) : (s.setRaw loc b).qp a = s.qp a := rfl
@[simp] theorem State.deque_setRaw (a : Nat) : (s.setRaw loc b).deque a = s.deque a := rfl
@[simp] theorem State.quad_setRaw (a : Nat) : (s.setRaw loc b).quad a = s.quad a := rfl

end

section
variable (s : State) (core loc : Nat) (x : Option (Bool × Byte))

@[simp] theorem State.setL1_mem : (s.setL1 core loc x).mem = s.mem := rfl
@[simp] theorem State.setL1_streams : (s.setL1 core loc x).streams = s.streams := rfl
@[simp] theorem State.setL1_l2 : (s.setL1 core loc x).l2 = s.l2 := rfl
@[simp] theorem State.setL1_poison : (s.setL1 core loc x).poison = s.poison := rfl
@[simp] theorem State.setL1_owners : (s.setL1 core loc x).owners = s.owners := rfl
@[simp] theorem State.setL1_l1i : (s.setL1 core loc x).l1i = s.l1i := rfl
@[simp] theorem State.setL1_tlb : (s.setL1 core loc x).tlb = s.tlb := rfl
@[simp] theorem State.setL1_keys : (s.setL1 core loc x).keys = s.keys := rfl
@[simp] theorem State.setL1_grps : (s.setL1 core loc x).grps = s.grps := rfl
@[simp] theorem State.setL1_cycles : (s.setL1 core loc x).cycles = s.cycles := rfl
@[simp] theorem State.setL1_deques : (s.setL1 core loc x).deques = s.deques := rfl
@[simp] theorem State.setL1_books : (s.setL1 core loc x).books = s.books := rfl
@[simp] theorem State.setL1_ctxs : (s.setL1 core loc x).ctxs = s.ctxs := rfl
@[simp] theorem State.setL1_objs : (s.setL1 core loc x).objs = s.objs := rfl
@[simp] theorem State.setL1_sched : (s.setL1 core loc x).sched = s.sched := rfl
@[simp] theorem State.setL1_bbox : (s.setL1 core loc x).bbox = s.bbox := rfl
@[simp] theorem State.setL1_fabric : (s.setL1 core loc x).fabric = s.fabric := rfl
@[simp] theorem State.setL1_seqs : (s.setL1 core loc x).seqs = s.seqs := rfl
@[simp] theorem State.setL1_rs : (s.setL1 core loc x).rs = s.rs := rfl
@[simp] theorem State.setL1_decs : (s.setL1 core loc x).decs = s.decs := rfl
@[simp] theorem State.setL1_host : (s.setL1 core loc x).host = s.host := rfl
@[simp] theorem State.setL1_mgmt : (s.setL1 core loc x).mgmt = s.mgmt := rfl
@[simp] theorem State.setL1_away : (s.setL1 core loc x).away = s.away := rfl
@[simp] theorem State.setL1_tags : (s.setL1 core loc x).tags = s.tags := rfl
@[simp] theorem State.setL1_sample : (s.setL1 core loc x).sample = s.sample := rfl
@[simp] theorem State.setL1_cur : (s.setL1 core loc x).cur = s.cur := rfl
@[simp] theorem State.setL1_agenda : (s.setL1 core loc x).agenda = s.agenda := rfl
@[simp] theorem State.setL1_order : (s.setL1 core loc x).order = s.order := rfl
@[simp] theorem State.setL1_free : (s.setL1 core loc x).free = s.free := rfl
@[simp] theorem State.setL1_tick : (s.setL1 core loc x).tick = s.tick := rfl
@[simp] theorem State.grp_setL1 (a : Nat) : (s.setL1 core loc x).grp a = s.grp a := rfl
@[simp] theorem State.ctx_setL1 (a : Nat) : (s.setL1 core loc x).ctx a = s.ctx a := rfl
@[simp] theorem State.grid_setL1 (a : Nat) : (s.setL1 core loc x).grid a = s.grid a := rfl
@[simp] theorem State.clus_setL1 (a : Nat) : (s.setL1 core loc x).clus a = s.clus a := rfl
@[simp] theorem State.team_setL1 (a : Nat) : (s.setL1 core loc x).team a = s.team a := rfl
@[simp] theorem State.queue_setL1 (a : Nat) : (s.setL1 core loc x).queue a = s.queue a := rfl
@[simp] theorem State.link_setL1 (a : Nat) : (s.setL1 core loc x).link a = s.link a := rfl
@[simp] theorem State.slot_setL1 (a : Nat) : (s.setL1 core loc x).slot a = s.slot a := rfl
@[simp] theorem State.seqLink_setL1 (a : Nat) : (s.setL1 core loc x).seqLink a = s.seqLink a := rfl
@[simp] theorem State.qp_setL1 (a : Nat) : (s.setL1 core loc x).qp a = s.qp a := rfl
@[simp] theorem State.deque_setL1 (a : Nat) : (s.setL1 core loc x).deque a = s.deque a := rfl
@[simp] theorem State.quad_setL1 (a : Nat) : (s.setL1 core loc x).quad a = s.quad a := rfl

end

section
variable (s : State) (j : Nat) (x : Link)

@[simp] theorem State.setLink_mem : (s.setLink j x).mem = s.mem := rfl
@[simp] theorem State.setLink_l1 : (s.setLink j x).l1 = s.l1 := rfl
@[simp] theorem State.setLink_streams : (s.setLink j x).streams = s.streams := rfl
@[simp] theorem State.setLink_l2 : (s.setLink j x).l2 = s.l2 := rfl
@[simp] theorem State.setLink_poison : (s.setLink j x).poison = s.poison := rfl
@[simp] theorem State.setLink_owners : (s.setLink j x).owners = s.owners := rfl
@[simp] theorem State.setLink_l1i : (s.setLink j x).l1i = s.l1i := rfl
@[simp] theorem State.setLink_tlb : (s.setLink j x).tlb = s.tlb := rfl
@[simp] theorem State.setLink_keys : (s.setLink j x).keys = s.keys := rfl
@[simp] theorem State.setLink_grps : (s.setLink j x).grps = s.grps := rfl
@[simp] theorem State.setLink_cycles : (s.setLink j x).cycles = s.cycles := rfl
@[simp] theorem State.setLink_deques : (s.setLink j x).deques = s.deques := rfl
@[simp] theorem State.setLink_books : (s.setLink j x).books = s.books := rfl
@[simp] theorem State.setLink_ctxs : (s.setLink j x).ctxs = s.ctxs := rfl
@[simp] theorem State.setLink_objs : (s.setLink j x).objs = s.objs := rfl
@[simp] theorem State.setLink_sched : (s.setLink j x).sched = s.sched := rfl
@[simp] theorem State.setLink_bbox : (s.setLink j x).bbox = s.bbox := rfl
@[simp] theorem State.setLink_seqs : (s.setLink j x).seqs = s.seqs := rfl
@[simp] theorem State.setLink_rs : (s.setLink j x).rs = s.rs := rfl
@[simp] theorem State.setLink_decs : (s.setLink j x).decs = s.decs := rfl
@[simp] theorem State.setLink_host : (s.setLink j x).host = s.host := rfl
@[simp] theorem State.setLink_mgmt : (s.setLink j x).mgmt = s.mgmt := rfl
@[simp] theorem State.setLink_away : (s.setLink j x).away = s.away := rfl
@[simp] theorem State.setLink_tags : (s.setLink j x).tags = s.tags := rfl
@[simp] theorem State.setLink_sample : (s.setLink j x).sample = s.sample := rfl
@[simp] theorem State.setLink_cur : (s.setLink j x).cur = s.cur := rfl
@[simp] theorem State.setLink_agenda : (s.setLink j x).agenda = s.agenda := rfl
@[simp] theorem State.setLink_order : (s.setLink j x).order = s.order := rfl
@[simp] theorem State.setLink_free : (s.setLink j x).free = s.free := rfl
@[simp] theorem State.setLink_tick : (s.setLink j x).tick = s.tick := rfl
@[simp] theorem State.setLink_fabric_self : (s.setLink j x).fabric.self = s.fabric.self := rfl
@[simp] theorem State.setLink_fabric_txNext : (s.setLink j x).fabric.txNext = s.fabric.txNext := rfl
@[simp] theorem State.setLink_fabric_rxNext : (s.setLink j x).fabric.rxNext = s.fabric.rxNext := rfl
@[simp] theorem State.setLink_fabric_heldRx : (s.setLink j x).fabric.heldRx = s.fabric.heldRx := rfl
@[simp] theorem State.setLink_fabric_outbox : (s.setLink j x).fabric.outbox = s.fabric.outbox := rfl
@[simp] theorem State.setLink_fabric_relay : (s.setLink j x).fabric.relay = s.fabric.relay := rfl
@[simp] theorem State.setLink_fabric_nextReq : (s.setLink j x).fabric.nextReq = s.fabric.nextReq := rfl
@[simp] theorem State.setLink_fabric_flags : (s.setLink j x).fabric.flags = s.fabric.flags := rfl
@[simp] theorem State.setLink_fabric_parts : (s.setLink j x).fabric.parts = s.fabric.parts := rfl
@[simp] theorem State.grp_setLink (a : Nat) : (s.setLink j x).grp a = s.grp a := rfl
@[simp] theorem State.ctx_setLink (a : Nat) : (s.setLink j x).ctx a = s.ctx a := rfl
@[simp] theorem State.grid_setLink (a : Nat) : (s.setLink j x).grid a = s.grid a := rfl
@[simp] theorem State.clus_setLink (a : Nat) : (s.setLink j x).clus a = s.clus a := rfl
@[simp] theorem State.team_setLink (a : Nat) : (s.setLink j x).team a = s.team a := rfl
@[simp] theorem State.queue_setLink (a : Nat) : (s.setLink j x).queue a = s.queue a := rfl
@[simp] theorem State.rawByte_setLink (a : Nat) : (s.setLink j x).rawByte a = s.rawByte a := rfl
@[simp] theorem State.l1Byte_setLink (c a : Nat) : (s.setLink j x).l1Byte c a = s.l1Byte c a := rfl
@[simp] theorem State.slot_setLink (a : Nat) : (s.setLink j x).slot a = s.slot a := rfl
@[simp] theorem State.seqLink_setLink (a : Nat) : (s.setLink j x).seqLink a = s.seqLink a := rfl
@[simp] theorem State.qp_setLink (a : Nat) : (s.setLink j x).qp a = s.qp a := rfl
@[simp] theorem State.deque_setLink (a : Nat) : (s.setLink j x).deque a = s.deque a := rfl
@[simp] theorem State.quad_setLink (a : Nat) : (s.setLink j x).quad a = s.quad a := rfl

end

section
variable (s : State) (dst kind ctxid : Nat) (addr : Dword) (top : Nat) (body : MsgBody)

@[simp] theorem State.sendMsg_mem : (s.sendMsg dst kind ctxid addr top body).mem = s.mem := rfl
@[simp] theorem State.sendMsg_l1 : (s.sendMsg dst kind ctxid addr top body).l1 = s.l1 := rfl
@[simp] theorem State.sendMsg_streams : (s.sendMsg dst kind ctxid addr top body).streams = s.streams := rfl
@[simp] theorem State.sendMsg_l2 : (s.sendMsg dst kind ctxid addr top body).l2 = s.l2 := rfl
@[simp] theorem State.sendMsg_poison : (s.sendMsg dst kind ctxid addr top body).poison = s.poison := rfl
@[simp] theorem State.sendMsg_owners : (s.sendMsg dst kind ctxid addr top body).owners = s.owners := rfl
@[simp] theorem State.sendMsg_l1i : (s.sendMsg dst kind ctxid addr top body).l1i = s.l1i := rfl
@[simp] theorem State.sendMsg_tlb : (s.sendMsg dst kind ctxid addr top body).tlb = s.tlb := rfl
@[simp] theorem State.sendMsg_keys : (s.sendMsg dst kind ctxid addr top body).keys = s.keys := rfl
@[simp] theorem State.sendMsg_grps : (s.sendMsg dst kind ctxid addr top body).grps = s.grps := rfl
@[simp] theorem State.sendMsg_cycles : (s.sendMsg dst kind ctxid addr top body).cycles = s.cycles := rfl
@[simp] theorem State.sendMsg_deques : (s.sendMsg dst kind ctxid addr top body).deques = s.deques := rfl
@[simp] theorem State.sendMsg_books : (s.sendMsg dst kind ctxid addr top body).books = s.books := rfl
@[simp] theorem State.sendMsg_ctxs : (s.sendMsg dst kind ctxid addr top body).ctxs = s.ctxs := rfl
@[simp] theorem State.sendMsg_objs : (s.sendMsg dst kind ctxid addr top body).objs = s.objs := rfl
@[simp] theorem State.sendMsg_sched : (s.sendMsg dst kind ctxid addr top body).sched = s.sched := rfl
@[simp] theorem State.sendMsg_bbox : (s.sendMsg dst kind ctxid addr top body).bbox = s.bbox := rfl
@[simp] theorem State.sendMsg_seqs : (s.sendMsg dst kind ctxid addr top body).seqs = s.seqs := rfl
@[simp] theorem State.sendMsg_rs : (s.sendMsg dst kind ctxid addr top body).rs = s.rs := rfl
@[simp] theorem State.sendMsg_decs : (s.sendMsg dst kind ctxid addr top body).decs = s.decs := rfl
@[simp] theorem State.sendMsg_host : (s.sendMsg dst kind ctxid addr top body).host = s.host := rfl
@[simp] theorem State.sendMsg_mgmt : (s.sendMsg dst kind ctxid addr top body).mgmt = s.mgmt := rfl
@[simp] theorem State.sendMsg_away : (s.sendMsg dst kind ctxid addr top body).away = s.away := rfl
@[simp] theorem State.sendMsg_tags : (s.sendMsg dst kind ctxid addr top body).tags = s.tags := rfl
@[simp] theorem State.sendMsg_sample : (s.sendMsg dst kind ctxid addr top body).sample = s.sample := rfl
@[simp] theorem State.sendMsg_cur : (s.sendMsg dst kind ctxid addr top body).cur = s.cur := rfl
@[simp] theorem State.sendMsg_agenda : (s.sendMsg dst kind ctxid addr top body).agenda = s.agenda := rfl
@[simp] theorem State.sendMsg_order : (s.sendMsg dst kind ctxid addr top body).order = s.order := rfl
@[simp] theorem State.sendMsg_free : (s.sendMsg dst kind ctxid addr top body).free = s.free := rfl
@[simp] theorem State.sendMsg_tick : (s.sendMsg dst kind ctxid addr top body).tick = s.tick := rfl
@[simp] theorem State.sendMsg_fabric_self : (s.sendMsg dst kind ctxid addr top body).fabric.self = s.fabric.self := rfl
@[simp] theorem State.sendMsg_fabric_links : (s.sendMsg dst kind ctxid addr top body).fabric.links = s.fabric.links := rfl
@[simp] theorem State.sendMsg_fabric_rxNext : (s.sendMsg dst kind ctxid addr top body).fabric.rxNext = s.fabric.rxNext := rfl
@[simp] theorem State.sendMsg_fabric_relay : (s.sendMsg dst kind ctxid addr top body).fabric.relay = s.fabric.relay := rfl
@[simp] theorem State.sendMsg_fabric_nextReq : (s.sendMsg dst kind ctxid addr top body).fabric.nextReq = s.fabric.nextReq := rfl
@[simp] theorem State.sendMsg_fabric_flags : (s.sendMsg dst kind ctxid addr top body).fabric.flags = s.fabric.flags := rfl
@[simp] theorem State.sendMsg_fabric_parts : (s.sendMsg dst kind ctxid addr top body).fabric.parts = s.fabric.parts := rfl
@[simp] theorem State.grp_sendMsg (a : Nat) : (s.sendMsg dst kind ctxid addr top body).grp a = s.grp a := rfl
@[simp] theorem State.ctx_sendMsg (a : Nat) : (s.sendMsg dst kind ctxid addr top body).ctx a = s.ctx a := rfl
@[simp] theorem State.grid_sendMsg (a : Nat) : (s.sendMsg dst kind ctxid addr top body).grid a = s.grid a := rfl
@[simp] theorem State.clus_sendMsg (a : Nat) : (s.sendMsg dst kind ctxid addr top body).clus a = s.clus a := rfl
@[simp] theorem State.team_sendMsg (a : Nat) : (s.sendMsg dst kind ctxid addr top body).team a = s.team a := rfl
@[simp] theorem State.queue_sendMsg (a : Nat) : (s.sendMsg dst kind ctxid addr top body).queue a = s.queue a := rfl
@[simp] theorem State.rawByte_sendMsg (a : Nat) : (s.sendMsg dst kind ctxid addr top body).rawByte a = s.rawByte a := rfl
@[simp] theorem State.l1Byte_sendMsg (c a : Nat) : (s.sendMsg dst kind ctxid addr top body).l1Byte c a = s.l1Byte c a := rfl
@[simp] theorem State.link_sendMsg (a : Nat) : (s.sendMsg dst kind ctxid addr top body).link a = s.link a := rfl
@[simp] theorem State.slot_sendMsg (a : Nat) : (s.sendMsg dst kind ctxid addr top body).slot a = s.slot a := rfl
@[simp] theorem State.seqLink_sendMsg (a : Nat) : (s.sendMsg dst kind ctxid addr top body).seqLink a = s.seqLink a := rfl
@[simp] theorem State.qp_sendMsg (a : Nat) : (s.sendMsg dst kind ctxid addr top body).qp a = s.qp a := rfl
@[simp] theorem State.deque_sendMsg (a : Nat) : (s.sendMsg dst kind ctxid addr top body).deque a = s.deque a := rfl
@[simp] theorem State.quad_sendMsg (a : Nat) : (s.sendMsg dst kind ctxid addr top body).quad a = s.quad a := rfl

end

section
variable (s : State) (k : Nat) (x : SeqSlot)

@[simp] theorem State.setSlot_mem : (s.setSlot k x).mem = s.mem := rfl
@[simp] theorem State.setSlot_l1 : (s.setSlot k x).l1 = s.l1 := rfl
@[simp] theorem State.setSlot_streams : (s.setSlot k x).streams = s.streams := rfl
@[simp] theorem State.setSlot_l2 : (s.setSlot k x).l2 = s.l2 := rfl
@[simp] theorem State.setSlot_poison : (s.setSlot k x).poison = s.poison := rfl
@[simp] theorem State.setSlot_owners : (s.setSlot k x).owners = s.owners := rfl
@[simp] theorem State.setSlot_l1i : (s.setSlot k x).l1i = s.l1i := rfl
@[simp] theorem State.setSlot_tlb : (s.setSlot k x).tlb = s.tlb := rfl
@[simp] theorem State.setSlot_keys : (s.setSlot k x).keys = s.keys := rfl
@[simp] theorem State.setSlot_grps : (s.setSlot k x).grps = s.grps := rfl
@[simp] theorem State.setSlot_cycles : (s.setSlot k x).cycles = s.cycles := rfl
@[simp] theorem State.setSlot_deques : (s.setSlot k x).deques = s.deques := rfl
@[simp] theorem State.setSlot_books : (s.setSlot k x).books = s.books := rfl
@[simp] theorem State.setSlot_ctxs : (s.setSlot k x).ctxs = s.ctxs := rfl
@[simp] theorem State.setSlot_objs : (s.setSlot k x).objs = s.objs := rfl
@[simp] theorem State.setSlot_sched : (s.setSlot k x).sched = s.sched := rfl
@[simp] theorem State.setSlot_bbox : (s.setSlot k x).bbox = s.bbox := rfl
@[simp] theorem State.setSlot_fabric : (s.setSlot k x).fabric = s.fabric := rfl
@[simp] theorem State.setSlot_rs : (s.setSlot k x).rs = s.rs := rfl
@[simp] theorem State.setSlot_decs : (s.setSlot k x).decs = s.decs := rfl
@[simp] theorem State.setSlot_host : (s.setSlot k x).host = s.host := rfl
@[simp] theorem State.setSlot_mgmt : (s.setSlot k x).mgmt = s.mgmt := rfl
@[simp] theorem State.setSlot_away : (s.setSlot k x).away = s.away := rfl
@[simp] theorem State.setSlot_tags : (s.setSlot k x).tags = s.tags := rfl
@[simp] theorem State.setSlot_sample : (s.setSlot k x).sample = s.sample := rfl
@[simp] theorem State.setSlot_cur : (s.setSlot k x).cur = s.cur := rfl
@[simp] theorem State.setSlot_agenda : (s.setSlot k x).agenda = s.agenda := rfl
@[simp] theorem State.setSlot_order : (s.setSlot k x).order = s.order := rfl
@[simp] theorem State.setSlot_free : (s.setSlot k x).free = s.free := rfl
@[simp] theorem State.setSlot_tick : (s.setSlot k x).tick = s.tick := rfl
@[simp] theorem State.setSlot_seqs_links : (s.setSlot k x).seqs.links = s.seqs.links := rfl
@[simp] theorem State.setSlot_seqs_cur : (s.setSlot k x).seqs.cur = s.seqs.cur := rfl
@[simp] theorem State.setSlot_seqs_imps : (s.setSlot k x).seqs.imps = s.seqs.imps := rfl
@[simp] theorem State.setSlot_seqs_parts : (s.setSlot k x).seqs.parts = s.seqs.parts := rfl
@[simp] theorem State.setSlot_seqs_nextImp : (s.setSlot k x).seqs.nextImp = s.seqs.nextImp := rfl
@[simp] theorem State.grp_setSlot (a : Nat) : (s.setSlot k x).grp a = s.grp a := rfl
@[simp] theorem State.ctx_setSlot (a : Nat) : (s.setSlot k x).ctx a = s.ctx a := rfl
@[simp] theorem State.grid_setSlot (a : Nat) : (s.setSlot k x).grid a = s.grid a := rfl
@[simp] theorem State.clus_setSlot (a : Nat) : (s.setSlot k x).clus a = s.clus a := rfl
@[simp] theorem State.team_setSlot (a : Nat) : (s.setSlot k x).team a = s.team a := rfl
@[simp] theorem State.queue_setSlot (a : Nat) : (s.setSlot k x).queue a = s.queue a := rfl
@[simp] theorem State.rawByte_setSlot (a : Nat) : (s.setSlot k x).rawByte a = s.rawByte a := rfl
@[simp] theorem State.l1Byte_setSlot (c a : Nat) : (s.setSlot k x).l1Byte c a = s.l1Byte c a := rfl
@[simp] theorem State.link_setSlot (a : Nat) : (s.setSlot k x).link a = s.link a := rfl
@[simp] theorem State.seqLink_setSlot (a : Nat) : (s.setSlot k x).seqLink a = s.seqLink a := rfl
@[simp] theorem State.qp_setSlot (a : Nat) : (s.setSlot k x).qp a = s.qp a := rfl
@[simp] theorem State.deque_setSlot (a : Nat) : (s.setSlot k x).deque a = s.deque a := rfl
@[simp] theorem State.quad_setSlot (a : Nat) : (s.setSlot k x).quad a = s.quad a := rfl

end

section
variable (s : State) (k : Nat) (f : SeqSlot → SeqSlot)

@[simp] theorem State.modSlot_mem : (s.modSlot k f).mem = s.mem := rfl
@[simp] theorem State.modSlot_l1 : (s.modSlot k f).l1 = s.l1 := rfl
@[simp] theorem State.modSlot_streams : (s.modSlot k f).streams = s.streams := rfl
@[simp] theorem State.modSlot_l2 : (s.modSlot k f).l2 = s.l2 := rfl
@[simp] theorem State.modSlot_poison : (s.modSlot k f).poison = s.poison := rfl
@[simp] theorem State.modSlot_owners : (s.modSlot k f).owners = s.owners := rfl
@[simp] theorem State.modSlot_l1i : (s.modSlot k f).l1i = s.l1i := rfl
@[simp] theorem State.modSlot_tlb : (s.modSlot k f).tlb = s.tlb := rfl
@[simp] theorem State.modSlot_keys : (s.modSlot k f).keys = s.keys := rfl
@[simp] theorem State.modSlot_grps : (s.modSlot k f).grps = s.grps := rfl
@[simp] theorem State.modSlot_cycles : (s.modSlot k f).cycles = s.cycles := rfl
@[simp] theorem State.modSlot_deques : (s.modSlot k f).deques = s.deques := rfl
@[simp] theorem State.modSlot_books : (s.modSlot k f).books = s.books := rfl
@[simp] theorem State.modSlot_ctxs : (s.modSlot k f).ctxs = s.ctxs := rfl
@[simp] theorem State.modSlot_objs : (s.modSlot k f).objs = s.objs := rfl
@[simp] theorem State.modSlot_sched : (s.modSlot k f).sched = s.sched := rfl
@[simp] theorem State.modSlot_bbox : (s.modSlot k f).bbox = s.bbox := rfl
@[simp] theorem State.modSlot_fabric : (s.modSlot k f).fabric = s.fabric := rfl
@[simp] theorem State.modSlot_rs : (s.modSlot k f).rs = s.rs := rfl
@[simp] theorem State.modSlot_decs : (s.modSlot k f).decs = s.decs := rfl
@[simp] theorem State.modSlot_host : (s.modSlot k f).host = s.host := rfl
@[simp] theorem State.modSlot_mgmt : (s.modSlot k f).mgmt = s.mgmt := rfl
@[simp] theorem State.modSlot_away : (s.modSlot k f).away = s.away := rfl
@[simp] theorem State.modSlot_tags : (s.modSlot k f).tags = s.tags := rfl
@[simp] theorem State.modSlot_sample : (s.modSlot k f).sample = s.sample := rfl
@[simp] theorem State.modSlot_cur : (s.modSlot k f).cur = s.cur := rfl
@[simp] theorem State.modSlot_agenda : (s.modSlot k f).agenda = s.agenda := rfl
@[simp] theorem State.modSlot_order : (s.modSlot k f).order = s.order := rfl
@[simp] theorem State.modSlot_free : (s.modSlot k f).free = s.free := rfl
@[simp] theorem State.modSlot_tick : (s.modSlot k f).tick = s.tick := rfl
@[simp] theorem State.modSlot_seqs_links : (s.modSlot k f).seqs.links = s.seqs.links := rfl
@[simp] theorem State.modSlot_seqs_cur : (s.modSlot k f).seqs.cur = s.seqs.cur := rfl
@[simp] theorem State.modSlot_seqs_imps : (s.modSlot k f).seqs.imps = s.seqs.imps := rfl
@[simp] theorem State.modSlot_seqs_parts : (s.modSlot k f).seqs.parts = s.seqs.parts := rfl
@[simp] theorem State.modSlot_seqs_nextImp : (s.modSlot k f).seqs.nextImp = s.seqs.nextImp := rfl
@[simp] theorem State.grp_modSlot (a : Nat) : (s.modSlot k f).grp a = s.grp a := rfl
@[simp] theorem State.ctx_modSlot (a : Nat) : (s.modSlot k f).ctx a = s.ctx a := rfl
@[simp] theorem State.grid_modSlot (a : Nat) : (s.modSlot k f).grid a = s.grid a := rfl
@[simp] theorem State.clus_modSlot (a : Nat) : (s.modSlot k f).clus a = s.clus a := rfl
@[simp] theorem State.team_modSlot (a : Nat) : (s.modSlot k f).team a = s.team a := rfl
@[simp] theorem State.queue_modSlot (a : Nat) : (s.modSlot k f).queue a = s.queue a := rfl
@[simp] theorem State.rawByte_modSlot (a : Nat) : (s.modSlot k f).rawByte a = s.rawByte a := rfl
@[simp] theorem State.l1Byte_modSlot (c a : Nat) : (s.modSlot k f).l1Byte c a = s.l1Byte c a := rfl
@[simp] theorem State.link_modSlot (a : Nat) : (s.modSlot k f).link a = s.link a := rfl
@[simp] theorem State.seqLink_modSlot (a : Nat) : (s.modSlot k f).seqLink a = s.seqLink a := rfl
@[simp] theorem State.qp_modSlot (a : Nat) : (s.modSlot k f).qp a = s.qp a := rfl
@[simp] theorem State.deque_modSlot (a : Nat) : (s.modSlot k f).deque a = s.deque a := rfl
@[simp] theorem State.quad_modSlot (a : Nat) : (s.modSlot k f).quad a = s.quad a := rfl

end

section
variable (s : State) (j : Nat) (x : SeqLink)

@[simp] theorem State.setSeqLink_mem : (s.setSeqLink j x).mem = s.mem := rfl
@[simp] theorem State.setSeqLink_l1 : (s.setSeqLink j x).l1 = s.l1 := rfl
@[simp] theorem State.setSeqLink_streams : (s.setSeqLink j x).streams = s.streams := rfl
@[simp] theorem State.setSeqLink_l2 : (s.setSeqLink j x).l2 = s.l2 := rfl
@[simp] theorem State.setSeqLink_poison : (s.setSeqLink j x).poison = s.poison := rfl
@[simp] theorem State.setSeqLink_owners : (s.setSeqLink j x).owners = s.owners := rfl
@[simp] theorem State.setSeqLink_l1i : (s.setSeqLink j x).l1i = s.l1i := rfl
@[simp] theorem State.setSeqLink_tlb : (s.setSeqLink j x).tlb = s.tlb := rfl
@[simp] theorem State.setSeqLink_keys : (s.setSeqLink j x).keys = s.keys := rfl
@[simp] theorem State.setSeqLink_grps : (s.setSeqLink j x).grps = s.grps := rfl
@[simp] theorem State.setSeqLink_cycles : (s.setSeqLink j x).cycles = s.cycles := rfl
@[simp] theorem State.setSeqLink_deques : (s.setSeqLink j x).deques = s.deques := rfl
@[simp] theorem State.setSeqLink_books : (s.setSeqLink j x).books = s.books := rfl
@[simp] theorem State.setSeqLink_ctxs : (s.setSeqLink j x).ctxs = s.ctxs := rfl
@[simp] theorem State.setSeqLink_objs : (s.setSeqLink j x).objs = s.objs := rfl
@[simp] theorem State.setSeqLink_sched : (s.setSeqLink j x).sched = s.sched := rfl
@[simp] theorem State.setSeqLink_bbox : (s.setSeqLink j x).bbox = s.bbox := rfl
@[simp] theorem State.setSeqLink_fabric : (s.setSeqLink j x).fabric = s.fabric := rfl
@[simp] theorem State.setSeqLink_rs : (s.setSeqLink j x).rs = s.rs := rfl
@[simp] theorem State.setSeqLink_decs : (s.setSeqLink j x).decs = s.decs := rfl
@[simp] theorem State.setSeqLink_host : (s.setSeqLink j x).host = s.host := rfl
@[simp] theorem State.setSeqLink_mgmt : (s.setSeqLink j x).mgmt = s.mgmt := rfl
@[simp] theorem State.setSeqLink_away : (s.setSeqLink j x).away = s.away := rfl
@[simp] theorem State.setSeqLink_tags : (s.setSeqLink j x).tags = s.tags := rfl
@[simp] theorem State.setSeqLink_sample : (s.setSeqLink j x).sample = s.sample := rfl
@[simp] theorem State.setSeqLink_cur : (s.setSeqLink j x).cur = s.cur := rfl
@[simp] theorem State.setSeqLink_agenda : (s.setSeqLink j x).agenda = s.agenda := rfl
@[simp] theorem State.setSeqLink_order : (s.setSeqLink j x).order = s.order := rfl
@[simp] theorem State.setSeqLink_free : (s.setSeqLink j x).free = s.free := rfl
@[simp] theorem State.setSeqLink_tick : (s.setSeqLink j x).tick = s.tick := rfl
@[simp] theorem State.setSeqLink_seqs_slots : (s.setSeqLink j x).seqs.slots = s.seqs.slots := rfl
@[simp] theorem State.setSeqLink_seqs_cur : (s.setSeqLink j x).seqs.cur = s.seqs.cur := rfl
@[simp] theorem State.setSeqLink_seqs_imps : (s.setSeqLink j x).seqs.imps = s.seqs.imps := rfl
@[simp] theorem State.setSeqLink_seqs_parts : (s.setSeqLink j x).seqs.parts = s.seqs.parts := rfl
@[simp] theorem State.setSeqLink_seqs_nextImp : (s.setSeqLink j x).seqs.nextImp = s.seqs.nextImp := rfl
@[simp] theorem State.grp_setSeqLink (a : Nat) : (s.setSeqLink j x).grp a = s.grp a := rfl
@[simp] theorem State.ctx_setSeqLink (a : Nat) : (s.setSeqLink j x).ctx a = s.ctx a := rfl
@[simp] theorem State.grid_setSeqLink (a : Nat) : (s.setSeqLink j x).grid a = s.grid a := rfl
@[simp] theorem State.clus_setSeqLink (a : Nat) : (s.setSeqLink j x).clus a = s.clus a := rfl
@[simp] theorem State.team_setSeqLink (a : Nat) : (s.setSeqLink j x).team a = s.team a := rfl
@[simp] theorem State.queue_setSeqLink (a : Nat) : (s.setSeqLink j x).queue a = s.queue a := rfl
@[simp] theorem State.rawByte_setSeqLink (a : Nat) : (s.setSeqLink j x).rawByte a = s.rawByte a := rfl
@[simp] theorem State.l1Byte_setSeqLink (c a : Nat) : (s.setSeqLink j x).l1Byte c a = s.l1Byte c a := rfl
@[simp] theorem State.link_setSeqLink (a : Nat) : (s.setSeqLink j x).link a = s.link a := rfl
@[simp] theorem State.slot_setSeqLink (a : Nat) : (s.setSeqLink j x).slot a = s.slot a := rfl
@[simp] theorem State.qp_setSeqLink (a : Nat) : (s.setSeqLink j x).qp a = s.qp a := rfl
@[simp] theorem State.deque_setSeqLink (a : Nat) : (s.setSeqLink j x).deque a = s.deque a := rfl
@[simp] theorem State.quad_setSeqLink (a : Nat) : (s.setSeqLink j x).quad a = s.quad a := rfl

end

section
variable (s : State) (q : Nat) (x : QPair)

@[simp] theorem State.setQp_mem : (s.setQp q x).mem = s.mem := rfl
@[simp] theorem State.setQp_l1 : (s.setQp q x).l1 = s.l1 := rfl
@[simp] theorem State.setQp_streams : (s.setQp q x).streams = s.streams := rfl
@[simp] theorem State.setQp_l2 : (s.setQp q x).l2 = s.l2 := rfl
@[simp] theorem State.setQp_poison : (s.setQp q x).poison = s.poison := rfl
@[simp] theorem State.setQp_owners : (s.setQp q x).owners = s.owners := rfl
@[simp] theorem State.setQp_l1i : (s.setQp q x).l1i = s.l1i := rfl
@[simp] theorem State.setQp_tlb : (s.setQp q x).tlb = s.tlb := rfl
@[simp] theorem State.setQp_keys : (s.setQp q x).keys = s.keys := rfl
@[simp] theorem State.setQp_grps : (s.setQp q x).grps = s.grps := rfl
@[simp] theorem State.setQp_cycles : (s.setQp q x).cycles = s.cycles := rfl
@[simp] theorem State.setQp_deques : (s.setQp q x).deques = s.deques := rfl
@[simp] theorem State.setQp_books : (s.setQp q x).books = s.books := rfl
@[simp] theorem State.setQp_ctxs : (s.setQp q x).ctxs = s.ctxs := rfl
@[simp] theorem State.setQp_objs : (s.setQp q x).objs = s.objs := rfl
@[simp] theorem State.setQp_sched : (s.setQp q x).sched = s.sched := rfl
@[simp] theorem State.setQp_bbox : (s.setQp q x).bbox = s.bbox := rfl
@[simp] theorem State.setQp_fabric : (s.setQp q x).fabric = s.fabric := rfl
@[simp] theorem State.setQp_seqs : (s.setQp q x).seqs = s.seqs := rfl
@[simp] theorem State.setQp_rs : (s.setQp q x).rs = s.rs := rfl
@[simp] theorem State.setQp_decs : (s.setQp q x).decs = s.decs := rfl
@[simp] theorem State.setQp_mgmt : (s.setQp q x).mgmt = s.mgmt := rfl
@[simp] theorem State.setQp_away : (s.setQp q x).away = s.away := rfl
@[simp] theorem State.setQp_tags : (s.setQp q x).tags = s.tags := rfl
@[simp] theorem State.setQp_sample : (s.setQp q x).sample = s.sample := rfl
@[simp] theorem State.setQp_cur : (s.setQp q x).cur = s.cur := rfl
@[simp] theorem State.setQp_agenda : (s.setQp q x).agenda = s.agenda := rfl
@[simp] theorem State.setQp_order : (s.setQp q x).order = s.order := rfl
@[simp] theorem State.setQp_free : (s.setQp q x).free = s.free := rfl
@[simp] theorem State.setQp_tick : (s.setQp q x).tick = s.tick := rfl
@[simp] theorem State.setQp_host_regions : (s.setQp q x).host.regions = s.host.regions := rfl
@[simp] theorem State.setQp_host_nextKey : (s.setQp q x).host.nextKey = s.host.nextKey := rfl
@[simp] theorem State.setQp_host_out : (s.setQp q x).host.out = s.host.out := rfl
@[simp] theorem State.grp_setQp (a : Nat) : (s.setQp q x).grp a = s.grp a := rfl
@[simp] theorem State.ctx_setQp (a : Nat) : (s.setQp q x).ctx a = s.ctx a := rfl
@[simp] theorem State.grid_setQp (a : Nat) : (s.setQp q x).grid a = s.grid a := rfl
@[simp] theorem State.clus_setQp (a : Nat) : (s.setQp q x).clus a = s.clus a := rfl
@[simp] theorem State.team_setQp (a : Nat) : (s.setQp q x).team a = s.team a := rfl
@[simp] theorem State.queue_setQp (a : Nat) : (s.setQp q x).queue a = s.queue a := rfl
@[simp] theorem State.rawByte_setQp (a : Nat) : (s.setQp q x).rawByte a = s.rawByte a := rfl
@[simp] theorem State.l1Byte_setQp (c a : Nat) : (s.setQp q x).l1Byte c a = s.l1Byte c a := rfl
@[simp] theorem State.link_setQp (a : Nat) : (s.setQp q x).link a = s.link a := rfl
@[simp] theorem State.slot_setQp (a : Nat) : (s.setQp q x).slot a = s.slot a := rfl
@[simp] theorem State.seqLink_setQp (a : Nat) : (s.setQp q x).seqLink a = s.seqLink a := rfl
@[simp] theorem State.deque_setQp (a : Nat) : (s.setQp q x).deque a = s.deque a := rfl
@[simp] theorem State.quad_setQp (a : Nat) : (s.setQp q x).quad a = s.quad a := rfl

end

section
variable (s : State) (m : HostMsg)

@[simp] theorem State.send_mem : (s.send m).mem = s.mem := rfl
@[simp] theorem State.send_l1 : (s.send m).l1 = s.l1 := rfl
@[simp] theorem State.send_streams : (s.send m).streams = s.streams := rfl
@[simp] theorem State.send_l2 : (s.send m).l2 = s.l2 := rfl
@[simp] theorem State.send_poison : (s.send m).poison = s.poison := rfl
@[simp] theorem State.send_owners : (s.send m).owners = s.owners := rfl
@[simp] theorem State.send_l1i : (s.send m).l1i = s.l1i := rfl
@[simp] theorem State.send_tlb : (s.send m).tlb = s.tlb := rfl
@[simp] theorem State.send_keys : (s.send m).keys = s.keys := rfl
@[simp] theorem State.send_grps : (s.send m).grps = s.grps := rfl
@[simp] theorem State.send_cycles : (s.send m).cycles = s.cycles := rfl
@[simp] theorem State.send_deques : (s.send m).deques = s.deques := rfl
@[simp] theorem State.send_books : (s.send m).books = s.books := rfl
@[simp] theorem State.send_ctxs : (s.send m).ctxs = s.ctxs := rfl
@[simp] theorem State.send_objs : (s.send m).objs = s.objs := rfl
@[simp] theorem State.send_sched : (s.send m).sched = s.sched := rfl
@[simp] theorem State.send_bbox : (s.send m).bbox = s.bbox := rfl
@[simp] theorem State.send_fabric : (s.send m).fabric = s.fabric := rfl
@[simp] theorem State.send_seqs : (s.send m).seqs = s.seqs := rfl
@[simp] theorem State.send_rs : (s.send m).rs = s.rs := rfl
@[simp] theorem State.send_decs : (s.send m).decs = s.decs := rfl
@[simp] theorem State.send_mgmt : (s.send m).mgmt = s.mgmt := rfl
@[simp] theorem State.send_away : (s.send m).away = s.away := rfl
@[simp] theorem State.send_tags : (s.send m).tags = s.tags := rfl
@[simp] theorem State.send_sample : (s.send m).sample = s.sample := rfl
@[simp] theorem State.send_cur : (s.send m).cur = s.cur := rfl
@[simp] theorem State.send_agenda : (s.send m).agenda = s.agenda := rfl
@[simp] theorem State.send_order : (s.send m).order = s.order := rfl
@[simp] theorem State.send_free : (s.send m).free = s.free := rfl
@[simp] theorem State.send_tick : (s.send m).tick = s.tick := rfl
@[simp] theorem State.send_host_qps : (s.send m).host.qps = s.host.qps := rfl
@[simp] theorem State.send_host_regions : (s.send m).host.regions = s.host.regions := rfl
@[simp] theorem State.send_host_nextKey : (s.send m).host.nextKey = s.host.nextKey := rfl
@[simp] theorem State.grp_send (a : Nat) : (s.send m).grp a = s.grp a := rfl
@[simp] theorem State.ctx_send (a : Nat) : (s.send m).ctx a = s.ctx a := rfl
@[simp] theorem State.grid_send (a : Nat) : (s.send m).grid a = s.grid a := rfl
@[simp] theorem State.clus_send (a : Nat) : (s.send m).clus a = s.clus a := rfl
@[simp] theorem State.team_send (a : Nat) : (s.send m).team a = s.team a := rfl
@[simp] theorem State.queue_send (a : Nat) : (s.send m).queue a = s.queue a := rfl
@[simp] theorem State.rawByte_send (a : Nat) : (s.send m).rawByte a = s.rawByte a := rfl
@[simp] theorem State.l1Byte_send (c a : Nat) : (s.send m).l1Byte c a = s.l1Byte c a := rfl
@[simp] theorem State.link_send (a : Nat) : (s.send m).link a = s.link a := rfl
@[simp] theorem State.slot_send (a : Nat) : (s.send m).slot a = s.slot a := rfl
@[simp] theorem State.seqLink_send (a : Nat) : (s.send m).seqLink a = s.seqLink a := rfl
@[simp] theorem State.qp_send (a : Nat) : (s.send m).qp a = s.qp a := rfl
@[simp] theorem State.deque_send (a : Nat) : (s.send m).deque a = s.deque a := rfl
@[simp] theorem State.quad_send (a : Nat) : (s.send m).quad a = s.quad a := rfl

end

section
variable (s : State) (core : Nat) (d : Deque)

@[simp] theorem State.setDeque_mem : (s.setDeque core d).mem = s.mem := rfl
@[simp] theorem State.setDeque_l1 : (s.setDeque core d).l1 = s.l1 := rfl
@[simp] theorem State.setDeque_streams : (s.setDeque core d).streams = s.streams := rfl
@[simp] theorem State.setDeque_l2 : (s.setDeque core d).l2 = s.l2 := rfl
@[simp] theorem State.setDeque_poison : (s.setDeque core d).poison = s.poison := rfl
@[simp] theorem State.setDeque_owners : (s.setDeque core d).owners = s.owners := rfl
@[simp] theorem State.setDeque_l1i : (s.setDeque core d).l1i = s.l1i := rfl
@[simp] theorem State.setDeque_tlb : (s.setDeque core d).tlb = s.tlb := rfl
@[simp] theorem State.setDeque_keys : (s.setDeque core d).keys = s.keys := rfl
@[simp] theorem State.setDeque_grps : (s.setDeque core d).grps = s.grps := rfl
@[simp] theorem State.setDeque_cycles : (s.setDeque core d).cycles = s.cycles := rfl
@[simp] theorem State.setDeque_books : (s.setDeque core d).books = s.books := rfl
@[simp] theorem State.setDeque_ctxs : (s.setDeque core d).ctxs = s.ctxs := rfl
@[simp] theorem State.setDeque_objs : (s.setDeque core d).objs = s.objs := rfl
@[simp] theorem State.setDeque_sched : (s.setDeque core d).sched = s.sched := rfl
@[simp] theorem State.setDeque_bbox : (s.setDeque core d).bbox = s.bbox := rfl
@[simp] theorem State.setDeque_fabric : (s.setDeque core d).fabric = s.fabric := rfl
@[simp] theorem State.setDeque_seqs : (s.setDeque core d).seqs = s.seqs := rfl
@[simp] theorem State.setDeque_rs : (s.setDeque core d).rs = s.rs := rfl
@[simp] theorem State.setDeque_decs : (s.setDeque core d).decs = s.decs := rfl
@[simp] theorem State.setDeque_host : (s.setDeque core d).host = s.host := rfl
@[simp] theorem State.setDeque_mgmt : (s.setDeque core d).mgmt = s.mgmt := rfl
@[simp] theorem State.setDeque_away : (s.setDeque core d).away = s.away := rfl
@[simp] theorem State.setDeque_tags : (s.setDeque core d).tags = s.tags := rfl
@[simp] theorem State.setDeque_sample : (s.setDeque core d).sample = s.sample := rfl
@[simp] theorem State.setDeque_cur : (s.setDeque core d).cur = s.cur := rfl
@[simp] theorem State.setDeque_agenda : (s.setDeque core d).agenda = s.agenda := rfl
@[simp] theorem State.setDeque_order : (s.setDeque core d).order = s.order := rfl
@[simp] theorem State.setDeque_free : (s.setDeque core d).free = s.free := rfl
@[simp] theorem State.setDeque_tick : (s.setDeque core d).tick = s.tick := rfl
@[simp] theorem State.grp_setDeque (a : Nat) : (s.setDeque core d).grp a = s.grp a := rfl
@[simp] theorem State.ctx_setDeque (a : Nat) : (s.setDeque core d).ctx a = s.ctx a := rfl
@[simp] theorem State.grid_setDeque (a : Nat) : (s.setDeque core d).grid a = s.grid a := rfl
@[simp] theorem State.clus_setDeque (a : Nat) : (s.setDeque core d).clus a = s.clus a := rfl
@[simp] theorem State.team_setDeque (a : Nat) : (s.setDeque core d).team a = s.team a := rfl
@[simp] theorem State.queue_setDeque (a : Nat) : (s.setDeque core d).queue a = s.queue a := rfl
@[simp] theorem State.rawByte_setDeque (a : Nat) : (s.setDeque core d).rawByte a = s.rawByte a := rfl
@[simp] theorem State.l1Byte_setDeque (c a : Nat) : (s.setDeque core d).l1Byte c a = s.l1Byte c a := rfl
@[simp] theorem State.link_setDeque (a : Nat) : (s.setDeque core d).link a = s.link a := rfl
@[simp] theorem State.slot_setDeque (a : Nat) : (s.setDeque core d).slot a = s.slot a := rfl
@[simp] theorem State.seqLink_setDeque (a : Nat) : (s.setDeque core d).seqLink a = s.seqLink a := rfl
@[simp] theorem State.qp_setDeque (a : Nat) : (s.setDeque core d).qp a = s.qp a := rfl
@[simp] theorem State.quad_setDeque (a : Nat) : (s.setDeque core d).quad a = s.quad a := rfl

end

section
variable (s : State) (grid core n : Nat)

@[simp] theorem State.setRinged_mem : (s.setRinged grid core n).mem = s.mem := rfl
@[simp] theorem State.setRinged_l1 : (s.setRinged grid core n).l1 = s.l1 := rfl
@[simp] theorem State.setRinged_streams : (s.setRinged grid core n).streams = s.streams := rfl
@[simp] theorem State.setRinged_l2 : (s.setRinged grid core n).l2 = s.l2 := rfl
@[simp] theorem State.setRinged_poison : (s.setRinged grid core n).poison = s.poison := rfl
@[simp] theorem State.setRinged_owners : (s.setRinged grid core n).owners = s.owners := rfl
@[simp] theorem State.setRinged_l1i : (s.setRinged grid core n).l1i = s.l1i := rfl
@[simp] theorem State.setRinged_tlb : (s.setRinged grid core n).tlb = s.tlb := rfl
@[simp] theorem State.setRinged_keys : (s.setRinged grid core n).keys = s.keys := rfl
@[simp] theorem State.setRinged_grps : (s.setRinged grid core n).grps = s.grps := rfl
@[simp] theorem State.setRinged_cycles : (s.setRinged grid core n).cycles = s.cycles := rfl
@[simp] theorem State.setRinged_books : (s.setRinged grid core n).books = s.books := rfl
@[simp] theorem State.setRinged_ctxs : (s.setRinged grid core n).ctxs = s.ctxs := rfl
@[simp] theorem State.setRinged_objs : (s.setRinged grid core n).objs = s.objs := rfl
@[simp] theorem State.setRinged_sched : (s.setRinged grid core n).sched = s.sched := rfl
@[simp] theorem State.setRinged_bbox : (s.setRinged grid core n).bbox = s.bbox := rfl
@[simp] theorem State.setRinged_fabric : (s.setRinged grid core n).fabric = s.fabric := rfl
@[simp] theorem State.setRinged_seqs : (s.setRinged grid core n).seqs = s.seqs := rfl
@[simp] theorem State.setRinged_rs : (s.setRinged grid core n).rs = s.rs := rfl
@[simp] theorem State.setRinged_decs : (s.setRinged grid core n).decs = s.decs := rfl
@[simp] theorem State.setRinged_host : (s.setRinged grid core n).host = s.host := rfl
@[simp] theorem State.setRinged_mgmt : (s.setRinged grid core n).mgmt = s.mgmt := rfl
@[simp] theorem State.setRinged_away : (s.setRinged grid core n).away = s.away := rfl
@[simp] theorem State.setRinged_tags : (s.setRinged grid core n).tags = s.tags := rfl
@[simp] theorem State.setRinged_sample : (s.setRinged grid core n).sample = s.sample := rfl
@[simp] theorem State.setRinged_cur : (s.setRinged grid core n).cur = s.cur := rfl
@[simp] theorem State.setRinged_agenda : (s.setRinged grid core n).agenda = s.agenda := rfl
@[simp] theorem State.setRinged_order : (s.setRinged grid core n).order = s.order := rfl
@[simp] theorem State.setRinged_free : (s.setRinged grid core n).free = s.free := rfl
@[simp] theorem State.setRinged_tick : (s.setRinged grid core n).tick = s.tick := rfl
@[simp] theorem State.grp_setRinged (a : Nat) : (s.setRinged grid core n).grp a = s.grp a := rfl
@[simp] theorem State.ctx_setRinged (a : Nat) : (s.setRinged grid core n).ctx a = s.ctx a := rfl
@[simp] theorem State.grid_setRinged (a : Nat) : (s.setRinged grid core n).grid a = s.grid a := rfl
@[simp] theorem State.clus_setRinged (a : Nat) : (s.setRinged grid core n).clus a = s.clus a := rfl
@[simp] theorem State.team_setRinged (a : Nat) : (s.setRinged grid core n).team a = s.team a := rfl
@[simp] theorem State.queue_setRinged (a : Nat) : (s.setRinged grid core n).queue a = s.queue a := rfl
@[simp] theorem State.rawByte_setRinged (a : Nat) : (s.setRinged grid core n).rawByte a = s.rawByte a := rfl
@[simp] theorem State.l1Byte_setRinged (c a : Nat) : (s.setRinged grid core n).l1Byte c a = s.l1Byte c a := rfl
@[simp] theorem State.link_setRinged (a : Nat) : (s.setRinged grid core n).link a = s.link a := rfl
@[simp] theorem State.slot_setRinged (a : Nat) : (s.setRinged grid core n).slot a = s.slot a := rfl
@[simp] theorem State.seqLink_setRinged (a : Nat) : (s.setRinged grid core n).seqLink a = s.seqLink a := rfl
@[simp] theorem State.qp_setRinged (a : Nat) : (s.setRinged grid core n).qp a = s.qp a := rfl
@[simp] theorem State.quad_setRinged (a : Nat) : (s.setRinged grid core n).quad a = s.quad a := rfl

end

section
variable (s : State) (q : Nat) (x : Quad)

@[simp] theorem State.setQuad_mem : (s.setQuad q x).mem = s.mem := rfl
@[simp] theorem State.setQuad_l1 : (s.setQuad q x).l1 = s.l1 := rfl
@[simp] theorem State.setQuad_streams : (s.setQuad q x).streams = s.streams := rfl
@[simp] theorem State.setQuad_l2 : (s.setQuad q x).l2 = s.l2 := rfl
@[simp] theorem State.setQuad_poison : (s.setQuad q x).poison = s.poison := rfl
@[simp] theorem State.setQuad_owners : (s.setQuad q x).owners = s.owners := rfl
@[simp] theorem State.setQuad_l1i : (s.setQuad q x).l1i = s.l1i := rfl
@[simp] theorem State.setQuad_tlb : (s.setQuad q x).tlb = s.tlb := rfl
@[simp] theorem State.setQuad_keys : (s.setQuad q x).keys = s.keys := rfl
@[simp] theorem State.setQuad_grps : (s.setQuad q x).grps = s.grps := rfl
@[simp] theorem State.setQuad_cycles : (s.setQuad q x).cycles = s.cycles := rfl
@[simp] theorem State.setQuad_deques : (s.setQuad q x).deques = s.deques := rfl
@[simp] theorem State.setQuad_books : (s.setQuad q x).books = s.books := rfl
@[simp] theorem State.setQuad_ctxs : (s.setQuad q x).ctxs = s.ctxs := rfl
@[simp] theorem State.setQuad_objs : (s.setQuad q x).objs = s.objs := rfl
@[simp] theorem State.setQuad_sched : (s.setQuad q x).sched = s.sched := rfl
@[simp] theorem State.setQuad_bbox : (s.setQuad q x).bbox = s.bbox := rfl
@[simp] theorem State.setQuad_fabric : (s.setQuad q x).fabric = s.fabric := rfl
@[simp] theorem State.setQuad_seqs : (s.setQuad q x).seqs = s.seqs := rfl
@[simp] theorem State.setQuad_rs : (s.setQuad q x).rs = s.rs := rfl
@[simp] theorem State.setQuad_decs : (s.setQuad q x).decs = s.decs := rfl
@[simp] theorem State.setQuad_host : (s.setQuad q x).host = s.host := rfl
@[simp] theorem State.setQuad_mgmt : (s.setQuad q x).mgmt = s.mgmt := rfl
@[simp] theorem State.setQuad_away : (s.setQuad q x).away = s.away := rfl
@[simp] theorem State.setQuad_tags : (s.setQuad q x).tags = s.tags := rfl
@[simp] theorem State.setQuad_sample : (s.setQuad q x).sample = s.sample := rfl
@[simp] theorem State.setQuad_cur : (s.setQuad q x).cur = s.cur := rfl
@[simp] theorem State.setQuad_agenda : (s.setQuad q x).agenda = s.agenda := rfl
@[simp] theorem State.setQuad_free : (s.setQuad q x).free = s.free := rfl
@[simp] theorem State.setQuad_tick : (s.setQuad q x).tick = s.tick := rfl
@[simp] theorem State.setQuad_order_feeders : (s.setQuad q x).order.feeders = s.order.feeders := rfl
@[simp] theorem State.setQuad_order_due : (s.setQuad q x).order.due = s.order.due := rfl
@[simp] theorem State.grp_setQuad (a : Nat) : (s.setQuad q x).grp a = s.grp a := rfl
@[simp] theorem State.ctx_setQuad (a : Nat) : (s.setQuad q x).ctx a = s.ctx a := rfl
@[simp] theorem State.grid_setQuad (a : Nat) : (s.setQuad q x).grid a = s.grid a := rfl
@[simp] theorem State.clus_setQuad (a : Nat) : (s.setQuad q x).clus a = s.clus a := rfl
@[simp] theorem State.team_setQuad (a : Nat) : (s.setQuad q x).team a = s.team a := rfl
@[simp] theorem State.queue_setQuad (a : Nat) : (s.setQuad q x).queue a = s.queue a := rfl
@[simp] theorem State.rawByte_setQuad (a : Nat) : (s.setQuad q x).rawByte a = s.rawByte a := rfl
@[simp] theorem State.l1Byte_setQuad (c a : Nat) : (s.setQuad q x).l1Byte c a = s.l1Byte c a := rfl
@[simp] theorem State.link_setQuad (a : Nat) : (s.setQuad q x).link a = s.link a := rfl
@[simp] theorem State.slot_setQuad (a : Nat) : (s.setQuad q x).slot a = s.slot a := rfl
@[simp] theorem State.seqLink_setQuad (a : Nat) : (s.setQuad q x).seqLink a = s.seqLink a := rfl
@[simp] theorem State.qp_setQuad (a : Nat) : (s.setQuad q x).qp a = s.qp a := rfl
@[simp] theorem State.deque_setQuad (a : Nat) : (s.setQuad q x).deque a = s.deque a := rfl

end

section
variable (s : State) (g : Grp) (n : Nat)

@[simp] theorem State.setStage_mem : (s.setStage g n).mem = s.mem := rfl
@[simp] theorem State.setStage_l1 : (s.setStage g n).l1 = s.l1 := rfl
@[simp] theorem State.setStage_streams : (s.setStage g n).streams = s.streams := rfl
@[simp] theorem State.setStage_l2 : (s.setStage g n).l2 = s.l2 := rfl
@[simp] theorem State.setStage_poison : (s.setStage g n).poison = s.poison := rfl
@[simp] theorem State.setStage_owners : (s.setStage g n).owners = s.owners := rfl
@[simp] theorem State.setStage_l1i : (s.setStage g n).l1i = s.l1i := rfl
@[simp] theorem State.setStage_tlb : (s.setStage g n).tlb = s.tlb := rfl
@[simp] theorem State.setStage_keys : (s.setStage g n).keys = s.keys := rfl
@[simp] theorem State.setStage_grps : (s.setStage g n).grps = s.grps := rfl
@[simp] theorem State.setStage_cycles : (s.setStage g n).cycles = s.cycles := rfl
@[simp] theorem State.setStage_deques : (s.setStage g n).deques = s.deques := rfl
@[simp] theorem State.setStage_books : (s.setStage g n).books = s.books := rfl
@[simp] theorem State.setStage_ctxs : (s.setStage g n).ctxs = s.ctxs := rfl
@[simp] theorem State.setStage_objs : (s.setStage g n).objs = s.objs := rfl
@[simp] theorem State.setStage_bbox : (s.setStage g n).bbox = s.bbox := rfl
@[simp] theorem State.setStage_fabric : (s.setStage g n).fabric = s.fabric := rfl
@[simp] theorem State.setStage_seqs : (s.setStage g n).seqs = s.seqs := rfl
@[simp] theorem State.setStage_rs : (s.setStage g n).rs = s.rs := rfl
@[simp] theorem State.setStage_decs : (s.setStage g n).decs = s.decs := rfl
@[simp] theorem State.setStage_host : (s.setStage g n).host = s.host := rfl
@[simp] theorem State.setStage_mgmt : (s.setStage g n).mgmt = s.mgmt := rfl
@[simp] theorem State.setStage_away : (s.setStage g n).away = s.away := rfl
@[simp] theorem State.setStage_tags : (s.setStage g n).tags = s.tags := rfl
@[simp] theorem State.setStage_sample : (s.setStage g n).sample = s.sample := rfl
@[simp] theorem State.setStage_cur : (s.setStage g n).cur = s.cur := rfl
@[simp] theorem State.setStage_agenda : (s.setStage g n).agenda = s.agenda := rfl
@[simp] theorem State.setStage_order : (s.setStage g n).order = s.order := rfl
@[simp] theorem State.setStage_free : (s.setStage g n).free = s.free := rfl
@[simp] theorem State.setStage_tick : (s.setStage g n).tick = s.tick := rfl
@[simp] theorem State.setStage_sched_cycle : (s.setStage g n).sched.cycle = s.sched.cycle := rfl
@[simp] theorem State.setStage_sched_queues : (s.setStage g n).sched.queues = s.sched.queues := rfl
@[simp] theorem State.setStage_sched_rr : (s.setStage g n).sched.rr = s.sched.rr := rfl
@[simp] theorem State.setStage_sched_nextGrid : (s.setStage g n).sched.nextGrid = s.sched.nextGrid := rfl
@[simp] theorem State.setStage_sched_placeNo : (s.setStage g n).sched.placeNo = s.sched.placeNo := rfl
@[simp] theorem State.setStage_sched_grids : (s.setStage g n).sched.grids = s.sched.grids := rfl
@[simp] theorem State.setStage_sched_clusters : (s.setStage g n).sched.clusters = s.sched.clusters := rfl
@[simp] theorem State.setStage_sched_saved : (s.setStage g n).sched.saved = s.sched.saved := rfl
@[simp] theorem State.grp_setStage (a : Nat) : (s.setStage g n).grp a = s.grp a := rfl
@[simp] theorem State.ctx_setStage (a : Nat) : (s.setStage g n).ctx a = s.ctx a := rfl
@[simp] theorem State.grid_setStage (a : Nat) : (s.setStage g n).grid a = s.grid a := rfl
@[simp] theorem State.clus_setStage (a : Nat) : (s.setStage g n).clus a = s.clus a := rfl
@[simp] theorem State.queue_setStage (a : Nat) : (s.setStage g n).queue a = s.queue a := rfl
@[simp] theorem State.rawByte_setStage (a : Nat) : (s.setStage g n).rawByte a = s.rawByte a := rfl
@[simp] theorem State.l1Byte_setStage (c a : Nat) : (s.setStage g n).l1Byte c a = s.l1Byte c a := rfl
@[simp] theorem State.link_setStage (a : Nat) : (s.setStage g n).link a = s.link a := rfl
@[simp] theorem State.slot_setStage (a : Nat) : (s.setStage g n).slot a = s.slot a := rfl
@[simp] theorem State.seqLink_setStage (a : Nat) : (s.setStage g n).seqLink a = s.seqLink a := rfl
@[simp] theorem State.qp_setStage (a : Nat) : (s.setStage g n).qp a = s.qp a := rfl
@[simp] theorem State.deque_setStage (a : Nat) : (s.setStage g n).deque a = s.deque a := rfl
@[simp] theorem State.quad_setStage (a : Nat) : (s.setStage g n).quad a = s.quad a := rfl

end

section
variable (s : State) (kind master ctxid code addr : Nat)

@[simp] theorem State.bboxAdd_mem : (s.bboxAdd kind master ctxid code addr).mem = s.mem := rfl
@[simp] theorem State.bboxAdd_l1 : (s.bboxAdd kind master ctxid code addr).l1 = s.l1 := rfl
@[simp] theorem State.bboxAdd_streams : (s.bboxAdd kind master ctxid code addr).streams = s.streams := rfl
@[simp] theorem State.bboxAdd_l2 : (s.bboxAdd kind master ctxid code addr).l2 = s.l2 := rfl
@[simp] theorem State.bboxAdd_poison : (s.bboxAdd kind master ctxid code addr).poison = s.poison := rfl
@[simp] theorem State.bboxAdd_owners : (s.bboxAdd kind master ctxid code addr).owners = s.owners := rfl
@[simp] theorem State.bboxAdd_l1i : (s.bboxAdd kind master ctxid code addr).l1i = s.l1i := rfl
@[simp] theorem State.bboxAdd_tlb : (s.bboxAdd kind master ctxid code addr).tlb = s.tlb := rfl
@[simp] theorem State.bboxAdd_keys : (s.bboxAdd kind master ctxid code addr).keys = s.keys := rfl
@[simp] theorem State.bboxAdd_grps : (s.bboxAdd kind master ctxid code addr).grps = s.grps := rfl
@[simp] theorem State.bboxAdd_cycles : (s.bboxAdd kind master ctxid code addr).cycles = s.cycles := rfl
@[simp] theorem State.bboxAdd_deques : (s.bboxAdd kind master ctxid code addr).deques = s.deques := rfl
@[simp] theorem State.bboxAdd_books : (s.bboxAdd kind master ctxid code addr).books = s.books := rfl
@[simp] theorem State.bboxAdd_ctxs : (s.bboxAdd kind master ctxid code addr).ctxs = s.ctxs := rfl
@[simp] theorem State.bboxAdd_objs : (s.bboxAdd kind master ctxid code addr).objs = s.objs := rfl
@[simp] theorem State.bboxAdd_sched : (s.bboxAdd kind master ctxid code addr).sched = s.sched := rfl
@[simp] theorem State.bboxAdd_fabric : (s.bboxAdd kind master ctxid code addr).fabric = s.fabric := rfl
@[simp] theorem State.bboxAdd_seqs : (s.bboxAdd kind master ctxid code addr).seqs = s.seqs := rfl
@[simp] theorem State.bboxAdd_rs : (s.bboxAdd kind master ctxid code addr).rs = s.rs := rfl
@[simp] theorem State.bboxAdd_decs : (s.bboxAdd kind master ctxid code addr).decs = s.decs := rfl
@[simp] theorem State.bboxAdd_host : (s.bboxAdd kind master ctxid code addr).host = s.host := rfl
@[simp] theorem State.bboxAdd_mgmt : (s.bboxAdd kind master ctxid code addr).mgmt = s.mgmt := rfl
@[simp] theorem State.bboxAdd_away : (s.bboxAdd kind master ctxid code addr).away = s.away := rfl
@[simp] theorem State.bboxAdd_tags : (s.bboxAdd kind master ctxid code addr).tags = s.tags := rfl
@[simp] theorem State.bboxAdd_sample : (s.bboxAdd kind master ctxid code addr).sample = s.sample := rfl
@[simp] theorem State.bboxAdd_cur : (s.bboxAdd kind master ctxid code addr).cur = s.cur := rfl
@[simp] theorem State.bboxAdd_agenda : (s.bboxAdd kind master ctxid code addr).agenda = s.agenda := rfl
@[simp] theorem State.bboxAdd_order : (s.bboxAdd kind master ctxid code addr).order = s.order := rfl
@[simp] theorem State.bboxAdd_free : (s.bboxAdd kind master ctxid code addr).free = s.free := rfl
@[simp] theorem State.bboxAdd_tick : (s.bboxAdd kind master ctxid code addr).tick = s.tick := rfl
@[simp] theorem State.grp_bboxAdd (a : Nat) : (s.bboxAdd kind master ctxid code addr).grp a = s.grp a := rfl
@[simp] theorem State.ctx_bboxAdd (a : Nat) : (s.bboxAdd kind master ctxid code addr).ctx a = s.ctx a := rfl
@[simp] theorem State.grid_bboxAdd (a : Nat) : (s.bboxAdd kind master ctxid code addr).grid a = s.grid a := rfl
@[simp] theorem State.clus_bboxAdd (a : Nat) : (s.bboxAdd kind master ctxid code addr).clus a = s.clus a := rfl
@[simp] theorem State.team_bboxAdd (a : Nat) : (s.bboxAdd kind master ctxid code addr).team a = s.team a := rfl
@[simp] theorem State.queue_bboxAdd (a : Nat) : (s.bboxAdd kind master ctxid code addr).queue a = s.queue a := rfl
@[simp] theorem State.rawByte_bboxAdd (a : Nat) : (s.bboxAdd kind master ctxid code addr).rawByte a = s.rawByte a := rfl
@[simp] theorem State.l1Byte_bboxAdd (c a : Nat) : (s.bboxAdd kind master ctxid code addr).l1Byte c a = s.l1Byte c a := rfl
@[simp] theorem State.link_bboxAdd (a : Nat) : (s.bboxAdd kind master ctxid code addr).link a = s.link a := rfl
@[simp] theorem State.slot_bboxAdd (a : Nat) : (s.bboxAdd kind master ctxid code addr).slot a = s.slot a := rfl
@[simp] theorem State.seqLink_bboxAdd (a : Nat) : (s.bboxAdd kind master ctxid code addr).seqLink a = s.seqLink a := rfl
@[simp] theorem State.qp_bboxAdd (a : Nat) : (s.bboxAdd kind master ctxid code addr).qp a = s.qp a := rfl
@[simp] theorem State.deque_bboxAdd (a : Nat) : (s.bboxAdd kind master ctxid code addr).deque a = s.deque a := rfl
@[simp] theorem State.quad_bboxAdd (a : Nat) : (s.bboxAdd kind master ctxid code addr).quad a = s.quad a := rfl

end

section
variable (s : State) (gs : Bank Grp)

@[simp] theorem State.put_mem : (s.put gs).mem = s.mem := rfl
@[simp] theorem State.put_l1 : (s.put gs).l1 = s.l1 := rfl
@[simp] theorem State.put_streams : (s.put gs).streams = s.streams := rfl
@[simp] theorem State.put_l2 : (s.put gs).l2 = s.l2 := rfl
@[simp] theorem State.put_poison : (s.put gs).poison = s.poison := rfl
@[simp] theorem State.put_owners : (s.put gs).owners = s.owners := rfl
@[simp] theorem State.put_l1i : (s.put gs).l1i = s.l1i := rfl
@[simp] theorem State.put_tlb : (s.put gs).tlb = s.tlb := rfl
@[simp] theorem State.put_keys : (s.put gs).keys = s.keys := rfl
@[simp] theorem State.put_cycles : (s.put gs).cycles = s.cycles := rfl
@[simp] theorem State.put_deques : (s.put gs).deques = s.deques := rfl
@[simp] theorem State.put_books : (s.put gs).books = s.books := rfl
@[simp] theorem State.put_ctxs : (s.put gs).ctxs = s.ctxs := rfl
@[simp] theorem State.put_objs : (s.put gs).objs = s.objs := rfl
@[simp] theorem State.put_sched : (s.put gs).sched = s.sched := rfl
@[simp] theorem State.put_bbox : (s.put gs).bbox = s.bbox := rfl
@[simp] theorem State.put_fabric : (s.put gs).fabric = s.fabric := rfl
@[simp] theorem State.put_seqs : (s.put gs).seqs = s.seqs := rfl
@[simp] theorem State.put_rs : (s.put gs).rs = s.rs := rfl
@[simp] theorem State.put_decs : (s.put gs).decs = s.decs := rfl
@[simp] theorem State.put_host : (s.put gs).host = s.host := rfl
@[simp] theorem State.put_mgmt : (s.put gs).mgmt = s.mgmt := rfl
@[simp] theorem State.put_away : (s.put gs).away = s.away := rfl
@[simp] theorem State.put_tags : (s.put gs).tags = s.tags := rfl
@[simp] theorem State.put_sample : (s.put gs).sample = s.sample := rfl
@[simp] theorem State.put_agenda : (s.put gs).agenda = s.agenda := rfl
@[simp] theorem State.put_order : (s.put gs).order = s.order := rfl
@[simp] theorem State.put_free : (s.put gs).free = s.free := rfl
@[simp] theorem State.put_tick : (s.put gs).tick = s.tick := rfl
@[simp] theorem State.ctx_put (a : Nat) : (s.put gs).ctx a = s.ctx a := rfl
@[simp] theorem State.grid_put (a : Nat) : (s.put gs).grid a = s.grid a := rfl
@[simp] theorem State.clus_put (a : Nat) : (s.put gs).clus a = s.clus a := rfl
@[simp] theorem State.team_put (a : Nat) : (s.put gs).team a = s.team a := rfl
@[simp] theorem State.queue_put (a : Nat) : (s.put gs).queue a = s.queue a := rfl
@[simp] theorem State.rawByte_put (a : Nat) : (s.put gs).rawByte a = s.rawByte a := rfl
@[simp] theorem State.l1Byte_put (c a : Nat) : (s.put gs).l1Byte c a = s.l1Byte c a := rfl
@[simp] theorem State.link_put (a : Nat) : (s.put gs).link a = s.link a := rfl
@[simp] theorem State.slot_put (a : Nat) : (s.put gs).slot a = s.slot a := rfl
@[simp] theorem State.seqLink_put (a : Nat) : (s.put gs).seqLink a = s.seqLink a := rfl
@[simp] theorem State.qp_put (a : Nat) : (s.put gs).qp a = s.qp a := rfl
@[simp] theorem State.deque_put (a : Nat) : (s.put gs).deque a = s.deque a := rfl
@[simp] theorem State.quad_put (a : Nat) : (s.put gs).quad a = s.quad a := rfl

end

/-! ## A read after a write of the same thing -/

@[simp] theorem State.ctx_setCtx (s : State) (k : Nat) (x : Context) : (s.setCtx k x).ctx k = x := Bank.get_set_same ..
theorem State.ctx_setCtx_other (s : State) {j k : Nat} (x : Context) (h : j ≠ k) : (s.setCtx k x).ctx j = s.ctx j := Bank.get_set_other _ _ _ h
@[simp] theorem State.grid_setGrid (s : State) (k : Nat) (x : Grid) : (s.setGrid k x).grid k = x := Bank.get_set_same ..
theorem State.grid_setGrid_other (s : State) {j k : Nat} (x : Grid) (h : j ≠ k) : (s.setGrid k x).grid j = s.grid j := Bank.get_set_other _ _ _ h
@[simp] theorem State.clus_setClus (s : State) (k : Nat) (x : Cluster) : (s.setClus k x).clus k = x := Bank.get_set_same ..
theorem State.clus_setClus_other (s : State) {j k : Nat} (x : Cluster) (h : j ≠ k) : (s.setClus k x).clus j = s.clus j := Bank.get_set_other _ _ _ h
@[simp] theorem State.team_setTeam (s : State) (k : Nat) (x : Team) : (s.setTeam k x).team k = x := Bank.get_set_same ..
theorem State.team_setTeam_other (s : State) {j k : Nat} (x : Team) (h : j ≠ k) : (s.setTeam k x).team j = s.team j := Bank.get_set_other _ _ _ h
@[simp] theorem State.queue_setQueue (s : State) (k : Nat) (x : LaunchQ) : (s.setQueue k x).queue k = x := Bank.get_set_same ..
theorem State.queue_setQueue_other (s : State) {j k : Nat} (x : LaunchQ) (h : j ≠ k) : (s.setQueue k x).queue j = s.queue j := Bank.get_set_other _ _ _ h
@[simp] theorem State.link_setLink (s : State) (k : Nat) (x : Link) : (s.setLink k x).link k = x := Bank.get_set_same ..
theorem State.link_setLink_other (s : State) {j k : Nat} (x : Link) (h : j ≠ k) : (s.setLink k x).link j = s.link j := Bank.get_set_other _ _ _ h
@[simp] theorem State.slot_setSlot (s : State) (k : Nat) (x : SeqSlot) : (s.setSlot k x).slot k = x := Bank.get_set_same ..
theorem State.slot_setSlot_other (s : State) {j k : Nat} (x : SeqSlot) (h : j ≠ k) : (s.setSlot k x).slot j = s.slot j := Bank.get_set_other _ _ _ h
@[simp] theorem State.seqLink_setSeqLink (s : State) (k : Nat) (x : SeqLink) : (s.setSeqLink k x).seqLink k = x := Bank.get_set_same ..
theorem State.seqLink_setSeqLink_other (s : State) {j k : Nat} (x : SeqLink) (h : j ≠ k) : (s.setSeqLink k x).seqLink j = s.seqLink j := Bank.get_set_other _ _ _ h
@[simp] theorem State.qp_setQp (s : State) (k : Nat) (x : QPair) : (s.setQp k x).qp k = x := Bank.get_set_same ..
theorem State.qp_setQp_other (s : State) {j k : Nat} (x : QPair) (h : j ≠ k) : (s.setQp k x).qp j = s.qp j := Bank.get_set_other _ _ _ h
@[simp] theorem State.deque_setDeque (s : State) (k : Nat) (x : Deque) : (s.setDeque k x).deque k = x := Bank.get_set_same ..
theorem State.deque_setDeque_other (s : State) {j k : Nat} (x : Deque) (h : j ≠ k) : (s.setDeque k x).deque j = s.deque j := Bank.get_set_other _ _ _ h
@[simp] theorem State.quad_setQuad (s : State) (k : Nat) (x : Quad) : (s.setQuad k x).quad k = x := Bank.get_set_same ..
theorem State.quad_setQuad_other (s : State) {j k : Nat} (x : Quad) (h : j ≠ k) : (s.setQuad k x).quad j = s.quad j := Bank.get_set_other _ _ _ h

end Sys2Proof.Machine
end

