-- ==== Sys2Proof/Laws/Memory.lean ====
section
/-! SUPPORT. The laws of memory: a read after a write, what a write leaves alone, and that every memory operation keeps the
canonical form. -/
namespace Sys2Proof.Machine

/-! ## The canonical form -/

theorem State.setRaw_wf {s : State} (h : Memory.wf s.mem = true) (loc : Nat) (b : Byte) : Memory.wf (s.setRaw loc b).mem = true :=
  Bank.set_wf _ h loc b

/-- Forgetting bytes keeps the canonical form (a warm start, an allocation set to zero, a device that empties). -/
theorem Memory.filter_wf {m : List Host.Cell} (h : Memory.wf m = true) (p : Host.Cell → Bool) : Memory.wf (m.filter p) = true := by
  unfold Memory.wf at *
  rw [Bank.wf_iff] at *
  exact ⟨h.1.filter p, fun e he => h.2 e (List.mem_of_mem_filter he)⟩


/-- A fold of steps that keep a property of the state keeps it. -/
theorem State.foldl_keeps {α : Type} {P : State → Prop} {f : State → α → State} (hf : ∀ s x, P s → P (f s x)) :
    ∀ (l : List α) {s : State}, P s → P (l.foldl f s)
  | [], _, h => h
  | x :: l, s, h => State.foldl_keeps hf l (hf s x h)

theorem State.flushByte_wf {s : State} (h : Memory.wf s.mem = true) (core loc : Nat) : Memory.wf (s.flushByte core loc).mem = true := by
  unfold State.flushByte
  split
  · exact State.setRaw_wf h loc _
  · exact h
  · exact h

@[simp] theorem State.noteWrite_mem (s : State) (who : Option (Nat × Nat)) (sectors : List Nat) : (s.noteWrite who sectors).mem = s.mem := rfl

/-- Telling the fences of a write changes their marks alone. -/
theorem State.noted_rest (s : State) (who : Option (Nat × Nat)) (sectors : List Nat) :
    s.noted who sectors = { s with grps := (s.noted who sectors).grps } := by
  unfold State.noted
  split <;> rfl
@[simp] theorem State.noted_mem (s : State) (who : Option (Nat × Nat)) (sectors : List Nat) : (s.noted who sectors).mem = s.mem := by
  rw [State.noted_rest]
@[simp] theorem State.rawByte_noted (s : State) (who : Option (Nat × Nat)) (sectors : List Nat) (a : Nat) :
    (s.noted who sectors).rawByte a = s.rawByte a := by rw [State.noted_rest]; rfl
@[simp] theorem State.unpoison_mem (s : State) (loc n : Nat) : (s.unpoison loc n).mem = s.mem := rfl
@[simp] theorem State.rawByte_unpoison (s : State) (loc n a : Nat) : (s.unpoison loc n).rawByte a = s.rawByte a := rfl

/-- A write that reaches a chain changes the groups alone. -/
theorem State.coverChains_rest (s : State) (hit : Nat → Bool) : s.coverChains hit = { s with grps := (s.coverChains hit).grps } := by
  unfold State.coverChains
  split <;> rfl
@[simp] theorem State.coverChains_mem (s : State) (hit : Nat → Bool) : (s.coverChains hit).mem = s.mem := by rw [State.coverChains_rest]
@[simp] theorem State.rawByte_coverChains (s : State) (hit : Nat → Bool) (a : Nat) : (s.coverChains hit).rawByte a = s.rawByte a := by
  rw [State.coverChains_rest]; rfl
/-- A write that reaches the L2 changes the marks of its sectors alone. -/
theorem State.dirtyL2_rest (s : State) (sectors : List Nat) : s.dirtyL2 sectors = { s with l2 := (s.dirtyL2 sectors).l2 } := by
  unfold State.dirtyL2
  split <;> rfl
@[simp] theorem State.dirtyL2_mem (s : State) (sectors : List Nat) : (s.dirtyL2 sectors).mem = s.mem := by rw [State.dirtyL2_rest]
@[simp] theorem State.rawByte_dirtyL2 (s : State) (sectors : List Nat) (a : Nat) : (s.dirtyL2 sectors).rawByte a = s.rawByte a := by
  rw [State.dirtyL2_rest]; rfl

theorem State.flushLocs_wf {s : State} (h : Memory.wf s.mem = true) (core : Nat) (locs : List Nat) :
    Memory.wf (s.flushLocs core locs).mem = true := by
  unfold State.flushLocs
  split
  · exact h
  · simp only [State.noted_mem]
    exact State.foldl_keeps (P := fun s => Memory.wf s.mem = true) (fun _ l h => State.flushByte_wf h core l) _ (by simpa using h)

theorem State.flushCore_wf {s : State} (h : Memory.wf s.mem = true) (core : Nat) : Memory.wf (s.flushCore core).mem = true :=
  State.flushLocs_wf h core _

theorem State.flushSector_wf {s : State} (h : Memory.wf s.mem = true) (core sector : Nat) :
    Memory.wf (s.flushSector core sector).mem = true := State.flushLocs_wf h core _

theorem State.flushSectorAll_wf {s : State} (h : Memory.wf s.mem = true) (sector : Nat) :
    Memory.wf (s.flushSectorAll sector).mem = true :=
  State.foldl_keeps (P := fun s => Memory.wf s.mem = true) (fun _ c h => State.flushSector_wf h c sector) _ h

theorem State.flushAll_wf {s : State} (h : Memory.wf s.mem = true) : Memory.wf s.flushAll.mem = true :=
  State.foldl_keeps (P := fun s => Memory.wf s.mem = true) (fun _ c h => State.flushCore_wf h c) _ h

theorem State.dropLocs_mem (s : State) (core : Nat) (locs : List Nat) : (s.dropLocs core locs).mem = s.mem := by
  unfold State.dropLocs
  split
  · rfl
  · rw [State.noted_mem]
    exact State.foldl_keeps (P := fun t => t.mem = s.mem) (fun t l h => by split <;> exact h) _ rfl

theorem State.dropClean_mem (s : State) (core : Nat) : (s.dropClean core).mem = s.mem := State.dropLocs_mem s core _

theorem State.fitL1_wf {s : State} (h : Memory.wf s.mem = true) (core : Nat) : Memory.wf (s.fitL1 core).mem = true := by
  unfold State.fitL1
  split
  · exact h
  · dsimp only
    split
    · exact h
    · exact State.flushSector_wf h core _

theorem State.retag_wf {s : State} (h : Memory.wf s.mem = true) (tag w : Nat) : Memory.wf (s.retag tag w).mem = true := by
  unfold State.retag
  split
  · exact h
  · exact State.foldl_keeps (P := fun s => Memory.wf s.mem = true) (fun _ i h => State.setRaw_wf h _ _) _ (State.flushSectorAll_wf h _)

theorem State.writeByte_wf {s : State} (h : Memory.wf s.mem = true) (core : Option Nat) (tag loc : Nat) (b : Byte) :
    Memory.wf (s.writeByte core tag loc b).mem = true := by
  unfold State.writeByte
  split
  · apply State.setRaw_wf
    split
    · split <;> exact State.retag_wf h _ _
    · exact State.retag_wf h _ _
  · exact State.setRaw_wf h _ _

theorem State.writeL1_wf {s : State} (h : Memory.wf s.mem = true) (core tag loc : Nat) (b : Byte) :
    Memory.wf (s.writeL1 core tag loc b).mem = true := State.retag_wf h _ _

theorem State.writeBytes_wf {s : State} (h : Memory.wf s.mem = true) (who : Option (Nat × Nat)) (core : Option Nat) (tag loc : Nat)
    (d : List Byte) : Memory.wf (s.writeBytes who core tag loc d).mem = true := by
  have := State.foldl_keeps (P := fun s => Memory.wf s.mem = true)
    (f := fun s (x : Byte × Nat) => s.writeByte core tag (loc + x.2) x.1) (fun _ x h => State.writeByte_wf h core tag _ _) d.zipIdx h
  simpa [State.writeBytes] using this

theorem State.writeBytesL1_wf {s : State} (h : Memory.wf s.mem = true) (who : Option (Nat × Nat)) (core tag loc : Nat)
    (d : List Byte) (stream : Bool) : Memory.wf (s.writeBytesL1 who core tag loc d stream).mem = true := by
  have := State.foldl_keeps (P := fun s => Memory.wf s.mem = true)
    (f := fun s (x : Byte × Nat) => s.writeL1 core tag (loc + x.2) x.1) (fun _ x h => State.writeL1_wf h core tag _ _) d.zipIdx h
  unfold State.writeBytesL1
  apply State.fitL1_wf
  simp only [State.noted_mem, State.coverChains_mem]
  split <;> exact this

theorem stepWord_wf {s : State} (h : Memory.wf s.mem = true) (who : Nat × Nat) (core tag loc : Nat) (f : Dword → Dword) :
    Memory.wf (stepWord s who core tag loc f).mem = true := State.writeBytes_wf (State.flushSector_wf h _ _) _ _ _ _ _

theorem performStore_wf {s : State} (h : Memory.wf s.mem = true) (k core : Nat) (p : PStore) :
    Memory.wf (performStore s k core p).mem = true := by
  unfold performStore
  refine State.foldl_keeps (P := fun s => Memory.wf s.mem = true) (fun _ x h => stepWord_wf h _ _ _ _ _) _ ?_
  split
  · exact State.writeBytesL1_wf h _ _ _ _ _ _
  · exact State.writeBytes_wf h _ _ _ _ _

/-- Memory after reset is in canonical form. -/
theorem reset_mem_wf : Memory.wf State.reset.mem = true := rfl

/-! ## Reads after writes -/

/-- The byte written reads back; every other byte reads as before. -/
theorem State.rawByte_setRaw (s : State) (loc a : Nat) (b : Byte) :
    (s.setRaw loc b).rawByte a = if a = loc then b else s.rawByte a := Bank.get_set ..

@[simp] theorem State.rawByte_setL1 (s : State) (core loc a : Nat) (x : Option (Bool × Byte)) :
    (s.setL1 core loc x).rawByte a = s.rawByte a := rfl
@[simp] theorem State.l1Byte_setRaw (s : State) (core loc a : Nat) (b : Byte) : (s.setRaw loc b).l1Byte core a = s.l1Byte core a := rfl

/-- A copy in one core's L1 is no copy of another core's. -/
theorem State.l1Byte_setL1 (s : State) (core loc : Nat) (x : Option (Bool × Byte)) {c a : Nat} (hl : loc < 2 ^ 42) (ha : a < 2 ^ 42) :
    (s.setL1 core loc x).l1Byte c a = if c = core ∧ a = loc then x else s.l1Byte c a := by
  unfold State.setL1 State.l1Byte
  rw [Bank.get_set]
  have : l1Key c a = l1Key core loc ↔ c = core ∧ a = loc := by
    unfold l1Key
    constructor
    · intro h; constructor <;> omega
    · rintro ⟨rfl, rfl⟩; rfl
  simp only [this]

/-- A word that already stands under the key is written where it is. -/
theorem State.retag_same {s : State} {tag w : Nat} (h : wordTag s w = tag) : s.retag tag w = s := if_pos h

/-- A byte written at its home, in a word that stands under its key: that byte, and no other. -/
theorem State.rawByte_writeByte {s : State} {tag loc : Nat} (ht : isDram loc = true → wordTag s (loc / 32) = tag) (core : Option Nat)
    (b : Byte) (a : Nat) : (s.writeByte core tag loc b).rawByte a = if a = loc then b else s.rawByte a := by
  unfold State.writeByte
  split
  · next h =>
    rw [State.retag_same (ht h), State.rawByte_setRaw]
    split
    · rfl
    · cases core with
      | none => rfl
      | some c => dsimp only; split <;> rfl
  · exact State.rawByte_setRaw ..

@[simp] theorem State.writeByte_tags {s : State} {tag loc : Nat} (ht : isDram loc = true → wordTag s (loc / 32) = tag) (core : Option Nat)
    (b : Byte) : (s.writeByte core tag loc b).tags = s.tags := by
  unfold State.writeByte
  split
  · next h =>
    rw [State.retag_same (ht h)]
    dsimp only [State.setRaw]
    split
    · split <;> rfl
    · rfl
  · rfl

/-- Bytes written at their home, in words that stand under their key: those bytes hold the data and no other byte changes. -/
theorem State.writeBytes_raw {s : State} {tag loc : Nat} (who : Option (Nat × Nat)) (core : Option Nat) (d : List Byte)
    (ht : ∀ a, loc ≤ a → a < loc + d.length → isDram a = true → wordTag s (a / 32) = tag) (a : Nat) :
    (s.writeBytes who core tag loc d).rawByte a = if loc ≤ a ∧ a < loc + d.length then d.getD (a - loc) 0 else s.rawByte a := by
  have key : ∀ (d : List Byte) (i : Nat) (s : State),
      (∀ a, loc + i ≤ a → a < loc + i + d.length → isDram a = true → wordTag s (a / 32) = tag) →
      ((d.zipIdx i).foldl (fun s (x : Byte × Nat) => s.writeByte core tag (loc + x.2) x.1) s).rawByte a =
        if loc + i ≤ a ∧ a < loc + i + d.length then d.getD (a - (loc + i)) 0 else s.rawByte a := by
    intro d
    induction d with
    | nil => intro i s _; simp
    | cons b r ih =>
      intro i s ht
      rw [List.zipIdx_cons, List.foldl_cons]
      have h0 : isDram (loc + i) = true → wordTag s ((loc + i) / 32) = tag := ht _ (Nat.le_refl _) (by simp)
      rw [ih (i + 1)]
      · rw [State.rawByte_writeByte h0]
        simp only [List.length_cons]
        by_cases h1 : a = loc + i
        · subst h1
          simp
        · by_cases h2 : loc + i ≤ a ∧ a < loc + i + (r.length + 1)
          · have h3 : loc + (i + 1) ≤ a ∧ a < loc + (i + 1) + r.length := by omega
            rw [if_pos h3, if_pos h2]
            have : a - (loc + i) = (a - (loc + (i + 1))) + 1 := by omega
            rw [this, List.getD_cons_succ]
          · have h3 : ¬(loc + (i + 1) ≤ a ∧ a < loc + (i + 1) + r.length) := by omega
            rw [if_neg h3, if_neg h2, if_neg h1]
      · intro a h1 h2 h3
        unfold wordTag
        rw [State.writeByte_tags h0]
        simp only [List.length_cons] at ht
        exact ht a (by omega) (by omega) h3
  have h := key d 0 s (by simpa using ht)
  simpa [State.writeBytes] using h

end Sys2Proof.Machine
end

