-- ==== Sys2Proof/Laws/Access.lean ====
section
/-! SUPPORT. What the accesses of one issue come to when every lane reaches a place of the module itself. -/
namespace Sys2Proof.Machine

variable {s : State} {w : View} {k : AccKind} {size : Nat} {ea : Nat → Dword} {place : Nat → Place}

theorem lanesOf_ne_nil {m : Word} (h : m ≠ 0) : lanesOf m ≠ [] := by
  intro hn
  apply h
  rw [← maskOf_lanesOf m, hn]
  rfl

/-- The outcomes: with room in the counter, nothing of its own to wait for and no poison to read, every lane completes. -/
theorem memOuts_local {cls : Cls} {reads release : Bool} (hc : w.g.count cls < 63)
    (h : ∀ l, inMask w.act l = true → checkAccess s w.g l k (ea l) size = .ok (place l) ∧
      selfWaits s w size (ea l) l (.ok (place l)) = false ∧ (reads = true → s.poisoned (if (place l).l1 then some w.g.core else none) (place l).loc size = none)) :
    memOuts s w cls k reads release size ea = (lanesOf w.act).map (fun l => (l, LaneOut.ok)) := by
  have hacc : ∀ l ∈ lanesOf w.act, laneAcc s w k size ea l = .ok (place l) := fun l hl => (h l ((mem_lanesOf _ _).mp hl)).1
  unfold memOuts
  simp only [List.any_map, List.map_map]
  rw [if_neg]
  · apply List.map_congr_left
    intro l hl
    simp only [Function.comp, hacc l hl, accOut, AccRes.isFabric, Bool.false_and, Bool.false_eq_true, if_false,
      (h l ((mem_lanesOf _ _).mp hl)).2.1]
    split
    · next hr => rw [(h l ((mem_lanesOf _ _).mp hl)).2.2 hr]
    · rfl
  · simp only [Bool.or_eq_true, Bool.and_eq_true, not_or, not_and]
    refine ⟨fun _ => by simp [Grp.room, hc], ?_⟩
    intro hf
    obtain ⟨l, hl, hf⟩ := List.any_eq_true.mp hf
    simp [Function.comp, hacc l hl, AccRes.isFabric] at hf

theorem placesOf_local (done : Word)
    (h : ∀ l, inMask done l = true → checkAccess s w.g l k (ea l) size = .ok (place l)) :
    placesOf s w k size ea done = (lanesOf done).map (fun l => (l, place l)) := by
  unfold placesOf
  rw [← List.filterMap_eq_map]
  apply List.filterMap_congr
  intro l hl
  simp [laneAcc, h l ((mem_lanesOf _ _).mp hl)]

theorem sharesOf_local (done : Word) (data : Nat → BitVec 128) (exp : Nat → Dword) (keys : Nat → List Nat) (sgn : Bool)
    (h : ∀ l, inMask done l = true → checkAccess s w.g l k (ea l) size = .ok (place l)) :
    sharesOf s w k size ea done data exp keys sgn = [] := by
  unfold sharesOf
  rw [List.filterMap_eq_nil_iff]
  intro l hl
  simp [laneAcc, h l ((mem_lanesOf _ _).mp hl)]

@[simp] theorem issueRemote_nil (s : State) (k : Nat) (kind : RemoteKind) (acq : Bool) : issueRemote s k kind acq [] = s := rfl

@[simp] theorem releaseRemote_nil (s : State) (w : View) : releaseRemote s w [] = s := rfl

@[simp] theorem maskOf_places (m : Word) (f : Nat → Place) : maskOf (((lanesOf m).map (fun l => (l, f l))).map (·.1)) = m := by
  rw [List.map_map]
  simpa [Function.comp_def] using maskOf_lanesOf m

theorem flatMap_places {α : Type} (ls : List Nat) (f : Nat → Place) (g : Nat × Place → List α) :
    (ls.map (fun l => (l, f l))).flatMap g = ls.flatMap (fun l => g (l, f l)) := List.flatMap_map ..

end Sys2Proof.Machine
end

