-- ==== Sys2Proof/Laws/Bits.lean ====
section
/-! SUPPORT. Reading a field of a word that was put together from its fields. -/
namespace Sys2Proof.Laws.Bits

/-- A field that lies wholly above the low part. -/
theorem extract_high {v w : Nat} (x : BitVec v) (y : BitVec w) (k n : Nat) (h : w ≤ k) :
    (x ++ y).extractLsb' k n = x.extractLsb' (k - w) n := by
  ext i hi
  have : ¬ k + i < w := by omega
  simp [BitVec.getLsbD_append, this, show k + i - w = k - w + i by omega]

/-- A field that lies wholly in the low part. -/
theorem extract_low {v w : Nat} (x : BitVec v) (y : BitVec w) (k n : Nat) (h : k + n ≤ w) :
    (x ++ y).extractLsb' k n = y.extractLsb' k n := by
  ext i hi
  have : k + i < w := by omega
  simp [BitVec.getLsbD_append, this]

/-- The whole of a word. -/
theorem extract_all {w : Nat} (x : BitVec w) : x.extractLsb' 0 w = x := by
  ext i hi
  simp

theorem ofBool_bit (u : Bool) : (BitVec.ofBool u == 1#1) = u := by cases u <;> rfl

/-- The two halves of a 64-bit word make it again. -/
theorem halves (x : BitVec 64) : x.extractLsb' 32 32 ++ x.extractLsb' 0 32 = x := by
  apply BitVec.eq_of_getLsbD_eq
  intro i hi
  rw [BitVec.getLsbD_append]
  by_cases h : i < 32
  · simp [h]
  · simp [h, show i - 32 < 32 by omega, show 32 + (i - 32) = i by omega]

end Sys2Proof.Laws.Bits
end

