-- ==== Sys2Proof/Laws/Commands.lean ====
section
/-! SUPPORT. What a command does, said once: where its queue pair hears it, by R364's checks in order. -/
namespace Sys2Proof.Machine

/-- A queue pair that takes no commands: nothing happens. -/
theorem command_deaf (s : State) (c : Command) (p : Permit) (len : Nat) (bad : List Byte → Bool) (f : State → Nat → List Byte → Done)
    (h : qpLive s c.qp = false) : command s c p len bad f = .next s := by
  simp [command, h]

/-- A command that its queue pair does not permit answers STATUS 2. -/
theorem command_forbidden (s : State) (c : Command) (p : Permit) (len : Nat) (bad : List Byte → Bool) (f : State → Nat → List Byte → Done)
    (h : qpLive s c.qp = true) (hp : permitted s c p = false) : command s c p len bad f = .next (queueReply c (refuse s 2)) := by
  simp [command, h, hp]

/-- A command of a wrong length, or with a reserved field set, answers STATUS 3. -/
theorem command_malformed (s : State) (c : Command) (p : Permit) (len : Nat) (bad : List Byte → Bool) (f : State → Nat → List Byte → Done)
    (h : qpLive s c.qp = true) (hp : permitted s c p = true)
    (hb : c.len ≠ len ∨ c.body.length ≠ len ∨ c.rsvd ≠ 0 ∨ bad c.body = true) :
    command s c p len bad f = .next (queueReply c (refuse s 3)) := by
  unfold command
  rw [h, hp]
  simp only [Bool.not_true, Bool.false_eq_true, if_false]
  rw [if_pos hb]

/-- A command that passes the checks of R364 answers what its own effect says. -/
theorem command_runs (s : State) (c : Command) (p : Permit) (len : Nat) (bad : List Byte → Bool) (f : State → Nat → List Byte → Done)
    (h : qpLive s c.qp = true) (hp : permitted s c p = true) (hl : c.len = len) (hb : c.body.length = len) (hr : c.rsvd = 0)
    (hx : bad c.body = false) : command s c p len bad f = .next (queueReply c (f s (((s.qp c.qp).ctxid).getD 0) c.body)) := by
  unfold command
  rw [h, hp]
  simp only [Bool.not_true, Bool.false_eq_true, if_false]
  rw [if_neg (by simp [hl, hb, hr, hx])]

end Sys2Proof.Machine
end

