-- ==== Sys2Proof/Laws/Fields.lean ====
section
/-! SUPPORT. The decoder of words, once for each major opcode: a word put together from its fields is decoded by its major opcode's
table (Table 2-1). -/
namespace Sys2Proof.Laws.RoundTrip

theorem major0 (u : Bool) (f : BitVec 3) (i : BitVec 22) :
    decodeWord (BitVec.ofBool u ++ 0#6 ++ f ++ i) = decodeMajor0 u f i := by
  unfold decodeWord
  simp (disch := decide) only [Bits.extract_high, Bits.extract_low, Bits.extract_all, Nat.reduceSub, Bits.ofBool_bit, BitVec.toNat_ofNat,
    Nat.reduceMod, Nat.reducePow]

theorem major1 (u : Bool) (f : BitVec 4) (d : BitVec 6) (a : BitVec 6) (b : BitVec 6) (p : BitVec 3) :
    decodeWord (BitVec.ofBool u ++ 1#6 ++ f ++ d ++ a ++ b ++ p) = decodeMajor1 u f d a b p := by
  unfold decodeWord
  simp (disch := decide) only [Bits.extract_high, Bits.extract_low, Bits.extract_all, Nat.reduceSub, Bits.ofBool_bit, BitVec.toNat_ofNat,
    Nat.reduceMod, Nat.reducePow]

theorem major2 (u : Bool) (f : BitVec 4) (d : BitVec 6) (a : BitVec 6) (b : BitVec 6) (p : BitVec 3) :
    decodeWord (BitVec.ofBool u ++ 2#6 ++ f ++ d ++ a ++ b ++ p) = decodeMajor2 u f d a b p := by
  unfold decodeWord
  simp (disch := decide) only [Bits.extract_high, Bits.extract_low, Bits.extract_all, Nat.reduceSub, Bits.ofBool_bit, BitVec.toNat_ofNat,
    Nat.reduceMod, Nat.reducePow]

theorem major3 (u : Bool) (f : BitVec 4) (d : BitVec 6) (a : BitVec 6) (b : BitVec 6) (p : BitVec 3) :
    decodeWord (BitVec.ofBool u ++ 3#6 ++ f ++ d ++ a ++ b ++ p) = decodeMajor3 u f d a b p := by
  unfold decodeWord
  simp (disch := decide) only [Bits.extract_high, Bits.extract_low, Bits.extract_all, Nat.reduceSub, Bits.ofBool_bit, BitVec.toNat_ofNat,
    Nat.reduceMod, Nat.reducePow]

theorem major4 (u : Bool) (f : BitVec 4) (d : BitVec 6) (a : BitVec 6) (b : BitVec 6) (p : BitVec 3) :
    decodeWord (BitVec.ofBool u ++ 4#6 ++ f ++ d ++ a ++ b ++ p) = decodeMajor4 u f d a b p := by
  unfold decodeWord
  simp (disch := decide) only [Bits.extract_high, Bits.extract_low, Bits.extract_all, Nat.reduceSub, Bits.ofBool_bit, BitVec.toNat_ofNat,
    Nat.reduceMod, Nat.reducePow]

theorem major5 (u : Bool) (f : BitVec 3) (d : BitVec 6) (a : BitVec 6) (b : BitVec 7) (p : BitVec 3) :
    decodeWord (BitVec.ofBool u ++ 5#6 ++ f ++ d ++ a ++ b ++ p) = decodeMajor5 u f d a b p := by
  unfold decodeWord
  simp (disch := decide) only [Bits.extract_high, Bits.extract_low, Bits.extract_all, Nat.reduceSub, Bits.ofBool_bit, BitVec.toNat_ofNat,
    Nat.reduceMod, Nat.reducePow]

theorem major6 (u : Bool) (f : BitVec 3) (d : BitVec 6) (a : BitVec 6) (b : BitVec 7) (p : BitVec 3) :
    decodeWord (BitVec.ofBool u ++ 6#6 ++ f ++ d ++ a ++ b ++ p) = decodeMajor6 u f d a b p := by
  unfold decodeWord
  simp (disch := decide) only [Bits.extract_high, Bits.extract_low, Bits.extract_all, Nat.reduceSub, Bits.ofBool_bit, BitVec.toNat_ofNat,
    Nat.reduceMod, Nat.reducePow]

theorem major7 (u : Bool) (f : BitVec 3) (d : BitVec 6) (a : BitVec 6) (b : BitVec 7) (p : BitVec 3) :
    decodeWord (BitVec.ofBool u ++ 7#6 ++ f ++ d ++ a ++ b ++ p) = decodeMajor7 u f d a b p := by
  unfold decodeWord
  simp (disch := decide) only [Bits.extract_high, Bits.extract_low, Bits.extract_all, Nat.reduceSub, Bits.ofBool_bit, BitVec.toNat_ofNat,
    Nat.reduceMod, Nat.reducePow]

theorem major8 (u : Bool) (f : BitVec 4) (d : BitVec 6) (a : BitVec 6) (b : BitVec 6) (p : BitVec 3) :
    decodeWord (BitVec.ofBool u ++ 8#6 ++ f ++ d ++ a ++ b ++ p) = decodeMajor8 u f d a b p := by
  unfold decodeWord
  simp (disch := decide) only [Bits.extract_high, Bits.extract_low, Bits.extract_all, Nat.reduceSub, Bits.ofBool_bit, BitVec.toNat_ofNat,
    Nat.reduceMod, Nat.reducePow]

theorem major9 (u : Bool) (f : BitVec 4) (d : BitVec 6) (a : BitVec 6) (b : BitVec 6) (p : BitVec 3) :
    decodeWord (BitVec.ofBool u ++ 9#6 ++ f ++ d ++ a ++ b ++ p) = decodeMajor9 u f d a b p := by
  unfold decodeWord
  simp (disch := decide) only [Bits.extract_high, Bits.extract_low, Bits.extract_all, Nat.reduceSub, Bits.ofBool_bit, BitVec.toNat_ofNat,
    Nat.reduceMod, Nat.reducePow]

theorem major10 (u : Bool) (f : BitVec 4) (d : BitVec 6) (a : BitVec 6) (b : BitVec 6) (p : BitVec 3) :
    decodeWord (BitVec.ofBool u ++ 10#6 ++ f ++ d ++ a ++ b ++ p) = decodeMajor10 u f d a b p := by
  unfold decodeWord
  simp (disch := decide) only [Bits.extract_high, Bits.extract_low, Bits.extract_all, Nat.reduceSub, Bits.ofBool_bit, BitVec.toNat_ofNat,
    Nat.reduceMod, Nat.reducePow]

theorem major11 (u : Bool) (f : BitVec 4) (d : BitVec 6) (a : BitVec 6) (b : BitVec 6) (p : BitVec 3) :
    decodeWord (BitVec.ofBool u ++ 11#6 ++ f ++ d ++ a ++ b ++ p) = decodeMajor11 u f d a b p := by
  unfold decodeWord
  simp (disch := decide) only [Bits.extract_high, Bits.extract_low, Bits.extract_all, Nat.reduceSub, Bits.ofBool_bit, BitVec.toNat_ofNat,
    Nat.reduceMod, Nat.reducePow]

theorem major12 (u : Bool) (f : BitVec 4) (d : BitVec 6) (a : BitVec 6) (b : BitVec 6) (p : BitVec 3) :
    decodeWord (BitVec.ofBool u ++ 12#6 ++ f ++ d ++ a ++ b ++ p) = decodeMajor12 u f d a b p := by
  unfold decodeWord
  simp (disch := decide) only [Bits.extract_high, Bits.extract_low, Bits.extract_all, Nat.reduceSub, Bits.ofBool_bit, BitVec.toNat_ofNat,
    Nat.reduceMod, Nat.reducePow]

theorem major13 (u : Bool) (f : BitVec 4) (d : BitVec 6) (a : BitVec 6) (b : BitVec 6) (p : BitVec 3) :
    decodeWord (BitVec.ofBool u ++ 13#6 ++ f ++ d ++ a ++ b ++ p) = decodeMajor13 u f d a b p := by
  unfold decodeWord
  simp (disch := decide) only [Bits.extract_high, Bits.extract_low, Bits.extract_all, Nat.reduceSub, Bits.ofBool_bit, BitVec.toNat_ofNat,
    Nat.reduceMod, Nat.reducePow]

theorem major14 (u : Bool) (f : BitVec 4) (d : BitVec 6) (a : BitVec 6) (b : BitVec 6) (p : BitVec 3) :
    decodeWord (BitVec.ofBool u ++ 14#6 ++ f ++ d ++ a ++ b ++ p) = decodeMajor14 u f d a b p := by
  unfold decodeWord
  simp (disch := decide) only [Bits.extract_high, Bits.extract_low, Bits.extract_all, Nat.reduceSub, Bits.ofBool_bit, BitVec.toNat_ofNat,
    Nat.reduceMod, Nat.reducePow]

theorem major15 (u : Bool) (f : BitVec 4) (d : BitVec 6) (a : BitVec 6) (b : BitVec 6) (p : BitVec 3) :
    decodeWord (BitVec.ofBool u ++ 15#6 ++ f ++ d ++ a ++ b ++ p) = decodeMajor15 u f d a b p := by
  unfold decodeWord
  simp (disch := decide) only [Bits.extract_high, Bits.extract_low, Bits.extract_all, Nat.reduceSub, Bits.ofBool_bit, BitVec.toNat_ofNat,
    Nat.reduceMod, Nat.reducePow]

theorem major16 (u : Bool) (f : BitVec 4) (d : BitVec 6) (a : BitVec 6) (b : BitVec 6) (p : BitVec 3) :
    decodeWord (BitVec.ofBool u ++ 16#6 ++ f ++ d ++ a ++ b ++ p) = decodeMajor16 u f d a b p := by
  unfold decodeWord
  simp (disch := decide) only [Bits.extract_high, Bits.extract_low, Bits.extract_all, Nat.reduceSub, Bits.ofBool_bit, BitVec.toNat_ofNat,
    Nat.reduceMod, Nat.reducePow]

theorem major17 (u : Bool) (f : BitVec 4) (d : BitVec 6) (a : BitVec 6) (b : BitVec 6) (p : BitVec 3) :
    decodeWord (BitVec.ofBool u ++ 17#6 ++ f ++ d ++ a ++ b ++ p) = decodeMajor17 u f d a b p := by
  unfold decodeWord
  simp (disch := decide) only [Bits.extract_high, Bits.extract_low, Bits.extract_all, Nat.reduceSub, Bits.ofBool_bit, BitVec.toNat_ofNat,
    Nat.reduceMod, Nat.reducePow]

theorem major18 (u : Bool) (f : BitVec 4) (d : BitVec 6) (a : BitVec 6) (b : BitVec 6) (p : BitVec 3) :
    decodeWord (BitVec.ofBool u ++ 18#6 ++ f ++ d ++ a ++ b ++ p) = decodeMajor18 u f d a b p := by
  unfold decodeWord
  simp (disch := decide) only [Bits.extract_high, Bits.extract_low, Bits.extract_all, Nat.reduceSub, Bits.ofBool_bit, BitVec.toNat_ofNat,
    Nat.reduceMod, Nat.reducePow]

theorem major19 (u : Bool) (f : BitVec 4) (d : BitVec 6) (a : BitVec 6) (b : BitVec 6) (p : BitVec 3) :
    decodeWord (BitVec.ofBool u ++ 19#6 ++ f ++ d ++ a ++ b ++ p) = decodeMajor19 u f d a b p := by
  unfold decodeWord
  simp (disch := decide) only [Bits.extract_high, Bits.extract_low, Bits.extract_all, Nat.reduceSub, Bits.ofBool_bit, BitVec.toNat_ofNat,
    Nat.reduceMod, Nat.reducePow]

theorem major20 (u : Bool) (f : BitVec 4) (d : BitVec 6) (a : BitVec 6) (b : BitVec 6) (p : BitVec 3) :
    decodeWord (BitVec.ofBool u ++ 20#6 ++ f ++ d ++ a ++ b ++ p) = decodeMajor20 u f d a b p := by
  unfold decodeWord
  simp (disch := decide) only [Bits.extract_high, Bits.extract_low, Bits.extract_all, Nat.reduceSub, Bits.ofBool_bit, BitVec.toNat_ofNat,
    Nat.reduceMod, Nat.reducePow]

theorem major21 (u : Bool) (f : BitVec 4) (d : BitVec 6) (a : BitVec 6) (b : BitVec 6) (p : BitVec 3) :
    decodeWord (BitVec.ofBool u ++ 21#6 ++ f ++ d ++ a ++ b ++ p) = decodeMajor21 u f d a b p := by
  unfold decodeWord
  simp (disch := decide) only [Bits.extract_high, Bits.extract_low, Bits.extract_all, Nat.reduceSub, Bits.ofBool_bit, BitVec.toNat_ofNat,
    Nat.reduceMod, Nat.reducePow]

theorem major22 (u : Bool) (f : BitVec 4) (d : BitVec 6) (a : BitVec 6) (b : BitVec 6) (p : BitVec 3) :
    decodeWord (BitVec.ofBool u ++ 22#6 ++ f ++ d ++ a ++ b ++ p) = decodeMajor22 u f d a b p := by
  unfold decodeWord
  simp (disch := decide) only [Bits.extract_high, Bits.extract_low, Bits.extract_all, Nat.reduceSub, Bits.ofBool_bit, BitVec.toNat_ofNat,
    Nat.reduceMod, Nat.reducePow]

theorem major23 (u : Bool) (f : BitVec 3) (d : BitVec 6) (a : BitVec 6) (b : BitVec 7) (p : BitVec 3) :
    decodeWord (BitVec.ofBool u ++ 23#6 ++ f ++ d ++ a ++ b ++ p) = decodeMajor23 u f d a b p := by
  unfold decodeWord
  simp (disch := decide) only [Bits.extract_high, Bits.extract_low, Bits.extract_all, Nat.reduceSub, Bits.ofBool_bit, BitVec.toNat_ofNat,
    Nat.reduceMod, Nat.reducePow]

theorem major24 (u : Bool) (f : BitVec 3) (d : BitVec 6) (a : BitVec 6) (b : BitVec 7) (p : BitVec 3) :
    decodeWord (BitVec.ofBool u ++ 24#6 ++ f ++ d ++ a ++ b ++ p) = decodeMajor24 u f d a b p := by
  unfold decodeWord
  simp (disch := decide) only [Bits.extract_high, Bits.extract_low, Bits.extract_all, Nat.reduceSub, Bits.ofBool_bit, BitVec.toNat_ofNat,
    Nat.reduceMod, Nat.reducePow]

theorem major25 (u : Bool) (f : BitVec 3) (d : BitVec 6) (a : BitVec 6) (b : BitVec 7) (p : BitVec 3) :
    decodeWord (BitVec.ofBool u ++ 25#6 ++ f ++ d ++ a ++ b ++ p) = decodeMajor25 u f d a b p := by
  unfold decodeWord
  simp (disch := decide) only [Bits.extract_high, Bits.extract_low, Bits.extract_all, Nat.reduceSub, Bits.ofBool_bit, BitVec.toNat_ofNat,
    Nat.reduceMod, Nat.reducePow]

theorem major26 (u : Bool) (f : BitVec 3) (d : BitVec 6) (a : BitVec 6) (b : BitVec 7) (p : BitVec 3) :
    decodeWord (BitVec.ofBool u ++ 26#6 ++ f ++ d ++ a ++ b ++ p) = decodeMajor26 u f d a b p := by
  unfold decodeWord
  simp (disch := decide) only [Bits.extract_high, Bits.extract_low, Bits.extract_all, Nat.reduceSub, Bits.ofBool_bit, BitVec.toNat_ofNat,
    Nat.reduceMod, Nat.reducePow]

theorem major27 (u : Bool) (f : BitVec 3) (d : BitVec 6) (a : BitVec 6) (b : BitVec 7) (p : BitVec 3) :
    decodeWord (BitVec.ofBool u ++ 27#6 ++ f ++ d ++ a ++ b ++ p) = decodeMajor27 u f d a b p := by
  unfold decodeWord
  simp (disch := decide) only [Bits.extract_high, Bits.extract_low, Bits.extract_all, Nat.reduceSub, Bits.ofBool_bit, BitVec.toNat_ofNat,
    Nat.reduceMod, Nat.reducePow]

theorem major28 (u : Bool) (f : BitVec 4) (d : BitVec 6) (a : BitVec 6) (b : BitVec 6) (p : BitVec 3) :
    decodeWord (BitVec.ofBool u ++ 28#6 ++ f ++ d ++ a ++ b ++ p) = decodeMajor28 u f d a b p := by
  unfold decodeWord
  simp (disch := decide) only [Bits.extract_high, Bits.extract_low, Bits.extract_all, Nat.reduceSub, Bits.ofBool_bit, BitVec.toNat_ofNat,
    Nat.reduceMod, Nat.reducePow]

theorem major29 (u : Bool) (f : BitVec 4) (d : BitVec 6) (a : BitVec 6) (b : BitVec 6) (p : BitVec 3) :
    decodeWord (BitVec.ofBool u ++ 29#6 ++ f ++ d ++ a ++ b ++ p) = decodeMajor29 u f d a b p := by
  unfold decodeWord
  simp (disch := decide) only [Bits.extract_high, Bits.extract_low, Bits.extract_all, Nat.reduceSub, Bits.ofBool_bit, BitVec.toNat_ofNat,
    Nat.reduceMod, Nat.reducePow]

theorem major30 (u : Bool) (f : BitVec 4) (d : BitVec 6) (a : BitVec 6) (b : BitVec 6) (p : BitVec 3) :
    decodeWord (BitVec.ofBool u ++ 30#6 ++ f ++ d ++ a ++ b ++ p) = decodeMajor30 u f d a b p := by
  unfold decodeWord
  simp (disch := decide) only [Bits.extract_high, Bits.extract_low, Bits.extract_all, Nat.reduceSub, Bits.ofBool_bit, BitVec.toNat_ofNat,
    Nat.reduceMod, Nat.reducePow]

theorem major31 (u : Bool) (f : BitVec 4) (d : BitVec 6) (a : BitVec 6) (b : BitVec 6) (p : BitVec 3) :
    decodeWord (BitVec.ofBool u ++ 31#6 ++ f ++ d ++ a ++ b ++ p) = decodeMajor31 u f d a b p := by
  unfold decodeWord
  simp (disch := decide) only [Bits.extract_high, Bits.extract_low, Bits.extract_all, Nat.reduceSub, Bits.ofBool_bit, BitVec.toNat_ofNat,
    Nat.reduceMod, Nat.reducePow]

theorem major32 (u : Bool) (f : BitVec 4) (d : BitVec 6) (a : BitVec 6) (b : BitVec 6) (p : BitVec 3) :
    decodeWord (BitVec.ofBool u ++ 32#6 ++ f ++ d ++ a ++ b ++ p) = decodeMajor32 u f d a b p := by
  unfold decodeWord
  simp (disch := decide) only [Bits.extract_high, Bits.extract_low, Bits.extract_all, Nat.reduceSub, Bits.ofBool_bit, BitVec.toNat_ofNat,
    Nat.reduceMod, Nat.reducePow]

theorem major33 (u : Bool) (f : BitVec 4) (d : BitVec 6) (a : BitVec 6) (b : BitVec 6) (p : BitVec 3) :
    decodeWord (BitVec.ofBool u ++ 33#6 ++ f ++ d ++ a ++ b ++ p) = decodeMajor33 u f d a b p := by
  unfold decodeWord
  simp (disch := decide) only [Bits.extract_high, Bits.extract_low, Bits.extract_all, Nat.reduceSub, Bits.ofBool_bit, BitVec.toNat_ofNat,
    Nat.reduceMod, Nat.reducePow]

theorem major34 (u : Bool) (f : BitVec 4) (d : BitVec 6) (a : BitVec 6) (b : BitVec 6) (p : BitVec 3) :
    decodeWord (BitVec.ofBool u ++ 34#6 ++ f ++ d ++ a ++ b ++ p) = decodeMajor34 u f d a b p := by
  unfold decodeWord
  simp (disch := decide) only [Bits.extract_high, Bits.extract_low, Bits.extract_all, Nat.reduceSub, Bits.ofBool_bit, BitVec.toNat_ofNat,
    Nat.reduceMod, Nat.reducePow]

theorem major35 (u : Bool) (f : BitVec 4) (d : BitVec 6) (a : BitVec 6) (b : BitVec 6) (p : BitVec 3) :
    decodeWord (BitVec.ofBool u ++ 35#6 ++ f ++ d ++ a ++ b ++ p) = decodeMajor35 u f d a b p := by
  unfold decodeWord
  simp (disch := decide) only [Bits.extract_high, Bits.extract_low, Bits.extract_all, Nat.reduceSub, Bits.ofBool_bit, BitVec.toNat_ofNat,
    Nat.reduceMod, Nat.reducePow]

theorem major36 (u : Bool) (f : BitVec 4) (d : BitVec 6) (a : BitVec 6) (b : BitVec 6) (p : BitVec 3) :
    decodeWord (BitVec.ofBool u ++ 36#6 ++ f ++ d ++ a ++ b ++ p) = decodeMajor36 u f d a b p := by
  unfold decodeWord
  simp (disch := decide) only [Bits.extract_high, Bits.extract_low, Bits.extract_all, Nat.reduceSub, Bits.ofBool_bit, BitVec.toNat_ofNat,
    Nat.reduceMod, Nat.reducePow]

theorem major37 (u : Bool) (f : BitVec 5) (d : BitVec 5) (a : BitVec 5) (b : BitVec 5) (p : BitVec 5) :
    decodeWord (BitVec.ofBool u ++ 37#6 ++ f ++ d ++ a ++ b ++ p) = decodeMajor37 u f d a b p := by
  unfold decodeWord
  simp (disch := decide) only [Bits.extract_high, Bits.extract_low, Bits.extract_all, Nat.reduceSub, Bits.ofBool_bit, BitVec.toNat_ofNat,
    Nat.reduceMod, Nat.reducePow]

theorem major38 (u : Bool) (f : BitVec 3) (d : BitVec 6) (a : BitVec 6) (b : BitVec 7) (p : BitVec 3) :
    decodeWord (BitVec.ofBool u ++ 38#6 ++ f ++ d ++ a ++ b ++ p) = decodeMajor38 u f d a b p := by
  unfold decodeWord
  simp (disch := decide) only [Bits.extract_high, Bits.extract_low, Bits.extract_all, Nat.reduceSub, Bits.ofBool_bit, BitVec.toNat_ofNat,
    Nat.reduceMod, Nat.reducePow]

theorem major39 (u : Bool) (f : BitVec 3) (i : BitVec 19) (p : BitVec 3) :
    decodeWord (BitVec.ofBool u ++ 39#6 ++ f ++ i ++ p) = decodeMajor39 u f i p := by
  unfold decodeWord
  simp (disch := decide) only [Bits.extract_high, Bits.extract_low, Bits.extract_all, Nat.reduceSub, Bits.ofBool_bit, BitVec.toNat_ofNat,
    Nat.reduceMod, Nat.reducePow]

theorem major40 (u : Bool) (f : BitVec 4) (d : BitVec 6) (a : BitVec 6) (b : BitVec 6) (p : BitVec 3) :
    decodeWord (BitVec.ofBool u ++ 40#6 ++ f ++ d ++ a ++ b ++ p) = decodeMajor40 u f d a b p := by
  unfold decodeWord
  simp (disch := decide) only [Bits.extract_high, Bits.extract_low, Bits.extract_all, Nat.reduceSub, Bits.ofBool_bit, BitVec.toNat_ofNat,
    Nat.reduceMod, Nat.reducePow]

theorem major41 (u : Bool) (f : BitVec 4) (d : BitVec 6) (a : BitVec 6) (b : BitVec 6) (p : BitVec 3) :
    decodeWord (BitVec.ofBool u ++ 41#6 ++ f ++ d ++ a ++ b ++ p) = decodeMajor41 u f d a b p := by
  unfold decodeWord
  simp (disch := decide) only [Bits.extract_high, Bits.extract_low, Bits.extract_all, Nat.reduceSub, Bits.ofBool_bit, BitVec.toNat_ofNat,
    Nat.reduceMod, Nat.reducePow]

theorem major42 (u : Bool) (f : BitVec 4) (d : BitVec 6) (a : BitVec 6) (b : BitVec 6) (p : BitVec 3) :
    decodeWord (BitVec.ofBool u ++ 42#6 ++ f ++ d ++ a ++ b ++ p) = decodeMajor42 u f d a b p := by
  unfold decodeWord
  simp (disch := decide) only [Bits.extract_high, Bits.extract_low, Bits.extract_all, Nat.reduceSub, Bits.ofBool_bit, BitVec.toNat_ofNat,
    Nat.reduceMod, Nat.reducePow]

theorem major43 (u : Bool) (f : BitVec 4) (d : BitVec 6) (a : BitVec 6) (b : BitVec 6) (p : BitVec 3) :
    decodeWord (BitVec.ofBool u ++ 43#6 ++ f ++ d ++ a ++ b ++ p) = decodeMajor43 u f d a b p := by
  unfold decodeWord
  simp (disch := decide) only [Bits.extract_high, Bits.extract_low, Bits.extract_all, Nat.reduceSub, Bits.ofBool_bit, BitVec.toNat_ofNat,
    Nat.reduceMod, Nat.reducePow]

theorem major44 (u : Bool) (f : BitVec 4) (d : BitVec 6) (a : BitVec 6) (b : BitVec 6) (p : BitVec 3) :
    decodeWord (BitVec.ofBool u ++ 44#6 ++ f ++ d ++ a ++ b ++ p) = decodeMajor44 u f d a b p := by
  unfold decodeWord
  simp (disch := decide) only [Bits.extract_high, Bits.extract_low, Bits.extract_all, Nat.reduceSub, Bits.ofBool_bit, BitVec.toNat_ofNat,
    Nat.reduceMod, Nat.reducePow]

theorem major45 (u : Bool) (f : BitVec 4) (d : BitVec 6) (a : BitVec 6) (b : BitVec 6) (p : BitVec 3) :
    decodeWord (BitVec.ofBool u ++ 45#6 ++ f ++ d ++ a ++ b ++ p) = decodeMajor45 u f d a b p := by
  unfold decodeWord
  simp (disch := decide) only [Bits.extract_high, Bits.extract_low, Bits.extract_all, Nat.reduceSub, Bits.ofBool_bit, BitVec.toNat_ofNat,
    Nat.reduceMod, Nat.reducePow]

theorem major46 (u : Bool) (f : BitVec 4) (d : BitVec 6) (a : BitVec 6) (b : BitVec 6) (p : BitVec 3) :
    decodeWord (BitVec.ofBool u ++ 46#6 ++ f ++ d ++ a ++ b ++ p) = decodeMajor46 u f d a b p := by
  unfold decodeWord
  simp (disch := decide) only [Bits.extract_high, Bits.extract_low, Bits.extract_all, Nat.reduceSub, Bits.ofBool_bit, BitVec.toNat_ofNat,
    Nat.reduceMod, Nat.reducePow]

theorem major47 (u : Bool) (f : BitVec 4) (d : BitVec 6) (a : BitVec 12) (p : BitVec 3) :
    decodeWord (BitVec.ofBool u ++ 47#6 ++ f ++ d ++ a ++ p) = decodeMajor47 u f d a p := by
  unfold decodeWord
  simp (disch := decide) only [Bits.extract_high, Bits.extract_low, Bits.extract_all, Nat.reduceSub, Bits.ofBool_bit, BitVec.toNat_ofNat,
    Nat.reduceMod, Nat.reducePow]

end Sys2Proof.Laws.RoundTrip
end

