-- ==== Sys2Proof/Laws/PerLane.lean ====
section
/-! SUPPORT. Words that write registers lane by lane: what the fold over the lanes of Act leaves, and that such a word, where it is
ready, gives its results (`Gives`). -/
namespace Sys2Proof.Machine

/-- What f does to a group at one lane is what the result r says, and nothing else. -/
structure LaneEff (f : Grp → Nat → Grp) (r : Nat → Lane → LaneResult) : Prop where
  rest : ∀ g l, f g l = g.put (f g l).v (f g l).lanes
  lane : ∀ g l j, (f g l).lane j = if j = l then (r l (g.lane l)).into (g.lane l) else g.lane j
  reg : ∀ g l j, Bank.get 0 (f g l).v j =
    (r l (g.lane l)).regs.foldl (fun v x => if j = g.vkey x.1 l then x.2 else v) (Bank.get 0 g.v j)

theorem foldl_miss {α : Type} (xs : List (Nat × α)) (p : Nat → Prop) [DecidablePred p] (v : α) (h : ∀ x ∈ xs, ¬ p x.1) :
    xs.foldl (fun v x => if p x.1 then x.2 else v) v = v := by
  induction xs generalizing v with
  | nil => rfl
  | cons x r ih =>
    rw [List.foldl_cons, if_neg (h x (List.mem_cons_self ..))]
    exact ih v (fun y hy => h y (List.mem_cons_of_mem _ hy))

theorem foldl_same {α : Type} (xs : List (Nat × α)) (p q : Nat → Prop) [DecidablePred p] [DecidablePred q] (v : α)
    (h : ∀ x ∈ xs, p x.1 ↔ q x.1) :
    xs.foldl (fun v x => if p x.1 then x.2 else v) v = xs.foldl (fun v x => if q x.1 then x.2 else v) v := by
  induction xs generalizing v with
  | nil => rfl
  | cons x r ih =>
    rw [List.foldl_cons, List.foldl_cons]
    have : (if p x.1 then x.2 else v) = (if q x.1 then x.2 else v) := by
      simp only [h x (List.mem_cons_self ..)]
    rw [this]
    exact ih _ (fun y hy => h y (List.mem_cons_of_mem _ hy))

theorem LaneEff.vkey {f : Grp → Nat → Grp} {r : Nat → Lane → LaneResult} (h : LaneEff f r) (g : Grp) (l n l' : Nat) :
    (f g l).vkey n l' = g.vkey n l' := by rw [h.rest]; rfl

/-- The fold over a list of lanes without repeats. -/
theorem LaneEff.fold {f : Grp → Nat → Grp} {r : Nat → Lane → LaneResult} (h : LaneEff f r) (ls : List Nat) (hn : ls.Nodup)
    (hlt : ∀ l ∈ ls, l < 32) (g : Grp) :
    ls.foldl f g = g.put (ls.foldl f g).v (ls.foldl f g).lanes ∧
    (∀ j, (ls.foldl f g).lane j = if j ∈ ls then (r j (g.lane j)).into (g.lane j) else g.lane j) ∧
    (∀ l ∈ ls, ∀ n, (ls.foldl f g).rv n l = (r l (g.lane l)).reads (fun n => g.rv n l) n) ∧
    (∀ j, (∀ l ∈ ls, ∀ x ∈ (r l (g.lane l)).regs, j ≠ g.vkey x.1 l) →
      Bank.get 0 (ls.foldl f g).v j = Bank.get 0 g.v j) := by
  induction ls generalizing g with
  | nil => exact ⟨rfl, by simp, by simp, by simp⟩
  | cons a t ih =>
    obtain ⟨ha, ht⟩ := List.nodup_cons.mp hn
    have hlt' : ∀ l ∈ t, l < 32 := fun l hl => hlt l (List.mem_cons_of_mem _ hl)
    have ha32 : a < 32 := hlt a (List.mem_cons_self ..)
    obtain ⟨i1, i2, i3, i4⟩ := ih ht hlt' (f g a)
    rw [List.foldl_cons]
    have hlane : ∀ l ∈ t, (f g a).lane l = g.lane l := by
      intro l hl
      rw [h.lane, if_neg]
      rintro rfl
      exact ha hl
    refine ⟨?_, ?_, ?_, ?_⟩
    · exact Grp.put_trans i1 (h.rest g a)
    · intro j
      rw [i2]
      by_cases hj : j ∈ t
      · simp [hj, hlane j hj]
      · by_cases hja : j = a
        · subst hja; simp [ha, h.lane]
        · simp [hj, hja, h.lane]
    · intro l hl n
      rcases List.mem_cons.mp hl with rfl | hl'
      · -- lane l itself was written first; the others do not touch its registers
        have hkeep := i4 (g.vkey n l) (by
          intro l' hl' x hx
          rw [h.vkey]
          intro e
          have := (Grp.vkey_inj g e ha32 (hlt' l' hl')).2
          subst this
          exact ha hl')
        have e1 : (t.foldl f (f g l)).rv n l = Bank.get 0 (t.foldl f (f g l)).v (g.vkey n l) := by
          unfold Grp.rv
          rw [Grp.vkey_of i1, h.vkey]
        rw [e1, hkeep, h.reg]
        unfold LaneResult.reads
        exact foldl_same _ (fun x => g.vkey n l = g.vkey x l) (fun x => x = n) _ (fun x _ =>
          ⟨fun e => (Grp.vkey_inj g e ha32 ha32).1.symm, fun e => by rw [e]⟩)
      · rw [i3 l hl' n, hlane l hl']
        have : (fun n => (f g a).rv n l) = (fun n => g.rv n l) := by
          funext m
          unfold Grp.rv
          rw [h.vkey, h.reg]
          apply foldl_miss _ (fun x => g.vkey m l = g.vkey x a)
          intro x _ e
          have := (Grp.vkey_inj g e (hlt' l hl') ha32).2
          subst this
          exact ha hl'
        rw [this]
    · intro j hj
      rw [i4 j, h.reg]
      · apply foldl_miss _ (fun x => j = g.vkey x a)
        intro x hx e
        exact hj a (List.mem_cons_self ..) x hx e
      · intro l hl x hx
        rw [hlane l hl] at hx
        rw [h.vkey]
        exact hj l (List.mem_cons_of_mem _ hl) x hx

/-- A ready word that writes registers lane by lane gives its results. -/
theorem yields_perLane (i : Instr) (s : State) (m : View → State → Meaning) (f : Grp → Nat → Grp) (r : Nat → Lane → LaneResult)
    (he : exec i s = issue i s m) (h : ready i s = true)
    (hm : m (viewOf i s) (enter i s) = perLane (viewOf i s) f) (hf : LaneEff f r)
    (hr : ∀ l, ∀ x ∈ (r l ((s.grp s.key).lane l)).regs, x.1 < 64) :
    yields i s (fun l => r l ((s.grp s.key).lane l)) := by
  have hi := issue_ready i s m h (by rw [hm]; rfl)
  refine ⟨_, he.trans hi, ?_⟩
  rw [hm]
  obtain ⟨f1, f2, f3, f4⟩ := hf.fold (acting i s) (lanesOf_nodup _) (fun l hl => inMask_lt ((mem_lanesOf _ _).mp hl)) (viewOf i s).g
  generalize hG : (acting i s).foldl f (viewOf i s).g = G at f1 f2 f3 f4
  have hstate : leave i s ((perLane (viewOf i s) f).eff (viewOf i s).act (enter i s)) =
      ((enter i s).modGrp s.key (fun g => (acting i s).foldl f g)).modGrp s.key
        (fun g => (movers i s).foldl (fun g l => g.modLane l (after i s)) g) := rfl
  rw [hstate]
  have hent : (enter i s).grp s.key = (viewOf i s).g := State.grp_setGrp s s.key (viewOf i s).g
  have hgrp : (((enter i s).modGrp s.key (fun g => (acting i s).foldl f g)).modGrp s.key
        (fun g => (movers i s).foldl (fun g l => g.modLane l (after i s)) g)).grp s.key =
      (movers i s).foldl (fun g l => g.modLane l (after i s)) G := by
    rw [State.grp_modGrp, State.grp_modGrp, hent, hG]
  have hrest := Grp.foldl_modLane_rest (movers i s) (fun _ => after i s) G
  have hlane := Grp.lane_foldl_modLane (movers i s) (movers_nodup i s) (fun _ => after i s) G
  generalize (movers i s).foldl (fun g l => g.modLane l (after i s)) G = F at hgrp hrest hlane
  have hv : F.v = G.v := by rw [hrest]; rfl
  have hkey : ∀ n l, F.vkey n l = (s.grp s.key).vkey n l := fun n l =>
    (Grp.vkey_of hrest n l).trans ((Grp.vkey_of f1 n l).trans (viewOf_vkey i s n l))
  have hput : enter i s = s.put (enter i s).grps := rfl
  constructor
  · exact State.modGrp_put (State.modGrp_put hput _ _) _ _
  · intro k hk
    rw [State.grp_modGrp_other _ _ hk, State.grp_modGrp_other _ _ hk]
    exact State.grp_setGrp_other s _ hk
  · rw [hgrp]
    exact (Grp.put_trans hrest f1).trans (by rw [hv])
  · intro l hl
    have hm' : l ∈ movers i s := (mem_movers i s l).mpr (act_sub i s hl)
    have ha : l ∈ acting i s := (mem_lanesOf _ _).mpr hl
    rw [hgrp, hlane, if_pos hm', f2, if_pos ha, viewOf_lane]
    refine ⟨rfl, fun n _ => ?_⟩
    have := f3 l ha n
    rw [viewOf_lane] at this
    simp only [viewOf_rv] at this
    rw [← this]
    unfold Grp.rv
    rw [hkey, hv, Grp.vkey_of f1, viewOf_vkey]
  · intro l hl hna
    have hm' : l ∈ movers i s := (mem_movers i s l).mpr hl
    have ha : l ∉ acting i s := fun hc => by
      have := (mem_lanesOf _ _).mp hc
      simp [this] at hna
    rw [hgrp, hlane, if_pos hm', f2, if_neg ha, viewOf_lane]
  · intro l hl
    have hm' : l ∉ movers i s := fun hc => by
      have := (mem_movers i s l).mp hc
      simp [this] at hl
    have ha : l ∉ acting i s := fun hc => hm' (List.mem_append_left _ hc)
    rw [hgrp, hlane, if_neg hm', f2, if_neg ha, viewOf_lane]
  · intro j hj
    rw [hgrp, hv, f4, viewOf_v]
    intro l hl x hx
    rw [viewOf_lane] at hx
    rw [viewOf_vkey]
    exact hj l x.1 ((mem_lanesOf _ _).mp hl) (hr l x hx)

end Sys2Proof.Machine
end

