-- ==== Sys2Proof/Laws/Forms.lean ====
section
/-! SUPPORT. The operand forms of the register-only families: each form, where its word is ready, gives the results it computes. -/
namespace Sys2Proof.Machine

/-! ## A destination pair lies wholly below register 64 -/

theorem decodeTrap_aligned {g : Grp} {m : Word} {q : Prefix} {i : Instr} (h : decodeTrap g m q {} i = none) :
    ∀ o ∈ (useOf i).src ++ (useOf i).dst.toList, o.reg % o.align = 0 := by
  unfold decodeTrap at h
  have hf : fieldBad g i = false := by
    by_contra hc
    have hc : fieldBad g i = true := by simpa using hc
    revert h
    cases limitTrap g.kern i <;> simp only [hc, Bool.or_true, if_true, reduceCtorEq, imp_self]
    split
    · simp
    · split
      · simp
      · split <;> simp
  unfold fieldBad at hf
  simp only [Bool.or_eq_false_iff, List.any_eq_false, bne_iff_ne, ne_eq, not_not] at hf
  exact hf.1.1

theorem runs_decodes {i : Instr} {s : State} (h : ready i s = true) :
    decodeTrap (s.grp s.key) s.cur.lanes s.cur.pre {} i = none := by
  have := (ready_parts h).1
  simp only [runs, Bool.and_eq_true, beq_iff_eq] at this
  exact this.1.1.1.1.2

theorem pair_below {i : Instr} {s : State} (h : ready i s = true) (d : BitVec 6) (hd : (useOf i).dst = some (r2 d)) :
    d.toNat + 1 < 64 := by
  have := decodeTrap_aligned (runs_decodes h) (r2 d) (by simp [hd])
  simp only [r2] at this
  have := d.isLt
  omega

/-! ## What each form does to one lane -/

theorem into_regs (x : Lane) (rs : List (Nat × Word)) : ({ regs := rs } : LaneResult).into x = x := by
  simp [LaneResult.into]

theorem raise_put (g : Grp) (l : Nat) (fl : Word) : g.raise l fl = g.put g.v (g.raise l fl).lanes := by
  unfold Grp.raise
  split
  · rfl
  · exact Grp.modLane_rest ..

theorem lane_raise (g : Grp) (l : Nat) (fl : Word) (j : Nat) :
    (g.raise l fl).lane j = if j = l then { g.lane l with flags := (g.lane l).flags ||| fl } else g.lane j := by
  unfold Grp.raise
  split
  · next h =>
    subst h
    by_cases hj : j = l
    · subst hj; simp
    · simp [hj]
  · rw [Grp.lane_modLane]

theorem wp_put (g : Grp) (p l : Nat) (b : Bool) : g.wp p l b = g.put g.v (g.wp p l b).lanes := by
  unfold Grp.wp
  split
  · rfl
  · exact Grp.modLane_rest ..

theorem lane_wp (g : Grp) (p l : Nat) (b : Bool) (j : Nat) :
    (g.wp p l b).lane j = if j = l then { g.lane l with preds := if p = 0 then (g.lane l).preds else setBit8 (g.lane l).preds p b }
      else g.lane j := by
  unfold Grp.wp
  split
  · next h =>
    by_cases hj : j = l
    · subst hj; simp
    · simp [hj]
  · rw [Grp.lane_modLane]

theorem stepLane_put (g : Grp) (l m : Nat) : (stepLane g l m).2 = g.put g.v (stepLane g l m).2.lanes := by
  unfold stepLane
  split <;> rfl

theorem stepLane_drawn (g : Grp) (l m : Nat) : (stepLane g l m).1 = drawn m (g.lane l).srseed := by
  unfold stepLane drawn
  split <;> rfl
theorem lane_stepLane (g : Grp) (l m j : Nat) :
    (stepLane g l m).2.lane j = if j = l then { g.lane l with srseed := stepped m (g.lane l).srseed } else g.lane j := by
  unfold stepLane stepped
  split
  · rw [Grp.lane_modLane]
  · by_cases hj : j = l
    · subst hj; simp
    · simp [hj]

/-! ## The forms -/

theorem v_raise (g : Grp) (l : Nat) (fl : Word) : (g.raise l fl).v = g.v := by rw [raise_put]; rfl
theorem v_wp (g : Grp) (p l : Nat) (b : Bool) : (g.wp p l b).v = g.v := by rw [wp_put]; rfl
theorem v_stepLane (g : Grp) (l m : Nat) : (stepLane g l m).2.v = g.v := by rw [stepLane_put]; rfl
theorem vkey_stepLane (g : Grp) (l m n j : Nat) : (stepLane g l m).2.vkey n j = g.vkey n j := by rw [stepLane_put]; rfl
theorem lane_wv64 (g : Grp) (n l : Nat) (x : Dword) (j : Nat) : (g.wv64 n l x).lane j = g.lane j := rfl
theorem wv_put (g : Grp) (n l : Nat) (x : Word) : g.wv n l x = g.put (g.wv n l x).v g.lanes := rfl
theorem wv64_put (g : Grp) (n l : Nat) (x : Dword) : g.wv64 n l x = g.put (g.wv64 n l x).v g.lanes := rfl
theorem get_wv64 (g : Grp) (n l : Nat) (x : Dword) (j : Nat) : Bank.get 0 (g.wv64 n l x).v j =
    if j = g.vkey (n + 1) l then x.extractLsb' 32 32 else if j = g.vkey n l then x.extractLsb' 0 32 else Bank.get 0 g.v j := by
  unfold Grp.wv64
  rw [Grp.get_wv, Grp.vkey_wv, Grp.get_wv]

/-- A register and flags. -/
theorem eff_one (d : Nat) (v : Nat → Word) (fl : Nat → Word) :
    LaneEff (fun g l => (g.wv d l (v l)).raise l (fl l)) (fun l _ => one d (v l) (fl l)) where
  rest g l := Grp.put_norm (Grp.put_trans (raise_put _ _ _) (wv_put _ _ _ _))
  lane g l j := by simp [lane_raise, LaneResult.into, one]
  reg g l j := by rw [v_raise, Grp.get_wv]; rfl

/-- A pair and flags. -/
theorem eff_two (d : Nat) (v : Nat → Dword) (fl : Nat → Word) :
    LaneEff (fun g l => (g.wv64 d l (v l)).raise l (fl l)) (fun l _ => two d (v l) (fl l)) where
  rest g l := Grp.put_norm (Grp.put_trans (raise_put _ _ _) (wv64_put _ _ _ _))
  lane g l j := by simp [lane_raise, lane_wv64, LaneResult.into, two]
  reg g l j := by rw [v_raise, get_wv64]; rfl

/-- A register alone, a pair alone. -/
theorem eff_reg (d : Nat) (v : Nat → Word) : LaneEff (fun g l => g.wv d l (v l)) (fun l _ => one d (v l)) where
  rest g l := wv_put _ _ _ _
  lane g l j := by
    by_cases h : j = l
    · subst h; simp [LaneResult.into, one]
    · simp [h]
  reg g l j := by rw [Grp.get_wv]; rfl
theorem eff_pair (d : Nat) (v : Nat → Dword) : LaneEff (fun g l => g.wv64 d l (v l)) (fun l _ => two d (v l)) where
  rest g l := wv64_put _ _ _ _
  lane g l j := by
    by_cases h : j = l
    · subst h; simp [LaneResult.into, two, lane_wv64]
    · simp [h, lane_wv64]
  reg g l j := by rw [get_wv64]; rfl

/-- A predicate and flags. -/
theorem eff_pred (q : Nat) (v : Nat → Bool) (fl : Nat → Word) :
    LaneEff (fun g l => (g.wp q l (v l)).raise l (fl l)) (fun l _ => predicate q (v l) (fl l)) where
  rest g l := Grp.put_norm (Grp.put_trans (raise_put _ _ _) (wp_put _ _ _ _))
  lane g l j := by
    by_cases h : j = l
    · subst h; simp [lane_raise, lane_wp, LaneResult.into, predicate]
    · simp [h, lane_raise, lane_wp]
  reg g l j := by rw [v_raise, v_wp]; rfl

/-- A register, flags and a predicate. -/
theorem eff_one_pred (d q : Nat) (v : Nat → Word) (fl : Nat → Word) (b : Nat → Bool) :
    LaneEff (fun g l => ((g.wv d l (v l)).raise l (fl l)).wp q l (b l))
      (fun l _ => { regs := [(d, v l)], preds := [(q, b l)], flags := fl l }) where
  rest g l := Grp.put_norm (Grp.put_trans (wp_put _ _ _ _) (Grp.put_trans (raise_put _ _ _) (wv_put _ _ _ _)))
  lane g l j := by
    by_cases h : j = l
    · subst h; simp [lane_raise, lane_wp, LaneResult.into]
    · simp [h, lane_raise, lane_wp]
  reg g l j := by rw [v_wp, v_raise, Grp.get_wv]; rfl
theorem eff_reg_pred (d q : Nat) (v : Nat → Word) (b : Nat → Bool) :
    LaneEff (fun g l => (g.wv d l (v l)).wp q l (b l)) (fun l _ => { regs := [(d, v l)], preds := [(q, b l)] }) where
  rest g l := Grp.put_norm (Grp.put_trans (wp_put _ _ _ _) (wv_put _ _ _ _))
  lane g l j := by
    by_cases h : j = l
    · subst h; simp [lane_wp, LaneResult.into]
    · simp [h, lane_wp]
  reg g l j := by rw [v_wp, Grp.get_wv]; rfl

/-- A rounded register or pair: the generator steps first where the mode is stochastic. -/
theorem eff_round (d m : Nat) (f : Nat → Nat → FRes) :
    LaneEff (fun g l => ((stepLane g l m).2.wv d l (FRes.w32 (f l (stepLane g l m).1))).raise l (f l (stepLane g l m).1).flags)
      (fun l x => { one d (FRes.w32 (f l (drawn m x.srseed))) (f l (drawn m x.srseed)).flags with seed := some (stepped m x.srseed) }) where
  rest g l := Grp.put_norm (Grp.put_trans (raise_put _ _ _) (Grp.put_trans (wv_put _ _ _ _) (stepLane_put _ _ _)))
  lane g l j := by
    by_cases h : j = l
    · subst h; simp [lane_raise, lane_stepLane, stepLane_drawn, LaneResult.into, one]
    · simp [h, lane_raise, lane_stepLane]
  reg g l j := by rw [v_raise, Grp.get_wv, v_stepLane, vkey_stepLane, stepLane_drawn]; rfl
theorem eff_round64 (d m : Nat) (f : Nat → Nat → FRes) :
    LaneEff (fun g l => ((stepLane g l m).2.wv64 d l (FRes.w64 (f l (stepLane g l m).1))).raise l (f l (stepLane g l m).1).flags)
      (fun l x => { two d (FRes.w64 (f l (drawn m x.srseed))) (f l (drawn m x.srseed)).flags with seed := some (stepped m x.srseed) }) where
  rest g l := Grp.put_norm (Grp.put_trans (raise_put _ _ _) (Grp.put_trans (wv64_put _ _ _ _) (stepLane_put _ _ _)))
  lane g l j := by
    by_cases h : j = l
    · subst h; simp [lane_raise, lane_wv64, lane_stepLane, stepLane_drawn, LaneResult.into, two]
    · simp [h, lane_raise, lane_wv64, lane_stepLane]
  reg g l j := by rw [v_raise, get_wv64, v_stepLane, vkey_stepLane, vkey_stepLane, stepLane_drawn]; rfl

/-- Two elements rounded one after the other (R75, R99). -/
theorem eff_round2 (d m width : Nat) (f : Nat → Nat → Nat → FRes) :
    LaneEff (fun g l =>
        let r0 := stepLane g l m
        let r1 := stepLane r0.2 l m
        let x := pair16 (f 0 l r0.1) (f 1 l r1.1) width
        (r1.2.wv d l (FRes.w32 x)).raise l x.flags)
      (fun l x =>
        let y := pair16 (f 0 l (drawn m x.srseed)) (f 1 l (drawn m (stepped m x.srseed))) width
        { one d (FRes.w32 y) y.flags with seed := some (stepped m (stepped m x.srseed)) }) where
  rest g l := Grp.put_norm (Grp.put_trans (raise_put _ _ _) (Grp.put_trans (wv_put _ _ _ _) (Grp.put_trans (stepLane_put _ _ _) (stepLane_put _ _ _))))
  lane g l j := by
    by_cases h : j = l
    · subst h; simp [lane_raise, lane_stepLane, stepLane_drawn, LaneResult.into, one]
    · simp [h, lane_raise, lane_stepLane]
  reg g l j := by
    simp only [v_raise, Grp.get_wv, v_stepLane, vkey_stepLane, stepLane_drawn, lane_stepLane, if_true]
    rfl

end Sys2Proof.Machine
end

