-- ==== Sys2Proof/Laws/PerInstr.lean ====
section
/-! SUPPORT. Laws stated for each instruction by itself. RoundTrip: the words of a well-formed term are as many as its row has, and
they decode to that term (Tables 2-1, 2-4, 2-10 and 13-2 to 13-5). -/
set_option linter.unusedSimpArgs false

namespace Sys2Proof.Laws.RoundTrip

/-- The words that the encoder gives decode to the instruction. -/
def Statement (i : Instr) : Prop :=
  i.wf = true → (encode i).length = i.words ∧ (i.words ≠ 0 → decodeWords (encode i) = some i)

/-- One word: its fields are read back. -/
theorem of_word (i : Instr) (w : BitVec 32) (he : encode i = [w]) (hn : i.words = 1) (hd : decodeWord w = some i) : Statement i :=
  fun _ => by rw [he, hn]; exact ⟨rfl, fun _ => hd⟩

/-- A Fjarmar word: its halves are put together again. -/
theorem of_chunk (i : Instr) (x : BitVec 64) (he : encode i = [x.extractLsb' 0 32, x.extractLsb' 32 32]) (hn : i.words = 2)
    (hd : i.wf = true → decodeChunk x = some i) : Statement i := by
  intro h
  rw [he, hn]
  refine ⟨rfl, fun _ => ?_⟩
  show decodeChunk (x.extractLsb' 32 32 ++ x.extractLsb' 0 32) = some i
  rw [Bits.halves]
  exact hd h

/-- A command or an event has no words. -/
theorem of_none (i : Instr) (he : encode i = []) (hn : i.words = 0) : Statement i :=
  fun _ => by rw [he, hn]; exact ⟨rfl, fun h => absurd rfl h⟩

theorem add (u : Bool) (d a b : BitVec 6) (p : BitVec 3) : Statement (.add u d a b p) :=
  of_word _ _ rfl rfl ((major1 ..).trans rfl)

theorem sub (u : Bool) (d a b : BitVec 6) (p : BitVec 3) : Statement (.sub u d a b p) :=
  of_word _ _ rfl rfl ((major1 ..).trans rfl)

theorem mul (u : Bool) (d a b : BitVec 6) (p : BitVec 3) : Statement (.mul u d a b p) :=
  of_word _ _ rfl rfl ((major1 ..).trans rfl)

theorem mulhi (u : Bool) (d a b : BitVec 6) (p : BitVec 3) : Statement (.mulhi u d a b p) :=
  of_word _ _ rfl rfl ((major1 ..).trans rfl)

theorem mulhiu (u : Bool) (d a b : BitVec 6) (p : BitVec 3) : Statement (.mulhiu u d a b p) :=
  of_word _ _ rfl rfl ((major1 ..).trans rfl)

theorem mad (u : Bool) (d a b : BitVec 6) (p : BitVec 3) : Statement (.mad u d a b p) :=
  of_word _ _ rfl rfl ((major1 ..).trans rfl)

theorem and (u : Bool) (d a b : BitVec 6) (p : BitVec 3) : Statement (.and u d a b p) :=
  of_word _ _ rfl rfl ((major1 ..).trans rfl)

theorem or (u : Bool) (d a b : BitVec 6) (p : BitVec 3) : Statement (.or u d a b p) :=
  of_word _ _ rfl rfl ((major1 ..).trans rfl)

theorem xor (u : Bool) (d a b : BitVec 6) (p : BitVec 3) : Statement (.xor u d a b p) :=
  of_word _ _ rfl rfl ((major1 ..).trans rfl)

theorem andn (u : Bool) (d a b : BitVec 6) (p : BitVec 3) : Statement (.andn u d a b p) :=
  of_word _ _ rfl rfl ((major1 ..).trans rfl)

theorem min (u : Bool) (d a b : BitVec 6) (p : BitVec 3) : Statement (.min u d a b p) :=
  of_word _ _ rfl rfl ((major1 ..).trans rfl)

theorem max (u : Bool) (d a b : BitVec 6) (p : BitVec 3) : Statement (.max u d a b p) :=
  of_word _ _ rfl rfl ((major1 ..).trans rfl)

theorem minu (u : Bool) (d a b : BitVec 6) (p : BitVec 3) : Statement (.minu u d a b p) :=
  of_word _ _ rfl rfl ((major1 ..).trans rfl)

theorem maxu (u : Bool) (d a b : BitVec 6) (p : BitVec 3) : Statement (.maxu u d a b p) :=
  of_word _ _ rfl rfl ((major1 ..).trans rfl)

theorem add64 (u : Bool) (d a b : BitVec 6) (p : BitVec 3) : Statement (.add64 u d a b p) :=
  of_word _ _ rfl rfl ((major2 ..).trans rfl)

theorem sub64 (u : Bool) (d a b : BitVec 6) (p : BitVec 3) : Statement (.sub64 u d a b p) :=
  of_word _ _ rfl rfl ((major2 ..).trans rfl)

theorem mul64 (u : Bool) (d a b : BitVec 6) (p : BitVec 3) : Statement (.mul64 u d a b p) :=
  of_word _ _ rfl rfl ((major2 ..).trans rfl)

theorem mulhi64 (u : Bool) (d a b : BitVec 6) (p : BitVec 3) : Statement (.mulhi64 u d a b p) :=
  of_word _ _ rfl rfl ((major2 ..).trans rfl)

theorem mulhiu64 (u : Bool) (d a b : BitVec 6) (p : BitVec 3) : Statement (.mulhiu64 u d a b p) :=
  of_word _ _ rfl rfl ((major2 ..).trans rfl)

theorem mad64 (u : Bool) (d a b : BitVec 6) (p : BitVec 3) : Statement (.mad64 u d a b p) :=
  of_word _ _ rfl rfl ((major2 ..).trans rfl)

theorem and64 (u : Bool) (d a b : BitVec 6) (p : BitVec 3) : Statement (.and64 u d a b p) :=
  of_word _ _ rfl rfl ((major2 ..).trans rfl)

theorem or64 (u : Bool) (d a b : BitVec 6) (p : BitVec 3) : Statement (.or64 u d a b p) :=
  of_word _ _ rfl rfl ((major2 ..).trans rfl)

theorem xor64 (u : Bool) (d a b : BitVec 6) (p : BitVec 3) : Statement (.xor64 u d a b p) :=
  of_word _ _ rfl rfl ((major2 ..).trans rfl)

theorem andn64 (u : Bool) (d a b : BitVec 6) (p : BitVec 3) : Statement (.andn64 u d a b p) :=
  of_word _ _ rfl rfl ((major2 ..).trans rfl)

theorem min64 (u : Bool) (d a b : BitVec 6) (p : BitVec 3) : Statement (.min64 u d a b p) :=
  of_word _ _ rfl rfl ((major2 ..).trans rfl)

theorem max64 (u : Bool) (d a b : BitVec 6) (p : BitVec 3) : Statement (.max64 u d a b p) :=
  of_word _ _ rfl rfl ((major2 ..).trans rfl)

theorem minu64 (u : Bool) (d a b : BitVec 6) (p : BitVec 3) : Statement (.minu64 u d a b p) :=
  of_word _ _ rfl rfl ((major2 ..).trans rfl)

theorem maxu64 (u : Bool) (d a b : BitVec 6) (p : BitVec 3) : Statement (.maxu64 u d a b p) :=
  of_word _ _ rfl rfl ((major2 ..).trans rfl)

theorem shl (u : Bool) (d a b : BitVec 6) (p : BitVec 3) : Statement (.shl u d a b p) :=
  of_word _ _ rfl rfl ((major3 ..).trans rfl)

theorem shr (u : Bool) (d a b : BitVec 6) (p : BitVec 3) : Statement (.shr u d a b p) :=
  of_word _ _ rfl rfl ((major3 ..).trans rfl)

theorem sar (u : Bool) (d a b : BitVec 6) (p : BitVec 3) : Statement (.sar u d a b p) :=
  of_word _ _ rfl rfl ((major3 ..).trans rfl)

theorem rot (u : Bool) (d a b : BitVec 6) (p : BitVec 3) : Statement (.rot u d a b p) :=
  of_word _ _ rfl rfl ((major3 ..).trans rfl)

theorem abs (u : Bool) (d a : BitVec 6) (p : BitVec 3) : Statement (.abs u d a p) :=
  of_word _ _ rfl rfl ((major3 ..).trans rfl)

theorem clz (u : Bool) (d a : BitVec 6) (p : BitVec 3) : Statement (.clz u d a p) :=
  of_word _ _ rfl rfl ((major3 ..).trans rfl)

theorem popc (u : Bool) (d a : BitVec 6) (p : BitVec 3) : Statement (.popc u d a p) :=
  of_word _ _ rfl rfl ((major3 ..).trans rfl)

theorem brev (u : Bool) (d a : BitVec 6) (p : BitVec 3) : Statement (.brev u d a p) :=
  of_word _ _ rfl rfl ((major3 ..).trans rfl)

theorem bfx (u : Bool) (d a b : BitVec 6) (p : BitVec 3) : Statement (.bfx u d a b p) :=
  of_word _ _ rfl rfl ((major3 ..).trans rfl)

theorem bfi (u : Bool) (d a b : BitVec 6) (p : BitVec 3) : Statement (.bfi u d a b p) :=
  of_word _ _ rfl rfl ((major3 ..).trans rfl)

theorem permb (u : Bool) (d a b : BitVec 6) (p : BitVec 3) : Statement (.permb u d a b p) :=
  of_word _ _ rfl rfl ((major3 ..).trans rfl)

theorem div (u : Bool) (d a b : BitVec 6) (p : BitVec 3) : Statement (.div u d a b p) :=
  of_word _ _ rfl rfl ((major3 ..).trans rfl)

theorem divu (u : Bool) (d a b : BitVec 6) (p : BitVec 3) : Statement (.divu u d a b p) :=
  of_word _ _ rfl rfl ((major3 ..).trans rfl)

theorem rem (u : Bool) (d a b : BitVec 6) (p : BitVec 3) : Statement (.rem u d a b p) :=
  of_word _ _ rfl rfl ((major3 ..).trans rfl)

theorem remu (u : Bool) (d a b : BitVec 6) (p : BitVec 3) : Statement (.remu u d a b p) :=
  of_word _ _ rfl rfl ((major3 ..).trans rfl)

theorem shl64 (u : Bool) (d a b : BitVec 6) (p : BitVec 3) : Statement (.shl64 u d a b p) :=
  of_word _ _ rfl rfl ((major4 ..).trans rfl)

theorem shr64 (u : Bool) (d a b : BitVec 6) (p : BitVec 3) : Statement (.shr64 u d a b p) :=
  of_word _ _ rfl rfl ((major4 ..).trans rfl)

theorem sar64 (u : Bool) (d a b : BitVec 6) (p : BitVec 3) : Statement (.sar64 u d a b p) :=
  of_word _ _ rfl rfl ((major4 ..).trans rfl)

theorem rot64 (u : Bool) (d a b : BitVec 6) (p : BitVec 3) : Statement (.rot64 u d a b p) :=
  of_word _ _ rfl rfl ((major4 ..).trans rfl)

theorem abs64 (u : Bool) (d a : BitVec 6) (p : BitVec 3) : Statement (.abs64 u d a p) :=
  of_word _ _ rfl rfl ((major4 ..).trans rfl)

theorem clz64 (u : Bool) (d a : BitVec 6) (p : BitVec 3) : Statement (.clz64 u d a p) :=
  of_word _ _ rfl rfl ((major4 ..).trans rfl)

theorem popc64 (u : Bool) (d a : BitVec 6) (p : BitVec 3) : Statement (.popc64 u d a p) :=
  of_word _ _ rfl rfl ((major4 ..).trans rfl)

theorem brev64 (u : Bool) (d a : BitVec 6) (p : BitVec 3) : Statement (.brev64 u d a p) :=
  of_word _ _ rfl rfl ((major4 ..).trans rfl)

theorem bfx64 (u : Bool) (d a b : BitVec 6) (p : BitVec 3) : Statement (.bfx64 u d a b p) :=
  of_word _ _ rfl rfl ((major4 ..).trans rfl)

theorem bfi64 (u : Bool) (d a b : BitVec 6) (p : BitVec 3) : Statement (.bfi64 u d a b p) :=
  of_word _ _ rfl rfl ((major4 ..).trans rfl)

theorem permb64 (u : Bool) (d a b : BitVec 6) (p : BitVec 3) : Statement (.permb64 u d a b p) :=
  of_word _ _ rfl rfl ((major4 ..).trans rfl)

theorem div64 (u : Bool) (d a b : BitVec 6) (p : BitVec 3) : Statement (.div64 u d a b p) :=
  of_word _ _ rfl rfl ((major4 ..).trans rfl)

theorem divu64 (u : Bool) (d a b : BitVec 6) (p : BitVec 3) : Statement (.divu64 u d a b p) :=
  of_word _ _ rfl rfl ((major4 ..).trans rfl)

theorem rem64 (u : Bool) (d a b : BitVec 6) (p : BitVec 3) : Statement (.rem64 u d a b p) :=
  of_word _ _ rfl rfl ((major4 ..).trans rfl)

theorem remu64 (u : Bool) (d a b : BitVec 6) (p : BitVec 3) : Statement (.remu64 u d a b p) :=
  of_word _ _ rfl rfl ((major4 ..).trans rfl)

theorem addi (u : Bool) (d a : BitVec 6) (i : BitVec 7) (p : BitVec 3) : Statement (.addi u d a i p) :=
  of_word _ _ rfl rfl ((major5 ..).trans rfl)

theorem muli (u : Bool) (d a : BitVec 6) (i : BitVec 7) (p : BitVec 3) : Statement (.muli u d a i p) :=
  of_word _ _ rfl rfl ((major5 ..).trans rfl)

theorem andi (u : Bool) (d a : BitVec 6) (i : BitVec 7) (p : BitVec 3) : Statement (.andi u d a i p) :=
  of_word _ _ rfl rfl ((major5 ..).trans rfl)

theorem ori (u : Bool) (d a : BitVec 6) (i : BitVec 7) (p : BitVec 3) : Statement (.ori u d a i p) :=
  of_word _ _ rfl rfl ((major5 ..).trans rfl)

theorem xori (u : Bool) (d a : BitVec 6) (i : BitVec 7) (p : BitVec 3) : Statement (.xori u d a i p) :=
  of_word _ _ rfl rfl ((major5 ..).trans rfl)

theorem shli (u : Bool) (d a : BitVec 6) (i : BitVec 7) (p : BitVec 3) : Statement (.shli u d a i p) :=
  of_word _ _ rfl rfl ((major5 ..).trans rfl)

theorem shri (u : Bool) (d a : BitVec 6) (i : BitVec 7) (p : BitVec 3) : Statement (.shri u d a i p) :=
  of_word _ _ rfl rfl ((major5 ..).trans rfl)

theorem sari (u : Bool) (d a : BitVec 6) (i : BitVec 7) (p : BitVec 3) : Statement (.sari u d a i p) :=
  of_word _ _ rfl rfl ((major5 ..).trans rfl)

theorem addi64 (u : Bool) (d a : BitVec 6) (i : BitVec 7) (p : BitVec 3) : Statement (.addi64 u d a i p) :=
  of_word _ _ rfl rfl ((major6 ..).trans rfl)

theorem muli64 (u : Bool) (d a : BitVec 6) (i : BitVec 7) (p : BitVec 3) : Statement (.muli64 u d a i p) :=
  of_word _ _ rfl rfl ((major6 ..).trans rfl)

theorem andi64 (u : Bool) (d a : BitVec 6) (i : BitVec 7) (p : BitVec 3) : Statement (.andi64 u d a i p) :=
  of_word _ _ rfl rfl ((major6 ..).trans rfl)

theorem ori64 (u : Bool) (d a : BitVec 6) (i : BitVec 7) (p : BitVec 3) : Statement (.ori64 u d a i p) :=
  of_word _ _ rfl rfl ((major6 ..).trans rfl)

theorem xori64 (u : Bool) (d a : BitVec 6) (i : BitVec 7) (p : BitVec 3) : Statement (.xori64 u d a i p) :=
  of_word _ _ rfl rfl ((major6 ..).trans rfl)

theorem shli64 (u : Bool) (d a : BitVec 6) (i : BitVec 7) (p : BitVec 3) : Statement (.shli64 u d a i p) :=
  of_word _ _ rfl rfl ((major6 ..).trans rfl)

theorem shri64 (u : Bool) (d a : BitVec 6) (i : BitVec 7) (p : BitVec 3) : Statement (.shri64 u d a i p) :=
  of_word _ _ rfl rfl ((major6 ..).trans rfl)

theorem sari64 (u : Bool) (d a : BitVec 6) (i : BitVec 7) (p : BitVec 3) : Statement (.sari64 u d a i p) :=
  of_word _ _ rfl rfl ((major6 ..).trans rfl)

theorem movi (u : Bool) (d : BitVec 6) (i : BitVec 7) (p : BitVec 3) : Statement (.movi u d i p) :=
  of_word _ _ rfl rfl ((major7 ..).trans rfl)

theorem movi64 (u : Bool) (d : BitVec 6) (i : BitVec 7) (p : BitVec 3) : Statement (.movi64 u d i p) :=
  of_word _ _ rfl rfl ((major7 ..).trans rfl)

theorem fadd (u : Bool) (d a b : BitVec 6) (p : BitVec 3) : Statement (.fadd u d a b p) :=
  of_word _ _ rfl rfl ((major8 ..).trans rfl)

theorem fsub (u : Bool) (d a b : BitVec 6) (p : BitVec 3) : Statement (.fsub u d a b p) :=
  of_word _ _ rfl rfl ((major8 ..).trans rfl)

theorem fmul (u : Bool) (d a b : BitVec 6) (p : BitVec 3) : Statement (.fmul u d a b p) :=
  of_word _ _ rfl rfl ((major8 ..).trans rfl)

theorem ffma (u : Bool) (d a b : BitVec 6) (p : BitVec 3) : Statement (.ffma u d a b p) :=
  of_word _ _ rfl rfl ((major8 ..).trans rfl)

theorem fmin (u : Bool) (d a b : BitVec 6) (p : BitVec 3) : Statement (.fmin u d a b p) :=
  of_word _ _ rfl rfl ((major8 ..).trans rfl)

theorem fmax (u : Bool) (d a b : BitVec 6) (p : BitVec 3) : Statement (.fmax u d a b p) :=
  of_word _ _ rfl rfl ((major8 ..).trans rfl)

theorem fsgnJ (u : Bool) (d a b : BitVec 6) (p : BitVec 3) : Statement (.fsgnJ u d a b p) :=
  of_word _ _ rfl rfl ((major8 ..).trans rfl)

theorem fsgnN (u : Bool) (d a b : BitVec 6) (p : BitVec 3) : Statement (.fsgnN u d a b p) :=
  of_word _ _ rfl rfl ((major8 ..).trans rfl)

theorem fsgnX (u : Bool) (d a b : BitVec 6) (p : BitVec 3) : Statement (.fsgnX u d a b p) :=
  of_word _ _ rfl rfl ((major8 ..).trans rfl)

theorem fclass (u : Bool) (d a : BitVec 6) (p : BitVec 3) : Statement (.fclass u d a p) :=
  of_word _ _ rfl rfl ((major8 ..).trans rfl)

theorem fdiv (u : Bool) (d a b : BitVec 6) (p : BitVec 3) : Statement (.fdiv u d a b p) :=
  of_word _ _ rfl rfl ((major8 ..).trans rfl)

theorem octet_cases : ∀ c : BitVec 3, c = 0#3 ∨ c = 1#3 ∨ c = 2#3 ∨ c = 3#3 ∨ c = 4#3 ∨ c = 5#3 ∨ c = 6#3 ∨ c = 7#3 := by decide

theorem quartet_cases : ∀ c : BitVec 2, c = 0#2 ∨ c = 1#2 ∨ c = 2#2 ∨ c = 3#2 := by decide

theorem bit_cases : ∀ t : BitVec 1, t = 0#1 ∨ t = 1#1 := by decide

theorem hadd2 (u : Bool) (t : BitVec 1) (d a b : BitVec 6) (p : BitVec 3) : Statement (.hadd2 u t d a b p) :=
  of_word _ _ rfl rfl ((major9 ..).trans (by rcases bit_cases t with rfl | rfl <;> rfl))

theorem hmul2 (u : Bool) (t : BitVec 1) (d a b : BitVec 6) (p : BitVec 3) : Statement (.hmul2 u t d a b p) :=
  of_word _ _ rfl rfl ((major9 ..).trans (by rcases bit_cases t with rfl | rfl <;> rfl))

theorem hfma2 (u : Bool) (t : BitVec 1) (d a b : BitVec 6) (p : BitVec 3) : Statement (.hfma2 u t d a b p) :=
  of_word _ _ rfl rfl ((major9 ..).trans (by rcases bit_cases t with rfl | rfl <;> rfl))

theorem hmin2 (u : Bool) (t : BitVec 1) (d a b : BitVec 6) (p : BitVec 3) : Statement (.hmin2 u t d a b p) :=
  of_word _ _ rfl rfl ((major9 ..).trans (by rcases bit_cases t with rfl | rfl <;> rfl))

theorem hmax2 (u : Bool) (t : BitVec 1) (d a b : BitVec 6) (p : BitVec 3) : Statement (.hmax2 u t d a b p) :=
  of_word _ _ rfl rfl ((major9 ..).trans (by rcases bit_cases t with rfl | rfl <;> rfl))

theorem dadd (u : Bool) (d a b : BitVec 6) (p : BitVec 3) : Statement (.dadd u d a b p) :=
  of_word _ _ rfl rfl ((major10 ..).trans rfl)

theorem dmul (u : Bool) (d a b : BitVec 6) (p : BitVec 3) : Statement (.dmul u d a b p) :=
  of_word _ _ rfl rfl ((major10 ..).trans rfl)

theorem dfma (u : Bool) (d a b : BitVec 6) (p : BitVec 3) : Statement (.dfma u d a b p) :=
  of_word _ _ rfl rfl ((major10 ..).trans rfl)

theorem icmp (u : Bool) (c : BitVec 4) (q : BitVec 3) (a b : BitVec 6) (p : BitVec 3) : Statement (.icmp u c q a b p) :=
  of_word _ _ rfl rfl ((major11 ..).trans (by
    unfold decodeMajor11
    simp (disch := decide) only [Bits.extract_high, Bits.extract_low, Bits.extract_all, Nat.reduceSub, BitVec.toNat_ofNat, Nat.reduceMod,
      Nat.reducePow]
    try rfl))

theorem icmp64 (u : Bool) (c : BitVec 4) (q : BitVec 3) (a b : BitVec 6) (p : BitVec 3) : Statement (.icmp64 u c q a b p) :=
  of_word _ _ rfl rfl ((major12 ..).trans (by
    unfold decodeMajor12
    simp (disch := decide) only [Bits.extract_high, Bits.extract_low, Bits.extract_all, Nat.reduceSub, BitVec.toNat_ofNat, Nat.reduceMod,
      Nat.reducePow]
    try rfl))

theorem fcmp (u : Bool) (c : BitVec 3) (t : BitVec 1) (q : BitVec 3) (a b : BitVec 6) (p : BitVec 3) : Statement (.fcmp u c t q a b p) :=
  of_word _ _ rfl rfl ((major13 ..).trans (by
    rcases octet_cases c with rfl | rfl | rfl | rfl | rfl | rfl | rfl | rfl <;>
    unfold decodeMajor13 <;>
    simp (disch := decide) only [Bits.extract_high, Bits.extract_low, Bits.extract_all, Nat.reduceSub] <;>
    rfl))

theorem plog (u : Bool) (o q a b p : BitVec 3) : Statement (.plog u o q a b p) :=
  of_word _ _ rfl rfl ((major14 ..).trans (by
    rcases octet_cases o with rfl | rfl | rfl | rfl | rfl | rfl | rfl | rfl <;>
    unfold decodeMajor14 <;>
    simp (disch := decide) only [Bits.extract_high, Bits.extract_low, Bits.extract_all, Nat.reduceSub] <;>
    rfl))

theorem sel (u : Bool) (s : BitVec 3) (d a b : BitVec 6) (p : BitVec 3) : Statement (.sel u s d a b p) :=
  of_word _ _ rfl rfl ((major14 ..).trans (by
    rcases octet_cases s with rfl | rfl | rfl | rfl | rfl | rfl | rfl | rfl <;>
    unfold decodeMajor14 <;>
    simp (disch := decide) only [Bits.extract_high, Bits.extract_low, Bits.extract_all, Nat.reduceSub] <;>
    rfl))

theorem cvt (u : Bool) (t : BitVec 4) (d a : BitVec 6) (e : BitVec 4) (k : BitVec 1) (p : BitVec 3) : Statement (.cvt u t d a e k p) :=
  of_word _ _ rfl rfl ((major15 ..).trans (by
    unfold decodeMajor15
    simp (disch := decide) only [Bits.extract_high, Bits.extract_low, Bits.extract_all, Nat.reduceSub, BitVec.toNat_ofNat, Nat.reduceMod,
      Nat.reducePow]
    try rfl))

theorem cvtpk (u : Bool) (t : BitVec 3) (d a b : BitVec 6) (p : BitVec 3) : Statement (.cvtpk u t d a b p) :=
  of_word _ _ rfl rfl ((major16 ..).trans (by
    rcases octet_cases t with rfl | rfl | rfl | rfl | rfl | rfl | rfl | rfl <;>
    unfold decodeMajor16 <;>
    simp (disch := decide) only [Bits.extract_high, Bits.extract_low, Bits.extract_all, Nat.reduceSub] <;>
    rfl))

theorem cvtupk (u : Bool) (t : BitVec 3) (d a : BitVec 6) (k p : BitVec 3) : Statement (.cvtupk u t d a k p) :=
  of_word _ _ rfl rfl ((major16 ..).trans (by
    rcases octet_cases t with rfl | rfl | rfl | rfl | rfl | rfl | rfl | rfl <;>
    unfold decodeMajor16 <;>
    simp (disch := decide) only [Bits.extract_high, Bits.extract_low, Bits.extract_all, Nat.reduceSub] <;>
    rfl))

theorem rcp (u : Bool) (d a : BitVec 6) (p : BitVec 3) : Statement (.rcp u d a p) :=
  of_word _ _ rfl rfl ((major17 ..).trans rfl)

theorem rsq (u : Bool) (d a : BitVec 6) (p : BitVec 3) : Statement (.rsq u d a p) :=
  of_word _ _ rfl rfl ((major17 ..).trans rfl)

theorem sqrt (u : Bool) (d a : BitVec 6) (p : BitVec 3) : Statement (.sqrt u d a p) :=
  of_word _ _ rfl rfl ((major17 ..).trans rfl)

theorem exp2 (u : Bool) (d a : BitVec 6) (p : BitVec 3) : Statement (.exp2 u d a p) :=
  of_word _ _ rfl rfl ((major17 ..).trans rfl)

theorem log2 (u : Bool) (d a : BitVec 6) (p : BitVec 3) : Statement (.log2 u d a p) :=
  of_word _ _ rfl rfl ((major17 ..).trans rfl)

theorem sin (u : Bool) (d a : BitVec 6) (p : BitVec 3) : Statement (.sin u d a p) :=
  of_word _ _ rfl rfl ((major17 ..).trans rfl)

theorem cos (u : Bool) (d a : BitVec 6) (p : BitVec 3) : Statement (.cos u d a p) :=
  of_word _ _ rfl rfl ((major17 ..).trans rfl)

theorem tanh (u : Bool) (d a : BitVec 6) (p : BitVec 3) : Statement (.tanh u d a p) :=
  of_word _ _ rfl rfl ((major17 ..).trans rfl)

theorem shfl (u : Bool) (m : BitVec 2) (d a b : BitVec 6) (p : BitVec 3) : Statement (.shfl u m d a b p) :=
  of_word _ _ rfl rfl ((major18 ..).trans (by
    rcases quartet_cases m with rfl | rfl | rfl | rfl <;>
    unfold decodeMajor18 <;>
    simp (disch := decide) only [Bits.extract_high, Bits.extract_low, Bits.extract_all, Nat.reduceSub] <;>
    rfl))

theorem shflImm (u : Bool) (m : BitVec 2) (d a : BitVec 6) (n : BitVec 5) (p : BitVec 3) : Statement (.shflImm u m d a n p) :=
  of_word _ _ rfl rfl ((major18 ..).trans (by
    rcases quartet_cases m with rfl | rfl | rfl | rfl <;>
    unfold decodeMajor18 <;>
    simp (disch := decide) only [Bits.extract_high, Bits.extract_low, Bits.extract_all, Nat.reduceSub] <;>
    rfl))

theorem voteAll (u : Bool) (q s p : BitVec 3) : Statement (.voteAll u q s p) :=
  of_word _ _ rfl rfl ((major19 ..).trans (by
    unfold decodeMajor19
    simp (disch := decide) only [Bits.extract_high, Bits.extract_low, Bits.extract_all, Nat.reduceSub, BitVec.toNat_ofNat, Nat.reduceMod,
      Nat.reducePow]
    try rfl))

theorem voteAny (u : Bool) (q s p : BitVec 3) : Statement (.voteAny u q s p) :=
  of_word _ _ rfl rfl ((major19 ..).trans (by
    unfold decodeMajor19
    simp (disch := decide) only [Bits.extract_high, Bits.extract_low, Bits.extract_all, Nat.reduceSub, BitVec.toNat_ofNat, Nat.reduceMod,
      Nat.reducePow]
    try rfl))

theorem voteBallot (u : Bool) (d : BitVec 6) (s p : BitVec 3) : Statement (.voteBallot u d s p) :=
  of_word _ _ rfl rfl ((major19 ..).trans (by
    unfold decodeMajor19
    simp (disch := decide) only [Bits.extract_high, Bits.extract_low, Bits.extract_all, Nat.reduceSub, BitVec.toNat_ofNat, Nat.reduceMod,
      Nat.reducePow]
    try rfl))

theorem voteUni (u : Bool) (q s p : BitVec 3) : Statement (.voteUni u q s p) :=
  of_word _ _ rfl rfl ((major19 ..).trans (by
    unfold decodeMajor19
    simp (disch := decide) only [Bits.extract_high, Bits.extract_low, Bits.extract_all, Nat.reduceSub, BitVec.toNat_ofNat, Nat.reduceMod,
      Nat.reducePow]
    try rfl))

theorem matchLanes (u : Bool) (d a : BitVec 6) (p : BitVec 3) : Statement (.matchLanes u d a p) :=
  of_word _ _ rfl rfl ((major19 ..).trans rfl)

theorem partset (u : Bool) (k p : BitVec 3) : Statement (.partset u k p) :=
  of_word _ _ rfl rfl ((major19 ..).trans (by
    unfold decodeMajor19
    simp (disch := decide) only [Bits.extract_high, Bits.extract_low, Bits.extract_all, Nat.reduceSub, BitVec.toNat_ofNat, Nat.reduceMod,
      Nat.reducePow]
    try rfl))

theorem vred (u : Bool) (o : BitVec 3) (d a : BitVec 6) (t : BitVec 1) (p : BitVec 3) : Statement (.vred u o d a t p) :=
  of_word _ _ rfl rfl ((major20 ..).trans (by
    rcases octet_cases o with rfl | rfl | rfl | rfl | rfl | rfl | rfl | rfl <;>
    unfold decodeMajor20 <;>
    simp (disch := decide) only [Bits.extract_high, Bits.extract_low, Bits.extract_all, Nat.reduceSub] <;>
    rfl))

theorem vscan (u : Bool) (o : BitVec 3) (d a : BitVec 6) (e t : BitVec 1) (p : BitVec 3) : Statement (.vscan u o d a e t p) :=
  of_word _ _ rfl rfl ((major20 ..).trans (by
    rcases octet_cases o with rfl | rfl | rfl | rfl | rfl | rfl | rfl | rfl <;>
    unfold decodeMajor20 <;>
    simp (disch := decide) only [Bits.extract_high, Bits.extract_low, Bits.extract_all, Nat.reduceSub] <;>
    rfl))

theorem mov (u : Bool) (d a : BitVec 6) (p : BitVec 3) : Statement (.mov u d a p) :=
  of_word _ _ rfl rfl ((major21 ..).trans rfl)

theorem mov64 (u : Bool) (d a : BitVec 6) (p : BitVec 3) : Statement (.mov64 u d a p) :=
  of_word _ _ rfl rfl ((major21 ..).trans rfl)

theorem movs (u : Bool) (d : BitVec 6) (a : BitVec 5) (p : BitVec 3) : Statement (.movs u d a p) :=
  of_word _ _ rfl rfl ((major21 ..).trans (by
    unfold decodeMajor21
    simp (disch := decide) only [Bits.extract_high, Bits.extract_low, Bits.extract_all, Nat.reduceSub, BitVec.toNat_ofNat, Nat.reduceMod,
      Nat.reducePow]
    try rfl))

theorem movsHi (u : Bool) (d : BitVec 6) (a : BitVec 5) (p : BitVec 3) : Statement (.movsHi u d a p) :=
  of_word _ _ rfl rfl ((major21 ..).trans (by
    unfold decodeMajor21
    simp (disch := decide) only [Bits.extract_high, Bits.extract_low, Bits.extract_all, Nat.reduceSub, BitVec.toNat_ofNat, Nat.reduceMod,
      Nat.reducePow]
    try rfl))

theorem movs64 (u : Bool) (d : BitVec 6) (a : BitVec 5) (p : BitVec 3) : Statement (.movs64 u d a p) :=
  of_word _ _ rfl rfl ((major21 ..).trans (by
    unfold decodeMajor21
    simp (disch := decide) only [Bits.extract_high, Bits.extract_low, Bits.extract_all, Nat.reduceSub, BitVec.toNat_ofNat, Nat.reduceMod,
      Nat.reducePow]
    try rfl))

theorem rdlane (u : Bool) (d : BitVec 5) (a : BitVec 6) (n : BitVec 5) (p : BitVec 3) : Statement (.rdlane u d a n p) :=
  of_word _ _ rfl rfl ((major21 ..).trans (by
    unfold decodeMajor21
    simp (disch := decide) only [Bits.extract_high, Bits.extract_low, Bits.extract_all, Nat.reduceSub, BitVec.toNat_ofNat, Nat.reduceMod,
      Nat.reducePow]
    try rfl))

theorem rdlane64 (u : Bool) (d : BitVec 5) (a : BitVec 6) (n : BitVec 5) (p : BitVec 3) : Statement (.rdlane64 u d a n p) :=
  of_word _ _ rfl rfl ((major21 ..).trans (by
    unfold decodeMajor21
    simp (disch := decide) only [Bits.extract_high, Bits.extract_low, Bits.extract_all, Nat.reduceSub, BitVec.toNat_ofNat, Nat.reduceMod,
      Nat.reducePow]
    try rfl))

theorem sadd (u : Bool) (d a b : BitVec 5) (p : BitVec 3) : Statement (.sadd u d a b p) :=
  of_word _ _ rfl rfl ((major22 ..).trans (by
    unfold decodeMajor22
    simp (disch := decide) only [Bits.extract_high, Bits.extract_low, Bits.extract_all, Nat.reduceSub, BitVec.toNat_ofNat, Nat.reduceMod,
      Nat.reducePow]
    try rfl))

theorem ssub (u : Bool) (d a b : BitVec 5) (p : BitVec 3) : Statement (.ssub u d a b p) :=
  of_word _ _ rfl rfl ((major22 ..).trans (by
    unfold decodeMajor22
    simp (disch := decide) only [Bits.extract_high, Bits.extract_low, Bits.extract_all, Nat.reduceSub, BitVec.toNat_ofNat, Nat.reduceMod,
      Nat.reducePow]
    try rfl))

theorem smul (u : Bool) (d a b : BitVec 5) (p : BitVec 3) : Statement (.smul u d a b p) :=
  of_word _ _ rfl rfl ((major22 ..).trans (by
    unfold decodeMajor22
    simp (disch := decide) only [Bits.extract_high, Bits.extract_low, Bits.extract_all, Nat.reduceSub, BitVec.toNat_ofNat, Nat.reduceMod,
      Nat.reducePow]
    try rfl))

theorem sand (u : Bool) (d a b : BitVec 5) (p : BitVec 3) : Statement (.sand u d a b p) :=
  of_word _ _ rfl rfl ((major22 ..).trans (by
    unfold decodeMajor22
    simp (disch := decide) only [Bits.extract_high, Bits.extract_low, Bits.extract_all, Nat.reduceSub, BitVec.toNat_ofNat, Nat.reduceMod,
      Nat.reducePow]
    try rfl))

theorem sor (u : Bool) (d a b : BitVec 5) (p : BitVec 3) : Statement (.sor u d a b p) :=
  of_word _ _ rfl rfl ((major22 ..).trans (by
    unfold decodeMajor22
    simp (disch := decide) only [Bits.extract_high, Bits.extract_low, Bits.extract_all, Nat.reduceSub, BitVec.toNat_ofNat, Nat.reduceMod,
      Nat.reducePow]
    try rfl))

theorem sxor (u : Bool) (d a b : BitVec 5) (p : BitVec 3) : Statement (.sxor u d a b p) :=
  of_word _ _ rfl rfl ((major22 ..).trans (by
    unfold decodeMajor22
    simp (disch := decide) only [Bits.extract_high, Bits.extract_low, Bits.extract_all, Nat.reduceSub, BitVec.toNat_ofNat, Nat.reduceMod,
      Nat.reducePow]
    try rfl))

theorem sshl (u : Bool) (d a b : BitVec 5) (p : BitVec 3) : Statement (.sshl u d a b p) :=
  of_word _ _ rfl rfl ((major22 ..).trans (by
    unfold decodeMajor22
    simp (disch := decide) only [Bits.extract_high, Bits.extract_low, Bits.extract_all, Nat.reduceSub, BitVec.toNat_ofNat, Nat.reduceMod,
      Nat.reducePow]
    try rfl))

theorem sshr (u : Bool) (d a b : BitVec 5) (p : BitVec 3) : Statement (.sshr u d a b p) :=
  of_word _ _ rfl rfl ((major22 ..).trans (by
    unfold decodeMajor22
    simp (disch := decide) only [Bits.extract_high, Bits.extract_low, Bits.extract_all, Nat.reduceSub, BitVec.toNat_ofNat, Nat.reduceMod,
      Nat.reducePow]
    try rfl))

theorem scmp (u : Bool) (c q : BitVec 3) (a b : BitVec 5) (p : BitVec 3) : Statement (.scmp u c q a b p) :=
  of_word _ _ rfl rfl ((major22 ..).trans (by
    rcases octet_cases c with rfl | rfl | rfl | rfl | rfl | rfl | rfl | rfl <;>
    unfold decodeMajor22 <;>
    simp (disch := decide) only [Bits.extract_high, Bits.extract_low, Bits.extract_all, Nat.reduceSub] <;>
    rfl))

theorem saddi (u : Bool) (d a : BitVec 5) (i : BitVec 7) (p : BitVec 3) : Statement (.saddi u d a i p) :=
  of_word _ _ rfl rfl ((major23 ..).trans (by
    unfold decodeMajor23
    simp (disch := decide) only [Bits.extract_high, Bits.extract_low, Bits.extract_all, Nat.reduceSub, BitVec.toNat_ofNat, Nat.reduceMod,
      Nat.reducePow]
    try rfl))

theorem ld (u : Bool) (s : BitVec 3) (d a : BitVec 6) (o : BitVec 7) (p : BitVec 3) : Statement (.ld u s d a o p) :=
  of_word _ _ rfl rfl ((major24 ..).trans rfl)

theorem st (u : Bool) (s : BitVec 3) (d a : BitVec 6) (o : BitVec 7) (p : BitVec 3) : Statement (.st u s d a o p) :=
  of_word _ _ rfl rfl ((major25 ..).trans rfl)

theorem lda (u : Bool) (s : BitVec 3) (d a : BitVec 6) (z : BitVec 1) (o : BitVec 6) (p : BitVec 3) : Statement (.lda u s d a z o p) :=
  of_word _ _ rfl rfl ((major26 ..).trans (by
    unfold decodeMajor26
    simp (disch := decide) only [Bits.extract_high, Bits.extract_low, Bits.extract_all, Nat.reduceSub, BitVec.toNat_ofNat, Nat.reduceMod,
      Nat.reducePow]
    try rfl))

theorem stl (u : Bool) (s : BitVec 3) (d a : BitVec 6) (z : BitVec 1) (o : BitVec 6) (p : BitVec 3) : Statement (.stl u s d a z o p) :=
  of_word _ _ rfl rfl ((major27 ..).trans (by
    unfold decodeMajor27
    simp (disch := decide) only [Bits.extract_high, Bits.extract_low, Bits.extract_all, Nat.reduceSub, BitVec.toNat_ofNat, Nat.reduceMod,
      Nat.reducePow]
    try rfl))

theorem atomTeam (u : Bool) (f : BitVec 4) (d : BitVec 6) (a : BitVec 5) (w : BitVec 1) (b : BitVec 6) (p : BitVec 3) : Statement (.atomTeam u f d a w b p) :=
  of_word _ _ rfl rfl ((major28 ..).trans (by
    unfold decodeMajor28
    simp (disch := decide) only [Bits.extract_high, Bits.extract_low, Bits.extract_all, Nat.reduceSub, BitVec.toNat_ofNat, Nat.reduceMod,
      Nat.reducePow]
    try rfl))

theorem atomCluster (u : Bool) (f : BitVec 4) (d : BitVec 6) (a : BitVec 5) (w : BitVec 1) (b : BitVec 6) (p : BitVec 3) : Statement (.atomCluster u f d a w b p) :=
  of_word _ _ rfl rfl ((major29 ..).trans (by
    unfold decodeMajor29
    simp (disch := decide) only [Bits.extract_high, Bits.extract_low, Bits.extract_all, Nat.reduceSub, BitVec.toNat_ofNat, Nat.reduceMod,
      Nat.reducePow]
    try rfl))

theorem atomDevice (u : Bool) (f : BitVec 4) (d : BitVec 6) (a : BitVec 5) (w : BitVec 1) (b : BitVec 6) (p : BitVec 3) : Statement (.atomDevice u f d a w b p) :=
  of_word _ _ rfl rfl ((major30 ..).trans (by
    unfold decodeMajor30
    simp (disch := decide) only [Bits.extract_high, Bits.extract_low, Bits.extract_all, Nat.reduceSub, BitVec.toNat_ofNat, Nat.reduceMod,
      Nat.reducePow]
    try rfl))

theorem atomFabric (u : Bool) (f : BitVec 4) (d : BitVec 6) (a : BitVec 5) (w : BitVec 1) (b : BitVec 6) (p : BitVec 3) : Statement (.atomFabric u f d a w b p) :=
  of_word _ _ rfl rfl ((major31 ..).trans (by
    unfold decodeMajor31
    simp (disch := decide) only [Bits.extract_high, Bits.extract_low, Bits.extract_all, Nat.reduceSub, BitVec.toNat_ofNat, Nat.reduceMod,
      Nat.reducePow]
    try rfl))

theorem red (u : Bool) (f : BitVec 4) (w : BitVec 1) (s : BitVec 3) (a b : BitVec 6) (p : BitVec 3) : Statement (.red u f w s a b p) :=
  of_word _ _ rfl rfl ((major32 ..).trans (by
    unfold decodeMajor32
    simp (disch := decide) only [Bits.extract_high, Bits.extract_low, Bits.extract_all, Nat.reduceSub, BitVec.toNat_ofNat, Nat.reduceMod,
      Nat.reducePow]
    try rfl))

theorem atomcas (u : Bool) (w : BitVec 1) (s : BitVec 3) (d a b : BitVec 6) (p : BitVec 3) : Statement (.atomcas u w s d a b p) :=
  of_word _ _ rfl rfl ((major33 ..).trans (by
    unfold decodeMajor33
    simp (disch := decide) only [Bits.extract_high, Bits.extract_low, Bits.extract_all, Nat.reduceSub, BitVec.toNat_ofNat, Nat.reduceMod,
      Nat.reducePow]
    try rfl))

theorem atomincb (u : Bool) (w : BitVec 1) (s : BitVec 3) (d a b : BitVec 6) (p : BitVec 3) : Statement (.atomincb u w s d a b p) :=
  of_word _ _ rfl rfl ((major34 ..).trans (by
    unfold decodeMajor34
    simp (disch := decide) only [Bits.extract_high, Bits.extract_low, Bits.extract_all, Nat.reduceSub, BitVec.toNat_ofNat, Nat.reduceMod,
      Nat.reducePow]
    try rfl))

theorem sigf (u : Bool) (s : BitVec 3) (a b : BitVec 6) (p : BitVec 3) : Statement (.sigf u s a b p) :=
  of_word _ _ rfl rfl ((major35 ..).trans (by
    rcases octet_cases s with rfl | rfl | rfl | rfl | rfl | rfl | rfl | rfl <;>
    unfold decodeMajor35 <;>
    simp (disch := decide) only [Bits.extract_high, Bits.extract_low, Bits.extract_all, Nat.reduceSub] <;>
    rfl))

theorem fence (u : Bool) (s : BitVec 4) (p : BitVec 3) : Statement (.fence u s p) :=
  of_word _ _ rfl rfl ((major36 ..).trans rfl)

theorem wait (u : Bool) (l s t r c : BitVec 5) : Statement (.wait u l s t r c) :=
  of_word _ _ rfl rfl ((major37 ..).trans rfl)

theorem barv (u : Bool) (l : BitVec 2) (i : BitVec 4) (p : BitVec 3) : Statement (.barv u l i p) :=
  of_word _ _ rfl rfl ((major38 ..).trans (by
    unfold decodeMajor38
    simp (disch := decide) only [Bits.extract_high, Bits.extract_low, Bits.extract_all, Nat.reduceSub, BitVec.toNat_ofNat, Nat.reduceMod,
      Nat.reducePow]
    try rfl))

theorem barw (u : Bool) (l : BitVec 2) (i : BitVec 4) (q : BitVec 1) (p : BitVec 3) : Statement (.barw u l i q p) :=
  of_word _ _ rfl rfl ((major38 ..).trans (by
    unfold decodeMajor38
    simp (disch := decide) only [Bits.extract_high, Bits.extract_low, Bits.extract_all, Nat.reduceSub, BitVec.toNat_ofNat, Nat.reduceMod,
      Nat.reducePow]
    try rfl))

theorem bars (u : Bool) (l : BitVec 2) (i : BitVec 4) (p : BitVec 3) : Statement (.bars u l i p) :=
  of_word _ _ rfl rfl ((major38 ..).trans (by
    unfold decodeMajor38
    simp (disch := decide) only [Bits.extract_high, Bits.extract_low, Bits.extract_all, Nat.reduceSub, BitVec.toNat_ofNat, Nat.reduceMod,
      Nat.reducePow]
    try rfl))

theorem barst (u : Bool) (d : BitVec 6) (l : BitVec 2) (i : BitVec 4) (p : BitVec 3) : Statement (.barst u d l i p) :=
  of_word _ _ rfl rfl ((major38 ..).trans (by
    rcases quartet_cases l with rfl | rfl | rfl | rfl <;>
    unfold decodeMajor38 <;>
    simp (disch := decide) only [Bits.extract_high, Bits.extract_low, Bits.extract_all, Nat.reduceSub] <;>
    rfl))

theorem bra (o : BitVec 19) (p : BitVec 3) : Statement (.bra o p) :=
  of_word (.bra o p) (BitVec.ofBool true ++ 39#6 ++ 0#3 ++ o ++ p) rfl rfl ((major39 true ..).trans rfl)

theorem bru (o : BitVec 19) (p : BitVec 3) : Statement (.bru o p) :=
  of_word (.bru o p) (BitVec.ofBool true ++ 39#6 ++ 1#3 ++ o ++ p) rfl rfl ((major39 true ..).trans rfl)

theorem call (o : BitVec 19) (p : BitVec 3) : Statement (.call o p) :=
  of_word (.call o p) (BitVec.ofBool true ++ 39#6 ++ 2#3 ++ o ++ p) rfl rfl ((major39 true ..).trans rfl)

theorem callr (a : BitVec 6) (p : BitVec 3) : Statement (.callr a p) :=
  of_word (.callr a p) (BitVec.ofBool true ++ 40#6 ++ 0#4 ++ 0#6 ++ a ++ 0#6 ++ p) rfl rfl ((major40 true ..).trans rfl)

theorem ret (p : BitVec 3) : Statement (.ret p) :=
  of_word (.ret p) (BitVec.ofBool true ++ 40#6 ++ 1#4 ++ 0#6 ++ 0#6 ++ 0#6 ++ p) rfl rfl ((major40 true ..).trans rfl)

theorem jmpr (a : BitVec 6) (p : BitVec 3) : Statement (.jmpr a p) :=
  of_word (.jmpr a p) (BitVec.ofBool true ++ 40#6 ++ 2#4 ++ 0#6 ++ a ++ 0#6 ++ p) rfl rfl ((major40 true ..).trans rfl)

theorem exit (p : BitVec 3) : Statement (.exit p) :=
  of_word (.exit p) (BitVec.ofBool true ++ 40#6 ++ 3#4 ++ 0#6 ++ 0#6 ++ 0#6 ++ p) rfl rfl ((major40 true ..).trans rfl)

theorem rjenrol (u : Bool) (j p : BitVec 3) : Statement (.rjenrol u j p) :=
  of_word _ _ rfl rfl ((major41 ..).trans (by
    unfold decodeMajor41
    simp (disch := decide) only [Bits.extract_high, Bits.extract_low, Bits.extract_all, Nat.reduceSub, BitVec.toNat_ofNat, Nat.reduceMod,
      Nat.reducePow]
    try rfl))

theorem rjpark (u : Bool) (j p : BitVec 3) : Statement (.rjpark u j p) :=
  of_word _ _ rfl rfl ((major41 ..).trans (by
    unfold decodeMajor41
    simp (disch := decide) only [Bits.extract_high, Bits.extract_low, Bits.extract_all, Nat.reduceSub, BitVec.toNat_ofNat, Nat.reduceMod,
      Nat.reducePow]
    try rfl))

theorem rjout (u : Bool) (j p : BitVec 3) : Statement (.rjout u j p) :=
  of_word _ _ rfl rfl ((major41 ..).trans (by
    unfold decodeMajor41
    simp (disch := decide) only [Bits.extract_high, Bits.extract_low, Bits.extract_all, Nat.reduceSub, BitVec.toNat_ofNat, Nat.reduceMod,
      Nat.reducePow]
    try rfl))

theorem rjget (u : Bool) (d : BitVec 6) (j p : BitVec 3) : Statement (.rjget u d j p) :=
  of_word _ _ rfl rfl ((major41 ..).trans (by
    unfold decodeMajor41
    simp (disch := decide) only [Bits.extract_high, Bits.extract_low, Bits.extract_all, Nat.reduceSub, BitVec.toNat_ofNat, Nat.reduceMod,
      Nat.reducePow]
    try rfl))

theorem spawn (u : Bool) (d a b : BitVec 6) (p : BitVec 3) : Statement (.spawn u d a b p) :=
  of_word _ _ rfl rfl ((major42 ..).trans rfl)

theorem spawnb (u : Bool) (d a b : BitVec 6) (p : BitVec 3) : Statement (.spawnb u d a b p) :=
  of_word _ _ rfl rfl ((major42 ..).trans rfl)

theorem take (u : Bool) (d : BitVec 6) (p : BitVec 3) : Statement (.take u d p) :=
  of_word _ _ rfl rfl ((major42 ..).trans rfl)

theorem endt (u : Bool) (p : BitVec 3) : Statement (.endt u p) :=
  of_word _ _ rfl rfl ((major42 ..).trans rfl)

theorem tjoin (u : Bool) (a : BitVec 6) (p : BitVec 3) : Statement (.tjoin u a p) :=
  of_word _ _ rfl rfl ((major42 ..).trans rfl)

theorem role (u : Bool) (k : BitVec 2) (p : BitVec 3) : Statement (.role u k p) :=
  of_word _ _ rfl rfl ((major42 ..).trans (by
    unfold decodeMajor42
    simp (disch := decide) only [Bits.extract_high, Bits.extract_low, Bits.extract_all, Nat.reduceSub, BitVec.toNat_ofNat, Nat.reduceMod,
      Nat.reducePow]
    try rfl))

theorem launch (u : Bool) (d a : BitVec 5) (q : BitVec 6) (p : BitVec 3) : Statement (.launch u d a q p) :=
  of_word _ _ rfl rfl ((major42 ..).trans (by
    unfold decodeMajor42
    simp (disch := decide) only [Bits.extract_high, Bits.extract_low, Bits.extract_all, Nat.reduceSub, BitVec.toNat_ofNat, Nat.reduceMod,
      Nat.reducePow]
    try rfl))

theorem tmma (u : Bool) (a b : BitVec 6) (p : BitVec 3) : Statement (.tmma u a b p) :=
  of_word _ _ rfl rfl ((major43 ..).trans rfl)

theorem tzero (u : Bool) (a : BitVec 6) (p : BitVec 3) : Statement (.tzero u a p) :=
  of_word _ _ rfl rfl ((major43 ..).trans rfl)

theorem tacld (u : Bool) (a : BitVec 6) (p : BitVec 3) : Statement (.tacld u a p) :=
  of_word _ _ rfl rfl ((major43 ..).trans rfl)

theorem tacst (u : Bool) (a : BitVec 6) (p : BitVec 3) : Statement (.tacst u a p) :=
  of_word _ _ rfl rfl ((major43 ..).trans rfl)

theorem tquant (u : Bool) (a b : BitVec 6) (p : BitVec 3) : Statement (.tquant u a b p) :=
  of_word _ _ rfl rfl ((major43 ..).trans rfl)

theorem tlend (u : Bool) (d : BitVec 6) (p : BitVec 3) : Statement (.tlend u d p) :=
  of_word _ _ rfl rfl ((major43 ..).trans rfl)

theorem vchain (u : Bool) (a : BitVec 6) (p : BitVec 3) : Statement (.vchain u a p) :=
  of_word _ _ rfl rfl ((major44 ..).trans rfl)

theorem vatwait (u : Bool) (v : BitVec 6) (p : BitVec 3) : Statement (.vatwait u v p) :=
  of_word _ _ rfl rfl ((major45 ..).trans rfl)

theorem vattake (u : Bool) (v : BitVec 6) (p : BitVec 3) : Statement (.vattake u v p) :=
  of_word _ _ rfl rfl ((major45 ..).trans rfl)

theorem vatfree (u : Bool) (v : BitVec 6) (p : BitVec 3) : Statement (.vatfree u v p) :=
  of_word _ _ rfl rfl ((major45 ..).trans rfl)

theorem cpy (u : Bool) (d a b : BitVec 6) (p : BitVec 3) : Statement (.cpy u d a b p) :=
  of_word _ _ rfl rfl ((major46 ..).trans rfl)

theorem cpya (u : Bool) (d : BitVec 6) (s : BitVec 2) (p : BitVec 3) : Statement (.cpya u d s p) :=
  of_word _ _ rfl rfl ((major46 ..).trans (by
    unfold decodeMajor46
    simp (disch := decide) only [Bits.extract_high, Bits.extract_low, Bits.extract_all, Nat.reduceSub, BitVec.toNat_ofNat, Nat.reduceMod,
      Nat.reducePow]
    try rfl))

theorem cpyg (u : Bool) (d a : BitVec 6) (p : BitVec 3) : Statement (.cpyg u d a p) :=
  of_word _ _ rfl rfl ((major46 ..).trans rfl)

theorem cpyx (u : Bool) (d a b : BitVec 6) (p : BitVec 3) : Statement (.cpyx u d a b p) :=
  of_word _ _ rfl rfl ((major46 ..).trans rfl)

theorem cbload (u : Bool) (d a : BitVec 6) (k p : BitVec 3) : Statement (.cbload u d a k p) :=
  of_word _ _ rfl rfl ((major46 ..).trans (by
    unfold decodeMajor46
    simp (disch := decide) only [Bits.extract_high, Bits.extract_low, Bits.extract_all, Nat.reduceSub, BitVec.toNat_ofNat, Nat.reduceMod,
      Nat.reducePow]
    try rfl))

theorem qpush (u : Bool) (s : BitVec 2) (q p : BitVec 3) : Statement (.qpush u s q p) :=
  of_word _ _ rfl rfl ((major46 ..).trans (by
    unfold decodeMajor46
    simp (disch := decide) only [Bits.extract_high, Bits.extract_low, Bits.extract_all, Nat.reduceSub, BitVec.toNat_ofNat, Nat.reduceMod,
      Nat.reducePow]
    try rfl))

theorem aaset (u : Bool) (a : BitVec 6) (s : BitVec 2) (p : BitVec 3) : Statement (.aaset u a s p) :=
  of_word _ _ rfl rfl ((major46 ..).trans (by
    unfold decodeMajor46
    simp (disch := decide) only [Bits.extract_high, Bits.extract_low, Bits.extract_all, Nat.reduceSub, BitVec.toNat_ofNat, Nat.reduceMod,
      Nat.reducePow]
    try rfl))

theorem vatarm (u : Bool) (a v : BitVec 6) (p : BitVec 3) : Statement (.vatarm u a v p) :=
  of_word _ _ rfl rfl ((major46 ..).trans rfl)

theorem cpyabort (u : Bool) (p : BitVec 3) : Statement (.cpyabort u p) :=
  of_word _ _ rfl rfl ((major46 ..).trans rfl)

theorem decsub (u : Bool) (d a : BitVec 6) (p : BitVec 3) : Statement (.decsub u d a p) :=
  of_word _ _ rfl rfl ((major46 ..).trans rfl)

theorem rshd (u : Bool) (d a : BitVec 6) (p : BitVec 3) : Statement (.rshd u d a p) :=
  of_word _ _ rfl rfl ((major46 ..).trans rfl)

theorem csrr (u : Bool) (d : BitVec 6) (c : BitVec 12) (p : BitVec 3) : Statement (.csrr u d c p) :=
  of_word _ _ rfl rfl ((major47 ..).trans rfl)

theorem csrw (u : Bool) (a : BitVec 6) (c : BitVec 12) (p : BitVec 3) : Statement (.csrw u a c p) :=
  of_word _ _ rfl rfl ((major47 ..).trans rfl)

theorem feat (u : Bool) (d : BitVec 6) (n : BitVec 4) (p : BitVec 3) : Statement (.feat u d n p) :=
  of_word _ _ rfl rfl ((major47 ..).trans (by
    unfold decodeMajor47
    simp (disch := decide) only [Bits.extract_high, Bits.extract_low, Bits.extract_all, Nat.reduceSub, BitVec.toNat_ofNat, Nat.reduceMod,
      Nat.reducePow]
    try rfl))

theorem trap (u : Bool) (n : BitVec 8) (p : BitVec 3) : Statement (.trap u n p) :=
  of_word _ _ rfl rfl ((major47 ..).trans (by
    unfold decodeMajor47
    simp (disch := decide) only [Bits.extract_high, Bits.extract_low, Bits.extract_all, Nat.reduceSub, BitVec.toNat_ofNat, Nat.reduceMod,
      Nat.reducePow]
    try rfl))

theorem tret (p : BitVec 3) : Statement (.tret p) :=
  of_word (.tret p) (BitVec.ofBool true ++ 47#6 ++ 4#4 ++ 0#6 ++ 0#12 ++ p) rfl rfl ((major47 true ..).trans rfl)

theorem brk (u : Bool) (n : BitVec 8) (p : BitVec 3) : Statement (.brk u n p) :=
  of_word _ _ rfl rfl ((major47 ..).trans (by
    unfold decodeMajor47
    simp (disch := decide) only [Bits.extract_high, Bits.extract_low, Bits.extract_all, Nat.reduceSub, BitVec.toNat_ofNat, Nat.reduceMod,
      Nat.reducePow]
    try rfl))

theorem nop (u : Bool) : Statement (.nop u) :=
  of_word _ _ rfl rfl ((major0 ..).trans rfl)

theorem hintImm (y : BitVec 22) : Statement (.hintImm y) :=
  of_word (.hintImm y) (BitVec.ofBool false ++ 0#6 ++ 1#3 ++ y) rfl rfl ((major0 false ..).trans rfl)

theorem hintSched (u : Bool) (w : BitVec 1) (h : BitVec 4) : Statement (.hintSched u w h) :=
  of_word _ _ rfl rfl ((major0 ..).trans (by
    unfold decodeMajor0
    simp (disch := decide) only [Bits.extract_high, Bits.extract_low, Bits.extract_all, Nat.reduceSub, BitVec.toNat_ofNat, Nat.reduceMod,
      Nat.reducePow]
    try rfl))

theorem hintMod (r q : BitVec 3) (m : BitVec 1) (c : BitVec 2) : Statement (.hintMod r q m c) :=
  of_word (.hintMod r q m c) (BitVec.ofBool false ++ 0#6 ++ 3#3 ++ (r ++ q ++ m ++ c ++ 0#13)) rfl rfl ((major0 false _ _).trans (by
    unfold decodeMajor0
    simp (disch := decide) only [Bits.extract_high, Bits.extract_low, Bits.extract_all, Nat.reduceSub]
    rfl))

theorem chunkMovi (d : BitVec 4) (imm : BitVec 32) : Statement (.chunkMovi d imm) :=
  of_chunk _ _ rfl rfl (fun h => by
    unfold decodeChunk
    simp (disch := decide) only [Bits.extract_high, Bits.extract_low, Bits.extract_all, Nat.reduceSub, BitVec.toNat_ofNat,
      Nat.reduceMod, Nat.reducePow]
    rfl)

theorem chunkMoviHi (d : BitVec 4) (imm : BitVec 32) : Statement (.chunkMoviHi d imm) :=
  of_chunk _ _ rfl rfl (fun h => by
    unfold decodeChunk
    simp (disch := decide) only [Bits.extract_high, Bits.extract_low, Bits.extract_all, Nat.reduceSub, BitVec.toNat_ofNat,
      Nat.reduceMod, Nat.reducePow]
    rfl)

theorem chunkAddi (d a b : BitVec 4) (imm : BitVec 32) : Statement (.chunkAddi d a b imm) :=
  of_chunk _ _ rfl rfl (fun h => by
    unfold decodeChunk
    simp (disch := decide) only [Bits.extract_high, Bits.extract_low, Bits.extract_all, Nat.reduceSub, BitVec.toNat_ofNat,
      Nat.reduceMod, Nat.reducePow]
    rfl)

theorem chunkAddiN (d a b : BitVec 4) (imm : BitVec 32) : Statement (.chunkAddiN d a b imm) :=
  of_chunk _ _ rfl rfl (fun h => by
    unfold decodeChunk
    simp (disch := decide) only [Bits.extract_high, Bits.extract_low, Bits.extract_all, Nat.reduceSub, BitVec.toNat_ofNat,
      Nat.reduceMod, Nat.reducePow]
    rfl)

theorem loop (d : BitVec 4) (imm : BitVec 32) : Statement (.loop d imm) :=
  of_chunk _ _ rfl rfl (fun h => by
    unfold decodeChunk
    simp (disch := decide) only [Bits.extract_high, Bits.extract_low, Bits.extract_all, Nat.reduceSub, BitVec.toNat_ofNat,
      Nat.reduceMod, Nat.reducePow]
    rfl)

theorem bnz (a : BitVec 4) (imm : BitVec 32) : Statement (.bnz a imm) :=
  of_chunk _ _ rfl rfl (fun h => by
    unfold decodeChunk
    simp (disch := decide) only [Bits.extract_high, Bits.extract_low, Bits.extract_all, Nat.reduceSub, BitVec.toNat_ofNat,
      Nat.reduceMod, Nat.reducePow]
    rfl)

theorem yield  : Statement .yield :=
  of_chunk _ _ rfl rfl (fun h => by
    unfold decodeChunk
    simp (disch := decide) only [Bits.extract_high, Bits.extract_low, Bits.extract_all, Nat.reduceSub, BitVec.toNat_ofNat,
      Nat.reduceMod, Nat.reducePow]
    rfl)

theorem chunkHalt  : Statement .chunkHalt :=
  of_chunk _ _ rfl rfl (fun h => by
    unfold decodeChunk
    simp (disch := decide) only [Bits.extract_high, Bits.extract_low, Bits.extract_all, Nat.reduceSub, BitVec.toNat_ofNat,
      Nat.reduceMod, Nat.reducePow]
    rfl)

theorem chunkCsrr (d : BitVec 4) (csr : BitVec 12) : Statement (.chunkCsrr d csr) :=
  of_chunk _ _ rfl rfl (fun h => by
    unfold decodeChunk
    simp (disch := decide) only [Bits.extract_high, Bits.extract_low, Bits.extract_all, Nat.reduceSub, BitVec.toNat_ofNat,
      Nat.reduceMod, Nat.reducePow]
    rfl)

theorem chunkCsrw (a : BitVec 4) (csr : BitVec 12) : Statement (.chunkCsrw a csr) :=
  of_chunk _ _ rfl rfl (fun h => by
    unfold decodeChunk
    simp (disch := decide) only [Bits.extract_high, Bits.extract_low, Bits.extract_all, Nat.reduceSub, BitVec.toNat_ofNat,
      Nat.reduceMod, Nat.reducePow]
    rfl)

theorem bind (a ch : BitVec 4) : Statement (.bind a ch) :=
  of_chunk _ _ rfl rfl (fun h => by
    unfold decodeChunk
    simp (disch := decide) only [Bits.extract_high, Bits.extract_low, Bits.extract_all, Nat.reduceSub, BitVec.toNat_ofNat,
      Nat.reduceMod, Nat.reducePow]
    rfl)

theorem waitf (cc a b : BitVec 4) : Statement (.waitf cc a b) :=
  of_chunk _ _ rfl rfl (fun h => by
    unfold decodeChunk
    simp (disch := decide) only [Bits.extract_high, Bits.extract_low, Bits.extract_all, Nat.reduceSub, BitVec.toNat_ofNat,
      Nat.reduceMod, Nat.reducePow]
    simp_all [Instr.wf])

theorem chunkSigf (a b : BitVec 4) : Statement (.chunkSigf a b) :=
  of_chunk _ _ rfl rfl (fun h => by
    unfold decodeChunk
    simp (disch := decide) only [Bits.extract_high, Bits.extract_low, Bits.extract_all, Nat.reduceSub, BitVec.toNat_ofNat,
      Nat.reduceMod, Nat.reducePow]
    rfl)

theorem chunkSigfAdd (a b : BitVec 4) : Statement (.chunkSigfAdd a b) :=
  of_chunk _ _ rfl rfl (fun h => by
    unfold decodeChunk
    simp (disch := decide) only [Bits.extract_high, Bits.extract_low, Bits.extract_all, Nat.reduceSub, BitVec.toNat_ofNat,
      Nat.reduceMod, Nat.reducePow]
    rfl)

theorem xmit (d a b ch : BitVec 4) : Statement (.xmit d a b ch) :=
  of_chunk _ _ rfl rfl (fun h => by
    unfold decodeChunk
    simp (disch := decide) only [Bits.extract_high, Bits.extract_low, Bits.extract_all, Nat.reduceSub, BitVec.toNat_ofNat,
      Nat.reduceMod, Nat.reducePow]
    rfl)

theorem recv (d a b ch : BitVec 4) : Statement (.recv d a b ch) :=
  of_chunk _ _ rfl rfl (fun h => by
    unfold decodeChunk
    simp (disch := decide) only [Bits.extract_high, Bits.extract_low, Bits.extract_all, Nat.reduceSub, BitVec.toNat_ofNat,
      Nat.reduceMod, Nat.reducePow]
    rfl)

theorem comb (m : BitVec 1) (op f d a b ch : BitVec 4) : Statement (.comb m op f d a b ch) :=
  of_chunk _ _ rfl rfl (fun h => by
    unfold decodeChunk
    simp (disch := decide) only [Bits.extract_high, Bits.extract_low, Bits.extract_all, Nat.reduceSub, BitVec.toNat_ofNat,
      Nat.reduceMod, Nat.reducePow]
    simp_all [Instr.wf])

theorem cfwd (m : BitVec 1) (fw op f d a b ch : BitVec 4) : Statement (.cfwd m fw op f d a b ch) :=
  of_chunk _ _ rfl rfl (fun h => by
    unfold decodeChunk
    simp (disch := decide) only [Bits.extract_high, Bits.extract_low, Bits.extract_all, Nat.reduceSub, BitVec.toNat_ofNat,
      Nat.reduceMod, Nat.reducePow]
    simp_all [Instr.wf])

theorem tlbinvWrite (c : Nat) (v : Dword) : Statement (.tlbinvWrite c v) := of_none _ rfl rfl

theorem hardwareBreakpoint (c : Nat) (mask : BitVec 32) : Statement (.hardwareBreakpoint c mask) := of_none _ rfl rfl

theorem loadCompletion (c k : Nat) : Statement (.loadCompletion c k) := of_none _ rfl rfl

theorem storePerformed (c k : Nat) : Statement (.storePerformed c k) := of_none _ rfl rfl

theorem fenceCompletion (c k : Nat) : Statement (.fenceCompletion c k) := of_none _ rfl rfl

theorem fenceConflictRollback (c k : Nat) : Statement (.fenceConflictRollback c k) := of_none _ rfl rfl

theorem queueEntryArrival (c k : Nat) (peer : List Byte) : Statement (.queueEntryArrival c k peer) := of_none _ rfl rfl

theorem copyCompletion (c k : Nat) (peer : List Byte) : Statement (.copyCompletion c k peer) := of_none _ rfl rfl

theorem copyFault (c k : Nat) (peer : List Byte) (refused : Option Nat) : Statement (.copyFault c k peer refused) := of_none _ rfl rfl

theorem matrixOperationRetire (c k : Nat) : Statement (.matrixOperationRetire c k) := of_none _ rfl rfl

theorem vchainRetire (c k : Nat) : Statement (.vchainRetire c k) := of_none _ rfl rfl

theorem tlbInvalidationComplete (c : Nat) : Statement (.tlbInvalidationComplete c) := of_none _ rfl rfl

theorem asyncEventTaken (k : Nat) : Statement (.asyncEventTaken k) := of_none _ rfl rfl

theorem clusterRestore (k : Nat) : Statement (.clusterRestore k) := of_none _ rfl rfl

theorem preemptionRequest (q : Nat) : Statement (.preemptionRequest q) := of_none _ rfl rfl

theorem sliceExpiry (q : Nat) : Statement (.sliceExpiry q) := of_none _ rfl rfl

theorem drainTimeout (grid cluster : Nat) : Statement (.drainTimeout grid cluster) := of_none _ rfl rfl

theorem dependenceFlagRead (q : Nat) : Statement (.dependenceFlagRead q) := of_none _ rfl rfl

theorem clusterPlacement  : Statement .clusterPlacement := of_none _ rfl rfl

theorem impositionStartArrival (link slot : Nat) : Statement (.impositionStartArrival link slot) := of_none _ rfl rfl

theorem impositionStartTimeout (k : Nat) : Statement (.impositionStartTimeout k) := of_none _ rfl rfl

theorem chunkArrival (link slot src : Nat) (x : Chunk) : Statement (.chunkArrival link slot src x) := of_none _ rfl rfl

theorem waitfFlagRead (link slot : Nat) : Statement (.waitfFlagRead link slot) := of_none _ rfl rfl

theorem reshardPlanning  : Statement .reshardPlanning := of_none _ rfl rfl

theorem curdReceived (curd : Nat) (bytes : List Byte) : Statement (.curdReceived curd bytes) := of_none _ rfl rfl

theorem pendingCounterChange (tensor : Nat) : Statement (.pendingCounterChange tensor) := of_none _ rfl rfl

theorem commit  : Statement .commit := of_none _ rfl rfl

theorem participantStop (rank : Nat) : Statement (.participantStop rank) := of_none _ rfl rfl

theorem decodeRequestAssignment (dec : Nat) : Statement (.decodeRequestAssignment dec) := of_none _ rfl rfl

theorem frameOutput (dec : Nat) (fr : FrameInfo) : Statement (.frameOutput dec fr) := of_none _ rfl rfl

theorem slotStart (link slot : Nat) : Statement (.slotStart link slot) := of_none _ rfl rfl

theorem slotEnd (link : Nat) : Statement (.slotEnd link) := of_none _ rfl rfl

theorem flitReception (link : Nat) (f : Flit) : Statement (.flitReception link f) := of_none _ rfl rfl

theorem remoteRequestTimeout (c k : Nat) : Statement (.remoteRequestTimeout c k) := of_none _ rfl rfl

theorem fecWindowEnd (link w bits : Nat) : Statement (.fecWindowEnd link w bits) := of_none _ rfl rfl

theorem retrainingEnd (link w : Nat) (ok : Bool) : Statement (.retrainingEnd link w ok) := of_none _ rfl rfl

theorem clockStepChange (slower : Bool) : Statement (.clockStepChange slower) := of_none _ rfl rfl

theorem coolantHold  : Statement .coolantHold := of_none _ rfl rfl

theorem coolantHoldRelease  : Statement .coolantHoldRelease := of_none _ rfl rfl

theorem correctedError (dram : Bool) : Statement (.correctedError dram) := of_none _ rfl rfl

theorem uncorrectableError (addr : Nat) : Statement (.uncorrectableError addr) := of_none _ rfl rfl

theorem parityErrorReexecution (c : Nat) (mask : BitVec 32) : Statement (.parityErrorReexecution c mask) := of_none _ rfl rfl

theorem sampleTag (core quad ctx : Nat) : Statement (.sampleTag core quad ctx) := of_none _ rfl rfl

theorem traceBlockWrite (ctx : Nat) : Statement (.traceBlockWrite ctx) := of_none _ rfl rfl

theorem liveMigration (ctx : Nat) (move : Migration) : Statement (.liveMigration ctx move) := of_none _ rfl rfl

theorem coldStart (imgs : List FwImage) (fail : Nat) : Statement (.coldStart imgs fail) := of_none _ rfl rfl

theorem warmStart (imgs : List FwImage) (fail : Nat) : Statement (.warmStart imgs fail) := of_none _ rfl rfl

theorem ctxcreate (cmd : Command) : Statement (.ctxcreate cmd) := of_none _ rfl rfl

theorem ctxdestroy (cmd : Command) : Statement (.ctxdestroy cmd) := of_none _ rfl rfl

theorem qpbind (cmd : Command) : Statement (.qpbind cmd) := of_none _ rfl rfl

theorem qopen (cmd : Command) : Statement (.qopen cmd) := of_none _ rfl rfl

theorem qcancel (cmd : Command) : Statement (.qcancel cmd) := of_none _ rfl rfl

theorem hostLaunch (cmd : Command) : Statement (.hostLaunch cmd) := of_none _ rfl rfl

theorem hostTlbinv (cmd : Command) : Statement (.hostTlbinv cmd) := of_none _ rfl rfl

theorem seqctlResume (cmd : Command) : Statement (.seqctlResume cmd) := of_none _ rfl rfl

theorem seqctlStep (cmd : Command) : Statement (.seqctlStep cmd) := of_none _ rfl rfl

theorem seqctlAbort (cmd : Command) : Statement (.seqctlAbort cmd) := of_none _ rfl rfl

theorem seqctlStop (cmd : Command) : Statement (.seqctlStop cmd) := of_none _ rfl rfl

theorem rsabort (cmd : Command) : Statement (.rsabort cmd) := of_none _ rfl rfl

theorem mrreg (cmd : Command) : Statement (.mrreg cmd) := of_none _ rfl rfl

theorem mrdereg (cmd : Command) : Statement (.mrdereg cmd) := of_none _ rfl rfl

theorem suspend (cmd : Command) : Statement (.suspend cmd) := of_none _ rfl rfl

theorem linkstat (cmd : Command) : Statement (.linkstat cmd) := of_none _ rfl rfl

theorem objload (cmd : Command) : Statement (.objload cmd) := of_none _ rfl rfl

theorem objdrop (cmd : Command) : Statement (.objdrop cmd) := of_none _ rfl rfl

theorem debugHalt (cmd : Command) : Statement (.debugHalt cmd) := of_none _ rfl rfl

theorem debugRelease (cmd : Command) : Statement (.debugRelease cmd) := of_none _ rfl rfl

theorem debugHold (cmd : Command) : Statement (.debugHold cmd) := of_none _ rfl rfl

theorem debugUnhold (cmd : Command) : Statement (.debugUnhold cmd) := of_none _ rfl rfl

theorem debugStep (cmd : Command) : Statement (.debugStep cmd) := of_none _ rfl rfl

theorem debugBkset (cmd : Command) : Statement (.debugBkset cmd) := of_none _ rfl rfl

theorem debugBkclr (cmd : Command) : Statement (.debugBkclr cmd) := of_none _ rfl rfl

theorem debugSetpc (cmd : Command) : Statement (.debugSetpc cmd) := of_none _ rfl rfl

theorem debugDump (cmd : Command) : Statement (.debugDump cmd) := of_none _ rfl rfl

theorem tracecfg (cmd : Command) : Statement (.tracecfg cmd) := of_none _ rfl rfl

theorem attest (cmd : Command) : Statement (.attest cmd) := of_none _ rfl rfl

theorem keyload (cmd : Command) : Statement (.keyload cmd) := of_none _ rfl rfl

theorem bbread (cmd : Command) : Statement (.bbread cmd) := of_none _ rfl rfl

theorem mgmtrd (cmd : Command) : Statement (.mgmtrd cmd) := of_none _ rfl rfl

theorem mgmtwr (cmd : Command) : Statement (.mgmtwr cmd) := of_none _ rfl rfl

theorem rdmaWrite (qp : Nat) (rkey : Word) (off : Dword) (data : List Byte) : Statement (.rdmaWrite qp rkey off data) := of_none _ rfl rfl

theorem rdmaRead (qp : Nat) (rkey : Word) (off : Dword) (len : Nat) : Statement (.rdmaRead qp rkey off len) := of_none _ rfl rfl

theorem invalidRequestNak (qp : Nat) : Statement (.invalidRequestNak qp) := of_none _ rfl rfl

theorem ecnMark (qp : Nat) : Statement (.ecnMark qp) := of_none _ rfl rfl

theorem ethernetPortDown (port : Nat) : Statement (.ethernetPortDown port) := of_none _ rfl rfl

theorem queuedResultWrite (c : Nat) : Statement (.queuedResultWrite c) := of_none _ rfl rfl

theorem managementConnectorAccess (x : MgmtAccess) : Statement (.managementConnectorAccess x) := of_none _ rfl rfl

end Sys2Proof.Laws.RoundTrip
end

