-- ==== Sys2Proof/Laws/Results.lean ====
section
/-! SUPPORT. Each operand form of the register-only families gives its results wherever its word is ready. -/
namespace Sys2Proof.Machine

variable {i : Instr} {s : State} {d a b : BitVec 6}

theorem one_below (d : BitVec 6) (x fl : Word) : ∀ y ∈ (one d.toNat x fl).regs, y.1 < 64 := by
  simp only [one, List.mem_singleton, forall_eq]
  exact d.isLt
theorem two_below {d : BitVec 6} (hd : d.toNat + 1 < 64) (x : Dword) (fl : Word) : ∀ y ∈ (two d.toNat x fl).regs, y.1 < 64 := by
  simp only [two, List.mem_cons, List.not_mem_nil, or_false, forall_eq_or_imp, forall_eq]
  exact ⟨d.isLt, hd⟩

theorem yields_un32 {f : Word → Word × Word} (he : exec i s = issue i s (un32 d a f)) (h : ready i s = true) :
    yields i s (fun l => one d.toNat (f ((viewOf i s).opnd 0 a.toNat l)).1 (f ((viewOf i s).opnd 0 a.toNat l)).2) :=
  yields_perLane i s _ _ _ he h rfl
    (eff_one d.toNat (fun l => (f ((viewOf i s).opnd 0 a.toNat l)).1) (fun l => (f ((viewOf i s).opnd 0 a.toNat l)).2))
    (fun _ => one_below d _ _)

theorem yields_bin32 {f : Word → Word → Word × Word} (he : exec i s = issue i s (bin32 d a b f)) (h : ready i s = true) :
    yields i s (fun l => one d.toNat (f ((viewOf i s).opnd 0 a.toNat l) ((viewOf i s).opnd 1 b.toNat l)).1
      (f ((viewOf i s).opnd 0 a.toNat l) ((viewOf i s).opnd 1 b.toNat l)).2) :=
  yields_perLane i s _ _ _ he h rfl
    (eff_one d.toNat (fun l => (f ((viewOf i s).opnd 0 a.toNat l) ((viewOf i s).opnd 1 b.toNat l)).1)
      (fun l => (f ((viewOf i s).opnd 0 a.toNat l) ((viewOf i s).opnd 1 b.toNat l)).2))
    (fun _ => one_below d _ _)

theorem yields_acc32 {f : Word → Word → Word → Word × Word} (he : exec i s = issue i s (acc32 d a b f)) (h : ready i s = true) :
    yields i s (fun l => one d.toNat
      (f ((viewOf i s).opnd 0 a.toNat l) ((viewOf i s).opnd 1 b.toNat l) ((viewOf i s).opnd 2 d.toNat l)).1
      (f ((viewOf i s).opnd 0 a.toNat l) ((viewOf i s).opnd 1 b.toNat l) ((viewOf i s).opnd 2 d.toNat l)).2) :=
  yields_perLane i s _ _ _ he h rfl
    (eff_one d.toNat (fun l => (f ((viewOf i s).opnd 0 a.toNat l) ((viewOf i s).opnd 1 b.toNat l) ((viewOf i s).opnd 2 d.toNat l)).1)
      (fun l => (f ((viewOf i s).opnd 0 a.toNat l) ((viewOf i s).opnd 1 b.toNat l) ((viewOf i s).opnd 2 d.toNat l)).2))
    (fun _ => one_below d _ _)

theorem yields_un64 {f : Dword → Dword × Word} (he : exec i s = issue i s (un64 d a f)) (h : ready i s = true)
    (hd : (useOf i).dst = some (r2 d)) :
    yields i s (fun l => two d.toNat (f ((viewOf i s).g.rv64 a.toNat l)).1 (f ((viewOf i s).g.rv64 a.toNat l)).2) :=
  yields_perLane i s _ _ _ he h rfl
    (eff_two d.toNat (fun l => (f ((viewOf i s).g.rv64 a.toNat l)).1) (fun l => (f ((viewOf i s).g.rv64 a.toNat l)).2))
    (fun _ => two_below (pair_below h d hd) _ _)

theorem yields_bin64 {f : Dword → Dword → Dword × Word} (he : exec i s = issue i s (bin64 d a b f)) (h : ready i s = true)
    (hd : (useOf i).dst = some (r2 d)) :
    yields i s (fun l => two d.toNat (f ((viewOf i s).g.rv64 a.toNat l) ((viewOf i s).g.rv64 b.toNat l)).1
      (f ((viewOf i s).g.rv64 a.toNat l) ((viewOf i s).g.rv64 b.toNat l)).2) :=
  yields_perLane i s _ _ _ he h rfl
    (eff_two d.toNat (fun l => (f ((viewOf i s).g.rv64 a.toNat l) ((viewOf i s).g.rv64 b.toNat l)).1)
      (fun l => (f ((viewOf i s).g.rv64 a.toNat l) ((viewOf i s).g.rv64 b.toNat l)).2))
    (fun _ => two_below (pair_below h d hd) _ _)

theorem yields_acc64 {f : Dword → Dword → Dword → Dword × Word} (he : exec i s = issue i s (acc64 d a b f)) (h : ready i s = true)
    (hd : (useOf i).dst = some (r2 d)) :
    yields i s (fun l => two d.toNat
      (f ((viewOf i s).g.rv64 a.toNat l) ((viewOf i s).g.rv64 b.toNat l) ((viewOf i s).g.rv64 d.toNat l)).1
      (f ((viewOf i s).g.rv64 a.toNat l) ((viewOf i s).g.rv64 b.toNat l) ((viewOf i s).g.rv64 d.toNat l)).2) :=
  yields_perLane i s _ _ _ he h rfl
    (eff_two d.toNat (fun l => (f ((viewOf i s).g.rv64 a.toNat l) ((viewOf i s).g.rv64 b.toNat l) ((viewOf i s).g.rv64 d.toNat l)).1)
      (fun l => (f ((viewOf i s).g.rv64 a.toNat l) ((viewOf i s).g.rv64 b.toNat l) ((viewOf i s).g.rv64 d.toNat l)).2))
    (fun _ => two_below (pair_below h d hd) _ _)

/-- The immediate forms (R95). -/
theorem yields_imm32 {m : BitVec 7} {f : Word → Word → Word} (he : exec i s = issue i s (imm32 d a m f)) (h : ready i s = true) :
    yields i s (fun l => one d.toNat (f ((viewOf i s).opnd 0 a.toNat l) ((immOf (viewOf i s).pre m).extractLsb' 0 32))) :=
  yields_perLane i s _ _ _ he h rfl
    (eff_one d.toNat (fun l => f ((viewOf i s).opnd 0 a.toNat l) ((immOf (viewOf i s).pre m).extractLsb' 0 32)) (fun _ => 0))
    (fun _ => one_below d _ _)
theorem yields_imm64 {m : BitVec 7} {f : Dword → Dword → Dword} (he : exec i s = issue i s (imm64 d a m f)) (h : ready i s = true)
    (hd : (useOf i).dst = some (r2 d)) :
    yields i s (fun l => two d.toNat (f ((viewOf i s).g.rv64 a.toNat l) (immOf (viewOf i s).pre m))) :=
  yields_perLane i s _ _ _ he h rfl
    (eff_two d.toNat (fun l => f ((viewOf i s).g.rv64 a.toNat l) (immOf (viewOf i s).pre m)) (fun _ => 0))
    (fun _ => two_below (pair_below h d hd) _ _)

/-- A register, a pair, a predicate written from the view and the state alone. -/
theorem yields_reg (v : Nat → Word) {m : View → State → Meaning} (he : exec i s = issue i s m) (h : ready i s = true)
    (hm : m (viewOf i s) (enter i s) = perLane (viewOf i s) (fun g l => g.wv d.toNat l (v l))) :
    yields i s (fun l => one d.toNat (v l)) :=
  yields_perLane i s _ _ _ he h hm (eff_reg d.toNat v) (fun _ => one_below d _ _)
theorem yields_pair (v : Nat → Dword) {m : View → State → Meaning} (he : exec i s = issue i s m) (h : ready i s = true)
    (hd : (useOf i).dst = some (r2 d))
    (hm : m (viewOf i s) (enter i s) = perLane (viewOf i s) (fun g l => g.wv64 d.toNat l (v l))) :
    yields i s (fun l => two d.toNat (v l)) :=
  yields_perLane i s _ _ _ he h hm (eff_pair d.toNat v) (fun _ => two_below (pair_below h d hd) _ _)
theorem yields_setPred (q : BitVec 3) {m : View → State → Meaning} (f : Nat → Bool × Word) (he : exec i s = issue i s m)
    (h : ready i s = true) (hm : m (viewOf i s) (enter i s) = setPred q f (viewOf i s) s) :
    yields i s (fun l => predicate q.toNat (f l).1 (f l).2) :=
  yields_perLane i s _ _ _ he h hm (eff_pred q.toNat (fun l => (f l).1) (fun l => (f l).2)) (by simp [predicate])

theorem yields_exact32 {m : View → State → Meaning} (f : Nat → FRes) (he : exec i s = issue i s m) (h : ready i s = true)
    (hm : m (viewOf i s) (enter i s) = exact32 d f (viewOf i s) s) :
    yields i s (fun l => one d.toNat (FRes.w32 (f l)) (f l).flags) :=
  yields_perLane i s _ _ _ he h hm (eff_one d.toNat (fun l => FRes.w32 (f l)) (fun l => (f l).flags)) (fun _ => one_below d _ _)

theorem yields_round32 {m : View → State → Meaning} (f : Nat → Nat → Nat → FRes) (he : exec i s = issue i s m) (h : ready i s = true)
    (hm : m (viewOf i s) (enter i s) = round32 d f (viewOf i s) s) :
    yields i s (rounded i s d.toNat f) :=
  yields_perLane i s _ _ _ he h hm (eff_round d.toNat (dynMode (viewOf i s)) (fun l => f l (dynMode (viewOf i s))))
    (fun _ => one_below d _ 0)

theorem yields_round64 {m : View → State → Meaning} (f : Nat → Nat → Nat → FRes) (he : exec i s = issue i s m) (h : ready i s = true)
    (hd : (useOf i).dst = some (r2 d)) (hm : m (viewOf i s) (enter i s) = round64 d f (viewOf i s) s) :
    yields i s (rounded64 i s d.toNat f) :=
  yields_perLane i s _ _ _ he h hm (eff_round64 d.toNat (dynMode (viewOf i s)) (fun l => f l (dynMode (viewOf i s))))
    (fun _ => two_below (pair_below h d hd) _ 0)

theorem yields_round32x2 {m : View → State → Meaning} (f : Nat → Nat → Nat → Nat → FRes) (he : exec i s = issue i s m)
    (h : ready i s = true) (hm : m (viewOf i s) (enter i s) = round32x2 d 16 f (viewOf i s) s) :
    yields i s (roundedPair i s d.toNat f) :=
  yields_perLane i s _ _ _ he h hm (eff_round2 d.toNat (dynMode (viewOf i s)) 16 (fun k l => f k l (dynMode (viewOf i s))))
    (fun _ => one_below d _ 0)

end Sys2Proof.Machine
end

