-- ==== Sys2Proof/Laws/Trap.lean ====
section
/-! SUPPORT. Taking a trap: what it depends on and what it changes, and the issue of a word all of whose lanes trap. -/
namespace Sys2Proof.Machine

/-- The group that a trap leaves before it can halt. -/
def trapped (g : Grp) (m : Word) (c d : Nat) (halts : Bool) (tpc taddr : Nat → Dword) : Grp :=
  { g.drainQueued.modLanes (lanesOf m) (fun l x => { x with
      tpc := tpc l, taddr := taddr l, waiting := false, held := false, stopped := none, parity := false, parked := none, bkPass := false
      pc := if !halts then trapEntry g c d else if c = 0x0C then tpc l else x.pc, run := 0, sub := 0 }) with
    tcause := tcauseOf c d
    tlanes := m
    takes := g.takesWithout m
    fetched := g.fetchedWithout m }

/-- The trap halts its group: it has no handler, or the debugger holds the group at a breakpoint or single step. -/
def trapHalts (g : Grp) (c d : Nat) : Bool := trapEntry g c d == 0 || ((c == 0x0B || c == 0x0C) && g.hold)

/-- A trap: its group is trapped, the trace hears of it, and the group halts where it must. -/
theorem takeTrap_eq (s : State) (k : Nat) (m : Word) (c d : Nat) (tpc taddr : Nat → Dword) :
    takeTrap s k m c d tpc taddr =
      let g := trapped (s.grp k) m c d (trapHalts (s.grp k) c d) tpc taddr
      let t := (s.setGrp k g).traceEvent g 2 m ((lowest m).elim 0 tpc) (tcauseOf c d)
      if trapHalts (s.grp k) c d then t.haltGrp k (if trapEntry (s.grp k) c d == 0 then 2 else 4) 0 else t := by
  have h1 : ∀ f : Nat → Lane → Lane, ((s.grp k).drainQueued.modLanes (lanesOf m) f).takesWithout m = (s.grp k).takesWithout m := fun f => by
    rw [Grp.modLanes_rest]; rfl
  have h2 : ∀ f : Nat → Lane → Lane, ((s.grp k).drainQueued.modLanes (lanesOf m) f).fetchedWithout m = (s.grp k).fetchedWithout m := fun f => by
    rw [Grp.modLanes_rest]; rfl
  unfold takeTrap trapped trapHalts
  simp only [h1, h2]
  cases lowest m <;> rfl

theorem modLanes_congr (ls : List Nat) (f f' : Nat → Lane → Lane) (g : Grp) (h : ∀ l ∈ ls, ∀ x, f l x = f' l x) :
    g.modLanes ls f = g.modLanes ls f' := by
  induction ls generalizing g with
  | nil => rfl
  | cons l r ih =>
    simp only [Grp.modLanes, List.foldl_cons, Grp.modLane] at ih ⊢
    rw [h l (List.mem_cons_self ..)]
    exact ih _ (fun l hl => h l (List.mem_cons_of_mem _ hl))

/-- A trap depends on the saved addresses of its own lanes alone. -/
theorem takeTrap_congr (s : State) (k : Nat) (m : Word) (c d : Nat) (tpc tpc' taddr taddr' : Nat → Dword)
    (h : ∀ l, inMask m l = true → tpc l = tpc' l ∧ taddr l = taddr' l) :
    takeTrap s k m c d tpc taddr = takeTrap s k m c d tpc' taddr' := by
  have hg : ∀ (g : Grp) (b : Bool), trapped g m c d b tpc taddr = trapped g m c d b tpc' taddr' := by
    intro g b
    unfold trapped
    rw [modLanes_congr _ _ _ _ (fun l hl x => by
      obtain ⟨h1, h2⟩ := h l ((mem_lanesOf m l).mp hl)
      rw [h1, h2])]
  have hlow : (lowest m).elim 0 tpc = (lowest m).elim 0 tpc' := by
    cases hq : lowest m with
    | none => rfl
    | some l => exact (h l ((mem_lanesOf m l).mp (List.mem_of_mem_head? (by simpa [lowest] using hq)))).1
  rw [takeTrap_eq, takeTrap_eq, hg, hlow]

/-! ## What tracing, halting and freezing leave alone -/

theorem State.traceAdd_ctxs (s : State) (id : Nat) (r : List Byte) : ∃ cs, s.traceAdd id r = { s with ctxs := cs } := by
  unfold State.traceAdd
  by_cases h : (!(s.ctx id).trace.on) = true
  · exact ⟨s.ctxs, by simp only [h, if_true]⟩
  · by_cases h' : (s.ctx id).trace.recs.length < 63
    · exact ⟨_, by simp only [h, h', if_true]; rfl⟩
    · exact ⟨_, by simp only [h, h', if_false]; rfl⟩
theorem State.traceEvent_ctxs (s : State) (g : Grp) (kind : Nat) (m : Word) (pc : Dword) (c : Word) :
    ∃ cs, s.traceEvent g kind m pc c = { s with ctxs := cs } := by
  unfold State.traceEvent
  by_cases h : ((s.ctx g.ctxid).trace.on && (s.ctx g.ctxid).trace.mask / 2 ^ (kind - 2) % 2 == 1) = true
  · simp only [h, if_true]
    exact State.traceAdd_ctxs _ _ _
  · exact ⟨s.ctxs, by simp only [h]; rfl⟩
@[simp] theorem State.grp_traceEvent (s : State) (g : Grp) (kind : Nat) (m : Word) (pc : Dword) (c : Word) (k : Nat) :
    (s.traceEvent g kind m pc c).grp k = s.grp k := by
  obtain ⟨cs, h⟩ := State.traceEvent_ctxs s g kind m pc c
  rw [h]; rfl

theorem State.haltGrp_ctxs (s : State) (k a b : Nat) : ∃ gs cs, s.haltGrp k a b = { s with grps := gs, ctxs := cs } := by
  unfold State.haltGrp
  obtain ⟨cs, h⟩ := State.traceEvent_ctxs (s.setGrp k { (s.grp k).drainQueued with
    halted := true, haltPend := false, hstat := BitVec.ofNat 64 (a + b % 256 * 256) }) (s.grp k).drainQueued 3 0 0 0
  exact ⟨_, cs, h⟩
theorem State.grp_haltGrp (s : State) (k a b j : Nat) : (s.haltGrp k a b).grp j =
    if j = k then { (s.grp k).drainQueued with halted := true, haltPend := false, hstat := BitVec.ofNat 64 (a + b % 256 * 256) } else s.grp j := by
  unfold State.haltGrp
  rw [State.grp_traceEvent]
  split
  · next h => subst h; exact State.grp_setGrp _ _ _
  · next h => exact State.grp_setGrp_other _ _ h

/-! ## Everything a trap does (R134, R136) -/

theorem drainQueued_drained {g : Grp} (h : g.sfq = []) : g.drainQueued = g := by
  unfold Grp.drainQueued
  rw [h]
  exact (congrArg (fun q => { g with sfq := q }) h.symm).trans rfl

theorem trapped_lane (g : Grp) (m : Word) (c d : Nat) (b : Bool) (tpc taddr : Nat → Dword) (l : Nat) :
    (trapped g m c d b tpc taddr).lane l = if inMask m l then
      { g.lane l with
        tpc := tpc l, taddr := taddr l, waiting := false, held := false, stopped := none, parity := false, parked := none, bkPass := false
        pc := if !b then trapEntry g c d else if c = 0x0C then tpc l else (g.lane l).pc, run := 0, sub := 0 }
      else g.lane l := by
  show (Grp.modLanes _ _ _).lane l = _
  rw [Grp.lane_modLanes _ (lanesOf_nodup m)]
  simp only [mem_lanesOf]
  rfl
theorem trapped_rest (g : Grp) (m : Word) (c d : Nat) (b : Bool) (tpc taddr : Nat → Dword) :
    trapped g m c d b tpc taddr =
      { g.drainQueued with lanes := (trapped g m c d b tpc taddr).lanes, tcause := tcauseOf c d, tlanes := m,
                           takes := g.takesWithout m, fetched := g.fetchedWithout m } := by
  unfold trapped
  rw [Grp.modLanes_rest]
  rfl

theorem takeTrap_rest (s : State) (k : Nat) (m : Word) (c d : Nat) (tpc taddr : Nat → Dword) :
    takeTrap s k m c d tpc taddr =
      { s with grps := (takeTrap s k m c d tpc taddr).grps, ctxs := (takeTrap s k m c d tpc taddr).ctxs } := by
  suffices h : ∃ gs cs, takeTrap s k m c d tpc taddr = { s with grps := gs, ctxs := cs } by
    obtain ⟨gs, cs, h⟩ := h
    rw [h]
  rw [takeTrap_eq]
  obtain ⟨cs', h'⟩ := State.traceEvent_ctxs (s.setGrp k (trapped (s.grp k) m c d (trapHalts (s.grp k) c d) tpc taddr))
    (trapped (s.grp k) m c d (trapHalts (s.grp k) c d) tpc taddr) 2 m ((lowest m).elim 0 tpc) (tcauseOf c d)
  simp only [h']
  split
  · obtain ⟨gs, cs, h⟩ := State.haltGrp_ctxs { s.setGrp k (trapped (s.grp k) m c d (trapHalts (s.grp k) c d) tpc taddr) with ctxs := cs' }
      k (if trapEntry (s.grp k) c d == 0 then 2 else 4) 0
    exact ⟨gs, cs, h⟩
  · exact ⟨_, cs', rfl⟩

theorem takeTrap_grp (s : State) (k : Nat) (m : Word) (c d : Nat) (tpc taddr : Nat → Dword) (j : Nat) :
    (takeTrap s k m c d tpc taddr).grp j =
      if j = k then
        let g := trapped (s.grp k) m c d (trapHalts (s.grp k) c d) tpc taddr
        if trapHalts (s.grp k) c d then
          { g with halted := true, haltPend := false, hstat := if trapEntry (s.grp k) c d = 0 then 2 else 4 }
        else g
      else s.grp j := by
  rw [takeTrap_eq]
  simp only []
  by_cases hh : trapHalts (s.grp k) c d = true
  · rw [if_pos hh, State.grp_haltGrp]
    simp only [State.grp_traceEvent]
    by_cases hj : j = k
    · subst hj
      have hq : (trapped (s.grp j) m c d true tpc taddr).sfq = [] := by rw [trapped_rest]; rfl
      simp only [if_true, State.grp_setGrp, hh, drainQueued_drained hq]
      by_cases h0 : trapEntry (s.grp j) c d = 0#64 <;> simp [h0]
    · rw [if_neg hj, if_neg hj, State.grp_setGrp_other _ _ hj]
  · rw [if_neg hh, State.grp_traceEvent]
    by_cases hj : j = k
    · subst hj
      simp only [if_true, State.grp_setGrp]
      rw [if_neg hh]
    · rw [if_neg hj, State.grp_setGrp_other _ _ hj]

/-! ## The issue of a word all of whose lanes trap -/

theorem min?_replicate (ls : List Nat) (n : Nat) (h : ls ≠ []) (ha : ∀ x ∈ ls, x = n) : ls.min? = some n := by
  rw [List.min?_eq_some_iff]
  obtain ⟨x, r, rfl⟩ := List.exists_cons_of_ne_nil h
  refine ⟨?_, fun b hb => le_of_eq (ha b hb).symm⟩
  rw [ha x (List.mem_cons_self ..)]
  exact List.mem_cons_self ..

theorem viewOf_tlanes (i : Instr) (s : State) : (viewOf i s).g.tlanes = (s.grp s.key).tlanes := by rw [viewOf_g]
theorem viewOf_fences {s : State} (h : (s.grp s.key).fences = []) (i : Instr) : (viewOf i s).g.fences = [] := by
  have hq : ((popQueues (s.grp s.key).qwinOn (s.grp s.key) (useOf i).src).getD ([], s.grp s.key)).2.fences = [] := by
    cases hp : popQueues (s.grp s.key).qwinOn (s.grp s.key) (useOf i).src with
    | none => exact h
    | some x => rw [Option.getD_some, popQueues_rest _ _ _ x hp]; exact h
  show (Grp.fences _).map _ = []
  rw [hq]; rfl
@[simp] theorem enter_grp (i : Instr) (s : State) : (enter i s).grp s.key = (viewOf i s).g := State.grp_setGrp s s.key (viewOf i s).g

/-- A ready word of which every lane of Act traps with the same cause and DETAIL, in a group with no trapped lane and no incomplete
fence: the other lanes that stand at it go on, and the trap is taken. -/
theorem issue_traps (i : Instr) (s : State) (m : View → State → Meaning) (h : ready i s = true)
    (c d : Nat) (hd : d < 256) (addr : Nat → Dword) (r : Option Dword) (eff : Word → State → State)
    (hm : m (viewOf i s) (enter i s) = ⟨(acting i s).map (fun l => (l, .trap c d (addr l) r)), eff⟩)
    (he : eff (if r.isSome then (viewOf i s).act else 0) (enter i s) = enter i s) (ha : (viewOf i s).act ≠ 0)
    (ht : (s.grp s.key).tlanes = 0) (hf : (s.grp s.key).fences = []) :
    issue i s m = .next (takeTrap (trapping i s (if r.isSome then (viewOf i s).act else 0)) s.key (viewOf i s).act c d
      (fun _ => r.getD s.cur.pc) addr) := by
  rw [issue_commits i s m h (by
    rw [hm]
    exact holdsBack_calm _ _ (fun o ho => by obtain ⟨l, -, rfl⟩ := List.mem_map.mp ho; simp)), hm]
  congr 1
  have hidle : ∀ o ∈ idleOuts s.cur.lanes (viewOf i s).act, o.2 = LaneOut.ok ∧ inMask s.cur.lanes o.1 = true ∧
      inMask (viewOf i s).act o.1 = false := by
    intro o ho
    obtain ⟨k, hk, rfl⟩ := List.mem_map.mp ho
    rw [mem_lanesOf, inMask_diff] at hk
    simpa using hk
  have hact : acting i s ≠ [] := by
    intro hn
    apply ha
    rw [← maskOf_lanesOf (viewOf i s).act, ← acting, hn]
    rfl
  set ts := (acting i s).map (fun l => (l, LaneOut.trap c d (addr l) r)) with hts
  set is := idleOuts s.cur.lanes (viewOf i s).act with his
  have htm : ∀ o ∈ ts, ∃ l, inMask (viewOf i s).act l = true ∧ o = (l, LaneOut.trap c d (addr l) r) := by
    intro o ho
    obtain ⟨l, hl, rfl⟩ := List.mem_map.mp ho
    exact ⟨l, (mem_lanesOf _ _).mp hl, rfl⟩
  have hviol : (ts ++ is).findSome? (fun o => o.2.violates) = none := by
    rw [List.findSome?_eq_none_iff]
    intro o ho
    rcases List.mem_append.mp ho with ho | ho
    · obtain ⟨l, _, rfl⟩ := htm o ho; rfl
    · rw [(hidle o ho).1]; rfl
  have hstep : stepTraps (viewOf i s).g (viewOf i s).next (ts ++ is) = ts ++ is := by
    apply stepTraps_id
    intro o ho
    rw [viewOf_lane]
    rcases List.mem_append.mp ho with ho | ho
    · obtain ⟨l, hl, rfl⟩ := htm o ho; exact ready_step h (act_sub i s hl)
    · exact ready_step h (hidle o ho).2.1
  have htk : takersOf (ts ++ is) (c * 256 + d) = ts := by
    unfold takersOf
    rw [List.filter_append, List.filter_eq_self.mpr, List.filter_eq_nil_iff.mpr, List.append_nil]
    · intro o ho; rw [(hidle o ho).1]; simp [LaneOut.trapCode]
    · intro o ho; obtain ⟨l, _, rfl⟩ := htm o ho; simp [LaneOut.trapCode]
  have hoth : (ts ++ is).filter (fun o => o.2.trapCode == none) = is := by
    rw [List.filter_append, List.filter_eq_nil_iff.mpr, List.nil_append, List.filter_eq_self]
    · intro o ho; rw [(hidle o ho).1]; simp [LaneOut.trapCode]
    · intro o ho; obtain ⟨l, _, rfl⟩ := htm o ho; simp [LaneOut.trapCode]
  have hbest : bestTrap (ts ++ is) = some (c * 256 + d) := by
    unfold bestTrap
    apply min?_replicate
    · intro hn
      rw [List.filterMap_eq_nil_iff] at hn
      obtain ⟨x, q, hx⟩ := List.exists_cons_of_ne_nil hact
      have := hn (x, LaneOut.trap c d (addr x) r) (List.mem_append_left _ (by rw [hts, hx]; exact List.mem_cons_self ..))
      simp [LaneOut.trapCode] at this
    · intro x hx
      obtain ⟨o, ho, hox⟩ := List.mem_filterMap.mp hx
      rcases List.mem_append.mp ho with ho | ho
      · obtain ⟨l, _, rfl⟩ := htm o ho
        simpa [LaneOut.trapCode, eq_comm] using hox
      · rw [(hidle o ho).1] at hox; simp [LaneOut.trapCode] at hox
  have hmask : maskOf (ts.map (·.1)) = (viewOf i s).act := by
    rw [hts, List.map_map, show (Prod.fst ∘ fun l => (l, LaneOut.trap c d (addr l) r)) = id from rfl, List.map_id, acting,
      maskOf_lanesOf]
  have hcode : (c * 256 + d) / 256 = c ∧ (c * 256 + d) % 256 = d := by omega
  unfold commit
  simp only [hviol, hstep, hbest, htk, hoth, hmask, hcode.1, hcode.2]
  have hkey : (viewOf i s).key = s.key := rfl
  simp only [hkey, enter_grp, viewOf_tlanes, ht]
  rw [if_neg (by simp [Grp.fenced, viewOf_fences hf])]
  rw [if_neg (by simp)]
  rw [if_neg (by simp)]
  have hdone : (viewOf i s).done (is ++ ts.filter (fun o => o.2.resume.isSome)) = if r.isSome then (viewOf i s).act else 0 := by
    unfold View.done
    have hres : ts.filter (fun o => o.2.resume.isSome) = if r.isSome then ts else [] := by
      split
      · next hr =>
        rw [List.filter_eq_self]
        intro o ho; obtain ⟨l, _, rfl⟩ := htm o ho; exact hr
      · next hr =>
        rw [List.filter_eq_nil_iff]
        intro o ho; obtain ⟨l, _, rfl⟩ := htm o ho; exact hr
    rw [hres]
    apply mask_ext
    intro l
    rw [inMask_and, inMask_maskOf, List.filter_append, List.map_append]
    by_cases hl : inMask (viewOf i s).act l = true
    · have h1 : l ∉ (is.filter (fun o => o.2.completes || o.2.resume.isSome)).map (·.1) := by
        intro hc
        obtain ⟨o, ho, rfl⟩ := List.mem_map.mp hc
        have := (hidle o (List.mem_of_mem_filter ho)).2.2
        rw [hl] at this
        exact absurd this (by simp)
      by_cases hr : r.isSome = true
      · have h2 : (l, LaneOut.trap c d (addr l) r) ∈ ts := List.mem_map.mpr ⟨l, (mem_lanesOf _ _).mpr hl, rfl⟩
        have h3 : l ∈ (ts.filter (fun o => o.2.completes || o.2.resume.isSome)).map (·.1) :=
          List.mem_map.mpr ⟨_, List.mem_filter.mpr ⟨h2, by simp [LaneOut.resume, hr]⟩, rfl⟩
        simp only [hr, if_true, hl, Bool.and_true, decide_eq_true_eq]
        exact ⟨inMask_lt hl, List.mem_append_right _ h3⟩
      · simp only [hr, if_false, Bool.false_eq_true, List.filter_nil, List.map_nil, List.append_nil, inMask_zero]
        simp [h1]
    · have : inMask (if r.isSome = true then (viewOf i s).act else 0) l = false := by
        split
        · simpa using hl
        · exact inMask_zero l
      simp [hl]
      exact this
  simp only [finish, hdone, he]
  have hmove : ∀ g : Grp, moveLanes g (viewOf i s) (bFlag i) (is ++ ts.filter (fun o => o.2.resume.isSome)) =
      moveLanes g (viewOf i s) (bFlag i) ([] ++ is) := by
    intro g
    unfold moveLanes
    rw [List.foldl_append, List.nil_append]
    have : ∀ (os : List (Nat × LaneOut)) (g : Grp), (∀ o ∈ os, ∃ l, o = (l, LaneOut.trap c d (addr l) r)) →
        os.foldl (moveLane (viewOf i s) (bFlag i)) g = g := by
      intro os
      induction os with
      | nil => intros; rfl
      | cons o os ih =>
        intro g hos
        obtain ⟨l, hl⟩ := hos o (List.mem_cons_self ..)
        rw [List.foldl_cons, hl]
        exact ih _ (fun o ho => hos o (List.mem_cons_of_mem _ ho))
    apply this
    intro o ho
    obtain ⟨l, _, hl⟩ := htm o (List.mem_of_mem_filter ho)
    exact ⟨l, hl⟩
  simp only [hmove]
  show takeTrap (trapping i s (if r.isSome then (viewOf i s).act else 0)) _ _ _ _ _ _ = _
  apply takeTrap_congr
  intro l hl
  have hfind : ts.find? (fun o => o.1 == l) = some (l, LaneOut.trap c d (addr l) r) := by
    have hmem : (l, LaneOut.trap c d (addr l) r) ∈ ts := List.mem_map.mpr ⟨l, (mem_lanesOf _ _).mpr hl, rfl⟩
    cases hq : ts.find? (fun o => o.1 == l) with
    | none =>
      rw [List.find?_eq_none] at hq
      have := hq _ hmem
      simp at this
    | some o =>
      have h1 := List.find?_some hq
      obtain ⟨l', _, rfl⟩ := htm o (List.mem_of_find?_eq_some hq)
      simp at h1
      subst h1
      rfl
  rw [hfind]
  exact ⟨rfl, rfl⟩

end Sys2Proof.Machine
end

