-- ==== Sys2Proof/Tests/Slice0.lean ====
section
/-! SUPPORT. Tests: words written out from the spec's encodings, terms that WellFormed refuses, results worked by hand from the spec's
tables, and for each statement with hypotheses a state and operands that meet them (names that begin with test_meets). -/
namespace Sys2Proof.Tests
open Sys2Proof.Machine Sys2Proof.Claims
/- Theorems are checked one after another: each check in the kernel takes a thread with a stack of its own. -/
set_option Elab.async false

/-! ## Benches: small states -/

/-- Memory holds page tables under which the first GiB of virtual and physical addresses are equal; context 1 owns it. -/
def tables : State := (probeTables State.reset 1).setCtx 1 probeCtx
/-- Lanes 0 and 1 of group 0 stand at one word. -/
def benchOf (g : Grp) : State := { tables.setGrp 0 g with cur := { lanes := 3, pc := 0x20000 } }
def grp0 : Grp := probeGrp false 0x20000
def bench : State := benchOf grp0
/-- Lane 0 of feeder context 1 stands at a word. -/
def feedOf (g : Grp) : State := { tables.setGrp 1 g with cur := { key := 1, lanes := 1, pc := 0x20000 } }
def grp1 : Grp := probeGrp true 0x20000
def feed : State := feedOf grp1
/-- A 32-bit value in register n of lanes 0 and 1; a pair likewise. -/
def reg (g : Grp) (n : Nat) (x : Word) : Grp := (g.wv n 0 x).wv n 1 x
def pair (g : Grp) (n : Nat) (x : Dword) : Grp := reg (reg g n (x.extractLsb' 0 32)) (n + 1) (x.extractLsb' 32 32)
/-- What lane l's register n holds after the word. -/
def after32 (i : Instr) (s : State) (n l : Nat) : Option Word :=
  match exec i s with
  | .next t => some ((t.grp s.key).rv n l)
  | _ => none
def flags32 (i : Instr) (s : State) (l : Nat) : Option Word :=
  match exec i s with
  | .next t => some ((t.grp s.key).lane l).flags
  | _ => none

/-- A property of the lanes of Act, checked lane by lane. -/
theorem of_acting {i : Instr} {s : State} (p : Nat → Prop) [DecidablePred p] (h : (acting i s).all (fun l => decide (p l)) = true) :
    ∀ l, inMask (viewOf i s).act l = true → p l := fun l hl =>
  of_decide_eq_true (List.all_eq_true.mp h l ((mem_lanesOf _ _).mpr hl))

/-! ## Words of the encodings (Tables 2-1 to 2-10, 13-2 to 13-5), one of each major -/

theorem test_decode_major0 :
    decodeWord (1#1 ++ 0#6 ++ 0#25) = some (.nop true) ∧
    decodeWord (0#1 ++ 0#6 ++ 1#3 ++ 8#22) = some (.hintImm 8) ∧
    decodeWord (1#1 ++ 0#6 ++ 262144#20 ++ 1#1 ++ 10#4) = some (.hintSched true 1 10) ∧
    decodeWord (0#1 ++ 0#6 ++ 3#3 ++ 1#3 ++ 3#3 ++ 1#1 ++ 1#2 ++ 0#13) = some (.hintMod 1 3 1 1) := by decide

theorem test_decode_major1 :
    decodeWord (1#1 ++ 1#6 ++ 0#4 ++ 43#6 ++ 26#6 ++ 5#6 ++ 4#3) = some (.add true 43 26 5 4) ∧
    decodeWord (1#1 ++ 1#6 ++ 1#4 ++ 43#6 ++ 26#6 ++ 5#6 ++ 4#3) = some (.sub true 43 26 5 4) ∧
    decodeWord (1#1 ++ 1#6 ++ 2#4 ++ 43#6 ++ 26#6 ++ 5#6 ++ 4#3) = some (.mul true 43 26 5 4) ∧
    decodeWord (1#1 ++ 1#6 ++ 3#4 ++ 43#6 ++ 26#6 ++ 5#6 ++ 4#3) = some (.mulhi true 43 26 5 4) ∧
    decodeWord (1#1 ++ 1#6 ++ 4#4 ++ 43#6 ++ 26#6 ++ 5#6 ++ 4#3) = some (.mulhiu true 43 26 5 4) ∧
    decodeWord (1#1 ++ 1#6 ++ 5#4 ++ 43#6 ++ 26#6 ++ 5#6 ++ 4#3) = some (.mad true 43 26 5 4) ∧
    decodeWord (1#1 ++ 1#6 ++ 6#4 ++ 43#6 ++ 26#6 ++ 5#6 ++ 4#3) = some (.and true 43 26 5 4) ∧
    decodeWord (1#1 ++ 1#6 ++ 7#4 ++ 43#6 ++ 26#6 ++ 5#6 ++ 4#3) = some (.or true 43 26 5 4) ∧
    decodeWord (1#1 ++ 1#6 ++ 8#4 ++ 43#6 ++ 26#6 ++ 5#6 ++ 4#3) = some (.xor true 43 26 5 4) ∧
    decodeWord (1#1 ++ 1#6 ++ 9#4 ++ 43#6 ++ 26#6 ++ 5#6 ++ 4#3) = some (.andn true 43 26 5 4) ∧
    decodeWord (1#1 ++ 1#6 ++ 10#4 ++ 43#6 ++ 26#6 ++ 5#6 ++ 4#3) = some (.min true 43 26 5 4) ∧
    decodeWord (1#1 ++ 1#6 ++ 11#4 ++ 43#6 ++ 26#6 ++ 5#6 ++ 4#3) = some (.max true 43 26 5 4) ∧
    decodeWord (1#1 ++ 1#6 ++ 12#4 ++ 43#6 ++ 26#6 ++ 5#6 ++ 4#3) = some (.minu true 43 26 5 4) ∧
    decodeWord (1#1 ++ 1#6 ++ 13#4 ++ 43#6 ++ 26#6 ++ 5#6 ++ 4#3) = some (.maxu true 43 26 5 4) := by decide

theorem test_decode_major2 :
    decodeWord (1#1 ++ 2#6 ++ 0#4 ++ 43#6 ++ 26#6 ++ 5#6 ++ 4#3) = some (.add64 true 43 26 5 4) ∧
    decodeWord (1#1 ++ 2#6 ++ 1#4 ++ 43#6 ++ 26#6 ++ 5#6 ++ 4#3) = some (.sub64 true 43 26 5 4) ∧
    decodeWord (1#1 ++ 2#6 ++ 2#4 ++ 43#6 ++ 26#6 ++ 5#6 ++ 4#3) = some (.mul64 true 43 26 5 4) ∧
    decodeWord (1#1 ++ 2#6 ++ 3#4 ++ 43#6 ++ 26#6 ++ 5#6 ++ 4#3) = some (.mulhi64 true 43 26 5 4) ∧
    decodeWord (1#1 ++ 2#6 ++ 4#4 ++ 43#6 ++ 26#6 ++ 5#6 ++ 4#3) = some (.mulhiu64 true 43 26 5 4) ∧
    decodeWord (1#1 ++ 2#6 ++ 5#4 ++ 43#6 ++ 26#6 ++ 5#6 ++ 4#3) = some (.mad64 true 43 26 5 4) ∧
    decodeWord (1#1 ++ 2#6 ++ 6#4 ++ 43#6 ++ 26#6 ++ 5#6 ++ 4#3) = some (.and64 true 43 26 5 4) ∧
    decodeWord (1#1 ++ 2#6 ++ 7#4 ++ 43#6 ++ 26#6 ++ 5#6 ++ 4#3) = some (.or64 true 43 26 5 4) ∧
    decodeWord (1#1 ++ 2#6 ++ 8#4 ++ 43#6 ++ 26#6 ++ 5#6 ++ 4#3) = some (.xor64 true 43 26 5 4) ∧
    decodeWord (1#1 ++ 2#6 ++ 9#4 ++ 43#6 ++ 26#6 ++ 5#6 ++ 4#3) = some (.andn64 true 43 26 5 4) ∧
    decodeWord (1#1 ++ 2#6 ++ 10#4 ++ 43#6 ++ 26#6 ++ 5#6 ++ 4#3) = some (.min64 true 43 26 5 4) ∧
    decodeWord (1#1 ++ 2#6 ++ 11#4 ++ 43#6 ++ 26#6 ++ 5#6 ++ 4#3) = some (.max64 true 43 26 5 4) ∧
    decodeWord (1#1 ++ 2#6 ++ 12#4 ++ 43#6 ++ 26#6 ++ 5#6 ++ 4#3) = some (.minu64 true 43 26 5 4) ∧
    decodeWord (1#1 ++ 2#6 ++ 13#4 ++ 43#6 ++ 26#6 ++ 5#6 ++ 4#3) = some (.maxu64 true 43 26 5 4) := by decide

theorem test_decode_major3 :
    decodeWord (1#1 ++ 3#6 ++ 0#4 ++ 43#6 ++ 26#6 ++ 5#6 ++ 4#3) = some (.shl true 43 26 5 4) ∧
    decodeWord (1#1 ++ 3#6 ++ 1#4 ++ 43#6 ++ 26#6 ++ 5#6 ++ 4#3) = some (.shr true 43 26 5 4) ∧
    decodeWord (1#1 ++ 3#6 ++ 2#4 ++ 43#6 ++ 26#6 ++ 5#6 ++ 4#3) = some (.sar true 43 26 5 4) ∧
    decodeWord (1#1 ++ 3#6 ++ 3#4 ++ 43#6 ++ 26#6 ++ 5#6 ++ 4#3) = some (.rot true 43 26 5 4) ∧
    decodeWord (1#1 ++ 3#6 ++ 4#4 ++ 43#6 ++ 26#6 ++ 0#6 ++ 5#3) = some (.abs true 43 26 5) ∧
    decodeWord (1#1 ++ 3#6 ++ 5#4 ++ 43#6 ++ 26#6 ++ 0#6 ++ 5#3) = some (.clz true 43 26 5) ∧
    decodeWord (1#1 ++ 3#6 ++ 6#4 ++ 43#6 ++ 26#6 ++ 0#6 ++ 5#3) = some (.popc true 43 26 5) ∧
    decodeWord (1#1 ++ 3#6 ++ 7#4 ++ 43#6 ++ 26#6 ++ 0#6 ++ 5#3) = some (.brev true 43 26 5) ∧
    decodeWord (1#1 ++ 3#6 ++ 8#4 ++ 43#6 ++ 26#6 ++ 5#6 ++ 4#3) = some (.bfx true 43 26 5 4) ∧
    decodeWord (1#1 ++ 3#6 ++ 9#4 ++ 43#6 ++ 26#6 ++ 5#6 ++ 4#3) = some (.bfi true 43 26 5 4) ∧
    decodeWord (1#1 ++ 3#6 ++ 10#4 ++ 43#6 ++ 26#6 ++ 5#6 ++ 4#3) = some (.permb true 43 26 5 4) ∧
    decodeWord (1#1 ++ 3#6 ++ 11#4 ++ 43#6 ++ 26#6 ++ 5#6 ++ 4#3) = some (.div true 43 26 5 4) ∧
    decodeWord (1#1 ++ 3#6 ++ 12#4 ++ 43#6 ++ 26#6 ++ 5#6 ++ 4#3) = some (.divu true 43 26 5 4) ∧
    decodeWord (1#1 ++ 3#6 ++ 13#4 ++ 43#6 ++ 26#6 ++ 5#6 ++ 4#3) = some (.rem true 43 26 5 4) ∧
    decodeWord (1#1 ++ 3#6 ++ 14#4 ++ 43#6 ++ 26#6 ++ 5#6 ++ 4#3) = some (.remu true 43 26 5 4) := by decide

theorem test_decode_major4 :
    decodeWord (1#1 ++ 4#6 ++ 0#4 ++ 43#6 ++ 26#6 ++ 5#6 ++ 4#3) = some (.shl64 true 43 26 5 4) ∧
    decodeWord (1#1 ++ 4#6 ++ 1#4 ++ 43#6 ++ 26#6 ++ 5#6 ++ 4#3) = some (.shr64 true 43 26 5 4) ∧
    decodeWord (1#1 ++ 4#6 ++ 2#4 ++ 43#6 ++ 26#6 ++ 5#6 ++ 4#3) = some (.sar64 true 43 26 5 4) ∧
    decodeWord (1#1 ++ 4#6 ++ 3#4 ++ 43#6 ++ 26#6 ++ 5#6 ++ 4#3) = some (.rot64 true 43 26 5 4) ∧
    decodeWord (1#1 ++ 4#6 ++ 4#4 ++ 43#6 ++ 26#6 ++ 0#6 ++ 5#3) = some (.abs64 true 43 26 5) ∧
    decodeWord (1#1 ++ 4#6 ++ 5#4 ++ 43#6 ++ 26#6 ++ 0#6 ++ 5#3) = some (.clz64 true 43 26 5) ∧
    decodeWord (1#1 ++ 4#6 ++ 6#4 ++ 43#6 ++ 26#6 ++ 0#6 ++ 5#3) = some (.popc64 true 43 26 5) ∧
    decodeWord (1#1 ++ 4#6 ++ 7#4 ++ 43#6 ++ 26#6 ++ 0#6 ++ 5#3) = some (.brev64 true 43 26 5) ∧
    decodeWord (1#1 ++ 4#6 ++ 8#4 ++ 43#6 ++ 26#6 ++ 5#6 ++ 4#3) = some (.bfx64 true 43 26 5 4) ∧
    decodeWord (1#1 ++ 4#6 ++ 9#4 ++ 43#6 ++ 26#6 ++ 5#6 ++ 4#3) = some (.bfi64 true 43 26 5 4) ∧
    decodeWord (1#1 ++ 4#6 ++ 10#4 ++ 43#6 ++ 26#6 ++ 5#6 ++ 4#3) = some (.permb64 true 43 26 5 4) ∧
    decodeWord (1#1 ++ 4#6 ++ 11#4 ++ 43#6 ++ 26#6 ++ 5#6 ++ 4#3) = some (.div64 true 43 26 5 4) ∧
    decodeWord (1#1 ++ 4#6 ++ 12#4 ++ 43#6 ++ 26#6 ++ 5#6 ++ 4#3) = some (.divu64 true 43 26 5 4) ∧
    decodeWord (1#1 ++ 4#6 ++ 13#4 ++ 43#6 ++ 26#6 ++ 5#6 ++ 4#3) = some (.rem64 true 43 26 5 4) ∧
    decodeWord (1#1 ++ 4#6 ++ 14#4 ++ 43#6 ++ 26#6 ++ 5#6 ++ 4#3) = some (.remu64 true 43 26 5 4) := by decide

theorem test_decode_major5 :
    decodeWord (1#1 ++ 5#6 ++ 0#3 ++ 43#6 ++ 26#6 ++ 69#7 ++ 4#3) = some (.addi true 43 26 69 4) ∧
    decodeWord (1#1 ++ 5#6 ++ 1#3 ++ 43#6 ++ 26#6 ++ 69#7 ++ 4#3) = some (.muli true 43 26 69 4) ∧
    decodeWord (1#1 ++ 5#6 ++ 2#3 ++ 43#6 ++ 26#6 ++ 69#7 ++ 4#3) = some (.andi true 43 26 69 4) ∧
    decodeWord (1#1 ++ 5#6 ++ 3#3 ++ 43#6 ++ 26#6 ++ 69#7 ++ 4#3) = some (.ori true 43 26 69 4) ∧
    decodeWord (1#1 ++ 5#6 ++ 4#3 ++ 43#6 ++ 26#6 ++ 69#7 ++ 4#3) = some (.xori true 43 26 69 4) ∧
    decodeWord (1#1 ++ 5#6 ++ 5#3 ++ 43#6 ++ 26#6 ++ 69#7 ++ 4#3) = some (.shli true 43 26 69 4) ∧
    decodeWord (1#1 ++ 5#6 ++ 6#3 ++ 43#6 ++ 26#6 ++ 69#7 ++ 4#3) = some (.shri true 43 26 69 4) ∧
    decodeWord (1#1 ++ 5#6 ++ 7#3 ++ 43#6 ++ 26#6 ++ 69#7 ++ 4#3) = some (.sari true 43 26 69 4) := by decide

theorem test_decode_major6 :
    decodeWord (1#1 ++ 6#6 ++ 0#3 ++ 43#6 ++ 26#6 ++ 69#7 ++ 4#3) = some (.addi64 true 43 26 69 4) ∧
    decodeWord (1#1 ++ 6#6 ++ 1#3 ++ 43#6 ++ 26#6 ++ 69#7 ++ 4#3) = some (.muli64 true 43 26 69 4) ∧
    decodeWord (1#1 ++ 6#6 ++ 2#3 ++ 43#6 ++ 26#6 ++ 69#7 ++ 4#3) = some (.andi64 true 43 26 69 4) ∧
    decodeWord (1#1 ++ 6#6 ++ 3#3 ++ 43#6 ++ 26#6 ++ 69#7 ++ 4#3) = some (.ori64 true 43 26 69 4) ∧
    decodeWord (1#1 ++ 6#6 ++ 4#3 ++ 43#6 ++ 26#6 ++ 69#7 ++ 4#3) = some (.xori64 true 43 26 69 4) ∧
    decodeWord (1#1 ++ 6#6 ++ 5#3 ++ 43#6 ++ 26#6 ++ 69#7 ++ 4#3) = some (.shli64 true 43 26 69 4) ∧
    decodeWord (1#1 ++ 6#6 ++ 6#3 ++ 43#6 ++ 26#6 ++ 69#7 ++ 4#3) = some (.shri64 true 43 26 69 4) ∧
    decodeWord (1#1 ++ 6#6 ++ 7#3 ++ 43#6 ++ 26#6 ++ 69#7 ++ 4#3) = some (.sari64 true 43 26 69 4) := by decide

theorem test_decode_major7 :
    decodeWord (1#1 ++ 7#6 ++ 0#3 ++ 43#6 ++ 0#6 ++ 90#7 ++ 5#3) = some (.movi true 43 90 5) ∧
    decodeWord (1#1 ++ 7#6 ++ 1#3 ++ 43#6 ++ 0#6 ++ 90#7 ++ 5#3) = some (.movi64 true 43 90 5) := by decide

theorem test_decode_major8 :
    decodeWord (1#1 ++ 8#6 ++ 0#4 ++ 43#6 ++ 26#6 ++ 5#6 ++ 4#3) = some (.fadd true 43 26 5 4) ∧
    decodeWord (1#1 ++ 8#6 ++ 1#4 ++ 43#6 ++ 26#6 ++ 5#6 ++ 4#3) = some (.fsub true 43 26 5 4) ∧
    decodeWord (1#1 ++ 8#6 ++ 2#4 ++ 43#6 ++ 26#6 ++ 5#6 ++ 4#3) = some (.fmul true 43 26 5 4) ∧
    decodeWord (1#1 ++ 8#6 ++ 3#4 ++ 43#6 ++ 26#6 ++ 5#6 ++ 4#3) = some (.ffma true 43 26 5 4) ∧
    decodeWord (1#1 ++ 8#6 ++ 4#4 ++ 43#6 ++ 26#6 ++ 5#6 ++ 4#3) = some (.fmin true 43 26 5 4) ∧
    decodeWord (1#1 ++ 8#6 ++ 5#4 ++ 43#6 ++ 26#6 ++ 5#6 ++ 4#3) = some (.fmax true 43 26 5 4) ∧
    decodeWord (1#1 ++ 8#6 ++ 6#4 ++ 43#6 ++ 26#6 ++ 5#6 ++ 4#3) = some (.fsgnJ true 43 26 5 4) ∧
    decodeWord (1#1 ++ 8#6 ++ 7#4 ++ 43#6 ++ 26#6 ++ 5#6 ++ 4#3) = some (.fsgnN true 43 26 5 4) ∧
    decodeWord (1#1 ++ 8#6 ++ 8#4 ++ 43#6 ++ 26#6 ++ 5#6 ++ 4#3) = some (.fsgnX true 43 26 5 4) ∧
    decodeWord (1#1 ++ 8#6 ++ 9#4 ++ 43#6 ++ 26#6 ++ 0#6 ++ 5#3) = some (.fclass true 43 26 5) ∧
    decodeWord (1#1 ++ 8#6 ++ 10#4 ++ 43#6 ++ 26#6 ++ 5#6 ++ 4#3) = some (.fdiv true 43 26 5 4) := by decide

theorem test_decode_major9 :
    decodeWord (1#1 ++ 9#6 ++ 0#3 ++ 1#1 ++ 26#6 ++ 5#6 ++ 28#6 ++ 7#3) = some (.hadd2 true 1 26 5 28 7) ∧
    decodeWord (1#1 ++ 9#6 ++ 1#3 ++ 1#1 ++ 26#6 ++ 5#6 ++ 28#6 ++ 7#3) = some (.hmul2 true 1 26 5 28 7) ∧
    decodeWord (1#1 ++ 9#6 ++ 2#3 ++ 1#1 ++ 26#6 ++ 5#6 ++ 28#6 ++ 7#3) = some (.hfma2 true 1 26 5 28 7) ∧
    decodeWord (1#1 ++ 9#6 ++ 3#3 ++ 1#1 ++ 26#6 ++ 5#6 ++ 28#6 ++ 7#3) = some (.hmin2 true 1 26 5 28 7) ∧
    decodeWord (1#1 ++ 9#6 ++ 4#3 ++ 1#1 ++ 26#6 ++ 5#6 ++ 28#6 ++ 7#3) = some (.hmax2 true 1 26 5 28 7) := by decide

theorem test_decode_major10 :
    decodeWord (1#1 ++ 10#6 ++ 0#4 ++ 43#6 ++ 26#6 ++ 5#6 ++ 4#3) = some (.dadd true 43 26 5 4) ∧
    decodeWord (1#1 ++ 10#6 ++ 1#4 ++ 43#6 ++ 26#6 ++ 5#6 ++ 4#3) = some (.dmul true 43 26 5 4) ∧
    decodeWord (1#1 ++ 10#6 ++ 2#4 ++ 43#6 ++ 26#6 ++ 5#6 ++ 4#3) = some (.dfma true 43 26 5 4) := by decide

theorem test_decode_major11 :
    decodeWord (1#1 ++ 11#6 ++ 11#4 ++ 0#3 ++ 2#3 ++ 5#6 ++ 28#6 ++ 7#3) = some (.icmp true 11 2 5 28 7) := by decide

theorem test_decode_major12 :
    decodeWord (1#1 ++ 12#6 ++ 11#4 ++ 0#3 ++ 2#3 ++ 5#6 ++ 28#6 ++ 7#3) = some (.icmp64 true 11 2 5 28 7) := by decide

theorem test_decode_major13 :
    decodeWord (1#1 ++ 13#6 ++ 0#1 ++ 3#3 ++ 0#2 ++ 1#1 ++ 5#3 ++ 28#6 ++ 15#6 ++ 6#3) = some (.fcmp true 3 1 5 28 15 6) := by decide

theorem test_decode_major14 :
    decodeWord (1#1 ++ 14#6 ++ 0#1 ++ 3#3 ++ 0#3 ++ 2#3 ++ 0#3 ++ 5#3 ++ 0#3 ++ 4#3 ++ 7#3) = some (.plog true 3 2 5 4 7) ∧
    decodeWord (1#1 ++ 14#6 ++ 1#1 ++ 3#3 ++ 26#6 ++ 5#6 ++ 28#6 ++ 7#3) = some (.sel true 3 26 5 28 7) := by decide

theorem test_decode_major15 :
    decodeWord (1#1 ++ 15#6 ++ 11#4 ++ 26#6 ++ 5#6 ++ 12#4 ++ 1#1 ++ 0#1 ++ 6#3) = some (.cvt true 11 26 5 12 1 6) := by decide

theorem test_decode_major16 :
    decodeWord (1#1 ++ 16#6 ++ 0#1 ++ 3#3 ++ 26#6 ++ 5#6 ++ 28#6 ++ 7#3) = some (.cvtpk true 3 26 5 28 7) ∧
    decodeWord (1#1 ++ 16#6 ++ 1#1 ++ 3#3 ++ 26#6 ++ 5#6 ++ 0#3 ++ 4#3 ++ 7#3) = some (.cvtupk true 3 26 5 4 7) := by decide

theorem test_decode_major17 :
    decodeWord (1#1 ++ 17#6 ++ 0#4 ++ 43#6 ++ 26#6 ++ 0#6 ++ 5#3) = some (.rcp true 43 26 5) ∧
    decodeWord (1#1 ++ 17#6 ++ 1#4 ++ 43#6 ++ 26#6 ++ 0#6 ++ 5#3) = some (.rsq true 43 26 5) ∧
    decodeWord (1#1 ++ 17#6 ++ 2#4 ++ 43#6 ++ 26#6 ++ 0#6 ++ 5#3) = some (.sqrt true 43 26 5) ∧
    decodeWord (1#1 ++ 17#6 ++ 3#4 ++ 43#6 ++ 26#6 ++ 0#6 ++ 5#3) = some (.exp2 true 43 26 5) ∧
    decodeWord (1#1 ++ 17#6 ++ 4#4 ++ 43#6 ++ 26#6 ++ 0#6 ++ 5#3) = some (.log2 true 43 26 5) ∧
    decodeWord (1#1 ++ 17#6 ++ 5#4 ++ 43#6 ++ 26#6 ++ 0#6 ++ 5#3) = some (.sin true 43 26 5) ∧
    decodeWord (1#1 ++ 17#6 ++ 6#4 ++ 43#6 ++ 26#6 ++ 0#6 ++ 5#3) = some (.cos true 43 26 5) ∧
    decodeWord (1#1 ++ 17#6 ++ 7#4 ++ 43#6 ++ 26#6 ++ 0#6 ++ 5#3) = some (.tanh true 43 26 5) := by decide

theorem test_decode_major18 :
    decodeWord (1#1 ++ 18#6 ++ 0#2 ++ 3#2 ++ 26#6 ++ 5#6 ++ 28#6 ++ 7#3) = some (.shfl true 3 26 5 28 7) ∧
    decodeWord (1#1 ++ 18#6 ++ 1#2 ++ 3#2 ++ 26#6 ++ 5#6 ++ 0#1 ++ 28#5 ++ 7#3) = some (.shflImm true 3 26 5 28 7) := by decide

theorem test_decode_major19 :
    decodeWord (1#1 ++ 19#6 ++ 0#7 ++ 3#3 ++ 0#3 ++ 2#3 ++ 0#6 ++ 5#3) = some (.voteAll true 3 2 5) ∧
    decodeWord (1#1 ++ 19#6 ++ 8#7 ++ 3#3 ++ 0#3 ++ 2#3 ++ 0#6 ++ 5#3) = some (.voteAny true 3 2 5) ∧
    decodeWord (1#1 ++ 19#6 ++ 2#4 ++ 43#6 ++ 0#3 ++ 2#3 ++ 0#6 ++ 5#3) = some (.voteBallot true 43 2 5) ∧
    decodeWord (1#1 ++ 19#6 ++ 24#7 ++ 3#3 ++ 0#3 ++ 2#3 ++ 0#6 ++ 5#3) = some (.voteUni true 3 2 5) ∧
    decodeWord (1#1 ++ 19#6 ++ 4#4 ++ 43#6 ++ 26#6 ++ 0#6 ++ 5#3) = some (.matchLanes true 43 26 5) ∧
    decodeWord (1#1 ++ 19#6 ++ 163840#19 ++ 3#3 ++ 2#3) = some (.partset true 3 2) := by decide

theorem test_decode_major20 :
    decodeWord (1#1 ++ 20#6 ++ 0#1 ++ 3#3 ++ 26#6 ++ 5#6 ++ 0#5 ++ 1#1 ++ 7#3) = some (.vred true 3 26 5 1 7) ∧
    decodeWord (1#1 ++ 20#6 ++ 1#1 ++ 3#3 ++ 26#6 ++ 5#6 ++ 0#4 ++ 1#1 ++ 1#1 ++ 6#3) = some (.vscan true 3 26 5 1 1 6) := by decide

theorem test_decode_major21 :
    decodeWord (1#1 ++ 21#6 ++ 0#4 ++ 43#6 ++ 26#6 ++ 0#6 ++ 5#3) = some (.mov true 43 26 5) ∧
    decodeWord (1#1 ++ 21#6 ++ 1#4 ++ 43#6 ++ 26#6 ++ 0#6 ++ 5#3) = some (.mov64 true 43 26 5) ∧
    decodeWord (1#1 ++ 21#6 ++ 2#4 ++ 43#6 ++ 0#1 ++ 26#5 ++ 0#6 ++ 5#3) = some (.movs true 43 26 5) ∧
    decodeWord (1#1 ++ 21#6 ++ 3#4 ++ 43#6 ++ 0#1 ++ 26#5 ++ 0#6 ++ 5#3) = some (.movsHi true 43 26 5) ∧
    decodeWord (1#1 ++ 21#6 ++ 4#4 ++ 43#6 ++ 0#1 ++ 26#5 ++ 0#6 ++ 5#3) = some (.movs64 true 43 26 5) ∧
    decodeWord (1#1 ++ 21#6 ++ 10#5 ++ 11#5 ++ 26#6 ++ 0#1 ++ 5#5 ++ 4#3) = some (.rdlane true 11 26 5 4) ∧
    decodeWord (1#1 ++ 21#6 ++ 12#5 ++ 11#5 ++ 26#6 ++ 0#1 ++ 5#5 ++ 4#3) = some (.rdlane64 true 11 26 5 4) := by decide

theorem test_decode_major22 :
    decodeWord (1#1 ++ 22#6 ++ 0#5 ++ 11#5 ++ 0#1 ++ 26#5 ++ 0#1 ++ 5#5 ++ 4#3) = some (.sadd true 11 26 5 4) ∧
    decodeWord (1#1 ++ 22#6 ++ 2#5 ++ 11#5 ++ 0#1 ++ 26#5 ++ 0#1 ++ 5#5 ++ 4#3) = some (.ssub true 11 26 5 4) ∧
    decodeWord (1#1 ++ 22#6 ++ 4#5 ++ 11#5 ++ 0#1 ++ 26#5 ++ 0#1 ++ 5#5 ++ 4#3) = some (.smul true 11 26 5 4) ∧
    decodeWord (1#1 ++ 22#6 ++ 6#5 ++ 11#5 ++ 0#1 ++ 26#5 ++ 0#1 ++ 5#5 ++ 4#3) = some (.sand true 11 26 5 4) ∧
    decodeWord (1#1 ++ 22#6 ++ 8#5 ++ 11#5 ++ 0#1 ++ 26#5 ++ 0#1 ++ 5#5 ++ 4#3) = some (.sor true 11 26 5 4) ∧
    decodeWord (1#1 ++ 22#6 ++ 10#5 ++ 11#5 ++ 0#1 ++ 26#5 ++ 0#1 ++ 5#5 ++ 4#3) = some (.sxor true 11 26 5 4) ∧
    decodeWord (1#1 ++ 22#6 ++ 12#5 ++ 11#5 ++ 0#1 ++ 26#5 ++ 0#1 ++ 5#5 ++ 4#3) = some (.sshl true 11 26 5 4) ∧
    decodeWord (1#1 ++ 22#6 ++ 14#5 ++ 11#5 ++ 0#1 ++ 26#5 ++ 0#1 ++ 5#5 ++ 4#3) = some (.sshr true 11 26 5 4) ∧
    decodeWord (1#1 ++ 22#6 ++ 1#1 ++ 3#3 ++ 0#3 ++ 2#3 ++ 0#1 ++ 5#5 ++ 0#1 ++ 28#5 ++ 7#3) = some (.scmp true 3 2 5 28 7) := by decide

theorem test_decode_major23 :
    decodeWord (1#1 ++ 23#6 ++ 0#4 ++ 11#5 ++ 0#1 ++ 26#5 ++ 69#7 ++ 4#3) = some (.saddi true 11 26 69 4) := by decide

theorem test_decode_major24 :
    decodeWord (1#1 ++ 24#6 ++ 3#3 ++ 26#6 ++ 5#6 ++ 92#7 ++ 7#3) = some (.ld true 3 26 5 92 7) := by decide

theorem test_decode_major25 :
    decodeWord (1#1 ++ 25#6 ++ 3#3 ++ 26#6 ++ 5#6 ++ 92#7 ++ 7#3) = some (.st true 3 26 5 92 7) := by decide

theorem test_decode_major26 :
    decodeWord (1#1 ++ 26#6 ++ 3#3 ++ 26#6 ++ 5#6 ++ 1#1 ++ 15#6 ++ 6#3) = some (.lda true 3 26 5 1 15 6) := by decide

theorem test_decode_major27 :
    decodeWord (1#1 ++ 27#6 ++ 3#3 ++ 26#6 ++ 5#6 ++ 1#1 ++ 15#6 ++ 6#3) = some (.stl true 3 26 5 1 15 6) := by decide

theorem test_decode_major28 :
    decodeWord (1#1 ++ 28#6 ++ 11#4 ++ 26#6 ++ 5#5 ++ 1#1 ++ 15#6 ++ 6#3) = some (.atomTeam true 11 26 5 1 15 6) := by decide

theorem test_decode_major29 :
    decodeWord (1#1 ++ 29#6 ++ 11#4 ++ 26#6 ++ 5#5 ++ 1#1 ++ 15#6 ++ 6#3) = some (.atomCluster true 11 26 5 1 15 6) := by decide

theorem test_decode_major30 :
    decodeWord (1#1 ++ 30#6 ++ 11#4 ++ 26#6 ++ 5#5 ++ 1#1 ++ 15#6 ++ 6#3) = some (.atomDevice true 11 26 5 1 15 6) := by decide

theorem test_decode_major31 :
    decodeWord (1#1 ++ 31#6 ++ 11#4 ++ 26#6 ++ 5#5 ++ 1#1 ++ 15#6 ++ 6#3) = some (.atomFabric true 11 26 5 1 15 6) := by decide

theorem test_decode_major32 :
    decodeWord (1#1 ++ 32#6 ++ 11#4 ++ 0#2 ++ 1#1 ++ 5#3 ++ 28#6 ++ 15#6 ++ 6#3) = some (.red true 11 1 5 28 15 6) := by decide

theorem test_decode_major33 :
    decodeWord (1#1 ++ 33#6 ++ 1#1 ++ 2#3 ++ 5#6 ++ 28#6 ++ 15#6 ++ 6#3) = some (.atomcas true 1 2 5 28 15 6) := by decide

theorem test_decode_major34 :
    decodeWord (1#1 ++ 34#6 ++ 1#1 ++ 2#3 ++ 5#6 ++ 28#6 ++ 15#6 ++ 6#3) = some (.atomincb true 1 2 5 28 15 6) := by decide

theorem test_decode_major35 :
    decodeWord (1#1 ++ 35#6 ++ 0#1 ++ 3#3 ++ 0#6 ++ 26#6 ++ 5#6 ++ 4#3) = some (.sigf true 3 26 5 4) := by decide

theorem test_decode_major36 :
    decodeWord (1#1 ++ 36#6 ++ 11#4 ++ 0#18 ++ 2#3) = some (.fence true 11 2) := by decide

theorem test_decode_major37 :
    decodeWord (1#1 ++ 37#6 ++ 11#5 ++ 26#5 ++ 5#5 ++ 28#5 ++ 15#5) = some (.wait true 11 26 5 28 15) := by decide

theorem test_decode_major38 :
    decodeWord (1#1 ++ 38#6 ++ 0#15 ++ 3#2 ++ 10#4 ++ 0#1 ++ 5#3) = some (.barv true 3 10 5) ∧
    decodeWord (1#1 ++ 38#6 ++ 4096#15 ++ 3#2 ++ 10#4 ++ 1#1 ++ 4#3) = some (.barw true 3 10 1 4) ∧
    decodeWord (1#1 ++ 38#6 ++ 8192#15 ++ 3#2 ++ 10#4 ++ 0#1 ++ 5#3) = some (.bars true 3 10 5) ∧
    decodeWord (1#1 ++ 38#6 ++ 3#3 ++ 43#6 ++ 0#6 ++ 2#2 ++ 5#4 ++ 0#1 ++ 4#3) = some (.barst true 43 2 5 4) := by decide

theorem test_decode_major39 :
    decodeWord (1#1 ++ 39#6 ++ 0#3 ++ 8#19 ++ 3#3) = some (.bra 8 3) ∧
    decodeWord (1#1 ++ 39#6 ++ 1#3 ++ 8#19 ++ 3#3) = some (.bru 8 3) ∧
    decodeWord (1#1 ++ 39#6 ++ 2#3 ++ 8#19 ++ 3#3) = some (.call 8 3) := by decide

theorem test_decode_major40 :
    decodeWord (1#1 ++ 40#6 ++ 0#10 ++ 8#6 ++ 0#6 ++ 3#3) = some (.callr 8 3) ∧
    decodeWord (1#1 ++ 40#6 ++ 262144#22 ++ 1#3) = some (.ret 1) ∧
    decodeWord (1#1 ++ 40#6 ++ 128#10 ++ 8#6 ++ 0#6 ++ 3#3) = some (.jmpr 8 3) ∧
    decodeWord (1#1 ++ 40#6 ++ 786432#22 ++ 1#3) = some (.exit 1) := by decide

theorem test_decode_major41 :
    decodeWord (1#1 ++ 41#6 ++ 0#19 ++ 3#3 ++ 2#3) = some (.rjenrol true 3 2) ∧
    decodeWord (1#1 ++ 41#6 ++ 32768#19 ++ 3#3 ++ 2#3) = some (.rjpark true 3 2) ∧
    decodeWord (1#1 ++ 41#6 ++ 65536#19 ++ 3#3 ++ 2#3) = some (.rjout true 3 2) ∧
    decodeWord (1#1 ++ 41#6 ++ 3#4 ++ 43#6 ++ 0#9 ++ 2#3 ++ 5#3) = some (.rjget true 43 2 5) := by decide

theorem test_decode_major42 :
    decodeWord (1#1 ++ 42#6 ++ 0#4 ++ 43#6 ++ 26#6 ++ 5#6 ++ 4#3) = some (.spawn true 43 26 5 4) ∧
    decodeWord (1#1 ++ 42#6 ++ 1#4 ++ 43#6 ++ 26#6 ++ 5#6 ++ 4#3) = some (.spawnb true 43 26 5 4) ∧
    decodeWord (1#1 ++ 42#6 ++ 2#4 ++ 43#6 ++ 0#12 ++ 2#3) = some (.take true 43 2) ∧
    decodeWord (1#1 ++ 42#6 ++ 786432#22 ++ 3#3) = some (.endt true 3) ∧
    decodeWord (1#1 ++ 42#6 ++ 256#10 ++ 43#6 ++ 0#6 ++ 2#3) = some (.tjoin true 43 2) ∧
    decodeWord (1#1 ++ 42#6 ++ 327680#20 ++ 3#2 ++ 2#3) = some (.role true 3 2) ∧
    decodeWord (1#1 ++ 42#6 ++ 12#5 ++ 11#5 ++ 0#1 ++ 26#5 ++ 5#6 ++ 4#3) = some (.launch true 11 26 5 4) := by decide

theorem test_decode_major43 :
    decodeWord (1#1 ++ 43#6 ++ 0#10 ++ 43#6 ++ 26#6 ++ 5#3) = some (.tmma true 43 26 5) ∧
    decodeWord (1#1 ++ 43#6 ++ 64#10 ++ 43#6 ++ 0#6 ++ 2#3) = some (.tzero true 43 2) ∧
    decodeWord (1#1 ++ 43#6 ++ 128#10 ++ 43#6 ++ 0#6 ++ 2#3) = some (.tacld true 43 2) ∧
    decodeWord (1#1 ++ 43#6 ++ 192#10 ++ 43#6 ++ 0#6 ++ 2#3) = some (.tacst true 43 2) ∧
    decodeWord (1#1 ++ 43#6 ++ 256#10 ++ 43#6 ++ 26#6 ++ 5#3) = some (.tquant true 43 26 5) ∧
    decodeWord (1#1 ++ 43#6 ++ 5#4 ++ 43#6 ++ 0#12 ++ 2#3) = some (.tlend true 43 2) := by decide

theorem test_decode_major44 :
    decodeWord (1#1 ++ 44#6 ++ 0#10 ++ 43#6 ++ 0#6 ++ 2#3) = some (.vchain true 43 2) := by decide

theorem test_decode_major45 :
    decodeWord (1#1 ++ 45#6 ++ 0#16 ++ 43#6 ++ 2#3) = some (.vatwait true 43 2) ∧
    decodeWord (1#1 ++ 45#6 ++ 4096#16 ++ 43#6 ++ 2#3) = some (.vattake true 43 2) ∧
    decodeWord (1#1 ++ 45#6 ++ 8192#16 ++ 43#6 ++ 2#3) = some (.vatfree true 43 2) := by decide

theorem test_decode_major46 :
    decodeWord (1#1 ++ 46#6 ++ 0#4 ++ 43#6 ++ 26#6 ++ 5#6 ++ 4#3) = some (.cpy true 43 26 5 4) ∧
    decodeWord (1#1 ++ 46#6 ++ 1#4 ++ 43#6 ++ 0#10 ++ 2#2 ++ 5#3) = some (.cpya true 43 2 5) ∧
    decodeWord (1#1 ++ 46#6 ++ 2#4 ++ 43#6 ++ 26#6 ++ 0#6 ++ 5#3) = some (.cpyg true 43 26 5) ∧
    decodeWord (1#1 ++ 46#6 ++ 3#4 ++ 43#6 ++ 26#6 ++ 5#6 ++ 4#3) = some (.cpyx true 43 26 5 4) ∧
    decodeWord (1#1 ++ 46#6 ++ 4#4 ++ 43#6 ++ 26#6 ++ 0#3 ++ 5#3 ++ 4#3) = some (.cbload true 43 26 5 4) ∧
    decodeWord (1#1 ++ 46#6 ++ 40960#17 ++ 3#2 ++ 2#3 ++ 5#3) = some (.qpush true 3 2 5) ∧
    decodeWord (1#1 ++ 46#6 ++ 384#10 ++ 43#6 ++ 0#4 ++ 2#2 ++ 5#3) = some (.aaset true 43 2 5) ∧
    decodeWord (1#1 ++ 46#6 ++ 448#10 ++ 43#6 ++ 26#6 ++ 5#3) = some (.vatarm true 43 26 5) ∧
    decodeWord (1#1 ++ 46#6 ++ 2097152#22 ++ 3#3) = some (.cpyabort true 3) ∧
    decodeWord (1#1 ++ 46#6 ++ 9#4 ++ 43#6 ++ 26#6 ++ 0#6 ++ 5#3) = some (.decsub true 43 26 5) ∧
    decodeWord (1#1 ++ 46#6 ++ 10#4 ++ 43#6 ++ 26#6 ++ 0#6 ++ 5#3) = some (.rshd true 43 26 5) := by decide

theorem test_decode_major47 :
    decodeWord (1#1 ++ 47#6 ++ 0#4 ++ 43#6 ++ 218#12 ++ 5#3) = some (.csrr true 43 218 5) ∧
    decodeWord (1#1 ++ 47#6 ++ 1#4 ++ 43#6 ++ 218#12 ++ 5#3) = some (.csrw true 43 218 5) ∧
    decodeWord (1#1 ++ 47#6 ++ 2#4 ++ 43#6 ++ 0#8 ++ 10#4 ++ 5#3) = some (.feat true 43 10 5) ∧
    decodeWord (1#1 ++ 47#6 ++ 3072#14 ++ 43#8 ++ 2#3) = some (.trap true 43 2) ∧
    decodeWord (1#1 ++ 47#6 ++ 1048576#22 ++ 1#3) = some (.tret 1) ∧
    decodeWord (1#1 ++ 47#6 ++ 5120#14 ++ 43#8 ++ 2#3) = some (.brk true 43 2) := by decide

theorem test_decode_fjarmar :
    decodeChunk (8#6 ++ 0#4 ++ 5#4 ++ 0#4 ++ 0#4 ++ 0#4 ++ 0#6 ++ 7#32) = some (.chunkMovi 5 7) ∧
    decodeChunk (8#6 ++ 1#4 ++ 5#4 ++ 0#4 ++ 0#4 ++ 0#4 ++ 0#6 ++ 7#32) = some (.chunkMoviHi 5 7) ∧
    decodeChunk (9#6 ++ 0#4 ++ 1#4 ++ 2#4 ++ 3#4 ++ 0#4 ++ 0#6 ++ 9#32) = some (.chunkAddi 1 2 3 9) ∧
    decodeChunk (9#6 ++ 1#4 ++ 1#4 ++ 2#4 ++ 3#4 ++ 0#4 ++ 0#6 ++ 9#32) = some (.chunkAddiN 1 2 3 9) ∧
    decodeChunk (7#6 ++ 0#4 ++ 4#4 ++ 0#4 ++ 0#4 ++ 0#4 ++ 0#6 ++ 6#32) = some (.loop 4 6) ∧
    decodeChunk (10#6 ++ 0#4 ++ 0#4 ++ 4#4 ++ 0#4 ++ 0#4 ++ 0#6 ++ 6#32) = some (.bnz 4 6) ∧
    decodeChunk (13#6 ++ 0#4 ++ 0#4 ++ 0#4 ++ 0#4 ++ 0#4 ++ 0#6 ++ 0#32) = some (.yield) ∧
    decodeChunk (12#6 ++ 0#4 ++ 0#4 ++ 0#4 ++ 0#4 ++ 0#4 ++ 0#6 ++ 0#32) = some (.chunkHalt) ∧
    decodeChunk (14#6 ++ 0#4 ++ 6#4 ++ 0#4 ++ 0#4 ++ 0#4 ++ 0#6 ++ 3#32) = some (.chunkCsrr 6 3) ∧
    decodeChunk (15#6 ++ 0#4 ++ 0#4 ++ 6#4 ++ 0#4 ++ 0#4 ++ 0#6 ++ 2#32) = some (.chunkCsrw 6 2) ∧
    decodeChunk (11#6 ++ 0#4 ++ 0#4 ++ 7#4 ++ 0#4 ++ 9#4 ++ 0#6 ++ 0#32) = some (.bind 7 9) ∧
    decodeChunk (5#6 ++ 2#4 ++ 0#4 ++ 3#4 ++ 4#4 ++ 0#4 ++ 0#6 ++ 0#32) = some (.waitf 2 3 4) ∧
    decodeChunk (6#6 ++ 0#4 ++ 0#4 ++ 3#4 ++ 4#4 ++ 0#4 ++ 0#6 ++ 0#32) = some (.chunkSigf 3 4) ∧
    decodeChunk (6#6 ++ 1#4 ++ 0#4 ++ 3#4 ++ 4#4 ++ 0#4 ++ 0#6 ++ 0#32) = some (.chunkSigfAdd 3 4) ∧
    decodeChunk (1#6 ++ 0#4 ++ 1#4 ++ 2#4 ++ 3#4 ++ 4#4 ++ 0#6 ++ 0#32) = some (.xmit 1 2 3 4) ∧
    decodeChunk (2#6 ++ 0#4 ++ 1#4 ++ 2#4 ++ 3#4 ++ 4#4 ++ 0#6 ++ 0#32) = some (.recv 1 2 3 4) ∧
    decodeChunk (3#6 ++ 1#4 ++ 1#4 ++ 2#4 ++ 3#4 ++ 4#4 ++ 0#6 ++ 18#32) = some (.comb 1 1 2 1 2 3 4) ∧
    decodeChunk (4#6 ++ 0#4 ++ 1#4 ++ 2#4 ++ 3#4 ++ 4#4 ++ 0#6 ++ 1313#32) = some (.cfwd 0 5 2 1 1 2 3 4) := by decide

theorem test_decode_reserved :
    decodeWord (0#1 ++ 1#6 ++ 14#4 ++ 0#21) = none ∧ decodeWord (0#1 ++ 63#6 ++ 0#25) = none ∧ decodeWord (0#1 ++ 0#6 ++ 4#3 ++ 0#22) = none ∧
    decodeChunk 0 = none ∧ decodeChunk (16#6 ++ 0#58) = none ∧ decodeChunk (5#6 ++ 3#4 ++ 0#54) = none := by decide

/-! ## WellFormed refuses an ill-formed term for each of its checks -/

def cmd (n qp : Nat) (len : Nat) (rsvd : BitVec 72) (b : List Byte) : Command :=
  { qp := qp, tag := 7, len := len, rsvd := rsvd, body := b ++ List.replicate (n - b.length) 0 }
def good (n : Nat) (b : List Byte) : Command := cmd n 2 n 0 b
def flit0 : Flit := ⟨[[some 0]], [], 0⟩
def pic0 : Picture := ⟨8, 1, 1, false, [200], [128], [128]⟩
def frame0 : FrameInfo := ⟨0, true, false, [], [0], pic0, none, [], (0, 0), (0, 0), []⟩
def chunk0 : Chunk := ⟨List.replicate 16 1, 9, 5, 2, 0⟩

theorem test_wellformed_accepts : Instr.wf (.add true 1 2 3 4) = true ∧ Instr.wf (.comb 1 2 2 1 2 3 4) = true ∧
    Instr.wf (.ctxdestroy (good 4 [])) = true ∧ Instr.wf (.frameOutput 15 frame0) = true ∧ Instr.wf (.chunkArrival 31 2 127 chunk0) = true ∧
    Instr.wf (.flitReception 31 flit0) = true ∧ Instr.wf (.copyCompletion 1 0 []) = true ∧ Instr.wf (.vchainRetire 0 0) = true := by decide

theorem test_wellformed_commands : Instr.wf (.ctxdestroy (cmd 4 256 4 0 [])) = false ∧ Instr.wf (.ctxdestroy (cmd 4 2 5 0 [])) = false ∧
    Instr.wf (.ctxdestroy (cmd 5 2 4 0 [])) = false ∧ Instr.wf (.ctxdestroy (cmd 4 2 4 1 [])) = false ∧
    Instr.wf (.debugHalt (good 32 [2])) = false ∧ Instr.wf (.debugHalt (good 32 [1])) = true ∧ Instr.wf (.seqctlStop (good 16 [0, 0, 3])) = false := by
  decide

theorem test_wellformed_keys : Instr.wf (.loadCompletion 12288 0) = false ∧ Instr.wf (.vchainRetire 1 0) = false ∧
    Instr.wf (.copyCompletion 2 0 []) = false ∧ Instr.wf (.hardwareBreakpoint 0 0) = false ∧ Instr.wf (.parityErrorReexecution 0 0) = false := by
  decide

theorem test_wellformed_ranges : Instr.wf (.waitf 3 1 2) = false ∧ Instr.wf (.comb 0 3 0 1 2 3 4) = false ∧ Instr.wf (.comb 0 0 3 1 2 3 4) = false ∧
    Instr.wf (.cfwd 0 1 3 0 1 2 3 4) = false ∧ Instr.wf (.preemptionRequest 64) = false ∧ Instr.wf (.drainTimeout 65536 0) = false ∧
    Instr.wf (.impositionStartArrival 32 0) = false ∧ Instr.wf (.impositionStartArrival 0 3) = false ∧ Instr.wf (.participantStop 128) = false ∧
    Instr.wf (.decodeRequestAssignment 16) = false ∧ Instr.wf (.slotStart 32 0) = false ∧ Instr.wf (.fecWindowEnd 0 8 (0, 0)) = false ∧
    Instr.wf (.sampleTag 128 0 0) = false ∧ Instr.wf (.sampleTag 0 4 0) = false ∧ Instr.wf (.traceBlockWrite 65536) = false ∧
    Instr.wf (.coldStart [] 8) = false ∧ Instr.wf (.rdmaRead 256 0 0 0) = false ∧ Instr.wf (.ethernetPortDown 2) = false ∧
    Instr.wf (.managementConnectorAccess (.link 32 true)) = false := by decide

theorem test_wellformed_data : Instr.wf (.chunkArrival 0 0 128 chunk0) = false ∧
    Instr.wf (.chunkArrival 0 0 0 { chunk0 with payload := [] }) = false ∧ Instr.wf (.chunkArrival 0 0 0 { chunk0 with payload := List.replicate 17 0 }) = false ∧
    Instr.wf (.chunkArrival 0 0 0 { chunk0 with rank := 128 }) = false ∧ Instr.wf (.chunkArrival 0 0 0 { chunk0 with slot := 4 }) = false ∧
    Instr.wf (.flitReception 0 { flit0 with waves := List.replicate 9 [] }) = false ∧ Instr.wf (.flitReception 0 { flit0 with units := List.replicate 16 .pad }) = false ∧
    Instr.wf (.frameOutput 0 { frame0 with err := 8 }) = false ∧ Instr.wf (.frameOutput 0 { frame0 with refs := [8] }) = false ∧
    Instr.wf (.frameOutput 0 { frame0 with refresh := [8] }) = false ∧ Instr.wf (.frameOutput 0 { frame0 with pic := { pic0 with bd := 9 } }) = false ∧
    Instr.wf (.frameOutput 0 { frame0 with pic := { pic0 with y := [] } }) = false ∧ Instr.wf (.frameOutput 0 { frame0 with pic := { pic0 with y := [256] } }) = false ∧
    Instr.wf (.frameOutput 0 { frame0 with pic := { pic0 with cb := [256] } }) = false ∧ Instr.wf (.frameOutput 0 { frame0 with pic := { pic0 with cr := [256] } }) = false := by
  decide

/-! ## Results worked by hand from Tables 4-1 to 4-7 -/

/-- Table 4-1: -2^31 / -1 is -2^31 with no flag; a zero divisor gives all ones and flag DZ (bit 1 of FLAGS). -/
theorem test_div_corners :
    (let s := benchOf (reg (reg grp0 2 0x80000000) 3 0xFFFFFFFF)
     after32 (.div false 1 2 3 0) s 1 0 = some 0x80000000 ∧ flags32 (.div false 1 2 3 0) s 0 = some 0) ∧
    (let s := benchOf (reg grp0 2 7)
     after32 (.div false 1 2 3 0) s 1 1 = some 0xFFFFFFFF ∧ flags32 (.div false 1 2 3 0) s 1 = some flDZ ∧
     after32 (.rem false 1 2 3 0) s 1 1 = some 7) := by decide

/-- Table 4-1: -7 / 2 is -3 with remainder -1. -/
theorem test_div_truncates :
    (let s := benchOf (reg (reg grp0 2 0xFFFFFFF9) 3 2)
     after32 (.div false 1 2 3 0) s 1 0 = some 0xFFFFFFFD ∧ after32 (.rem false 1 2 3 0) s 1 0 = some 0xFFFFFFFF) := by decide

theorem test_add_wraps :
    (let s := benchOf (reg (reg grp0 2 0xFFFFFFFF) 3 2)
     after32 (.add false 2 2 3 0) s 2 0 = some 1 ∧ after32 (.mulhi false 1 2 3 0) s 1 0 = some 0xFFFFFFFF ∧
     after32 (.mulhiu false 1 2 3 0) s 1 0 = some 1 ∧ after32 (.min false 1 2 3 0) s 1 0 = some 0xFFFFFFFF ∧
     after32 (.minu false 1 2 3 0) s 1 0 = some 2) := by decide

/-- A pair's carry passes from its low register to its high one (R23). -/
theorem test_add64_carries :
    (let s := benchOf (pair (pair grp0 2 0x00000001FFFFFFFF) 4 1)
     after32 (.add64 false 6 2 4 0) s 6 0 = some 0 ∧ after32 (.add64 false 6 2 4 0) s 7 0 = some 2) := by decide

/-- A lane outside Act keeps its register: guard p1 is false at launch. -/
theorem test_guard_holds_back :
    (let s := benchOf (reg (reg grp0 2 5) 3 6)
     after32 (.add false 2 2 3 1) s 2 0 = some 5) := by decide

/-- R49: with no HINT.IMM imm7 = 127 is -1; one HINT.IMM word h1 = 1 makes the immediate 128 + imm7. -/
theorem test_immediates :
    after32 (.movi false 1 127 0) bench 1 0 = some 0xFFFFFFFF ∧
    after32 (.movi false 1 3 0) { bench with cur := { lanes := 3, pc := 0x20000, pos := 1, pre := { imms := [1] } } } 1 0 = some 131 := by decide

/-- FP32: 1 + 2^-24 is halfway and rounds to even, 1, with IX; 1.5 × 2 is exact. -/
theorem test_fadd_rounds :
    (let s := benchOf (reg (reg grp0 2 0x3F800000) 3 0x33800000)
     after32 (.fadd false 1 2 3 0) s 1 0 = some 0x3F800000 ∧ flags32 (.fadd false 1 2 3 0) s 0 = some flIX) ∧
    (let s := benchOf (reg (reg grp0 2 0x3FC00000) 3 0x40000000)
     after32 (.fmul false 1 2 3 0) s 1 0 = some 0x40400000 ∧ flags32 (.fmul false 1 2 3 0) s 0 = some 0) := by decide

theorem test_bits :
    (let s := benchOf (reg (reg grp0 2 0x00F00001) 3 4)
     after32 (.clz false 1 2 0) s 1 0 = some 8 ∧ after32 (.popc false 1 2 0) s 1 0 = some 5 ∧
     after32 (.brev false 1 2 0) s 1 0 = some 0x80000F00 ∧ after32 (.shl false 1 2 3 0) s 1 0 = some 0x0F000010 ∧
     after32 (.rot false 1 2 3 0) s 1 0 = some 0x0F000010) := by decide +kernel

/-- SHFL.IDX reads the other lane; VOTE and the reduction fold both lanes (R111, R112, R115). -/
theorem test_lanes :
    (let g := (grp0.wv 2 0 10).wv 2 1 20
     after32 (.shflImm false 0 1 2 1 0) (benchOf g) 1 0 = some 20 ∧ after32 (.shflImm false 0 1 2 1 0) (benchOf g) 1 1 = some 20 ∧
     after32 (.vred false 0 1 2 0 0) (benchOf g) 1 0 = some 30 ∧ after32 (.voteBallot false 1 0 0) (benchOf g) 1 0 = some 3) := by decide

/-! ## States that meet the statements' hypotheses: computation -/

theorem test_meets_Integer32Results :
    (∃ d f, table41 (.add true 1 2 3 0) = some (d, f) ∧ ready (.add true 1 2 3 0) bench = true) ∧
    (∃ d f, table41 (.remu false 63 63 63 7) = some (d, f) ∧ ready (.remu false 63 63 63 7) bench = true) :=
  ⟨⟨_, _, rfl, by decide⟩, ⟨_, _, rfl, by decide⟩⟩
theorem test_meets_Integer64Results :
    ∃ d f, table41W (.mad64 true 62 0 2 0) = some (d, f) ∧ ready (.mad64 true 62 0 2 0) bench = true := ⟨_, _, rfl, by decide⟩
theorem test_meets_Divisions :
    (∃ a b d f, divisions32 (.div true 1 2 3 0) = some (a, b, d, f) ∧ ready (.div true 1 2 3 0) bench = true) ∧
    (∃ a b d f, divisions64 (.remu64 true 0 2 62 0) = some (a, b, d, f) ∧ ready (.remu64 true 0 2 62 0) bench = true) :=
  ⟨⟨_, _, _, _, rfl, by decide⟩, ⟨_, _, _, _, rfl, by decide⟩⟩
theorem test_meets_ImmediateAndMoveResults :
    ∃ f, immediate (.addi true 1 2 127 0) = some f ∧ ready (.addi true 1 2 127 0) bench = true := ⟨_, rfl, by decide⟩
theorem test_meets_RoundedResults :
    (∃ f, rounding (.fadd true 1 2 3 0) bench = some f ∧ ready (.fadd true 1 2 3 0) bench = true) ∧
    (∃ f, rounding (.dfma true 0 2 4 0) bench = some f ∧ ready (.dfma true 0 2 4 0) bench = true) :=
  ⟨⟨_, rfl, by decide⟩, ⟨_, rfl, by decide +kernel⟩⟩
theorem test_meets_UnroundedFloatResults :
    ∃ f, unrounded (.fmin true 1 2 3 0) = some f ∧ ready (.fmin true 1 2 3 0) bench = true := ⟨_, rfl, by decide⟩
theorem test_meets_PredicateResults :
    (∃ f, predicates (.icmp true 0 7 1 2 0) = some f ∧ ready (.icmp true 0 7 1 2 0) bench = true) ∧
    (∃ f, predicates (.voteAll true 1 0 0) = some f ∧ ready (.voteAll true 1 0 0) bench = true) :=
  ⟨⟨_, rfl, by decide⟩, ⟨_, rfl, by decide⟩⟩
theorem test_meets_LaneOperationResults :
    (∃ f, laneOps (.sel true 0 1 2 3 0) = some f ∧ ready (.sel true 0 1 2 3 0) bench = true) ∧
    (∃ f, laneOps (.vscan true 0 1 2 1 0 0) = some f ∧ ready (.vscan true 0 1 2 1 0 0) bench = true) :=
  ⟨⟨_, rfl, by decide⟩, ⟨_, rfl, by decide⟩⟩
theorem test_meets_StatusReadResults :
    (∃ f, statusReads (.csrr true 2 0x040 0) bench = some f ∧ ready (.csrr true 2 0x040 0) bench = true) ∧
    (∃ f, statusReads (.feat true 1 15 0) bench = some f ∧ ready (.feat true 1 15 0) bench = true) ∧
    (∃ f, statusReads (.rjget true 1 7 0) bench = some f ∧ ready (.rjget true 1 7 0) bench = true) ∧
    (∃ f, statusReads (.barst true 1 0 15 0) bench = some f ∧ ready (.barst true 1 0 15 0) bench = true) :=
  ⟨⟨_, rfl, by decide⟩, ⟨_, rfl, by decide +kernel⟩, ⟨_, rfl, by decide⟩, ⟨_, rfl, by decide⟩⟩
theorem test_meets_ScalarResults :
    (∃ d f, scalars (.sadd true 31 0 1 0) = some (d, f) ∧ ready (.sadd true 31 0 1 0) bench = true) ∧
    (∃ d f, scalars (.rdlane true 1 2 31 1) = some (d, f) ∧ ready (.rdlane true 1 2 31 1) bench = true) :=
  ⟨⟨_, _, rfl, by decide⟩, ⟨_, _, rfl, by decide⟩⟩
theorem test_meets_GroupWriteResults :
    (∃ f, groupWrites (.partset true 3 0) = some f ∧ ready (.partset true 3 0) bench = true) ∧
    (∃ f, groupWrites (.rjout true 0 1) = some f ∧ ready (.rjout true 0 1) bench = true) :=
  ⟨⟨_, rfl, by decide⟩, ⟨_, rfl, by decide⟩⟩
/-- A register of the group, and one of the lanes. -/
theorem test_meets_CsrWrites :
    (let i : Instr := .csrw true 1 0x014 0
     ready i bench = true ∧ ∀ l, inMask (viewOf i bench).act l = true →
       csrReserved 0x014 (csrwValue (viewOf i bench) 0x014 1 ((lowest (viewOf i bench).act).getD l)) = false ∧
       csrwOut (viewOf i bench) (enter i bench) 0x014 (csrwValue (viewOf i bench) 0x014 1 ((lowest (viewOf i bench).act).getD l)) = .ok) ∧
    (let i : Instr := .csrw true 1 0x020 0
     ready i bench = true ∧ ∀ l, inMask (viewOf i bench).act l = true →
       csrReserved 0x020 (csrwValue (viewOf i bench) 0x020 1 l) = false ∧
       csrwOut (viewOf i bench) (enter i bench) 0x020 (csrwValue (viewOf i bench) 0x020 1 l) = .ok) :=
  ⟨⟨by decide, of_acting _ (by decide)⟩, ⟨by decide, of_acting _ (by decide)⟩⟩
/-- BAREN, the invalidation register with the lowest extent, a lane's flags; each beside another register. -/
theorem test_meets_CsrReadBack :
    (csrWritable 0x014#12 = true ∧ csrPerLane 0x014#12 = false ∧ csrKnown 0x060#12 = true ∧ csrReserved 0x014#12 0 = false ∧
      (csrWide 0x014#12 = false → (0 : Dword).toNat < 2 ^ 32)) ∧
    (csrWritable 0x060#12 = true ∧ csrPerLane 0x060#12 = false ∧ csrKnown 0x060#12 = true ∧ csrReserved 0x060#12 0 = false ∧ csrWide 0x060#12 = true) ∧
    (csrPerLane 0x020#12 = true ∧ csrKnown 0x021#12 = true ∧ (csrWide 0x020#12 = false → (0xFFFFFFFF : Dword).toNat < 2 ^ 32)) := by decide
theorem test_meets_QueuedResults :
    (∃ f, queuedResults (.rcp true 1 2 0) bench = some f ∧ ready (.rcp true 1 2 0) bench = true) ∧
    (∃ f, queuedResults (.cvt true 0 1 2 1 0 0) bench = some f ∧ ready (.cvt true 0 1 2 1 0 0) bench = true) ∧
    ((benchOf { grp0 with sfq := [⟨[(32, 5)]⟩] }).grp 0).sfq = ⟨[(32, 5)]⟩ :: [] :=
  ⟨⟨_, rfl, by decide⟩, ⟨_, rfl, by decide⟩, by decide⟩
theorem test_meets_NopsAndPrefixWords :
    ready (.nop true) bench = true ∧ ready (.hintSched true 1 15) bench = true ∧
    (bench.cur.lanes ≠ 0 ∧ overRun (bench.grp 0) bench.cur.lanes (groupLen bench (bench.grp 0) bench.cur.pc) = 0 ∧
      decodeTrap (bench.grp 0) bench.cur.lanes bench.cur.pre {} (.hintImm 5) = none ∧
      decodeTrap (bench.grp 0) bench.cur.lanes bench.cur.pre {} (.hintMod 5 7 1 2) = none) ∧
    (let s : State := { bench with cur := { bench.cur with pos := 2, pre := { imms := [1] } } }
     s.cur.lanes ≠ 0 ∧ decodeTrap (s.grp 0) s.cur.lanes s.cur.pre {} (.hintImm 5) = none) := by decide

/-! ## Control and traps -/

theorem test_meets_ControlTransfers :
    (∃ f, targets (.bra 0x7FFFF 0) = some (false, f) ∧ ready (.bra 0x7FFFF 0) bench = true ∧
      ∀ l, inMask (viewOf (.bra 0x7FFFF 0) bench).act l = true → reachable false (viewOf (.bra 0x7FFFF 0) bench) (f (viewOf (.bra 0x7FFFF 0) bench) l)) ∧
    (let s := benchOf (pair grp0 2 0x20FFC)
     ∃ f, targets (.callr 2 0) = some (true, f) ∧ ready (.callr 2 0) s = true ∧
      ∀ l, inMask (viewOf (.callr 2 0) s).act l = true → reachable true (viewOf (.callr 2 0) s) (f (viewOf (.callr 2 0) s) l)) :=
  ⟨⟨_, rfl, by decide, of_acting (fun l => _ ∧ (_ → _)) (by decide)⟩, ⟨_, rfl, by decide, of_acting (fun l => _ ∧ (_ → _)) (by decide)⟩⟩
/-- Lane 0 is enrolled in mask 3; a complete mask and one that is not. -/
def rejoining (m : Word) : Grp := (grp0.modLane 0 (fun x => { x with parked := some 3 })).wj 3 m
theorem test_meets_RejoinParkAndRelease :
    ready (.rjpark true 3 0) (benchOf (grp0.wj 3 1)) = true ∧ (rejoining 1).releases 3 = true ∧ (rejoining 3).releases 3 = false := by decide
theorem test_meets_ExitLeaves :
    ready (.exit 0) bench = true ∧ ∀ l, inMask (viewOf (.exit 0) bench).act l = true → noRemote (viewOf (.exit 0) bench).g (laneBit l) = true :=
  ⟨by decide, of_acting _ (by decide)⟩
/-- A handler for cause 0x0B; none; the debugger holds the group. -/
def handled : Grp := { grp0 with kern := { probeKernel with gvec := List.replicate 16 0x21000 } }
theorem test_meets_TrapEntry :
    (trapEntry ((benchOf handled).grp 0) 0x0B 1 ≠ 0 ∧ ((benchOf handled).grp 0).hold = false ∧ trapEntry ((benchOf handled).grp 0) 0x20 255 ≠ 0) ∧
    trapEntry (bench.grp 0) 1 0 = 0 ∧ ((benchOf { handled with hold := true }).grp 0).hold = true := by decide
theorem test_meets_TrapInstructions :
    (bench.grp bench.key).tlanes = 0 ∧ (bench.grp bench.key).fences = [] ∧
    (ready (.trap true 255 0) bench = true ∧ (viewOf (.trap true 255 0) bench).act ≠ 0) ∧
    (ready (.brk true 0 0) bench = true ∧ (viewOf (.brk true 0 0) bench).act ≠ 0) ∧
    (ready (.trap true 255 1) bench = true ∧ (viewOf (.trap true 255 1) bench).act = 0) ∧
    (ready (.brk true 0 1) bench = true ∧ (viewOf (.brk true 0 1) bench).act = 0) := by decide
theorem test_meets_TrapReturn :
    (ready (.tret 0) bench = true ∧ (viewOf (.tret 0) bench).act ≠ 0 ∧ (bench.grp 0).tlanes = 0 ∧ (bench.grp 0).fences = []) ∧
    (let s := benchOf { grp0 with tlanes := 3 }
     ready (.tret 0) s = true ∧ (viewOf (.tret 0) s).act ≠ 0 ∧
      ∀ l, inMask (viewOf (.tret 0) s).act l = true → inMask (s.grp s.key).tlanes l = true) :=
  ⟨by decide, by decide, by decide, of_acting _ (by decide)⟩
/-- A load at address 3 of 4 bytes, a store at 0x30007 of 8, a jump to an address that is 2 above a word. -/
theorem test_meets_MisalignedTraps :
    (let s := benchOf (pair grp0 2 3)
     let i : Instr := .ld true 2 4 2 0 0
     ∃ f, loads i = some f ∧ ready i s = true ∧ (viewOf i s).act ≠ 0 ∧ (s.grp s.key).tlanes = 0 ∧ (s.grp s.key).fences = [] ∧
      ∀ l, inMask (viewOf i s).act l = true → (f.ea (viewOf i s) l).toNat % f.size ≠ 0) ∧
    (let s := benchOf (pair grp0 2 0x30007)
     let i : Instr := .stl true 3 4 2 1 0 0
     ∃ f, stores i = some f ∧ ready i s = true ∧ (viewOf i s).act ≠ 0 ∧ (s.grp s.key).tlanes = 0 ∧ (s.grp s.key).fences = [] ∧
      ∀ l, inMask (viewOf i s).act l = true → (f.ea (viewOf i s) l).toNat % f.size ≠ 0) ∧
    (let s := benchOf (pair grp0 2 0x30002)
     let i : Instr := .jmpr 2 0
     ∃ f, targets i = some (false, f) ∧ ready i s = true ∧ (viewOf i s).act ≠ 0 ∧ (s.grp s.key).tlanes = 0 ∧ (s.grp s.key).fences = [] ∧
      ∀ l, inMask (viewOf i s).act l = true → (f (viewOf i s) l).toNat % 4 ≠ 0) :=
  ⟨⟨_, rfl, by decide, by decide, by decide, by decide, of_acting _ (by decide)⟩,
   ⟨_, rfl, by decide, by decide, by decide, by decide, of_acting _ (by decide)⟩,
   ⟨_, rfl, by decide, by decide, by decide, by decide, of_acting _ (by decide)⟩⟩

/-! ## Tasks and memory -/

theorem ok_of {ε α : Type} {e : Except ε α} (h : e.toBool = true) : ∃ x, e = .ok x := by
  cases e with
  | ok x => exact ⟨x, rfl⟩
  | error _ => cases h
theorem some_of {α : Type} {e : Option α} (h : e.isSome = true) : ∃ x, e = some x := Option.isSome_iff_exists.mp h
theorem may_of {α : Type} {e : Option (Bool × α)} (h : e.map (·.1) = some true) : ∃ f, e = some (true, f) := by
  obtain ⟨x, hx, h⟩ := Option.map_eq_some_iff.mp h
  exact ⟨x.2, hx.trans (by rw [← h])⟩
theorem local_of {i : Instr} {s : State} {k : AccKind} {reads : Bool} {size : Nat} {ea : Nat → Dword} {place : Nat → Place}
    (h : (acting i s).all (fun l => checkAccess (enter i s) (viewOf i s).g l k (ea l) size == .ok (place l) &&
      !selfWaits (enter i s) (viewOf i s) size (ea l) l (.ok (place l))) = true) (hp : s.poison = []) :
    local_ i s k reads size ea place := by
  intro l hl
  have h := List.all_eq_true.mp h l ((mem_lanesOf _ _).mpr hl)
  simp only [Bool.and_eq_true, beq_iff_eq, Bool.not_eq_true'] at h
  refine ⟨h.1, h.2, fun _ => ?_⟩
  simp [State.poisoned, show (enter i s).poison = [] from hp]

def one0 (s : State) : State := { s with cur := { s.cur with lanes := 1 } }
def frame1 : Frame := ⟨0x20100, 7, 0, true, false, 0, 1, 10, 8, 4, 0, 0⟩
def spawner : State := one0 (benchOf (pair grp0 4 0x20100))
/-- A deque of a grid whose context has a spill ring. -/
def spillable : State := { (spawner.setCtx 1 { probeCtx with spill := 0x400000 }).setGrid 1 { used := true, ctxid := 1 } with
  deques := [(0, { frames := [frame1], seq := 1 })] }
def Pushed.isOk {α : Type} : Pushed α → Bool
  | .ok _ => true
  | _ => false
theorem spilled_of {x : Pushed State} (h : Pushed.isOk x = true) : ∃ t, x = .ok t := by
  cases x with
  | ok t => exact ⟨t, rfl⟩
  | full => cases h
  | fault _ => cases h
theorem test_spills : Pushed.isOk (spill spillable 0 1) = true := by decide +kernel
theorem test_meets_Spawns :
    (let i : Instr := .spawn true 2 4 6 0
     ∃ q, spawns i = some q ∧ ready i spawner = true ∧
      ∀ o ∈ (spawnLanes (viewOf i spawner) (q (viewOf i spawner)) (acting i spawner) (enter i spawner)).1, o.2 = .ok) ∧
    (let q : SpawnReq := ⟨0x20100, 0, 5, 9, 0x100000, true⟩
     let s := { spawner with deques := [(0, { frames := List.replicate 63 frame1, seq := 63 })] }
     let w := viewOf (.spawn true 2 4 6 0) s
     spawnCheck s w.g q = .ok ∧ q.n ≠ 0 ∧ ∃ s2, spawnStep (releaseAt (releaseLanes s w.key (laneBit 0)) w.g.core 3) w 0 q.join q.n = (.ok, s2) ∧
      (s2.deque w.g.core).frames.length < 64) ∧
    (let q : SpawnReq := ⟨0x20100, 0, 5, 9, 0, true⟩
     let s := { spawner with deques := [(0, { frames := List.replicate 64 frame1, seq := 64 })] }
     let w := viewOf (.spawn true 2 4 6 0) s
     spawnCheck s w.g q = .ok ∧ q.n ≠ 0 ∧ ∃ s2, spawnStep (releaseAt (releaseLanes s w.key (laneBit 0)) w.g.core 3) w 0 q.join q.n = (.ok, s2) ∧
      64 ≤ (s2.deque w.g.core).frames.length) ∧
    (let w := viewOf (.spawn true 2 4 6 0) spawner
     let p : Place := { loc := 0x30008, tag := 0, l1 := false, page := some 3 }
     joinPlace spawner w.g .write 0x30008 = .ok p ∧ spawner.poisoned none p.loc 8 = none ∧ pendingOver (spawner.grp w.key) 0 p.loc 8 = false ∧
      ∀ a, wordTag (spawner.flushSector w.g.core (p.loc / 256)) a = p.tag) ∧
    ∃ t, spill spillable 0 1 = .ok t := by
  refine ⟨⟨_, rfl, by decide, by decide +kernel⟩, ⟨by decide +kernel, by decide, _, rfl, by decide +kernel⟩,
    ⟨by decide +kernel, by decide, _, rfl, by decide +kernel⟩, ⟨by decide +kernel, by decide, by decide +kernel, fun _ => rfl⟩, ?_⟩
  exact spilled_of test_spills
theorem test_meets_Takes :
    let s := { one0 bench with deques := [(0, { frames := [frame1], seq := 1 })] }
    let i : Instr := .take true 56 0
    (ready i s = true ∧ ∀ o ∈ (takeRun (viewOf i s) 56 (acting i s) (enter i s)).1, o.2 = .ok) ∧
    frame1.batch = true ∧ frame1.next < frame1.count ∧ { frame1 with batch := false }.batch = false := by decide +kernel
theorem test_meets_TaskEnds :
    let s := benchOf (grp0.modLane 0 (fun x => { x with task := some (0x30008, 3) }))
    let w := viewOf (.endt true 0) s
    let s1 := releaseAt (releaseLanes s w.key (laneBit 0)) w.g.core 3
    let p : Place := { loc := 0x30008, tag := 0, l1 := false, page := some 3 }
    (w.g.lane 0).task = some (0x30008, 3) ∧ joinPlace s1 w.g .write 0x30008 = .ok p ∧ s1.poisoned none p.loc 8 = none ∧
      pendingOver (s1.grp w.key) 0 p.loc 8 = false ∧ ∀ i, i < 8 → wordTag (s1.flushSector w.g.core (p.loc / 256)) ((p.loc + i) / 32) = p.tag := by
  decide +kernel
theorem test_meets_TaskEndsAndRoles :
    (let s := benchOf ((grp0.modLane 0 (fun x => { x with task := some (0, 1) })).modLane 1 (fun x => { x with task := some (0x30008, 3) }))
     ready (.endt true 0) s = true ∧
      ∀ l, inMask (viewOf (.endt true 0) s).act l = true → endtOut (enter (.endt true 0) s) (viewOf (.endt true 0) s) l = .ok) ∧
    (let s := { bench with cur := { bench.cur with lanes := BitVec.allOnes 32 } }
     let i : Instr := .role true 1 0
     let w := viewOf i s
     ready i s = true ∧ (∀ l ∈ w.g.live, inMask w.act l = true) ∧ (w.g.qwinOn = true → 64 ≤ w.g.winOf 1) ∧ roleIdle (enter i s) w = true) :=
  ⟨⟨by decide, of_acting _ (by decide +kernel)⟩, by decide +kernel⟩
theorem test_meets_Launches :
    let i : Instr := .launch true 1 0 63 0
    ready i bench = true ∧ lowest (viewOf i bench).act = some 0 ∧
      ∃ pkt, launchPacket (drainStores (enter i bench) bench.key (viewOf i bench).act) (viewOf i bench) 0 ((viewOf i bench).g.rs 0) = .ok pkt :=
  ⟨by decide, by decide, ok_of (by decide +kernel)⟩

/-- The pair v2 of both lanes addresses the byte 0x30000 of global memory, which the page tables map to itself. -/
def mem2 : State := benchOf (pair grp0 2 0x30000)
def place2 (_ : Nat) : Place := { loc := 0x30000, tag := 0, l1 := true, page := some 3 }
theorem test_meets_Loads :
    (let i : Instr := .ld true 4 4 2 0 0
     ∃ f, loads i = some f ∧ ready i mem2 = true ∧ (viewOf i mem2).act ≠ 0 ∧ (viewOf i mem2).g.count .ld < 63 ∧
      local_ i mem2 ⟨.read, f.size == 8⟩ true f.size (f.ea (viewOf i mem2)) place2 ∧ f.mayAcquire (viewOf i mem2) (enter i mem2) = true ∧
      ∀ l, inMask (viewOf i mem2).act l = true →
        laneAcc (f.before (viewOf i mem2) (enter i mem2)) (viewOf i mem2) ⟨.read, f.size == 8⟩ f.size (f.ea (viewOf i mem2)) l = .ok (place2 l)) ∧
    (let i : Instr := .lda true 4 4 2 1 0 0
     ∃ f, loads i = some f ∧ ready i mem2 = true ∧ (viewOf i mem2).act ≠ 0 ∧ (viewOf i mem2).g.count .ld < 63 ∧
      local_ i mem2 ⟨.read, f.size == 8⟩ true f.size (f.ea (viewOf i mem2)) place2 ∧ f.mayAcquire (viewOf i mem2) (enter i mem2) = true ∧
      ∀ l, inMask (viewOf i mem2).act l = true →
        laneAcc (f.before (viewOf i mem2) (enter i mem2)) (viewOf i mem2) ⟨.read, f.size == 8⟩ f.size (f.ea (viewOf i mem2)) l = .ok (place2 l)) ∧
    (let ps : List LPart := [⟨0, 0x30000, 0, true, some 3, 4, false, [(32, 1), (32, 2)], true⟩]
     let o : PendOp := ⟨5, .ld, 1, false, .load ps⟩
     ((benchOf { grp0 with ops := [o] }).grp 0).findOp 5 = some o ∧ o.body = .load ps ∧ o.done = false) :=
  ⟨⟨_, rfl, by decide, by decide, by decide, local_of (by decide +kernel) rfl, by decide +kernel, of_acting _ (by decide +kernel)⟩,
   ⟨_, rfl, by decide, by decide, by decide, local_of (by decide +kernel) rfl, by decide +kernel, of_acting _ (by decide +kernel)⟩, by decide⟩
def pstore (l1 : Bool) : PStore := { lane := 31, loc := 2 ^ 42 - 2, tag := 0, l1 := l1, page := none, data := [1, 2] }
def storeOp (l1 : Bool) : PendOp := ⟨5, .st, 0x80000000, false, .store [pstore l1] none⟩
theorem test_meets_Stores :
    (let i : Instr := .st true 3 4 2 0 0
     ∃ f, stores i = some f ∧ ready i mem2 = true ∧ (viewOf i mem2).act ≠ 0 ∧ (viewOf i mem2).g.count .st < 63 ∧
      local_ i mem2 f.kind false f.size (f.ea (viewOf i mem2)) place2 ∧
      ∀ l, inMask (viewOf i mem2).act l = true → f.suits (f.ea (viewOf i mem2) l) = true) ∧
    (let s := benchOf (pair grp0 2 0x00F4000000030008)
     let i : Instr := .sigf true 4 2 4 0
     ∃ f, stores i = some f ∧ ready i s = true ∧ (viewOf i s).act ≠ 0 ∧ (viewOf i s).g.count .st < 63 ∧
      ∀ l, inMask (viewOf i s).act l = true → f.suits (f.ea (viewOf i s) l) = true) ∧
    (∀ l1 : Bool, let s := benchOf { grp0 with ops := [storeOp l1] }
     (s.grp 0).findOp 5 = some (storeOp l1) ∧ (storeOp l1).body = .store [pstore l1] none ∧ (storeOp l1).done = false ∧
      storeReady (s.grp 0) (storeOp l1) none (pstore l1) = true ∧ (pstore l1).incs = [] ∧ (pstore l1).lane < 32 ∧ (pstore l1).loc + (pstore l1).data.length ≤ 2 ^ 42 ∧
      ∀ a, wordTag s (a / 32) = (pstore l1).tag) := by
  refine ⟨⟨_, rfl, by decide, by decide, by decide, local_of (by decide +kernel) rfl, of_acting _ (by decide +kernel)⟩,
    ⟨_, rfl, by decide, by decide, by decide, of_acting _ (by decide +kernel)⟩, fun l1 => ?_⟩
  cases l1 <;> exact ⟨by decide, by decide, by decide, by decide, rfl, by decide, by decide, fun _ => rfl⟩
theorem test_meets_Atomics :
    (let i : Instr := .atomTeam true 0 4 1 1 6 0
     ∃ f, atomics i = some f ∧ ready i mem2 = true ∧ (viewOf i mem2).act ≠ 0 ∧ (viewOf i mem2).g.count .ld < 63 ∧
      local_ i mem2 ⟨.write, atomFlagOk f.wide f.fn f.scope⟩ true f.size (fun l => (viewOf i mem2).g.rv64 f.addr l) place2 ∧
      ∀ l, inMask (viewOf i mem2).act l = true → atomWaits (enter i mem2) (viewOf i mem2) ⟨.write, atomFlagOk f.wide f.fn f.scope⟩ f.size
        (fun l => (viewOf i mem2).g.rv64 f.addr l) l = false) ∧
    (let i : Instr := .red true 7 0 4 2 6 0
     ∃ f, atomics i = some f ∧ ready i mem2 = true ∧ (viewOf i mem2).act ≠ 0 ∧ (viewOf i mem2).g.count .st < 63 ∧
      local_ i mem2 ⟨.write, atomFlagOk f.wide f.fn f.scope⟩ true f.size (fun l => (viewOf i mem2).g.rv64 f.addr l) place2 ∧
      ∀ l, inMask (viewOf i mem2).act l = true → atomWaits (enter i mem2) (viewOf i mem2) ⟨.write, atomFlagOk f.wide f.fn f.scope⟩ f.size
        (fun l => (viewOf i mem2).g.rv64 f.addr l) l = false) ∧
    (let p : Place := { loc := 2 ^ 42 - 8, tag := 0, l1 := false, page := none }
     p.l1 = false ∧ ∀ a, wordTag mem2 (a / 32) = p.tag) :=
  ⟨⟨_, rfl, by decide, by decide, by decide, local_of (by decide +kernel) rfl, of_acting _ (by decide +kernel)⟩,
   ⟨_, rfl, by decide, by decide, by decide, local_of (by decide +kernel) rfl, of_acting _ (by decide +kernel)⟩, rfl, fun _ => rfl⟩
def fence0 (conflict : Bool) : Fence := ⟨3, 4, 0x20000, [1], [⟨0, 0, 0, 0, 0⟩, ⟨31, 0, 0, 0, 0⟩], [], [], 0, [], [], conflict⟩
theorem test_meets_Fences :
    (ready (.fence true 4 0) bench = true ∧ ∀ l, inMask (viewOf (.fence true 4 0) bench).act l = true →
      noRemote (viewOf (.fence true 4 0) bench).g (laneBit l) = true) ∧
    (∀ c : Bool, let s := benchOf { grp0 with fences := [fence0 c] }
      (s.grp 0).findFence 3 = some (fence0 c) ∧ (fence0 c).conflict = c ∧
      fenceReady (s.grp 0) (fence0 c) = true ∧ ((fence0 c).lanes.map (·.lane)).Nodup ∧ owedTo (settleFor s (s.grp 0) 4) (s.grp 0) 4 = [] ∧
      ((settleFor s (s.grp 0) 4).grp 0).findFence 3 = some (fence0 c)) :=
  ⟨⟨by decide, of_acting _ (by decide)⟩, by decide +kernel⟩
def vatted (x : Vat) : State :=
  let g := { grp0 with kern := { probeKernel with vats := List.replicate 64 64 } }
  { (tables.setGrp 0 g).setVat g 63 x with cur := { lanes := 3, pc := 0x20000 } }
theorem test_meets_WaitsComplete :
    ((∃ f, waits (.wait true 31 0 0 0 31) bench = some (true, f)) ∧ ready (.wait true 31 0 0 0 31) bench = true) ∧
    ((∃ f, waits (.barw true 2 3 1 0) bench = some (true, f)) ∧ ready (.barw true 2 3 1 0) bench = true) ∧
    ((∃ f, waits (.tjoin true 2 0) bench = some (true, f)) ∧ ready (.tjoin true 2 0) bench = true) ∧
    ((∃ f, waits (.tjoin true 2 0) mem2 = some (true, f)) ∧ ready (.tjoin true 2 0) mem2 = true) ∧
    ((∃ f, waits (.vatwait true 63 0) (vatted { st := .full, n := 1 }) = some (true, f)) ∧
      ready (.vatwait true 63 0) (vatted { st := .full, n := 1 }) = true) :=
  ⟨⟨may_of (by decide +kernel), by decide +kernel⟩, ⟨may_of (by decide +kernel), by decide +kernel⟩,
   ⟨may_of (by decide +kernel), by decide +kernel⟩, ⟨may_of (by decide +kernel), by decide +kernel⟩,
   ⟨may_of (by decide +kernel), by decide +kernel⟩⟩
theorem test_meets_BarrierArrivals :
    (ready (.barv true 0 15 0) bench = true ∧ ∀ x, inMask (viewOf (.barv true 0 15 0) bench).act x = true →
      mustWaitToArrive (enter (.barv true 0 15 0) bench) (viewOf (.barv true 0 15 0) bench) 0 15 x = false) ∧
    (let i : Instr := .bars true 2 3 0
     ready i bench = true ∧ ∀ x, inMask (viewOf i bench).act x = true → barMark ((viewOf i bench).g.lane x) 2 3 (viewOf i bench).pc = none ∧
      mustWaitToArrive (enter i bench) (viewOf i bench) 2 3 x = false) ∧
    (let i : Instr := .bars true 2 3 0
     let s := benchOf (grp0.modLanes [0, 1] (fun _ x => { x with bars := [⟨2, 3, 0x20000, some (0, false)⟩] }))
     ready i s = true ∧ (viewOf i s).act ≠ 0 ∧ ∀ x, inMask (viewOf i s).act x = true → ∃ m ph d, barMark ((viewOf i s).g.lane x) 2 3 (viewOf i s).pc = some m ∧
      m.done = some (ph, d) ∧ dmgTraps (enter i s) (viewOf i s).g 2 3 ph d = false) :=
  ⟨⟨by decide, of_acting _ (by decide +kernel)⟩, ⟨by decide, of_acting _ (by decide +kernel)⟩, by decide, by decide, fun x hx =>
    have h := of_acting (fun x => barMark ((viewOf (.bars true 2 3 0) _).g.lane x) 2 3 (viewOf (.bars true 2 3 0) _).pc =
      some ⟨2, 3, 0x20000, some (0, false)⟩) (by decide +kernel) x hx
    ⟨_, 0, false, h, rfl, by decide⟩⟩

/-! ## Engines, copies, submissions -/

/-- A tile quad's group whose team has an accumulator tile; its v2 addresses a block of zeros. -/
def tiled : State := { (tables.setGrp 0 (pair grp0 2 0x30000)).setTeam (Grp.teamKey grp0) { used := true, accq := 1 } with
  cur := { lanes := 3, pc := 0x20000 } }
theorem test_meets_EngineWordsStart :
    (let i : Instr := .tzero true 2 0
     ∃ f, engines i = some f ∧ ready i tiled = true ∧ (viewOf i tiled).act ≠ 0 ∧
      (∃ st, f (viewOf i tiled) (drainStores (enter i tiled) tiled.key (viewOf i tiled).act) = .ok st) ∧
      engineReady (enter i tiled) (viewOf i tiled) = true ∧ (viewOf i tiled).g.count .tl < 63) ∧
    (let s := placeBytes mem2 0x3001D 1 0x10
     let i : Instr := .vchain true 2 0
     ∃ f, engines i = some f ∧ ready i s = true ∧ (viewOf i s).act ≠ 0 ∧
      (∃ st, f (viewOf i s) (drainStores (enter i s) s.key (viewOf i s).act) = .ok st) ∧
      engineReady (enter i s) (viewOf i s) = true ∧ (viewOf i s).g.count .tl < 63) :=
  ⟨⟨_, rfl, by decide, by decide, ok_of (by decide +kernel), by decide +kernel, by decide⟩,
   ⟨_, rfl, by decide +kernel, by decide +kernel, ok_of (by decide +kernel), by decide +kernel, by decide +kernel⟩⟩
theorem test_meets_CopyWordsStart :
    (let i : Instr := .cpy true 2 4 6 0
     let s := feedOf (pair (grp1.wv 6 0 16) 2 0x30000)
     ∃ f, copies i s = some f ∧ ready i s = true ∧ (viewOf i s).act ≠ 0 ∧ f.inside = true ∧ f.busy = false ∧
      copyChecks (enter i s) (viewOf i s).g f.kind f.aligned = .ok ∧ copyReady (enter i s) (viewOf i s) = true ∧ (viewOf i s).g.count .cp < 63) ∧
    (let i : Instr := .cbload true 6 4 7 0
     let s := feedOf (grp1.wv 6 0 0x00020001)
     ∃ f, copies i s = some f ∧ ready i s = true ∧ (viewOf i s).act ≠ 0 ∧ f.inside = true ∧ f.busy = false ∧
      copyChecks (enter i s) (viewOf i s).g f.kind f.aligned = .ok ∧ copyReady (enter i s) (viewOf i s) = true ∧ (viewOf i s).g.count .cp < 63) :=
  ⟨⟨_, rfl, by decide, by decide, by decide, rfl, by decide +kernel, by decide +kernel, by decide⟩,
   ⟨_, rfl, by decide +kernel, by decide, by decide, by decide, by decide +kernel, by decide +kernel, by decide⟩⟩
def copyOp : CopyOp := { kind := .cpy 0x30000 0x30010 16, bind := 0, seq := 0, bytes := 0, fault := none }
def pushOp (bytes : Nat) : CopyOp := { kind := .qpush ⟨0x30000, 32, 1, 1, 2, 4, 0, 0⟩ 7, bind := 0, seq := 0, bytes := bytes, fault := none }
def badOp : CopyOp := { kind := .cpy 0x30000 0x4000000000000 16, bind := 0, seq := 0, bytes := 0, fault := none }
def copying (op : CopyOp) : State := feedOf { grp1 with ops := [⟨0, .cp, 1, false, .copy op⟩] }
theorem test_meets_DirectWords :
    (∃ f, direct (.tlend true 32 0) bench = some (true, f)) ∧ ready (.tlend true 32 0) bench = true ∧
    (∃ f, direct (.vattake true 63 0) (vatted { st := .full, n := 1 }) = some (true, f)) ∧
    ready (.vattake true 63 0) (vatted { st := .full, n := 1 }) = true ∧
    (∃ f, direct (.vatfree true 63 0) (vatted { st := .draining, n := 1 }) = some (true, f)) ∧
    ready (.vatfree true 63 0) (vatted { st := .draining, n := 1 }) = true ∧
    (let s := feedOf { grp1.wv 2 0 65535 with kern := { probeKernel with vats := [64] } }
     (∃ f, direct (.vatarm true 2 0 0) s = some (true, f)) ∧ ready (.vatarm true 2 0 0) s = true ∧ (viewOf (.vatarm true 2 0 0) s).act ≠ 0) ∧
    (let s := placeBytes (feedOf (pair grp1 2 0x30000)) 0x30008 12 0x10000000100000001
     (∃ f, direct (.aaset true 2 3 0) s = some (true, f)) ∧ ready (.aaset true 2 3 0) s = true ∧ (viewOf (.aaset true 2 3 0) s).act ≠ 0) ∧
    (ready (.cpyabort true 0) feed = true ∧ (viewOf (.cpyabort true 0) feed).act ≠ 0 ∧ (feed.grp feed.key).cfOp = none) ∧
    (let s := feedOf { grp1 with cfOp := some 0, ops := [⟨0, .cp, 1, false, .copy badOp⟩] }
     ready (.cpyabort true 0) s = true ∧ (viewOf (.cpyabort true 0) s).act ≠ 0 ∧ (s.grp s.key).cfOp = some 0 ∧
      (s.grp s.key).findOp 0 = some ⟨0, .cp, 1, false, .copy badOp⟩) :=
  ⟨may_of (by decide +kernel), by decide +kernel, may_of (by decide +kernel), by decide +kernel, may_of (by decide +kernel), by decide +kernel,
   ⟨may_of (by decide +kernel), by decide +kernel, by decide +kernel⟩, ⟨may_of (by decide +kernel), by decide +kernel, by decide +kernel⟩,
   by decide +kernel, by decide +kernel⟩
/-- Writes the words of a block from an address on. -/
def block (s : State) (a : Nat) (ws : List Nat) : State := ws.zipIdx.foldl (fun s x => placeBytes s (a + 8 * x.2) 8 x.1) s
/-- A feeder context whose v4 addresses the record at 0x30000; vat 0 holds a frame of one tile. -/
def submits (ws : List Nat) : State :=
  block (feedOf { pair grp1 4 0x30000 with kern := { probeKernel with vats := [4096] } }) 0x30000 ws
/-- What the lane's stores have come to before word i reads its record. -/
def drainedTo (i : Instr) (s : State) : State := drainStores (enter i s) s.key (viewOf i s).act
theorem record_of {e : Except EngFault (List Dword)} {f : List Dword → Nat} {n : Nat}
    (h : (match e with | .ok b => f b == n | .error _ => false) = true) : ∃ b, e = .ok b ∧ f b = n := by
  cases e with
  | ok b => exact ⟨b, rfl, by simpa using h⟩
  | error _ => cases h
/-- A request with every field zero has a wrong KIND; the other one is accepted. -/
theorem test_meets_Decsub : ∀ p ∈ [([], 2), ([5, 0x40000, 0x100000020, 0x50000, 0x10000, 0x60000, 0x0000010001010000, 0], 0)],
    let i : Instr := .decsub true 6 4 0
    let s := submits p.1
    ready i s = true ∧ (viewOf i s).act ≠ 0 ∧
      ∃ b, readRecord (drainedTo i s) (viewOf i s) ((viewOf i s).g.rv64 4 0) = .ok b ∧ decStatus (enter i s) (viewOf i s).g b = p.2 := by
  intro p hp
  simp only [List.mem_cons, List.not_mem_nil, or_false] at hp
  obtain rfl | rfl := hp <;> exact ⟨by decide +kernel, by decide +kernel, record_of (by decide +kernel)⟩
theorem test_meets_Rshd :
    (let i : Instr := .rshd true 6 4 0
     let s := submits []
     ready i s = true ∧ (viewOf i s).act ≠ 0 ∧
      (∃ b, readRecord (drainedTo i s) (viewOf i s) ((viewOf i s).g.rv64 4 0) = .ok b) ∧
      rshdCheck (drainedTo i s) ((drainedTo i s).grp 1) (List.replicate 8 0) = .status 2) ∧
    (let i : Instr := .rshd true 6 4 0
     let s := placeBytes (submits [4, 0x31800, 0x31900, 0x31000, 0x33000, 1, 0, 0]) 0x31818 8 0x32000
     let b : List Dword := [4, 0x31800, 0x31900, 0x31000, 0x33000, 1, 0, 0]
     ready i s = true ∧ (viewOf i s).act ≠ 0 ∧ readRecord (drainedTo i s) (viewOf i s) ((viewOf i s).g.rv64 4 0) = .ok b ∧
      rshdCheck (drainedTo i s) ((drainedTo i s).grp 1) b = .accept [0]) :=
  ⟨⟨by decide +kernel, by decide +kernel, ok_of (by decide +kernel), by decide +kernel⟩,
   by decide +kernel, by decide +kernel, by decide +kernel, by decide +kernel⟩

def matOp (fn : Nat) (block : List Dword) : MatOp :=
  { fn := fn, lanes := 1, block := block, fw := 3, seed := 0, slots := [], start := 0, held := [⟨0, 0, 0, false⟩] }
def blank : List Dword := List.replicate 16 0
/-- Rows 2^16 apart, so that one lies in the page held; scales from 0x8000 on. -/
def apartBlock : List Dword := [0, 0, 0, 0x0000000500000000, 0, 0, 0, 0, 0x10000, 0x8000]
/-- One element, one step. -/
def chainOp : ChainOp := { block := [0x30000, 0, 0x30100, 0x0000100000000001] ++ List.replicate 12 0, held := [⟨3, 0x30000, 0, true⟩] }
theorem test_meets_MatrixRetirements :
    let o : PendOp := ⟨9, .tl, 1, false, .matrix (matOp 1 blank)⟩
    let s := benchOf { grp0 with ops := [o] }
    (s.grp 0).findOp 9 = some o ∧ matReady s (s.grp 0) o (matOp 1 blank) = true ∧
      (let u := linkEnd s 0 o (matOp 1 blank)
       placesPoison u (u.grp 0).core (matOp 1 blank).seen (matSources u (u.grp 0) (matOp 1 blank) ++ tmmaSums u (u.grp 0) (matOp 1 blank)) = none) ∧
      (matOp 1 blank).wrote = [] ∧ (matOp 1 blank).fn ≤ 2 := by decide +kernel
/-- A state in which every word stands under its key, and what is left of `apart` there. -/
theorem apart_of {s : State} {ws : List EngWrite} (hk : s.tags = []) (h : (EngWrite.locs ws).Nodup) (hz : ws.all (fun w => w.tag == 0) = true) :
    apart s ws := ⟨h, fun w hw i _ _ => by
  have h := List.all_eq_true.mp hz w hw
  simp only [beq_iff_eq] at h
  simp [wordTag, hk, h]⟩
theorem test_meets_Tacst :
    let op := matOp 3 apartBlock
    let ws := (List.range 256).flatMap (fun m => engineBytes bench (bench.grp 0) op.held (xElem op (xWidth op) m 0)
      (packElems (xWidth op) ((List.range 64).map (tacstOf bench (bench.grp 0) op m))))
    op.wrote = [] ∧ op.fn = 3 ∧ ws ≠ [] ∧ apart bench ws :=
  ⟨rfl, rfl, by decide +kernel, apart_of rfl (by decide +kernel) (by decide +kernel)⟩
theorem locs_append (a b : List EngWrite) : EngWrite.locs (a ++ b) = EngWrite.locs a ++ EngWrite.locs b := by
  simp [EngWrite.locs]
theorem locs_flatMap {α : Type} (l : List α) (f : α → List EngWrite) : EngWrite.locs (l.flatMap f) = l.flatMap (fun x => EngWrite.locs (f x)) := by
  simp [EngWrite.locs, List.flatMap_assoc]
/-- Where the writes of a range go depends on its length alone. -/
theorem locs_engineBytes (s : State) (g : Grp) (held : List HeldPage) (va : Dword) (d : List Byte) :
    EngWrite.locs (engineBytes s g held va d) =
      (enginePlaces s g held va d.length).flatMap (fun p => (List.range p.len).map (p.loc + ·)) := by
  simp only [engineBytes, locs_flatMap]
  refine congrArg (List.flatMap · _) (funext fun p => ?_)
  simp [EngWrite.locs, List.flatMap_map]
  exact (List.map_eq_flatMap ..).symm

theorem natToBytes_length (n x : Nat) : (natToBytes n x).length = n := by
  induction n generalizing x with
  | zero => rfl
  | succ n ih => simp [natToBytes, ih]

/-- Under the scale 0xFF every block holds 32 codes. -/
theorem quantBlocks_32 (s : State) (g : Grp) (op : MatOp) (h : op.start = 0xFF) : ∀ q ∈ quantBlocks s g op, q.q.length = 32 := by
  suffices h : ∀ (n : Nat) (l : List Nat) (acc : List QBlock × Word), (∀ q ∈ acc.1, q.q.length = 32) →
      ∀ q ∈ (l.foldl (fun (r : List QBlock × Word) i =>
        let q := quantizeBlock (fltOf (fmtWord op.fw).af) (fmtWord op.fw).rnd op.start (quantInputs s g op i) r.2
        (q :: r.1, q.gen)) acc).1, q.q.length = 32 by
    intro q hq
    exact h 0 _ ([], op.seed) (by simp) q (List.mem_reverse.mp hq)
  intro _ l
  induction l with
  | nil => exact fun acc ha => ha
  | cons i l ih =>
    intro acc ha
    refine ih _ fun q hq => ?_
    obtain rfl | hq := List.mem_cons.mp hq
    · simp [quantizeBlock, h, quantInputs]
    · exact ha q hq

/-- The locations of TQUANT's writes lie among those of blocks of 32 codes and a scale. -/
theorem quant_locs (s : State) (g : Grp) (op : MatOp) (h : op.start = 0xFF) :
    (EngWrite.locs ((List.range 512).flatMap (fun i => ((quantBlocks s g op)[i]?).elim [] (quantWrites s g op i)))).Sublist
      ((List.range 512).flatMap (fun i =>
        (enginePlaces s g op.held (xElem op (fmtWidth (fmtWord op.fw).af) (i / 2) (i % 2 * 32)) (32 * fmtWidth (fmtWord op.fw).af / 8) ++
         enginePlaces s g op.held (pAddr op.block 0x48 + BitVec.ofNat 64 (i % 2 * 256 + i / 2)) 1).flatMap (fun p => (List.range p.len).map (p.loc + ·)))) := by
  rw [locs_flatMap]
  generalize List.range 512 = l
  induction l with
  | nil => simp
  | cons i l ih =>
    simp only [List.flatMap_cons]
    refine List.Sublist.append ?_ ih
    cases hq : (quantBlocks s g op)[i]? with
    | none => simp [EngWrite.locs]
    | some q =>
      have := quantBlocks_32 s g op h q (List.mem_of_getElem? hq)
      simp [quantWrites, locs_append, locs_engineBytes, packElems, natToBytes_length, this]
/-- Rows 2^16 apart, the first in a page that is held, as are the first four scales. -/
def quantOp : MatOp := { matOp 4 [0, 0, 0, 0, 0, 0, 0, 0, 0x10000, 0x100FFFC] with start := 0xFF, held := [⟨0, 0, 0, false⟩, ⟨0x100, 0x10000, 0, false⟩] }
theorem all_of_wrote {s : State} {ws : List EngWrite} (hk : s.tags = []) (h : (EngWrite.locs ws).Nodup) (hz : ∀ w ∈ ws, w.tag = 0) : apart s ws :=
  ⟨h, fun w hw i _ _ => by simp [wordTag, hk, hz w hw]⟩
theorem tag_engineBytes {s : State} {g : Grp} {held : List HeldPage} (h : ∀ x ∈ held, x.tag = 0) (va : Dword) (d : List Byte) :
    ∀ w ∈ engineBytes s g held va d, w.tag = 0 := by
  intro w hw
  simp only [engineBytes, enginePlaces, List.mem_flatMap, List.mem_filterMap, List.mem_map] at hw
  obtain ⟨p, ⟨x, -, hx⟩, i, -, rfl⟩ := hw
  split at hx
  · obtain ⟨y, hy, rfl⟩ := Option.map_eq_some_iff.mp hx
    exact h y (List.mem_of_find?_eq_some hy)
  · obtain ⟨y, -, rfl⟩ := Option.map_eq_some_iff.mp hx
    rfl
theorem test_meets_Tquant :
    let ws := (List.range 512).flatMap (fun i => ((quantBlocks bench (bench.grp 0) quantOp)[i]?).elim [] (quantWrites bench (bench.grp 0) quantOp i))
    quantOp.wrote = [] ∧ quantOp.fn = 4 ∧ apart bench ws := by
  refine ⟨rfl, rfl, all_of_wrote rfl ((quant_locs bench (bench.grp 0) quantOp rfl).nodup ?_) fun w hw => ?_⟩
  · decide +kernel
  · obtain ⟨i, -, hw⟩ := List.mem_flatMap.mp hw
    cases hq : (quantBlocks bench (bench.grp 0) quantOp)[i]? with
    | none => simp [hq] at hw
    | some q =>
      simp only [hq, Option.elim_some, quantWrites, List.mem_append] at hw
      exact hw.elim (tag_engineBytes (by decide) _ _ w) (tag_engineBytes (by decide) _ _ w)
def chaining : State := benchOf { grp0 with ops := [⟨9, .tl, 1, false, .vchain chainOp⟩] }
theorem test_meets_ChainRetirements :
    (chaining.grp 0).findOp 9 = some ⟨9, .tl, 1, false, .vchain chainOp⟩ ∧ cCount chainOp.block ≠ 0 ∧
      enginePoison chaining (chaining.grp 0) chainOp.held chainOp.seen (chainX chainOp.block :: chainY chainOp.block) = none ∧
      chainOp.wrote = [] ∧ apart chaining (engineBytes chaining (chaining.grp 0) chainOp.held 0x30100 [0, 0, 0, 0]) :=
  ⟨by decide +kernel, by decide +kernel, by decide +kernel, rfl, apart_of rfl (by decide +kernel) (by decide +kernel)⟩

/-- A copy that ends, a queue push at its end and before it, a copy that faults. -/
theorem test_meets_CopyEvents :
    (findCopy (copying copyOp) 1 0 = some (⟨0, .cp, 1, false, .copy copyOp⟩, copyOp) ∧ copyOp.kind.isQpush = false ∧
      (runCopy (copying copyOp) ((copying copyOp).grp 1) copyOp).stopped = false) ∧
    (findCopy (copying (pushOp 128)) 1 0 = some (⟨0, .cp, 1, false, .copy (pushOp 128)⟩, pushOp 128) ∧ (pushOp 128).kind.isQpush = true ∧
      (pushOp 128).bytes = copyTotal (pushOp 128)) ∧
    (let s := copying (pushOp 0)
     (pushOp 0).bytes ≠ copyTotal (pushOp 0) ∧ queueBehind (s.grp 1) ⟨0, .cp, 1, false, .copy (pushOp 0)⟩ 7 = false ∧
      ((s.grp 0).queue 7).length < 16 ∧ (nextEntry s (s.grp 1) (pushOp 0) ⟨0x30000, 32, 1, 1, 2, 4, 0, 0⟩).2.stopped = false) ∧
    (findCopy (copying badOp) 1 0 = some (⟨0, .cp, 1, false, .copy badOp⟩, badOp) ∧
      (faultRun (copying badOp) ((copying badOp).grp 1) badOp).viol = none ∧
      (faultRun (copying badOp) ((copying badOp).grp 1) badOp).fault = some ⟨0x10, 0, 0x4000000000000⟩) := by decide +kernel
/-- The 16 bytes that copyOp moves: from 0x30010 to 0x30000. -/
theorem test_meets_CopyBytes :
    let s := copying copyOp
    let g := s.grp 1
    copyOp.kind = .cpy 0x30000 0x30010 16 ∧ copyOp.bytes = 0 ∧ copyOp.seen = [] ∧ copyOp.moved = [] ∧ copyOp.pages = [] ∧
    spotOf s g false 0x30010 16 = .inl (.here 0x30010 0 true) ∧ spotOf s g true 0x30000 16 = .inl (.here 0x30000 0 true) ∧
    (∀ i, i < 16 → s.poisoned (some g.core) (0x30010 + i) 1 = none ∧ (isDram (0x30000 + i) = true → wordTag s ((0x30000 + i) / 32) = 0)) ∧
    (beginRun false s g copyOp).stopped = false ∧ (beginRun false s g copyOp).dry = false ∧ (beginRun false s g copyOp).op = copyOp ∧
    (beginRun false s g copyOp).st = s := by
  refine ⟨rfl, rfl, rfl, rfl, rfl, ?_, ?_, ?_, ?_, rfl, rfl, rfl⟩ <;> decide +kernel
theorem test_meets_QueueEntries :
    let s := copying (pushOp 0)
    let p : Pattern := ⟨0x30000, 32, 1, 1, 2, 4, 0, 0⟩
    (pushOp 0).kind = .qpush p 7 ∧ (pushOp 0).seen = [] ∧ (pushOp 0).pages = [] ∧
      ∀ l, l < 32 → 32 * 0 + l < patCount p → ∀ i, i < 4 →
        copyByte s (s.grp 1) (patAddr p (32 * 0 + l) + BitVec.ofNat 64 i) = some ((0 : Word).extractLsb' (8 * i) 8) := by
  refine ⟨rfl, rfl, rfl, ?_⟩
  decide +kernel
/-- A binding to vat 0 and to the workgroup barrier 1, which awaits two arrivals of the feeder. -/
theorem test_meets_CopyEnds :
    let g := { grp1 with kern := { probeKernel with bars := List.replicate 28 (1, 2, 0, true), vats := [64] } }
    let b : Word := 0x20840
    bindVen b = true ∧ bindBen b = true ∧ (bench.bar (g.barRef (bindLvl b) (bindIdx b))).fcount + 1 < (g.kern.bar (bindLvl b) (bindIdx b)).2.1 := by
  decide +kernel
/-! ## Sequencers -/

/-- Slot 0 of link 0 runs the program's second word, its flag window mapped to the first GiB. -/
def flagged : State := placeBytes tables 0x1007A0 8 (tableEntry 0x101000)
def slot0 : SeqSlot :=
  { st := .running, pc := 1, imp := { ctxid := 1, words := List.replicate 4 0, mods := [0, 0] }
    c := [(1, 0x30000), (2, 16), (3, 2), (4, 0x00F4000000030000), (5, 7)]
    bind := [(4, some 1)], chans := [(4, [⟨List.replicate 16 1, 9, 0, 1, 0⟩])] }
def sequencing (x : SeqSlot) : State :=
  { flagged with seqs := { slots := [(0, x)], links := [(0, { running := some 0 })], cur := some 0 } }
theorem seqAt (x : SeqSlot) (h1 : x.stepping = false) (h2 : x.pend = none) : SeqAt (sequencing x) 0 0 := ⟨rfl, rfl, h1, h2⟩

/-- The words' targets at the ends of the program: 0, 3, and the word itself. -/
theorem test_meets_SequencerScalars :
    SeqAt (sequencing slot0) 0 0 ∧
    [Instr.chunkMovi 0 7, .chunkMoviHi 5 7, .chunkAddi 15 1 2 9, .chunkAddiN 0 1 2 9, .loop 3 0xFFFFFFFF, .loop 0 9, .bnz 5 2, .bnz 0 99,
      .chunkCsrr 6 5, .chunkCsrw 5 2, .bind 6 15, .bind 0 3].all (fun i => (seqScalars i 0 0 slot0).isSome) = true ∧
    (seqScalars (.bind 0 3) 0 0 { slot0 with bind := [] }).isSome = true :=
  ⟨seqAt _ rfl rfl, by decide +kernel, by decide +kernel⟩
theorem test_meets_SequencerFlagsAndTurns :
    SeqAt (sequencing slot0) 0 0 ∧
    slot0.pc + 1 < slot0.imp.words.length ∧
    seqFlag (taken (sequencing slot0)) (whoLink 0) 1 .read (slot0.rc 4) = .ok (0x30000, 0) ∧
    seqFlag (taken (sequencing slot0)) (whoLink 0) 1 .write (slot0.rc 4) = .ok (0x30000, 0) ∧ (taken (sequencing slot0)).poisoned none 0x30000 8 = none ∧
    (let v := BitVec.ofNat 64 ((sequencing slot0).readNat none 0 0x30000 8)
     slot0.rc 0 ≤ v ∧ slot0.rc 0 = v ∧ slot0.rc 5 ≠ v) :=
  ⟨seqAt _ rfl rfl, by decide, by rfl, by rfl, by rfl, by decide +kernel⟩
theorem test_meets_ChunkWords :
    [Instr.xmit 5 1 2 4, .recv 5 1 2 4, .comb 0 1 1 5 1 2 4, .cfwd 0 4 0 0 5 1 2 4].all (fun i =>
      match chunkWords i (taken (sequencing slot0)) 0 0 with
      | some t => !(t.slot 0).stepping && (t.slot 0).pend.isNone && decide (slot0.pc + 1 < (t.slot 0).imp.words.length)
      | none => false) = true ∧
    (let x := { slot0 with tleaf := 2, c := Bank.set 0 slot0.c 5 1, chans := [(4, [⟨List.replicate 16 1, 0, 0, 1, 0⟩])] }
     (chunkWords (.comb 1 0 0 5 1 2 4) (taken (sequencing x)) 0 0).isSome = true) := by decide +kernel
theorem test_meets_SequencerStops :
    SeqAt (sequencing slot0) 0 0 ∧
    [Instr.loop 3 3, .bnz 5 0xFFFFFFFE, .chunkCsrr 1 6, .chunkCsrw 5 3, .chunkCsrw 0 2, .waitf 0 5 0, .chunkSigf 5 0, .chunkSigfAdd 3 0].all (fun i =>
      (seqStops i slot0).isSome) = true := ⟨seqAt _ rfl rfl, by decide +kernel⟩

/-! ## The scheduler's events -/

/-- One 8 by 1 cluster of one group a team on die 0, with a deadline. -/
def tall (ndep : Nat) : Packet :=
  ⟨[0, 0, 0x0000001800000001, 0x0000000100000001, 1, BitVec.ofNat 64 ((0x100 + ndep * 2 ^ 15) * 2 ^ 32), 100, 0, 0x00F4000000030000, 0]⟩
def waitingPacket (ndep : Nat) (ready : Option Nat) : Queued := { packet := tall ndep, seq := 1, latched := [], checked := true, imp := false, ready := ready, grid := some 5, after := [] }
/-- Row 0 of die 0 is full of the teams of cluster 0 of grid 9, level 1; a level-2 packet of grid 5 heads queue 3. -/
def full (level : Nat) : State :=
  { tables with sched := { tables.sched with
      queues := [(3, { isOpen := true, level := level, depth := 4, ctxid := 1, packets := [waitingPacket 0 (some 0)] })]
      grids := [(5, { used := true, ctxid := 1, queue := 3, level := level, packet := tall 0, nclus := 1, pending := [0] }),
                (9, { used := true, ctxid := 1, queue := 4, level := 1, nclus := 1 })]
      clusters := [(clusterKey 9 0, { st := .resident, teams := 8 })]
      teams := (List.range 8).map (fun i => (teamKey 9 0 i, { used := true, core := i, opBytes := 2 ^ 21 })) } }
def savedState : State :=
  { tables with sched := { tables.sched with
      grids := [(5, { used := true, ctxid := 1, level := 7, packet := tall 0 })], saved := [⟨5, 0, [], []⟩] } }
/-- A packet of one cluster of one group, at the head of queue 3, level 5, with no grid yet; and the grid of a discarded cluster. -/
def small : Packet := { words := [0, 7, 0x0000001100000001, 0x0000000100000001, 1, 0x10000000000] }
def heads (grid : Option Nat) : State :=
  { tables with sched := { tables.sched with
      queues := [(3, { isOpen := true, level := 5, depth := 4, ctxid := 1, packets :=
        [{ packet := small, seq := 1, latched := [], checked := true, imp := false, ready := some 0, grid := grid, after := [] }] })] } }
def discarded : State :=
  { tables with sched := { tables.sched with
      grids := [(5, { used := true, ctxid := 1, queue := 3, level := 4, packet := small, kern := probeKernel, nclus := 1, pending := [0] })] } }
theorem test_meets_Placements_levels :
    (∀ l, l < 8 → levelServable (settleAll tables) l = false) ∧ restorable (settleAll savedState) 7 = true ∧
    (restorable (settleAll discarded) 4 = false ∧ (placeDiscarded (settleAll discarded) 4).isSome = true ∧
      ∀ h, h < 8 → 4 < h → levelServable (settleAll discarded) h = false) ∧
    (restorable (settleAll (heads none)) 5 = false ∧ placeDiscarded (settleAll (heads none)) 5 = none ∧ (placeNew (settleAll (heads none)) 5).isSome = true ∧
      ∀ h, h < 8 → 5 < h → levelServable (settleAll (heads none)) h = false) :=
  ⟨by decide +kernel, by decide +kernel, ⟨by decide +kernel, by decide +kernel, by decide +kernel⟩,
   by decide +kernel, Option.isNone_iff_eq_none.mp (by decide +kernel), by decide +kernel, by decide +kernel⟩
theorem test_meets_Placements_heads : ∃ h, placeable (heads none) 3 = some h ∧ (headGrid (heads none) 3 h).1 ≠ 0 ∧
    (placeClusters 1 true [0] (headGrid (heads none) 3 h).2).isSome = true ∧ (placeNew (heads none) 5).isSome = true :=
  ⟨_, rfl, by decide +kernel, by decide +kernel, by decide +kernel⟩
theorem test_meets_Placements_clusters : ∃ t, placeCluster discarded 5 0 = some t := some_of (by decide +kernel)
def flaggedQueue (ndep : Nat) : State :=
  { flagged with sched := { flagged.sched with
      queues := [(63, { isOpen := true, level := 7, depth := 1, ctxid := 1, packets := [waitingPacket ndep none] })] } }
def draining (T made : Nat) (now : Dword) : State :=
  { tables with sched := { tables.sched with cycle := now, clusters := [(clusterKey 9 0, { st := .draining, request := some (T, made) })] } }

theorem test_meets_SchedulingEvents_flags :
    [(flaggedQueue 1).settle 63, (flaggedQueue 0).settle 63].all (fun t => match (t.queue 63).packets with
      | h :: _ => h.ready.isNone && h.checked && (latchDeps t (t.queue 63).ctxid h.packet h.latched).isSome
      | [] => false) = true := by decide +kernel
theorem test_meets_SchedulingEvents_restore : ∃ c u, (settleAll savedState).sched.saved[0]? = some c ∧
    (∀ l, l < 8 → ((settleAll savedState).grid c.grid).level < l → levelServable (settleAll savedState) l = false) ∧
      restoreCluster (settleAll savedState) c = some u := by
  obtain ⟨u, h⟩ := some_of (e := restoreCluster (settleAll savedState) ⟨5, 0, [], []⟩) (by decide +kernel)
  exact ⟨⟨5, 0, [], []⟩, u, by decide +kernel, by decide +kernel, h⟩
theorem test_meets_SchedulingEvents_requests : ∃ h, placeable (full 2) 3 = some h ∧ h.packet.deadline ≠ 0 ∧ placeHead (full 2) 3 = none ∧
    (∃ cks, roomBy (full 2) 3 ((victims (full 2) (fun l => decide (l < ((full 2).queue 3).level))).map (·.1)) [] = some cks) :=
  ⟨waitingPacket 0 (some 0), by decide +kernel, by decide +kernel, Option.isNone_iff_eq_none.mp (by decide +kernel),
    some_of (by decide +kernel)⟩
theorem test_meets_SchedulingEvents_slices : ∃ h e es, placeable (full 1) 3 = some h ∧ placeHead (full 1) 3 = none ∧
    ((victims (full 1) (fun l => l == ((full 1).queue 3).level)).filter (fun e => e.2.st == .resident &&
      decide ((full 1).sched.cycle.toNat - e.2.placed ≥ ((full 1).queue ((full 1).grid (e.1 / 65536)).queue).slice))).mergeSort
        (fun a b => decide (a.2.placed ≤ b.2.placed)) = e :: es :=
  ⟨waitingPacket 0 (some 0), (clusterKey 9 0, { st := .resident, teams := 8 }), [], by decide +kernel,
    Option.isNone_iff_eq_none.mp (by decide +kernel), by decide +kernel⟩
theorem test_meets_SchedulingEvents_timeouts :
    (let s := draining 5 3 8; let c := s.clus (clusterKey 9 0); c.st = .draining ∧ c.request = some (5, 3) ∧ 3 + 5 ≤ s.sched.cycle.toNat) ∧
    (let s := tables.setGrp 0 { grp0 with haltPend := true }
     (s.grp 0).used = true ∧ atEventBoundary (s.grp 0) = true ∧ (s.ctx (s.grp 0).ctxid).dying = false ∧
     (s.grp 0).haltPend = true ∧ (s.grp 0).halted = false) := by decide +kernel
/-! ## Links, invalidations, engines -/

def askedBy : Grp := { grp0 with ops := [⟨3, .ld, 1, false, .remote [⟨8, false, 1, [⟨0, [32], 4, false, 0⟩], false⟩]⟩] }
def linked (x : Link) : State := (tables.setGrp 0 askedBy).setLink 31 x
/-- A flit as it comes in: a header of type typ from module 63 with sequence number 0, on every wavelength, or striped over all eight. -/
def flitOf (typ : Nat) : Flit :=
  let us := (⟨typ, 0, 255, 255, false, 63, 0, false, 0⟩ : FlitHead).units []
  ⟨(if typ = 1 then striped 255 us else List.replicate 8 us).map (fun w => w.map some), [], 0⟩
def listening (opened : Bool) : State := linked { slot := some 126, opened := opened }
def hears (opened : Bool) (typ : Nat) : Bool :=
  let s := listening opened
  let x := s.link 31
  match gathered (!x.opened) x.rxMap (flitOf typ) with
  | some (u :: p) => x.slot.isSome && x.up && !flitBad s (some (u :: p)) && unitsAgree (headOf u) p (flitOf typ).units && (headOf u).typ == typ &&
      (typ != 1 || ((readHeader x 0 (headOf u) 0).opened && (headOf u).seq == (readHeader x 0 (headOf u) 0).rxSeq))
  | _ => false
theorem test_meets_LinkEvents :
    (∀ n ∈ [0, 126], ((linked {}).link 31).up = true ∧ ((linked {}).link 31).slot = none ∧ n < 127) ∧
    (let s := listening true; (s.link 31).slot.isSome = true ∧ (s.link 31).up = true ∧ flitBad s (gathered false (s.link 31).rxMap flit0) = true) ∧
    (∃ o rs r, findRequest ((linked {}).grp 0) 8 = some (o, rs, r)) ∧
    (let x := (linked {}).link 31; x.rx.failed.testBit 7 = false ∧ x.rx.retraining.testBit 7 = false ∧ 7 ∉ x.rx.queue) ∧
    (let x := (linked { rx := { retraining := 128, active := 127 } }).link 31; x.rx.retraining.testBit 7 = true) :=
  ⟨by decide +kernel, by decide +kernel, ⟨_, _, _, rfl⟩, by decide +kernel, by decide +kernel⟩
theorem test_meets_LinkEvents_flits : hears false 2 = true ∧ hears true 1 = true := by decide +kernel

def invalidating : State := tables.setGrp 0 { grp0 with tlbinv := 0x00FFFFFFFFFF0005, tlbAfter := [4] }
def startImp : SeqImp := { ctxid := 1, param := 9, rank := 1, mods := [0, 1], words := [0] }
def timedImp : Imposition := ⟨1, 1, 0, [0, 3], [0], [], false, false⟩
theorem test_meets_InvalidationAndSequencerEvents :
    ((bench.grp 0).used = true ∧ (bench.grp 0).tlbinv.getLsbD 0 = false ∧ csrReserved 0x060#12 0x00FFFFFFFFFF0004 = false) ∧
    (let g := invalidating.grp 0; g.tlbinv.getLsbD 0 = true ∧ invalPerformed g = true ∧ extentFree invalidating g.ctxid g.tlbinv = true) ∧
    (let s := { flagged with seqs := { flagged.seqs with slots := [(slotKey 31 3, { slot0 with
        st := .waiting, wait := some .flag, pc := 0, imp := { ctxid := 1, words := [(encodeChunk (.waitf 0 4 6)).getD 0, 0] } })] } }
     let x := s.slot (slotKey 31 3)
     let t := s.setSlot (slotKey 31 3) { x with st := .ready, wait := none }
     x.st = .waiting ∧ x.wait = some .flag ∧ x.pc + 1 < x.imp.words.length ∧ x.stepping = false ∧
     ∃ a b loc tag, decodeChunk (x.imp.words.getD x.pc 0) = some (.waitf 0 a b) ∧ seqFlag t (whoLink 31) x.imp.ctxid .read (x.rc a.toNat) = .ok (loc, tag) ∧
       x.rc b.toNat ≤ BitVec.ofNat 64 (t.readNat none tag loc 8)) ∧
    (let s := { tables with seqs := { tables.seqs with slots := [(slotKey 31 2, { starts := [startImp] })] } }
     (s.slot (slotKey 31 2)).starts = [startImp] ∧ (s.slot (slotKey 31 2)).st = .free) ∧
    (let s := { tables with seqs := { tables.seqs with imps := [timedImp] } }
     s.seqs.imps[0]? = some timedImp ∧ timedImp.mods.filter (fun m => !timedImp.answered.contains m) ≠ []) := by
  refine ⟨by decide +kernel, by decide +kernel, ?_, by decide +kernel, by decide +kernel⟩
  exact ⟨by decide +kernel, by decide +kernel, by decide +kernel, by decide +kernel, 4, 6, 0x30000, 0, by decide +kernel, by rfl, by decide +kernel⟩

/-- A part of two modules, this one first. -/
def part2 (st : Nat) : Reshard :=
  { active := true, ctxid := 1, addr := 0x60000, req := [0, 0x50000, 0x50040, 0x70000], parts := [0, 1], st := st, commit := true
    accepted := [(1, 1, 0x60000, true)] }
def flagForme : Forme := ⟨[1, 1, 1], [some 0], 0x00F4000000030000, 0x00F4000000030000, [⟨0x30000, 4, [1], [0]⟩]⟩
theorem violated_of {α : Type} {x : Except PlanErr α} {n : Nat}
    (h : (match x with | .error (.violation k _ _) => k == n | _ => false) = true) : ∃ c p, x = .error (.violation n c p) := by
  match x, h with
  | .error (.violation k c p), h => exact ⟨c, p, by rw [beq_iff_eq.mp h]⟩
theorem test_meets_ReshardEvents :
    (let s := { tables with rs := part2 1 }
     s.rs.active = true ∧ s.rs.st = 1 ∧ rsAllAccepted s = true ∧ rsPlan s = .error (.error 1)) ∧
    (let s := { tables with rs := part2 1, owners := [(0, some 2)] }
     rsAllAccepted s = true ∧ ∃ kind c p, rsPlan s = .error (.violation kind c p)) ∧
    (let s := { tables with rs := { part2 2 with curds := [⟨0, 1, 0x30000, 0x30100, 4⟩] } }
     s.rs.curds[0]? = some ⟨0, 1, 0x30000, 0x30100, 4⟩ ∧ rsIsDone s 0 = false ∧ 1 ≠ s.fabric.self ∧ (∀ i, (0, i) ∉ s.rs.landed) ∧
     ∃ h, seqHold s whoReshard s.rs.ctxid [.write] 0x30100 4 = .ok h) ∧
    (let s := { flagged with rs := { part2 3 with formes := some (flagForme, flagForme), reports := [1, 0] } }
     s.rs.active = true ∧ rsLive s = true ∧ s.rs.st = 3 ∧ rsCounter s 0 = .ok 0 ∧ s.rs.rank = 0 ∧ s.rs.commit = true ∧ s.rs.committing = false ∧
     (∀ r, r < s.rs.parts.length → r ∈ s.rs.reports) ∧ 1 < s.rs.parts.length ∧ 1 ≠ s.rs.rank) := by
  refine ⟨by decide +kernel, ⟨by decide +kernel, 1, ?_⟩, ⟨rfl, by decide +kernel, by decide +kernel, fun _ => List.not_mem_nil, ok_of (by decide +kernel)⟩,
    by decide +kernel⟩
  exact violated_of (by decide +kernel)

/-- A request whose BITS holds a temporal delimiter and a sequence header of profile 0, one sample by one, its bits written out from the AV1
specification: 000 1 1 00000 0000 0000 0 0 000 000 0 0 0 0000 0 and a trailing 1. -/
def decReq (dec : Option Nat) (dead : Nat) : DecReq :=
  { id := 0, key := 0, ctxid := 1, grid := 1, cluster := 0, team := 0
    block := [5, 0x40000, 0x100000009, 0x80000, 0x40000, 0x60000, 0x0000010001010000, 0], dec := dec, next := 0, dead := dead, after := [] }
def decoding (r : DecReq) : State :=
  let s := placeBytes tables 0x40000 9 0x2000000018050A0012
  { (s.setClus (clusterKey 1 0) { st := .resident }).setTeam (teamKey 1 0 0) { used := true } with
    decs := { reqs := [{ decReq none 0 with id := 9 }, r] } }
/-- What the decoder found; a substitute at the end of BITS; a request whose substitutes go on. -/
theorem test_meets_DecodeEvents :
    (let s := decoding (decReq (some 3) 0)
     (∀ x ∈ s.decs.reqs, x.dec ≠ some 15) ∧ Bank.get none s.decs.frozen 15 = none ∧
      s.decs.reqs.find? (fun r => r.dec.isNone) = some { decReq none 0 with id := 9 } ∧ opsPerformed s [] = true) ∧
    [(0, 0, 0), (5, 0, 5), (1, 6, 6), (4, 0, 4)].all (fun x =>
      let r := decReq (some 15) x.2.1
      let s := decoding r
      let fr := { frame0 with err := x.1, refs := [], bits := (0, 9) }
      s.decs.reqs.find? (fun r => r.dec == some 15) == some r && s.decs.reqs.all (fun y => y.frame.isNone) && teamRuns s r.grid r.cluster r.team &&
        (s.vat (r.grp s) (decVat0 r.block + r.next % decNvat r.block)).st == .free && framePlaced r fr &&
        frameErr s r fr (if r.dead = 0 then frameFault s r fr else none) == some x.2.2) = true := by
  decide +kernel
/-- Two formes of one tensor of one element on one module, at 0x50000 and 0x50040, and a record with room for eight curds. -/
def formes : State :=
  let s := [(0x50000, 0x50200), (0x50040, 0x50240)].foldl (fun s x =>
    placeBytes (placeBytes (placeBytes (placeBytes (placeBytes s x.1 15 (3 + 2 ^ 32 + 2 ^ 64 + 0x010101 * 2 ^ 96)) (x.1 + 0x10) 8 0x50100)
      (x.1 + 0x18) 8 0x00F4000000030000) (x.1 + 0x20) 8 x.2) (x.1 + 0x28) 8 0x00F4000000030000) flagged
  let s := [(0x50200, 0x30000), (0x50240, 0x30100)].foldl (fun s x =>
    placeBytes (placeBytes s x.1 8 x.2) (x.1 + 8) 12 (2 + 2 ^ 32 + 2 ^ 64)) s
  { placeBytes s 0x70028 1 1 with rs := part2 1 }
/-- The module of rank 0 is what the peer table says. -/
def formeAt (base : Dword) (p : Option Nat) : Forme :=
  ⟨[1, 1, 1], [p], 0x00F4000000030000, 0x00F4000000030000, [⟨base, 4, [1], [0]⟩]⟩
set_option maxRecDepth 100000 in
theorem formes_old : readForme formes 1 0x50000 = .ok (formeAt 0x30000 (Config.peerEntry 0 0)) := by rfl
set_option maxRecDepth 100000 in
theorem formes_new : readForme formes 1 0x50040 = .ok (formeAt 0x30100 (Config.peerEntry 0 0)) := by rfl
def plannedState (old new : Forme) (cs : List Curd) : State :=
  rsState (rsPut { formes with rs := { formes.rs with
    formes := some (old, new), curds := cs
    accepted := formes.rs.accepted.filter (fun a => !(a.2.1 == formes.rs.ctxid && a.2.2.1 == formes.rs.addr)) } } 4 4 cs.length) 2 0
theorem plan_of (p : Option Nat) (h : Config.peerEntry 0 0 = p) (cs : List Curd)
    (h1 : planFor (formeAt 0x30000 p) (formeAt 0x30100 p) [0, 1] 0 = some cs)
    (h2 : shardsOverlap (shardsOf (formeAt 0x30100 p) 0) (shardsOf (formeAt 0x30000 p) 0) = false) (h3 : cs.length ≤ 8)
    (h4 : rsGet formes 0x28 4 = 1) : rsPlan formes = .ok (formeAt 0x30000 p, formeAt 0x30100 p, cs) := by
  have a := formes_old
  have b := formes_new
  rw [h] at a b
  have ha : readForme formes formes.rs.ctxid (formes.rs.req.getD 1 0) = .ok (formeAt 0x30000 p) := a
  have hb : readForme formes formes.rs.ctxid (formes.rs.req.getD 2 0) = .ok (formeAt 0x30100 p) := b
  have hp : formes.rs.parts = [0, 1] := rfl
  have hs : formes.fabric.self = 0 := by rfl
  have hg : formesAgree (formeAt 0x30000 p) (formeAt 0x30100 p) = true := rfl
  unfold rsPlan
  rw [ha, hb]
  simp only [hp, hs, h4, Except.bind, hg, h1, h2]
  simp [show ¬ 8 < cs.length by omega]
/-- Their module is an opaque constant of Config; either way the counter reads 0. -/
def counted (cs : List Curd) : Except SeqErr (List Nat) :=
  (List.range 1).mapM (rsCounter (plannedState (formeAt 0x30000 (Config.peerEntry 0 0)) (formeAt 0x30100 (Config.peerEntry 0 0)) cs))
set_option maxRecDepth 100000 in
theorem counted_none : counted [] = .ok [0] := by rfl
set_option maxRecDepth 100000 in
theorem counted_one : counted [⟨0, 0, 0x30000, 0x30100, 4⟩] = .ok [0] := by rfl
theorem test_meets_ReshardPlanning : formes.rs.active = true ∧ formes.rs.st = 1 ∧ rsAllAccepted formes = true ∧ formes.rs.rank = 0 ∧
    ∃ old new cs ns, rsPlan formes = .ok (old, new, cs) ∧ (List.range old.tensors.length).mapM (rsCounter (plannedState old new cs)) = .ok ns := by
  refine ⟨by decide +kernel, by decide +kernel, by decide +kernel, by decide +kernel, ?_⟩
  have hr : rsGet formes 0x28 4 = 1 := by decide +kernel
  have c0 := counted_none
  have c1 := counted_one
  unfold counted at c0 c1
  match h : Config.peerEntry 0 0 with
  | some 0 =>
    rw [h] at c1
    exact ⟨_, _, _, [0], plan_of _ h [⟨0, 0, 0x30000, 0x30100, 4⟩] (by decide +kernel) (by decide +kernel) (by decide) hr, c1⟩
  | none =>
    rw [h] at c0
    exact ⟨_, _, _, [0], plan_of _ h [] (by decide +kernel) (by decide +kernel) (by decide) hr, c0⟩
  | some (n + 1) =>
    rw [h] at c0
    exact ⟨_, _, _, [0], plan_of _ h [] (by rfl) (by rfl) (by decide) hr, c0⟩
/-! ## The network, management, starts -/

/-- Queue pair 2 belongs to context 1, which is debuggable; region 7 is its eight writable bytes at 0x30000. -/
def hosted : State :=
  { tables.setCtx 1 { probeCtx with dbg := true } with
    host := { tables.host with qps := tables.host.qps ++ [(2, { enabled := true, ctxid := some 1 })]
                               regions := [(7, some ⟨1, 0x30000, 8, true⟩)] } }
theorem test_meets_NetworkEvents :
    qpLive hosted 2 = true ∧ (hosted.qp 2).ahead = none ∧ rdmaRegion hosted 2 7 1 8 true = none ∧ rdmaRegion hosted 2 7 1 8 false = none ∧
    (∃ r ps, rdmaRegion hosted 2 7 0 8 true = some r ∧ rdmaPlaces hosted r.ctxid .write (r.vbase + 0) 8 = .ok ps) ∧
    (∃ r ps, rdmaRegion hosted 2 7 0 8 false = some r ∧ rdmaPlaces hosted r.ctxid .read (r.vbase + 0) 8 = .ok ps ∧ rdmaPoison hosted ps [] = none) ∧
    (hosted.qp 2).enabled = true ∧ (hosted.qp 2).error = false :=
  ⟨by decide +kernel, by decide +kernel, by decide +kernel, by decide +kernel, ⟨⟨1, 0x30000, 8, true⟩, [(0x30000, 0, 0, 8)], by decide +kernel, by rfl⟩,
   ⟨⟨1, 0x30000, 8, true⟩, [(0x30000, 0, 0, 8)], by decide +kernel, by rfl, by decide +kernel⟩, by decide +kernel, by decide +kernel⟩

def parityGrp (p : Bool) : Grp := grp0.modLanes [0, 31] (fun _ x => { x with run := 1, parity := p })
def breakGrp : Grp := { grp0 with bkpts := [(3, some ⟨0x20000, 0x80000001⟩)] }
theorem test_meets_ManagementEvents :
    (∃ v, mgmtRead bench 0x040 = some v) ∧ (∃ v, mgmtRead bench 0 = some v) ∧
    (let m := bench.mgmt; m.hold = false ∧ m.clkStep < 20) ∧
    (let m := { bench.mgmt with clkStep := 20, clkCap := 19 }; m.hold = false ∧ m.clkCap < m.clkStep) ∧
    ({ bench.mgmt with hold := true }.hold = true) ∧
    wordHeld bench 0 = true ∧ wordHeld bench (2 ^ 42) = true ∧ (bench.grp 0).used = true ∧
    (∀ p : Bool, let s := tables.setGrp 0 (parityGrp p)
      let ls := (lanesOf 0x80000001).filter (fun l => stands (s.grp 0) l && ((s.grp 0).lane l).run != 0)
      if p then ∃ l ∈ ls, ((s.grp 0).lane l).parity = true else ls ≠ [] ∧ ∀ l ∈ ls, ((s.grp 0).lane l).parity = false) ∧
    (let s := tables.setGrp 0 breakGrp
     lowest (0x80000000 : Word) = some 31 ∧ (breakLanes (s.grp 0) (maskOf ((lanesOf 0x80000000).filter (fun l => stands (s.grp 0) l &&
       ((s.grp 0).lane l).pc == ((s.grp 0).lane 31).pc))) ((s.grp 0).lane 31).pc (groupLen s (s.grp 0) ((s.grp 0).lane 31).pc)).isSome = true) ∧
    (let s := tables.setCtx 65535 { probeCtx with trace := { on := true, recs := [[1]] } }
     (s.ctx 65535).trace.on = true ∧ (s.ctx 65535).trace.recs ≠ []) ∧
    (∀ n ∈ [0, 128, 384], let s := { tables.setCtx 65535 { probeCtx with trace := { on := true, period := 256 } } with
        sample := [((127 * 4 + 3) * 65536 + 65535, (false, n))] }
      let m := (Bank.get (false, 0) s.sample ((127 * 4 + 3) * 65536 + 65535)).2
      m = n ∧ (m = 0 ∨ ((s.ctx 65535).trace.period ≤ 2 * m ∧ 2 * m ≤ 3 * (s.ctx 65535).trace.period))) := by
  refine ⟨⟨_, rfl⟩, ⟨_, rfl⟩, by decide, by decide, by decide, by decide +kernel, by decide +kernel, by decide +kernel, ?_, by decide +kernel, by decide +kernel,
    by decide +kernel⟩
  intro p; cases p <;> decide +kernel

def migrant : Migrated := ⟨5, probeCtx, [], [(9, { ctxid := 5 })], [], []⟩
def roomy : State := { tables with away := [migrant] }
theorem test_meets_StartsAndMigration :
    (bench.mgmt.failedRow < 3) ∧ ({ bench.mgmt with failedRow := 3 }.failedRow ≥ 3) ∧
    (let s := tables.setCtx 1 { probeCtx with contract := deviceFeatures }
     ctxAlive s 1 = true ∧ clustersOf s 1 = [] ∧ (∀ e ∈ s.grps, e.2.used = true → e.2.ctxid ≠ 1) ∧ (s.ctx 1).contract &&& ~~~ deviceFeatures = 0) ∧
    (let s := bench.setCtx 1 { probeCtx with contract := deviceFeatures }
     ctxAlive s 1 = true ∧ (∃ e ∈ s.grps, e.2.used = true ∧ e.2.ctxid = 1) ∧ (s.ctx 1).contract &&& ~~~ deviceFeatures = 0) ∧
    (let x := { migrant with ctx := { probeCtx with contract := deviceFeatures } }
     let s := { tables with away := [x] }
     (s.ctx 5).used = false ∧ s.away.find? (fun x => x.ctxid == 5) = some x ∧ x.ctx.contract &&& ~~~ deviceFeatures = 0 ∧
      (∀ e ∈ x.grids, (s.grid e.1).used = false)) := by decide +kernel

/-! ## Commands -/

def soundly (i : Instr) (s : State) : Bool := match commands i with
  | some (c, p, n) => qpLive s c.qp && permitted s c p && c.len == n && c.body.length == n && c.rsvd == 0
  | none => false
theorem sound_of {i : Instr} {s : State} (h : soundly i s = true) : sound i s := by
  unfold soundly at h
  split at h
  · rename_i c p n e
    simp only [Bool.and_eq_true, beq_iff_eq] at h
    exact ⟨c, p, n, e, h.1.1.1.1, h.1.1.1.2, h.1.1.2, h.1.2, h.2⟩
  · cases h

theorem test_meets_CommandRefusals :
    commands (.qpbind (good 4 [])) = some (good 4 [], .management, 4) ∧ qpLive tables 2 = false ∧
    qpLive hosted 2 = true ∧ permitted hosted (good 4 []) .management = false ∧
    (∀ c ∈ [cmd 16 2 15 0 [], cmd 15 2 16 0 [], cmd 16 2 16 1 []], qpLive hosted c.qp = true ∧ permitted hosted c .bound = true ∧
      (c.len ≠ 16 ∨ c.body.length ≠ 16 ∨ c.rsvd ≠ 0)) := by decide +kernel

/-- A command on management queue pair 1. -/
def onMgmt (n : Nat) (b : List Byte) : Command := cmd n 1 n 0 b
/-- Queue q is open, level 7, one packet deep, of context 1. -/
def queued (q : Nat) : State :=
  { hosted with sched := { hosted.sched with
      queues := [(q, { isOpen := true, level := 7, depth := 1, ctxid := 1 })]
      grids := [(65535, { used := true, ctxid := 1, nclus := 2 })], clusters := [(clusterKey 65535 1, { st := .resident })] } }
theorem test_meets_ContextAndQueueCommands :
    (let c := onMgmt 256 (natToBytes 2 65535); sound (.ctxcreate c) hosted ∧ descriptorBad hosted c.body = false ∧ (contextOf c.body).conf = false) ∧
    (let c := onMgmt 4 [1]; sound (.ctxdestroy c) hosted ∧ bodyNat c 2 2 = 0 ∧ ctxAlive hosted (bodyNat c 0 2) = true) ∧
    (∀ q ∈ [2, 255], let c := onMgmt 4 [1, 0, q]; soundly (.qpbind c) hosted = true ∧ 2 ≤ bodyNat c 2 2 ∧ bodyNat c 2 2 ≤ 255 ∧
      ctxAlive hosted (bodyNat c 0 2) = true) ∧
    (∀ x ∈ [(0, 0, 1, 2 ^ 16), (63, 7, 1024, 2 ^ 40)],
      let c := onMgmt 16 ([BitVec.ofNat 8 x.1, BitVec.ofNat 8 x.2.1] ++ natToBytes 2 x.2.2.1 ++ [1, 0, 0, 0] ++ natToBytes 8 x.2.2.2)
      soundly (.qopen c) hosted = true ∧ bodyNat c 6 2 = 0 ∧ bodyNat c 0 1 < 64 ∧ bodyNat c 1 1 < 8 ∧ 1 ≤ bodyNat c 2 2 ∧
      bodyNat c 2 2 ≤ 1024 ∧ 2 ^ 16 ≤ bodyNat c 8 8 ∧ bodyNat c 8 8 ≤ 2 ^ 40 ∧ ctxAlive hosted (bodyNat c 4 2) = true ∧
      (hosted.queue (bodyNat c 0 1)).isOpen = false) ∧
    (let c := good 4 [63]; sound (.qcancel c) (queued 63) ∧ bodyNat c 1 3 = 0 ∧ bodyNat c 0 1 < 64 ∧
      ((queued 63).queue (bodyNat c 0 1)).isOpen = true ∧ ((queued 63).queue (bodyNat c 0 1)).ctxid = owner (queued 63) c) ∧
    (let c := good 144 [63]; sound (.hostLaunch c) (queued 63) ∧ bodyNat c 1 15 = 0 ∧
      enqueueCode (queued 63) (bodyNat c 0 1) (owner (queued 63) c) ⟨dwordsOf (c.body.drop 16)⟩ = 0) ∧
    (let c := good 8 (natToBytes 8 0x00FFFFFFFFFF000C); sound (.hostTlbinv c) hosted ∧ csrReserved 0x060#12 (body64 c 0) = false) ∧
    (let c := good 16 [0xFF, 0xFF, 1]; let s := queued 63
     sound (.suspend c) s ∧ bodyNat c 4 4 = 0 ∧ (s.grid (bodyNat c 0 2)).used = true ∧ (s.grid (bodyNat c 0 2)).ctxid = owner s c ∧
      bodyNat c 2 2 < (s.grid (bodyNat c 0 2)).nclus) :=
  ⟨⟨sound_of (by decide +kernel), by decide +kernel, by decide +kernel⟩, ⟨sound_of (by decide +kernel), by decide +kernel, by decide +kernel⟩,
   by decide +kernel, by decide +kernel, ⟨sound_of (by decide +kernel), by decide +kernel, by decide +kernel, by decide +kernel, by decide +kernel⟩,
   ⟨sound_of (by decide +kernel), by decide +kernel, by decide +kernel⟩, ⟨sound_of (by decide +kernel), by decide +kernel⟩,
   ⟨sound_of (by decide +kernel), by decide +kernel, by decide +kernel, by decide +kernel, by decide +kernel⟩⟩

def slotted (st : SeqSt) : State :=
  { hosted with seqs := { hosted.seqs with slots := [(slotKey 31 2, { st := st, imp := { ctxid := 1 } })] } }
theorem test_meets_SequencerCommands :
    (∀ x ∈ [(1, SeqSt.stopped), (2, .stopped), (3, .ready), (4, .running), (4, .stopped), (4, .waiting)],
      let c := good 16 [31, 2, BitVec.ofNat 8 x.1, 0, 1]
      let s := slotted x.2
      let y := s.slot (slotKey (bodyNat c 0 1) (bodyNat c 1 1))
      bodyNat c 3 1 = 0 ∧ bodyNat c 6 10 = 0 ∧ bodyNat c 0 1 ≤ 31 ∧ bodyNat c 1 1 < 3 ∧ y.st ≠ .free ∧ bodyNat c 4 2 = y.imp.ctxid ∧
      y.frozen = false ∧ y.st = x.2 ∧ bodyNat c 2 1 = x.1) ∧
    soundly (.seqctlResume (good 16 [31, 2, 1, 0, 1])) (slotted .stopped) = true ∧
    soundly (.seqctlStep (good 16 [31, 2, 2, 0, 1])) (slotted .stopped) = true ∧
    soundly (.seqctlAbort (good 16 [31, 2, 3, 0, 1])) (slotted .ready) = true ∧
    soundly (.seqctlStop (good 16 [31, 2, 4, 0, 1])) (slotted .running) = true := by decide +kernel

/-- An object of one kernel whose one word of code is at 0x50000. -/
def imaged : State :=
  placeBytes (placeBytes (placeBytes (placeBytes hosted 0x40000 6 (0x4B4C4550 + 2 ^ 32)) 0x40006 26
    (1 + 0x40000 * 2 ^ 16 + 0x10004 * 2 ^ 80 + 0x80 * 2 ^ 144)) 0x40024 8 (0x10000 + 4 * 2 ^ 32)) 0x40080 16 (1 + 0x40 * 2 ^ 32 + 0x50000 * 2 ^ 64)
def obj0 : LoadedObj := ⟨1, 0x40000, 0x10004, [], false⟩
def resharding : State := { hosted with rs := { part2 2 with req := [0, 0, 0, 0x70000] } }
theorem test_meets_ObjectAndMemoryCommands :
    (let c := good 24 (natToBytes 8 0x40000)
     sound (.objload c) imaged ∧ bodyNat c 0x14 4 = 0 ∧
      (List.range 256).find? (fun i => (imaged.obj (objKey (owner imaged c) i)).isNone) = some 0 ∧
      ∃ o, checkObject imaged (owner imaged c) (objKey (owner imaged c) 0) (body64 c 0) = .ok o) ∧
    (let c := good 4 [255]; let s := { hosted with objs := [(objKey 1 255, some obj0)] }
     sound (.objdrop c) s ∧ bodyNat c 0 4 < 256 ∧ s.obj (objKey (owner s c) (bodyNat c 0 4)) = some obj0 ∧ obj0.dropping = false) ∧
    (let c := good 24 (natToBytes 17 (2 ^ 128)); sound (.mrreg c) hosted ∧ bodyNat c 0x10 4 < 2 ∧ bodyNat c 0x14 4 = 0) ∧
    (let c := good 4 [7]; sound (.mrdereg c) hosted ∧ Bank.get none hosted.host.regions (bodyNat c 0 4) = some ⟨1, 0x30000, 8, true⟩ ∧ owner hosted c = 1) ∧
    (∀ b ∈ [[31, 3], [0, 0]], let c := good 4 b; soundly (.linkstat c) hosted = true ∧ bodyNat c 0 1 ≤ 31 ∧ bodyNat c 1 1 < 4 ∧ bodyNat c 2 2 = 0) ∧
    (let c := good 8 (natToBytes 8 0x70000)
     sound (.rsabort c) resharding ∧ resharding.rs.active = true ∧ resharding.rs.ctxid = owner resharding c ∧ rsProg resharding = body64 c 0) ∧
    (∀ x ∈ [(2 ^ 8, 8192), (2 ^ 20, 2 ^ 63)],
      let c := good 24 ([1, 0, 0, 0] ++ natToBytes 4 x.1 ++ natToBytes 8 0x30000 ++ natToBytes 8 x.2)
      soundly (.tracecfg c) hosted = true ∧ 2 ^ 8 ≤ bodyNat c 4 4 ∧ bodyNat c 4 4 ≤ 2 ^ 20 ∧ bodyNat c 16 8 % 4096 = 0 ∧ 8192 ≤ bodyNat c 16 8 ∧
      ctxAlive hosted (bodyNat c 0 2) = true ∧ bodyNat c 0 2 = owner hosted c) :=
  ⟨⟨sound_of (by decide +kernel), by decide +kernel, by decide +kernel, ok_of (by decide +kernel)⟩,
   ⟨sound_of (by decide +kernel), by decide +kernel, by decide +kernel, by decide +kernel⟩,
   ⟨sound_of (by decide +kernel), by decide +kernel, by decide +kernel⟩, ⟨sound_of (by decide +kernel), by decide +kernel, by decide +kernel⟩,
   by decide +kernel, ⟨sound_of (by decide +kernel), by decide +kernel, by decide +kernel, by decide +kernel⟩, by decide +kernel⟩

/-- DEBUG action `act` on the group of lane mask 1 at 0x20000. -/
def debugBody (act : Nat) : Command := good 32 (natToBytes 4 (act + 2 ^ 16) ++ [0, 0, 0, 0, 1, 0, 0, 0, 0, 0, 0, 0] ++ natToBytes 8 0x20003 ++ natToBytes 8 0x30000)
def debugged (halted : Bool) : State := hosted.setGrp 0 { grp0 with halted := halted, hold := true, kern := { probeKernel with wsizes := [0] } }
theorem test_meets_DebugCommands :
    ([(.debugRelease (debugBody 2), false), (.debugRelease (debugBody 2), true), (.debugHold (debugBody 3), false), (.debugUnhold (debugBody 4), false),
      (.debugStep (debugBody 5), true), (.debugBkset (debugBody 6), false), (.debugBkclr (debugBody 7), false)] : List (Instr × Bool)).all (fun x => match debugs x.1 (debugged x.2) 0 with
      | some (c, act, ok, _) => ok && soundly x.1 (debugged x.2) && bodyNat c 0 2 == act && bodyNat c 0xC 4 == 0 &&
          findGroup (debugged x.2) (bodyNat c 2 2) (bodyNat c 4 2) (bodyNat c 6 1) (bodyNat c 7 1) == some 0 &&
          ((debugged x.2).grp 0).ctxid == owner (debugged x.2) c
      | none => false) = true ∧
    (let c := good 32 (natToBytes 4 (8 + 2 ^ 16) ++ [0, 0, 0, 0, 255, 255, 255, 255, 0, 0, 0, 0] ++ natToBytes 8 0x20004)
     ((debugs (.debugSetpc c) (debugged true) 0).map (fun x => x.2.2.1)) = some true ∧ soundly (.debugSetpc c) (debugged true) = true ∧ bodyNat c 0 2 = 8) ∧
    (∀ h : Bool, soundly (.debugHalt (debugBody 1)) (debugged h) = true ∧ bodyNat (debugBody 1) 0 2 = 1 ∧ ((debugged h).grp 0).halted = h) := by
  decide +kernel
theorem test_meets_DebugCommands_dump :
    sound (.debugDump (debugBody 9)) (debugged true) ∧ bodyNat (debugBody 9) 0 2 = 9 ∧ ((debugged true).grp 0).halted = true ∧
    ((debugged true).ctx ((debugged true).grp 0).ctxid).conf = false ∧
    ∃ t, writeRange (debugged true) whoHost ((debugged true).grp 0).ctxid (body64 (debugBody 9) 24) (dumpBytes ((debugged true).grp 0)) = .ok t :=
  ⟨sound_of (by decide +kernel), by decide +kernel, by decide +kernel, by decide +kernel, ok_of (by decide +kernel)⟩

/-- The last entry is SEQ 4096. -/
def boxed : State := { hosted with bbox := { seq := 4097, entries := [(0, some ⟨4096, 0, 8, 0, 0, 0, 0, []⟩), (1, some ⟨1, 0, 8, 0, 0, 0, 0, []⟩)] } }
theorem report_length (s : State) (nonce : List Byte) (h : nonce.length = 32) (id : Nat) : (attestReport s nonce id).length = 256 := by
  have natToBytes_length : ∀ n x, (natToBytes n x).length = n := by
    intro n; induction n with
    | zero => intro x; rfl
    | succ n ih => intro x; simp [natToBytes, ih]
  simp [attestReport, zeros, natToBytes_length, h]
theorem test_meets_ManagementCommands :
    (∀ x ∈ [[0, 0], [0x10, 0], [0x40, 0]], let c := onMgmt 4 x; soundly (.mgmtrd c) hosted = true ∧ bodyNat c 0 4 ≤ 0x40 ∧ bodyNat c 0 4 % 8 = 0) ∧
    (∃ v, mgmtRead hosted 0x010 = some v) ∧
    (let c := onMgmt 16 [0x10, 0, 0, 0, 0, 0, 0, 0, 20]; soundly (.mgmtwr c) hosted = true ∧ bodyNat c 4 4 = 0) ∧
    (let c := onMgmt 116 [255]; soundly (.keyload c) hosted = true ∧ bodyNat c 1 1 = 0 ∧ bodyNat c 0x72 2 = 0 ∧ bodyNat c 0 1 ≠ 0) ∧
    (∀ n ∈ [1, 4096], let c := onMgmt 16 (natToBytes 8 0x30000 ++ natToBytes 4 1 ++ natToBytes 4 n)
      soundly (.bbread c) boxed = true ∧ 1 ≤ bodyNat c 12 4 ∧ bodyNat c 12 4 ≤ 4096) := by
  refine ⟨by decide +kernel, ⟨_, rfl⟩, by decide +kernel, by decide +kernel, by decide +kernel⟩
theorem test_meets_ManagementCommands_buffers :
    (let c := onMgmt 48 (natToBytes 42 (0x30000 * 2 ^ 256 + 1 * 2 ^ 320))
     sound (.attest c) hosted ∧ bodyNat c 0x2A 6 = 0 ∧ bodyNat c 0x28 2 = 1 ∧ ctxAlive hosted 1 = true ∧
      ∃ t, writeBuffer hosted c (body64 c 0x20) (attestReport hosted (c.body.take 32) (bodyNat c 0x28 2)) = .ok t) ∧
    (let c := onMgmt 16 (natToBytes 8 0x30000 ++ natToBytes 4 4096 ++ natToBytes 4 1)
     ∃ t, writeBuffer boxed c (body64 c 0) ((bboxEntries boxed.bbox (bodyNat c 8 4) (bodyNat c 12 4)).flatMap BBoxEntry.bytes) = .ok t) := by
  refine ⟨⟨sound_of (by decide +kernel), by decide +kernel, by decide +kernel, by decide +kernel, ?_⟩, ok_of (by decide +kernel)⟩
  have h : ((onMgmt 48 (natToBytes 42 (0x30000 * 2 ^ 256 + 1 * 2 ^ 320))).body.take 32).length = 32 := by decide +kernel
  simp only [writeBuffer, show (onMgmt 48 (natToBytes 42 (0x30000 * 2 ^ 256 + 1 * 2 ^ 320))).qp < 2 by decide, if_true, report_length _ _ h]
  rw [if_pos (by decide +kernel)]
  exact ⟨_, rfl⟩
/-! ## Steps and encodings -/

/-- Step at a probed word, lanes 0 to 31 of group 0: what the statement asks of the state, of the word, and of its decoding. -/
def laneTurnAt (s : State) (k : Nat) (m : Word) (rest : List Turn) : Bool :=
  let t : State := { passTime s with agenda := rest }
  let pc := ((t.grp k).lane ((lowest m).getD 0)).pc
  s.cur.lanes == 0 && !s.mgmt.dead && s.mgmt.asked.isNone && s.agenda == .lanes k m :: rest &&
    laneTurnOk (t.grp k) m && !(eventPending t k && atEventBoundary (t.grp k)) && (frontTrap t k m pc).isNone && (breakLanes (t.grp k) m pc (groupLen t (t.grp k) pc)).isNone && !keptForEvent t k m
def fetchedAt (s : State) (k : Nat) (m : Word) (rest : List Turn) : Option Word :=
  let t : State := { passTime s with agenda := rest }
  let pc := ((t.grp k).lane ((lowest m).getD 0)).pc
  match fetchWord { t with cur := { key := k, lanes := m, pc := pc } } (t.grp k) pc with
  | .word w => some w
  | _ => none
/-- The word in the middle of a prefix group. -/
def midGroup : State := placeBytes { bench with cur := { lanes := 3, pc := 0x20000, pos := 1 } } 0x20004 4 0x020420C0
def eventful : State := { tables with agenda := [.event .clusterPlacement] }
theorem test_meets_StepRunsInstruction :
    (∀ w ∈ [0x020420C0#32, 0xFFFFFFFF#32], let s := State.reset.withFetchWord 32 w.toNat
      laneTurnAt s 0 0xFFFFFFFF [] = true ∧ fetchedAt s 0 0xFFFFFFFF [] = some w) ∧
    ((decodeMarred 0x020420C0).map (·.2) = some {} ∧ decodeMarred 0xFFFFFFFF = none ∧
      hintKind 0xFFFFFFFF = 0 ∧ (let s := State.reset.withFetchWord 32 0xFFFFFFFF
      overRun (s.grp 0) 0xFFFFFFFF 1 = 0 ∧ (s.ctx (s.grp 0).ctxid).trace.on = false ∧
        ∀ l, l < 32 → ((s.grp 0).lane l).resv = none)) ∧
    (midGroup.cur.lanes ≠ 0 ∧ midGroup.mgmt.dead = false ∧ midGroup.mgmt.asked = none ∧
      (match fetchWord (passTime midGroup) ((passTime midGroup).grp 0) (midGroup.cur.pc + BitVec.ofNat 64 (4 * midGroup.cur.pos)) with
        | .word w => w == 0x020420C0
        | _ => false) = true) ∧
    (let s := State.reset.withFetchWord 64 ((encodeChunk (.chunkMovi 5 7)).getD 0).toNat
     s.cur.lanes = 0 ∧ s.mgmt.dead = false ∧ s.mgmt.asked = none ∧ s.agenda = [.seq 0] ∧
      chooseSlot { passTime s with agenda := [] } 0 = some 0 ∧
      (let x := (selectSlot { passTime s with agenda := [] } 0 0).slot (slotKey 0 0)
       x.pc < x.imp.words.length ∧ decodeChunk (x.imp.words.getD x.pc 0) = some (.chunkMovi 5 7))) ∧
    (eventful.cur.lanes = 0 ∧ eventful.agenda = [.event .clusterPlacement] ∧ answers eventful.mgmt .clusterPlacement = true) := by
  refine ⟨?_, by decide +kernel, by decide +kernel, by decide +kernel, rfl, rfl, rfl⟩
  intro w hw
  simp only [List.mem_cons, List.not_mem_nil, or_false] at hw
  rcases hw with rfl | rfl <;> exact ⟨by decide +kernel, by decide +kernel⟩
theorem test_meets_DecodeEncode : Instr.wf (.add true 1 2 3 4) = true ∧ (Instr.add true 1 2 3 4).words ≠ 0 ∧
    Instr.wf (.comb 1 2 2 1 2 3 4) = true ∧ (Instr.comb 1 2 2 1 2 3 4).words ≠ 0 := by decide +kernel
theorem test_meets_EncodeDecode : decodeWord (0#1 ++ 1#6 ++ 0#4 ++ 1#6 ++ 2#6 ++ 3#6 ++ 0#3) = some (.add false 1 2 3 0) ∧
    decodeChunk ((encodeChunk (.chunkMovi 5 7)).getD 0) = some (.chunkMovi 5 7) := by decide +kernel

/-- R352's example: modules 5 and 40 meet in matching 45, in plane 0 at slot 44 and in plane 11 at slot 0, and over all planes at most four
slots apart (spec/16_fabric_host.md). -/
theorem test_slots_of_a_pair : matching 44 0 = 5 ^^^ 40 ∧ matching 0 11 = 5 ^^^ 40 ∧
    slotsTo (fun _ => true) 45 (5 ^^^ 40) = some 2 ∧ slotsTo (fun p => p == 0) 45 (5 ^^^ 40) = some 126 := by decide +kernel
/-! ## Chunks -/

/-- Slot 0 of link 31 of module 9's neighbour: channel 2 is bound to rank 1, slot 0, and its context waits for a chunk on it. -/
def chunkSlot : SeqSlot := { st := .waiting, wait := some (.chunk 2), bind := [(2, some 1)], last := some 7, imp := { impid := 5 } }
def chunks (n : Nat) (x : SeqSlot) : State := { tables with seqs := { tables.seqs with slots := [(slotKey 31 n, x)] } }
def chunkOf (impid : Dword) (rank : Nat) : Chunk := ⟨[1, 2, 3, 4], 9, impid, rank, 0⟩
/-- One byte less than the four that would fill its staging is free. -/
def fullSlot : SeqSlot := { chunkSlot with staged := [⟨List.replicate 131069 0, 0, 5, 0, 0⟩] }
theorem test_meets_ChunkArrivals_full :
    ((chunks 0 fullSlot).slot (slotKey 31 0)).backlog = [] ∧ stagingBytes < ((chunks 0 fullSlot).slot (slotKey 31 0)).used + (chunkOf 5 1).payload.length ∧
    (let x := { fullSlot with backlog := [(4, chunkOf 5 1)] }
     ∃ b rest, x.backlog = b :: rest ∧ stagingBytes < x.used + b.2.payload.length) := by
  have h : fullSlot.used = 131069 := by
    simp only [SeqSlot.used, fullSlot, chunkSlot, List.flatMap_nil, List.append_nil, List.map_cons, List.map_nil, List.length_replicate, List.foldl]
  refine ⟨rfl, ?_, (4, chunkOf 5 1), [], rfl, ?_⟩
  · rw [show (chunks 0 fullSlot).slot (slotKey 31 0) = fullSlot from rfl, h]; decide
  · rw [show SeqSlot.used { fullSlot with backlog := [(4, chunkOf 5 1)] } = fullSlot.used from rfl, h]; decide
theorem test_meets_ChunkArrivals :
    (∀ n, n < 4 → let x := (chunks n chunkSlot).slot (slotKey 31 n); x.backlog = [] ∧ x.used + (chunkOf 5 1).payload.length ≤ stagingBytes) ∧
    (let x := (chunks 0 chunkSlot).slot (slotKey 31 0)
     let bound := fun (c : Chunk) => (List.range 16).find? (fun m => x.bound m == some (c.rank + 128 * c.slot))
     x.last = some (chunkOf 7 1).impid ∧
     (x.last ≠ some (chunkOf 5 1).impid ∧ x.st ≠ .free ∧ x.imp.impid = (chunkOf 5 1).impid ∧ bound (chunkOf 5 1) = some 2 ∧
       x.st = .waiting ∧ x.wait = some (.chunk 2)) ∧
     x.imp.impid ≠ (chunkOf 6 1).impid ∧ bound (chunkOf 5 2) = none) ∧
    (3 ≠ tables.fabric.self ∧ 0 = tables.fabric.self) := by decide +kernel

/-! ## Fabric accesses -/

/-- v2 of both lanes addresses, by peer 5, the byte 0x30000 there. Which module a peer number names is an opaque constant of Config, so
the witnesses below are for every table that gives peer 5 another module. -/
def distant : State := benchOf (pair (pair grp0 2 0x8500000000030000) 4 0x8500000000030000)
/-- As the checks find the access, whatever the table. -/
def peerAccess : AccRes := match Config.peerEntry 0 5 with
  | none => .trap 7 1
  | some m => .fabric 5 m
theorem away_of {i : Instr} {s t : State} {k : AccKind} {size : Nat} {ea : Nat → Dword} {m : Nat} (hm : Config.peerEntry 0 5 = some m)
    (hs : m ≠ 0) (ht : t.fabric.self = 0) (h : ∀ l, inMask (viewOf i s).act l = true → laneAcc t (viewOf i s) k size ea l = peerAccess) :
    away i s t k size ea (fun _ => 5) (fun _ => m) := fun l hl => ⟨by rw [h l hl, peerAccess, hm], ht ▸ hs⟩
/-- An aligned address of peer 5's global memory. -/
theorem peer_access {s : State} {w : View} {k : AccKind} {size : Nat} {ea : Nat → Dword} {l : Nat} (h : (ea l).toNat % size = 0)
    (hr : regionOf (ea l) = .fabric) (hl : regionOf (ea l &&& 0x00FFFFFFFFFFFFFF#64) = .global) (hp : bitsOf (ea l) 56 7 = 5)
    (hc : (s.ctx w.g.ctxid).fab = true ∧ (s.ctx w.g.ctxid).contract.getLsbD 10 = true ∧ (s.ctx w.g.ctxid).peers = 0) :
    laneAcc s w k size ea l = peerAccess := by
  have hc' : ¬((s.ctx w.g.ctxid).fab = false ∨ (s.ctx w.g.ctxid).contract.getLsbD 10 = false) := by simp [hc.1, hc.2.1]
  simp only [laneAcc, checkAccess, h, ne_eq, not_true_eq_false, if_false, hr, hl, hp, hc', hc.2.2, peerAccess]
  rfl
theorem peer_accesses {i : Instr} {s t : State} {k : AccKind} {size : Nat} {ea : Nat → Dword}
    (h : (acting i s).all (fun l => decide ((ea l).toNat % size = 0) && regionOf (ea l) == .fabric &&
      regionOf (ea l &&& 0x00FFFFFFFFFFFFFF#64) == .global && bitsOf (ea l) 56 7 == 5) = true)
    (hc : (t.ctx (viewOf i s).g.ctxid).fab = true ∧ (t.ctx (viewOf i s).g.ctxid).contract.getLsbD 10 = true ∧ (t.ctx (viewOf i s).g.ctxid).peers = 0) :
    ∀ l, inMask (viewOf i s).act l = true → laneAcc t (viewOf i s) k size ea l = peerAccess := fun l hl => by
  have h := List.all_eq_true.mp h l ((mem_lanesOf _ _).mpr hl)
  simp only [Bool.and_eq_true, beq_iff_eq, decide_eq_true_eq] at h
  exact peer_access h.1.1.1 h.1.1.2 h.1.2 h.2 hc
theorem test_meets_FabricAccesses (m : Nat) (hm : Config.peerEntry 0 5 = some m) (hs : m ≠ 0) :
    (let i : Instr := .lda true 3 4 2 1 0 0
     let w := viewOf i distant
     ∃ f, loads i = some f ∧ ready i distant = true ∧ w.g.count .rm < 63 ∧ w.g.fenced w.lanes = false ∧
      f.mayAcquire w (enter i distant) = true ∧ w.act ≠ 0 ∧
      away i distant (enter i distant) ⟨.read, f.size == 8⟩ f.size (f.ea w) (fun _ => 5) (fun _ => m) ∧
      away i distant (f.before w (enter i distant)) ⟨.read, f.size == 8⟩ f.size (f.ea w) (fun _ => 5) (fun _ => m)) ∧
    (let i : Instr := .stl true 4 6 2 1 0 0
     let w := viewOf i distant
     ∃ f, stores i = some f ∧ ready i distant = true ∧ w.g.count .rm < 63 ∧ w.g.fenced w.lanes = false ∧ w.act ≠ 0 ∧
      away i distant (enter i distant) f.kind f.size (f.ea w) (fun _ => 5) (fun _ => m) ∧
      ∀ l, inMask w.act l = true → f.suits (f.ea w l) = true ∧ (f.rel.isSome = true → mayRelease (enter i distant) distant.key w.g l = true)) ∧
    (let i : Instr := .atomFabric true 0 6 1 1 8 0
     let w := viewOf i distant
     ∃ f, atomics i = some f ∧ ready i distant = true ∧ w.g.count .rm < 63 ∧ w.g.fenced w.lanes = false ∧ w.act ≠ 0 ∧
      away i distant (enter i distant) ⟨.write, atomFlagOk f.wide f.fn f.scope⟩ f.size (fun l => w.g.rv64 f.addr l) (fun _ => 5) (fun _ => m)) :=
  ⟨⟨_, rfl, by decide +kernel, by decide +kernel, by decide +kernel, by decide +kernel, by decide +kernel,
     away_of hm hs (by decide +kernel) (peer_accesses (by decide +kernel) (by decide +kernel)),
     away_of hm hs (by decide +kernel) (peer_accesses (by decide +kernel) (by decide +kernel))⟩,
   ⟨_, rfl, by decide +kernel, by decide +kernel, by decide +kernel, by decide +kernel,
     away_of hm hs (by decide +kernel) (peer_accesses (by decide +kernel) (by decide +kernel)),
     of_acting _ (by decide +kernel)⟩,
   ⟨_, rfl, by decide +kernel, by decide +kernel, by decide +kernel, by decide +kernel,
     away_of hm hs (by decide +kernel) (peer_accesses (by decide +kernel) (by decide +kernel))⟩⟩
/-- Two lanes' words in one sector of module 9; a peer's access of four bytes; a request that awaits two lanes. -/
def share (l : Nat) : Share := ⟨l, 9, 0x8500000000030000 + BitVec.ofNat 64 (4 * l), 4, 7, 0, [32 + l], false⟩
def asking : State := benchOf { grp0 with ops := [⟨3, .rm, 3, false, .remote [⟨8, false, 9, [⟨0, [32], 4, false, 0x8500000000030000⟩, ⟨1, [33], 4, false, 0x8500000000030004⟩], false⟩]⟩] }
theorem test_meets_FabricAccesses_messages :
    ([share 0, share 1] ≠ [] ∧ (∀ x ∈ [share 0, share 1], x.module ≠ bench.fabric.self) ∧ ([share 0, share 1].map Share.sector).eraseDups.length = 1) ∧
    (∀ k ∈ [RemoteKind.read, .write, .atom 0], let a : RemoteAcc := ⟨0, 0x30000, 4, 7, 0⟩
      translate bench whoPeer 1 (bench.ctx 1) (if k = .read then .read else .write) a.addr = .ok 0x30000 0 0 ∧
      (regionOf a.addr = .flag → remoteFlagOk k a.size = true) ∧ bench.poisoned none 0x30000 a.size = none ∧ keyTag bench 0 = 0 ∧
      bench.tags = []) ∧
    (askerOf asking 8 = some 0 ∧ (∃ o rs r, findRequest (asking.grp 0) 8 = some (o, rs, r) ∧ (r.lanes.map (·.lane)).Nodup ∧
      (∀ x ∈ r.lanes, x.lane ∈ [((0, 5) : Nat × BitVec 128), (1, 6)].map (·.1)) ∧ (∀ q ∈ rs, q.id = 8 ∨ q.done = true))) ∧
    (let s := benchOf (grp0.modLane 1 (fun x => { x with refusals := [⟨7, 4, 0x8500000000030000⟩] }))
     ((s.grp 0).lane 1).stepDue = false ∧ ((s.grp 0).lane 1).refusals = [⟨7, 4, 0x8500000000030000⟩] ∧ (s.grp 0).tlanes = 0 ∧ (s.grp 0).fences = []) :=
  ⟨by decide +kernel, by decide +kernel, ⟨by decide +kernel, _, _, _, rfl, by decide +kernel, by decide +kernel, by decide +kernel⟩, by decide +kernel⟩

/-! ## Traps of accesses and of decoding -/

/-- The bench with another entry for its page. -/
def paged (e : Nat) : State := placeBytes bench 0x102000 8 e
theorem test_meets_AccessTraps :
    ([Instr.ld true 2 4 2 0 0, .lda true 3 4 2 1 0 0, .st true 2 4 2 0 0, .stl true 3 4 2 1 0 0, .atomTeam true 0 4 1 1 6 0, .red true 0 1 3 2 6 0].all (fun i =>
      let s := benchOf (pair grp0 2 0x0090000000000000)
      match accesses i with
      | some (size, k, ea, suits) => ready i s && (viewOf i s).act != 0 && (s.grp s.key).tlanes == 0 && (s.grp s.key).fences.isEmpty &&
          (acting i s).all (fun l => suits (ea (viewOf i s) l) && checkAccess (enter i s) (viewOf i s).g l k (ea (viewOf i s) l) size == .trap 7 1)
      | none => false) = true) ∧
    ([(0x0080000000000000 : Dword), 0x00EF000000000000, 0x00F5000000000000, 0x00F0000000010000, 0x00F1000000000000, 0x00F2000000000000,
      0x00F3000000000000, 0x00F4000100000000].all (fun ea => ea.toNat % 8 == 0 && !ea.getLsbD 63 && checkAccess bench grp0 0 ⟨.read, true⟩ ea 8 == .trap 7 1) = true) ∧
    ((0x30003 : Dword).toNat % 4 ≠ 0) ∧
    (translate bench grp0.asker 1 (bench.ctx 1) .read 0x40000000 = .noPage ∧ translate bench grp0.asker 1 (bench.ctx 1) .write 0x40000000 = .noPage) ∧
    (translate flagged grp0.asker 1 (flagged.ctx 1) .read 0x00F4000000030000 ≠ .noPage) ∧
    (let s := paged (leafEntry 1 - 16); translate s grp0.asker 1 (s.ctx 1) .write 0x30000 = .deny 0) ∧
    (let s := paged (leafEntry 1 + 7 * 2 ^ 40); translate s grp0.asker 1 (s.ctx 1) .read 0x30000 = .deny 2) ∧
    (∃ e shift, leafOf bench whoHost 1 (bench.ctx 1) 0x30000 = .leaf e shift ∧ e.getLsbD 4 = true ∧ e.getLsbD 5 = true ∧ bitsOf e 48 16 = 1 ∧ e.getLsbD 6 = false) ∧
    (let s := benchOf { grp0 with ctxid := 3 }; (s.ctx 3).fab = false) := by
  refine ⟨?_, by decide +kernel, by decide +kernel, by decide +kernel, by decide +kernel, by decide +kernel, by decide +kernel, ?_, by decide +kernel⟩
  · decide +kernel
  · exact ⟨BitVec.ofNat 64 (leafEntry 1), 30, by decide +kernel⟩
/-- Each check of Table 2-11, by an instruction that fails it: group, prefix, lanes at the word, instruction, cause and DETAIL. -/
def queueGrp : Grp := { grp0 with qwin := 1 }
def decodeCases : List (Grp × Prefix × Word × Instr × Nat × Nat) :=
  [(grp0, {}, 3, .shli false 1 2 32 0, 1, 5), (grp0, { imms := [0] }, 3, .add false 1 2 3 0, 1, 2), (grp0, {}, 3, .cpy false 2 4 6 0, 2, 0),
   (grp1, {}, 1, .barv false 0 15 0, 2, 3), ({ grp0 with kern := { probeKernel with compat := true } }, {}, 3, .partset false 3 0, 2, 1),
   (grp0, {}, 3, .add64 false 1 2 4 0, 1, 4), (queueGrp, {}, BitVec.allOnes 32, .add false 48 2 3 0, 1, 4),
   ({ grp0 with kern := { probeKernel with wsizes := [0, 0] } }, {}, 3, .add false 63 2 3 0, 0x0E, 0), (grp0, {}, 3, .role false 3 0, 0x0E, 1),
   (queueGrp, {}, 3, .add false 1 48 3 0, 0x0D, 0), (queueGrp, {}, BitVec.allOnes 32, .add64 false 2 48 4 0, 0x0D, 1)]
theorem test_decode_traps : decodeCases.all (fun x => decodeTrap x.1 x.2.2.1 x.2.1 {} x.2.2.2.1 == some (x.2.2.2.2.1, x.2.2.2.2.2)) = true := by decide +kernel
/-- Lane 1 has issued 24 words of its run; group 0's context lacks FP64. -/
def longRun : State := benchOf (grp0.modLane 1 (fun x => { x with run := 24 }))
def poorer : State := bench.setCtx 1 { probeCtx with contract := 1 }
theorem test_meets_DecodeTraps :
    (let i : Instr := .add false 1 2 3 0
     (encodeWord i).isSome = true ∧ isPrefix i = false ∧ longRun.cur.lanes ≠ 0 ∧ (longRun.grp 0).tlanes = 0 ∧ (longRun.grp 0).fences = [] ∧
      (longRun.ctx 1).trace.on = false ∧ longRun.cur.pos = 0 ∧ overRun (longRun.grp 0) longRun.cur.lanes 1 ≠ 0) ∧
    (let i : Instr := .add64 false 1 2 4 0
     (encodeWord i).isSome = true ∧ isPrefix i = false ∧ bench.cur.lanes ≠ 0 ∧ overRun (bench.grp 0) bench.cur.lanes 1 = 0 ∧ (bench.ctx 1).trace.on = false ∧
      decodeTrap (bench.grp 0) bench.cur.lanes bench.cur.pre {} i = some (1, 4)) ∧
    (let i : Instr := .dadd false 0 2 4 0
     (encodeWord i).isSome = true ∧ isPrefix i = false ∧ runsUngranted i poorer = true ∧ unobserved poorer = true ∧
      missingFeature (poorer.ctx (poorer.grp poorer.key).ctxid).contract poorer.cur.pre i = some 1 ∧ (viewOf i poorer).act ≠ 0 ∧
      (poorer.grp poorer.key).tlanes = 0 ∧ (poorer.grp poorer.key).fences = []) := by decide +kernel

/-! ## Memory -/

theorem test_meets_MemoryStaysWellFormed : Memory.wf eventful.mem = true ∧ eventful.mem ≠ [] ∧ ∃ t, step eventful = .next t :=
  ⟨by decide +kernel, by decide +kernel, _, rfl⟩

end Sys2Proof.Tests
end

/-! PROOFS. Chapter 4: the divisions (R94), and the select and lane operations (R103, R111 to R113, R115, R116). -/
namespace Sys2Proof.VectorScalar
open Sys2Proof.Machine Sys2Proof.Claims

/-! ## Division case by case, and that the model's four divisions are R94's -/

section
variable {n : Nat} {x y : BitVec n}

theorem division_by_zero (sgn rem : Bool) (x : BitVec n) :
    division sgn rem x 0 = (if rem then x else BitVec.allOnes n, flDZ) := by
  have hones : BitVec.ofNat n (2 ^ n - 1) = BitVec.allOnes n := by
    apply BitVec.eq_of_toNat_eq
    simp [BitVec.toNat_allOnes]
  simp only [division, if_true, hones]

theorem division_overflow (rem : Bool) (h0 : y ≠ 0) (hb : x.toInt = -(2 ^ (n - 1)) ∧ y.toInt = -1) :
    division true rem x y = (if rem then 0 else x, 0) := by
  rw [division, if_neg h0, if_pos ⟨rfl, hb⟩]

theorem division_signed (rem : Bool) (h0 : y ≠ 0) (hb : ¬ (x.toInt = -(2 ^ (n - 1)) ∧ y.toInt = -1)) :
    division true rem x y = (BitVec.ofInt n (if rem then x.toInt.tmod y.toInt else x.toInt.tdiv y.toInt), 0) := by
  rw [division, if_neg h0, if_neg (fun h => hb h.2), Int.tmod_def]
  rfl

theorem division_unsigned (rem : Bool) (h0 : y ≠ 0) : division false rem x y = (if rem then x % y else x / y, 0) := by
  have hquot : BitVec.ofInt n ((x.toNat : Int).tdiv y.toNat) = x / y := by
    rw [← Int.ofNat_tdiv, BitVec.ofInt_natCast, BitVec.udiv_def]
  have hrem : BitVec.ofInt n ((x.toNat : Int).tmod y.toNat) = x % y := by
    rw [← Int.ofNat_tmod, BitVec.ofInt_natCast, BitVec.umod_def]
  rw [division, if_neg h0, if_neg (fun h => Bool.false_ne_true h.1), ← hquot, ← hrem, Int.tmod_def]
  cases rem <;> rfl

/-- The least signed number is its own negation: the quotient of the overflow, wrapped, is the dividend. -/
theorem ofInt_neg_least (hx : x.toInt = -(2 ^ (n - 1))) : BitVec.ofInt n (-x.toInt) = x := by
  have hmin : x = BitVec.intMin n := by
    rcases Nat.eq_zero_or_pos n with rfl | hn
    · exact Subsingleton.elim _ _
    · exact BitVec.eq_of_toInt_eq (by rw [hx, BitVec.toInt_intMin_of_pos hn])
  calc BitVec.ofInt n (-x.toInt) = -x := by rw [BitVec.ofInt_neg, BitVec.ofInt_toInt]
    _ = x := by rw [hmin, BitVec.neg_intMin]

theorem divS_eq_division (x y : BitVec n) : divS x y = division true false x y := by
  unfold divS
  split
  · next h0 => rw [h0, division_by_zero]; rfl
  · next h0 =>
    by_cases hb : x.toInt = -(2 ^ (n - 1)) ∧ y.toInt = -1
    · rw [division_overflow _ h0 hb, hb.2, Int.tdiv_neg, Int.tdiv_one, ofInt_neg_least hb.1]
      rfl
    · rw [division_signed _ h0 hb]
      rfl

theorem remS_eq_division (x y : BitVec n) : remS x y = division true true x y := by
  unfold remS
  split
  · next h0 => rw [h0, division_by_zero]; rfl
  · next h0 =>
    by_cases hb : x.toInt = -(2 ^ (n - 1)) ∧ y.toInt = -1
    · rw [division_overflow _ h0 hb, hb.2, Int.tmod_neg, Int.tmod_one]
      rfl
    · rw [division_signed _ h0 hb]
      rfl

theorem divU_eq_division (x y : BitVec n) : divU x y = division false false x y := by
  unfold divU
  split
  · next h0 => rw [h0, division_by_zero]; rfl
  · next h0 => rw [division_unsigned _ h0]; rfl

theorem remU_eq_division (x y : BitVec n) : remU x y = division false true x y := by
  unfold remU
  split
  · next h0 => rw [h0, division_by_zero]; rfl
  · next h0 => rw [division_unsigned _ h0]; rfl

end

/-! ## The division words are the two-operand forms of R94's division -/

theorem exec_divisions32 {i : Instr} {sgn rem : Bool} {d : BitVec 6} {f : View → Nat → Word × Word}
    (hf : divisions32 i = some (sgn, rem, d, f)) (s : State) :
    ∃ a b : BitVec 6, exec i s = issue i s (bin32 d a b (division sgn rem)) ∧
      f = fun w l => (w.opnd 0 a.toNat l, w.opnd 1 b.toNat l) := by
  have hS : divS (n := 32) = division true false := funext₂ divS_eq_division
  have hR : remS (n := 32) = division true true := funext₂ remS_eq_division
  have hU : divU (n := 32) = division false false := funext₂ divU_eq_division
  have hV : remU (n := 32) = division false true := funext₂ remU_eq_division
  unfold divisions32 at hf
  split at hf <;> cases hf <;> refine ⟨_, _, ?_, rfl⟩
  · rw [← hS]; rfl
  · rw [← hU]; rfl
  · rw [← hR]; rfl
  · rw [← hV]; rfl

theorem exec_divisions64 {i : Instr} {sgn rem : Bool} {d : BitVec 6} {f : View → Nat → Dword × Dword}
    (hf : divisions64 i = some (sgn, rem, d, f)) (s : State) :
    ∃ a b : BitVec 6, exec i s = issue i s (bin64 d a b (division sgn rem)) ∧ (useOf i).dst = some (r2 d) ∧
      f = fun w l => (w.g.rv64 a.toNat l, w.g.rv64 b.toNat l) := by
  have hS : divS (n := 64) = division true false := funext₂ divS_eq_division
  have hR : remS (n := 64) = division true true := funext₂ remS_eq_division
  have hU : divU (n := 64) = division false false := funext₂ divU_eq_division
  have hV : remU (n := 64) = division false true := funext₂ remU_eq_division
  unfold divisions64 at hf
  split at hf <;> cases hf <;> refine ⟨_, _, ?_, rfl, rfl⟩
  · rw [← hS]; rfl
  · rw [← hU]; rfl
  · rw [← hR]; rfl
  · rw [← hV]; rfl

/-- Settles O3: each division word is a two-operand form of R94's division, which no lane traps at. -/
theorem divisions : Obligations.Divisions := by
  unfold Obligations.Divisions
  constructor
  · intro i s sgn rem d f hf hready
    obtain ⟨a, b, hexec, rfl⟩ := exec_divisions32 hf s
    exact yields_bin32 hexec hready
  · intro i s sgn rem d f hf hready
    obtain ⟨a, b, hexec, hdst, rfl⟩ := exec_divisions64 hf s
    exact yields_bin64 hexec hready hdst

/-! ## Lane operations: a register and the predicate of HINT.MOD -/

section
variable {i : Instr} {s : State} {d a : BitVec 6} {m : View → State → Meaning}

theorem yields_reg_pred (v : Nat → Word) (q : Nat) (b : Nat → Bool) (he : exec i s = issue i s m) (h : ready i s = true)
    (hm : m (viewOf i s) (enter i s) = perLane (viewOf i s) (fun g l => (g.wv d.toNat l (v l)).wp q l (b l))) :
    yields i s (fun l => { regs := [(d.toNat, v l)], preds := [(q, b l)] }) :=
  yields_perLane i s m _ _ he h hm (eff_reg_pred d.toNat q v b) (fun l => one_below d (v l) 0)

/-- R111: a shuffle whose source lanes are the participants among `shflSrc`'s. -/
theorem yields_shuffle {mode : Nat} (n : View → Nat → Nat) (he : exec i s = issue i s (shuffle mode d a n)) (h : ready i s = true) :
    yields i s (fun l =>
      let src := (shflSrc (tileSize (viewOf i s).g) l mode (n (viewOf i s) l)).filter (fun c => inMask (viewOf i s).act c)
      { regs := [(d.toNat, (viewOf i s).opnd 0 a.toNat (src.getD l))], preds := [((viewOf i s).pre.pd, src.isSome)] }) :=
  yields_reg_pred _ _ _ he h rfl

/-- R115, R116: a reduction or scan over the participants that `keep` names. -/
theorem yields_reduce {fp : Bool} {op : Nat} {keep : Nat → Nat → Bool} (he : exec i s = issue i s (reduce fp op d a keep))
    (h : ready i s = true) :
    yields i s (fun l =>
      let cs := (tileMates (viewOf i s) l).filter (keep l)
      let r := redFold fp op (cs.map (fun c => (viewOf i s).opnd 0 a.toNat c))
      { regs := [(d.toNat, r.1)], preds := [((viewOf i s).pre.pd, !cs.isEmpty)], flags := r.2 }) :=
  yields_perLane i s _ _ _ he h rfl (eff_one_pred d.toNat (viewOf i s).pre.pd _ _ _) (fun _ => one_below d _ 0)

end

/-- Settles O8: each word writes its lanes' registers one by one, from values read before any is written. -/
theorem laneOperationResults : Obligations.LaneOperationResults := by
  unfold Obligations.LaneOperationResults
  intro i s f hf hready
  unfold laneOps at hf
  split at hf <;> cases hf
  case h_1 u sel d a b p => exact yields_reg _ (show exec _ s = execSel u sel d a b p s from rfl) hready rfl
  case h_2 u m d a b p => exact yields_shuffle (fun w l => (w.opnd 1 b.toNat l).toNat) (show exec _ s = execShfl u m d a b p s from rfl) hready
  case h_3 u m d a n p => exact yields_shuffle (fun _ _ => n.toNat) (show exec _ s = execShflImm u m d a n p s from rfl) hready
  case h_4 u d ps p => exact yields_reg _ (show exec _ s = execVoteBallot u d ps p s from rfl) hready rfl
  case h_5 u d a p => exact yields_reg_pred _ _ _ (show exec _ s = execMatchLanes u d a p s from rfl) hready rfl
  case h_6 u o d a t p => exact yields_reduce (show exec _ s = execVred u o d a t p s from rfl) hready
  case h_7 u o d a e t p => exact yields_reduce (show exec _ s = execVscan u o d a e t p s from rfl) hready

end Sys2Proof.VectorScalar

/-! PROOFS. Chapter 5: TRAP and BRK (R145). -/
namespace Sys2Proof.ControlTraps
open Sys2Proof.Machine

/-- The meaning of a word at which every lane of Act traps alike; `resume` is the later word that TPC names, if any. -/
def trapAlike (c d : Nat) (resume : View → Option Dword) (w : View) (_ : State) : Meaning :=
  ⟨(lanesOf w.act).map (fun l => (l, .trap c d 0 (resume w))), fun _ s => s⟩

theorem exec_trap (u : Bool) (n : BitVec 8) (p : BitVec 3) (s : State) :
    exec (.trap u n p) s = issue (.trap u n p) s (trapAlike 0x20 n.toNat (fun w => some w.next)) := rfl

theorem exec_brk (u : Bool) (n : BitVec 8) (p : BitVec 3) (s : State) :
    exec (.brk u n p) s = issue (.brk u n p) s (trapAlike 0x0B n.toNat (fun _ => none)) := rfl

theorem viewOf_next (i : Instr) (s : State) : (viewOf i s).next = s.cur.next := rfl

section
variable {i : Instr} {s : State} {c d : Nat} {resume : View → Option Dword}

/-- The trap is taken in the lanes of Act; those that resume later have completed the word. -/
theorem exec_trapAlike (he : exec i s = issue i s (trapAlike c d resume)) (h : ready i s = true) (hd : d < 256)
    (ha : (viewOf i s).act ≠ 0) (ht : (s.grp s.key).tlanes = 0) (hf : (s.grp s.key).fences = []) :
    exec i s = .next (takeTrap (trapping i s (if (resume (viewOf i s)).isSome then (viewOf i s).act else 0)) s.key
      (viewOf i s).act c d (fun _ => (resume (viewOf i s)).getD s.cur.pc) (fun _ => 0)) :=
  he.trans (issue_traps i s _ h c d hd (fun _ => 0) (resume (viewOf i s)) (fun _ s => s) rfl rfl ha ht hf)

/-- With Act empty no lane traps, and the lanes that stand at the word complete it (R121). -/
theorem makes_trapAlike_idle (he : exec i s = issue i s (trapAlike c d resume)) (h : ready i s = true)
    (ha : (viewOf i s).act = 0) : makes i s (viewOf i s).g := by
  have houts : (trapAlike c d resume (viewOf i s) (enter i s)).outs = (acting i s).map (fun l => (l, LaneOut.ok)) := by
    simp only [trapAlike, acting, lanesOf_nil ha, List.map_nil]
  exact ⟨_, he.trans (issue_ready i s _ h houts), leaves_enter i s⟩

end

/-- Settles O19: at either word every lane of Act traps alike; TRAP names the next word to resume at and BRK names none. -/
theorem trapInstructions : Obligations.TrapInstructions := by
  unfold Obligations.TrapInstructions
  intro u n p s ht hf
  refine ⟨?trap, ?brk, ?trapIdle, ?brkIdle⟩
  case trap =>
    intro h ha
    simpa only [viewOf_next, Option.isSome_some, if_true, Option.getD_some] using exec_trapAlike (exec_trap u n p s) h n.isLt ha ht hf
  case brk =>
    intro h ha
    simpa only [Option.isSome_none, Bool.false_eq_true, if_false, Option.getD_none] using
      exec_trapAlike (exec_brk u n p s) h n.isLt ha ht hf
  case trapIdle => exact fun h ha => makes_trapAlike_idle (exec_trap u n p s) h ha
  case brkIdle => exact fun h ha => makes_trapAlike_idle (exec_brk u n p s) h ha

end Sys2Proof.ControlTraps


/-! PROOFS. Tables of words: what a table says of the word that it finds. -/
namespace Sys2Proof.Tables

/-- What holds of a table's entry holds of the entry found. -/
theorem of_entry {α : Type} {t : Option α} {P : α → Prop} (h : t.elim True P) {x : α} (hx : t = some x) : P x := by
  rw [hx] at h
  exact h

/-- What follows for every word that a table knows follows for the word found. -/
theorem of_row {α : Type} {t : Option α} {Q : Prop} (h : t.elim True fun _ => Q) {x : α} (hx : t = some x) : Q := of_entry h hx

/-- A word that a table may know, under a condition. -/
theorem row {α : Type} {t : Option α} {Q : Prop} (h : Q) : t.elim True fun _ => Q := by
  cases t with
  | none => exact trivial
  | some _ => exact h

/-- The same of a condition on words. -/
theorem of_flag {b : Bool} {Q : Prop} (h : cond b Q True) (hb : b = true) : Q := by
  subst hb
  exact h
theorem flag {b : Bool} {Q : Prop} (h : b = true → Q) : cond b Q True := by
  cases b with
  | false => exact trivial
  | true => exact h rfl

end Sys2Proof.Tables

/-! PROOFS. Chapter 2 and chapter 13: decoding and encoding are inverse to each other (Tables 2-1 to 2-10, 13-2 to 13-5). -/
namespace Sys2Proof.Encodings
open Sys2Proof.Laws

/-! ## Fields of words -/

/-- A field with the value k is the numeral k. -/
theorem eq_of_toNat {n k : Nat} {x : BitVec n} (h : x.toNat = k) : x = BitVec.ofNat n k := by
  rw [← h, BitVec.ofNat_toNat, BitVec.setWidth_eq]

/-- Two neighbouring fields, side by side, are one field. -/
theorem fields_join {w : Nat} (x : BitVec w) {k n k' m : Nat} (h : k' = k + n) :
    x.extractLsb' k' m ++ x.extractLsb' k n = x.extractLsb' k (m + n) := by
  subst h
  ext i hi
  simp only [BitVec.getElem_append, BitVec.getElem_extractLsb']
  by_cases h : i < n
  · simp [h]
  · simp [h, show k + n + (i - n) = k + i by omega]

/-- The high and the low part of a field make it up. -/
theorem fields_whole (m n : Nat) {x : BitVec (m + n)} : x.extractLsb' n m ++ x.extractLsb' 0 n = x := by
  rw [fields_join x (by omega), Bits.extract_all]
theorem field_low (m n : Nat) {x : BitVec (m + n)} {z : BitVec n} (h : x.extractLsb' 0 n = z) : x.extractLsb' n m ++ z = x := by
  rw [← h, fields_whole]
theorem field_high (m n : Nat) {x : BitVec (m + n)} {z : BitVec m} (h : x.extractLsb' n m = z) : z ++ x.extractLsb' 0 n = x := by
  rw [← h, fields_whole]
theorem field_high_two (m n k : Nat) {x : BitVec (m + n + k)} {z : BitVec m} (h : x.extractLsb' (n + k) m = z) :
    z ++ x.extractLsb' k n ++ x.extractLsb' 0 k = x := by
  rw [← h, fields_join x (Nat.add_comm n k), fields_whole]

/-! ## What a decoder answers -/

/-- Whatever instruction the answer o holds, its word under the encoder enc is w. -/
def AnswersTo {n : Nat} (enc : Instr → Option (BitVec n)) (w : BitVec n) (o : Option Instr) : Prop := ∀ i, o = some i → enc i = some w

section
variable {n : Nat} {enc : Instr → Option (BitVec n)} {w : BitVec n} {c : Prop} [Decidable c] {o o' : Option Instr}

theorem answers_none : AnswersTo enc w none := fun _ h => nomatch h
theorem answers_some {i : Instr} (h : enc i = some w) : AnswersTo enc w (some i) := fun _ hi => Option.some.inj hi ▸ h
theorem answers_ite (h : c → AnswersTo enc w o) (h' : ¬ c → AnswersTo enc w o') :
    AnswersTo enc w (if c then o else o') := by
  split
  · next hc => exact h hc
  · next hc => exact h' hc
theorem answers_if (h : c → AnswersTo enc w o) : AnswersTo enc w (if c then o else none) := answers_ite h (fun _ => answers_none)

end

/-! ## Each major opcode: a row's fixed bits and its operands make up the word (Table 2-4) -/

theorem answers_major1 (u fn d a b p) :
    AnswersTo encodeWord (BitVec.ofBool u ++ 1#6 ++ fn ++ d ++ a ++ b ++ p) (decodeMajor1 u fn d a b p) := by
  unfold decodeMajor1
  split
  case h_15 => exact answers_none
  all_goals
    refine answers_some ?_
    rw [eq_of_toNat ‹fn.toNat = _›]
    rfl

theorem answers_major2 (u fn d a b p) :
    AnswersTo encodeWord (BitVec.ofBool u ++ 2#6 ++ fn ++ d ++ a ++ b ++ p) (decodeMajor2 u fn d a b p) := by
  unfold decodeMajor2
  split
  case h_15 => exact answers_none
  all_goals
    refine answers_some ?_
    rw [eq_of_toNat ‹fn.toNat = _›]
    rfl

theorem answers_major3 (u fn d a b p) :
    AnswersTo encodeWord (BitVec.ofBool u ++ 3#6 ++ fn ++ d ++ a ++ b ++ p) (decodeMajor3 u fn d a b p) := by
  unfold decodeMajor3
  split
  case h_16 => exact answers_none
  case h_1 | h_2 | h_3 | h_4 | h_9 | h_10 | h_11 | h_12 | h_13 | h_14 | h_15 =>
    refine answers_some ?_
    rw [eq_of_toNat ‹fn.toNat = _›]
    rfl
  case h_5 | h_6 | h_7 | h_8 =>
    refine answers_if ?_
    rintro rfl
    refine answers_some ?_
    rw [eq_of_toNat ‹fn.toNat = _›]
    rfl

theorem answers_major4 (u fn d a b p) :
    AnswersTo encodeWord (BitVec.ofBool u ++ 4#6 ++ fn ++ d ++ a ++ b ++ p) (decodeMajor4 u fn d a b p) := by
  unfold decodeMajor4
  split
  case h_16 => exact answers_none
  case h_1 | h_2 | h_3 | h_4 | h_9 | h_10 | h_11 | h_12 | h_13 | h_14 | h_15 =>
    refine answers_some ?_
    rw [eq_of_toNat ‹fn.toNat = _›]
    rfl
  case h_5 | h_6 | h_7 | h_8 =>
    refine answers_if ?_
    rintro rfl
    refine answers_some ?_
    rw [eq_of_toNat ‹fn.toNat = _›]
    rfl

theorem answers_major5 (u fn d a i p) :
    AnswersTo encodeWord (BitVec.ofBool u ++ 5#6 ++ fn ++ d ++ a ++ i ++ p) (decodeMajor5 u fn d a i p) := by
  unfold decodeMajor5
  split
  case h_9 => exact answers_none
  all_goals
    refine answers_some ?_
    rw [eq_of_toNat ‹fn.toNat = _›]
    rfl

theorem answers_major6 (u fn d a i p) :
    AnswersTo encodeWord (BitVec.ofBool u ++ 6#6 ++ fn ++ d ++ a ++ i ++ p) (decodeMajor6 u fn d a i p) := by
  unfold decodeMajor6
  split
  case h_9 => exact answers_none
  all_goals
    refine answers_some ?_
    rw [eq_of_toNat ‹fn.toNat = _›]
    rfl

theorem answers_major7 (u fn d a i p) :
    AnswersTo encodeWord (BitVec.ofBool u ++ 7#6 ++ fn ++ d ++ a ++ i ++ p) (decodeMajor7 u fn d a i p) := by
  unfold decodeMajor7
  split
  case h_3 => exact answers_none
  all_goals
    refine answers_if ?_
    rintro rfl
    refine answers_some ?_
    rw [eq_of_toNat ‹fn.toNat = _›]
    rfl

theorem answers_major8 (u fn d a b p) :
    AnswersTo encodeWord (BitVec.ofBool u ++ 8#6 ++ fn ++ d ++ a ++ b ++ p) (decodeMajor8 u fn d a b p) := by
  unfold decodeMajor8
  split
  case h_12 => exact answers_none
  case h_1 | h_2 | h_3 | h_4 | h_5 | h_6 | h_7 | h_8 | h_9 | h_11 =>
    refine answers_some ?_
    rw [eq_of_toNat ‹fn.toNat = _›]
    rfl
  case h_10 =>
    refine answers_if ?_
    rintro rfl
    refine answers_some ?_
    rw [eq_of_toNat ‹fn.toNat = _›]
    rfl

theorem answers_major9 (u fn d a b p) :
    AnswersTo encodeWord (BitVec.ofBool u ++ 9#6 ++ fn ++ d ++ a ++ b ++ p) (decodeMajor9 u fn d a b p) := by
  unfold decodeMajor9
  split
  case h_11 => exact answers_none
  all_goals
    refine answers_some ?_
    rw [eq_of_toNat ‹fn.toNat = _›]
    rfl

theorem answers_major10 (u fn d a b p) :
    AnswersTo encodeWord (BitVec.ofBool u ++ 10#6 ++ fn ++ d ++ a ++ b ++ p) (decodeMajor10 u fn d a b p) := by
  unfold decodeMajor10
  split
  case h_4 => exact answers_none
  all_goals
    refine answers_some ?_
    rw [eq_of_toNat ‹fn.toNat = _›]
    rfl

theorem answers_major11 (u fn d a b p) :
    AnswersTo encodeWord (BitVec.ofBool u ++ 11#6 ++ fn ++ d ++ a ++ b ++ p) (decodeMajor11 u fn d a b p) := by
  unfold decodeMajor11
  refine answers_if ?_
  rintro hd
  refine answers_some (congrArg some ?_)
  simp only [field_high 3 3 hd]

theorem answers_major12 (u fn d a b p) :
    AnswersTo encodeWord (BitVec.ofBool u ++ 12#6 ++ fn ++ d ++ a ++ b ++ p) (decodeMajor12 u fn d a b p) := by
  unfold decodeMajor12
  refine answers_if ?_
  rintro hd
  refine answers_some (congrArg some ?_)
  simp only [field_high 3 3 hd]

theorem answers_major13 (u fn d a b p) :
    AnswersTo encodeWord (BitVec.ofBool u ++ 13#6 ++ fn ++ d ++ a ++ b ++ p) (decodeMajor13 u fn d a b p) := by
  unfold decodeMajor13
  split
  case h_9 => exact answers_none
  all_goals
    refine answers_if ?_
    rintro hd
    refine answers_some (congrArg some ?_)
    rw [eq_of_toNat ‹fn.toNat = _›]
    simp only [field_high_two 2 1 3 hd]
    rfl

theorem answers_major14 (u fn d a b p) :
    AnswersTo encodeWord (BitVec.ofBool u ++ 14#6 ++ fn ++ d ++ a ++ b ++ p) (decodeMajor14 u fn d a b p) := by
  unfold decodeMajor14
  split
  case h_17 => exact answers_none
  case h_1 | h_2 | h_3 | h_4 | h_5 | h_6 | h_7 | h_8 =>
    refine answers_if ?_
    rintro ⟨hd, ha, hb⟩
    refine answers_some (congrArg some ?_)
    rw [eq_of_toNat ‹fn.toNat = _›]
    simp only [field_high 3 3 hd, field_high 3 3 ha, field_high 3 3 hb]
    rfl
  case h_9 | h_10 | h_11 | h_12 | h_13 | h_14 | h_15 | h_16 =>
    refine answers_some ?_
    rw [eq_of_toNat ‹fn.toNat = _›]
    rfl

theorem answers_major15 (u fn d a b p) :
    AnswersTo encodeWord (BitVec.ofBool u ++ 15#6 ++ fn ++ d ++ a ++ b ++ p) (decodeMajor15 u fn d a b p) := by
  unfold decodeMajor15
  refine answers_if ?_
  rintro hb
  refine answers_some (congrArg some ?_)
  simp only [fields_join (k' := 2) (k := 1) (n := 1) (m := 4) b rfl, field_low 5 1 hb]

theorem answers_major16 (u fn d a b p) :
    AnswersTo encodeWord (BitVec.ofBool u ++ 16#6 ++ fn ++ d ++ a ++ b ++ p) (decodeMajor16 u fn d a b p) := by
  unfold decodeMajor16
  split
  case h_17 => exact answers_none
  case h_1 | h_2 | h_3 | h_4 | h_5 | h_6 | h_7 | h_8 =>
    refine answers_some ?_
    rw [eq_of_toNat ‹fn.toNat = _›]
    rfl
  case h_9 | h_10 | h_11 | h_12 | h_13 | h_14 | h_15 | h_16 =>
    refine answers_if ?_
    rintro hb
    refine answers_some (congrArg some ?_)
    rw [eq_of_toNat ‹fn.toNat = _›]
    simp only [field_high 3 3 hb]
    rfl

theorem answers_major17 (u fn d a b p) :
    AnswersTo encodeWord (BitVec.ofBool u ++ 17#6 ++ fn ++ d ++ a ++ b ++ p) (decodeMajor17 u fn d a b p) := by
  unfold decodeMajor17
  split
  case h_9 => exact answers_none
  all_goals
    refine answers_if ?_
    rintro rfl
    refine answers_some ?_
    rw [eq_of_toNat ‹fn.toNat = _›]
    rfl

theorem answers_major18 (u fn d a b p) :
    AnswersTo encodeWord (BitVec.ofBool u ++ 18#6 ++ fn ++ d ++ a ++ b ++ p) (decodeMajor18 u fn d a b p) := by
  unfold decodeMajor18
  split
  case h_9 => exact answers_none
  case h_1 | h_2 | h_3 | h_4 =>
    refine answers_some ?_
    rw [eq_of_toNat ‹fn.toNat = _›]
    rfl
  case h_5 | h_6 | h_7 | h_8 =>
    refine answers_if ?_
    rintro hb
    refine answers_some (congrArg some ?_)
    rw [eq_of_toNat ‹fn.toNat = _›]
    simp only [field_high 1 5 hb]
    rfl

theorem answers_major19 (u fn d a b p) :
    AnswersTo encodeWord (BitVec.ofBool u ++ 19#6 ++ fn ++ d ++ a ++ b ++ p) (decodeMajor19 u fn d a b p) := by
  unfold decodeMajor19
  split
  case h_7 => exact answers_none
  case h_1 | h_2 | h_4 =>
    refine answers_if ?_
    rintro ⟨hd, ha, rfl⟩
    refine answers_some (congrArg some ?_)
    rw [eq_of_toNat ‹fn.toNat = _›]
    simp only [field_high 3 3 hd, field_high 3 3 ha]
  case h_3 =>
    refine answers_if ?_
    rintro ⟨ha, rfl⟩
    refine answers_some (congrArg some ?_)
    rw [eq_of_toNat ‹fn.toNat = _›]
    simp only [field_high 3 3 ha]
  case h_5 =>
    refine answers_if ?_
    rintro rfl
    refine answers_some ?_
    rw [eq_of_toNat ‹fn.toNat = _›]
    rfl
  case h_6 =>
    refine answers_if ?_
    rintro ⟨rfl, rfl, hb⟩
    refine answers_some (congrArg some ?_)
    rw [eq_of_toNat ‹fn.toNat = _›]
    simp only [field_high 3 3 hb]

theorem answers_major20 (u fn d a b p) :
    AnswersTo encodeWord (BitVec.ofBool u ++ 20#6 ++ fn ++ d ++ a ++ b ++ p) (decodeMajor20 u fn d a b p) := by
  unfold decodeMajor20
  split
  case h_17 => exact answers_none
  case h_1 | h_2 | h_3 | h_4 | h_5 | h_6 | h_7 | h_8 =>
    refine answers_if ?_
    rintro hb
    refine answers_some (congrArg some ?_)
    rw [eq_of_toNat ‹fn.toNat = _›]
    simp only [field_high 5 1 hb]
    rfl
  case h_9 | h_10 | h_11 | h_12 | h_13 | h_14 | h_15 | h_16 =>
    refine answers_if ?_
    rintro hb
    refine answers_some (congrArg some ?_)
    rw [eq_of_toNat ‹fn.toNat = _›]
    simp only [field_high_two 4 1 1 hb]
    rfl

theorem answers_major21 (u fn d a b p) :
    AnswersTo encodeWord (BitVec.ofBool u ++ 21#6 ++ fn ++ d ++ a ++ b ++ p) (decodeMajor21 u fn d a b p) := by
  unfold decodeMajor21
  split
  case h_8 => exact answers_none
  case h_1 | h_2 =>
    refine answers_if ?_
    rintro rfl
    refine answers_some ?_
    rw [eq_of_toNat ‹fn.toNat = _›]
    rfl
  case h_3 | h_4 | h_5 =>
    refine answers_if ?_
    rintro ⟨ha, rfl⟩
    refine answers_some (congrArg some ?_)
    rw [eq_of_toNat ‹fn.toNat = _›]
    simp only [field_high 1 5 ha]
  case h_6 | h_7 =>
    refine answers_if ?_
    rintro ⟨hd, hb⟩
    refine answers_some (congrArg some ?_)
    rw [eq_of_toNat ‹fn.toNat = _›]
    simp only [field_high 1 5 hd, field_high 1 5 hb]

theorem answers_major22 (u fn d a b p) :
    AnswersTo encodeWord (BitVec.ofBool u ++ 22#6 ++ fn ++ d ++ a ++ b ++ p) (decodeMajor22 u fn d a b p) := by
  unfold decodeMajor22
  split
  case h_17 => exact answers_none
  case h_1 | h_2 | h_3 | h_4 | h_5 | h_6 | h_7 | h_8 =>
    refine answers_if ?_
    rintro ⟨hd, ha, hb⟩
    refine answers_some (congrArg some ?_)
    rw [eq_of_toNat ‹fn.toNat = _›]
    simp only [field_high 1 5 hd, field_high 1 5 ha, field_high 1 5 hb]
  case h_9 | h_10 | h_11 | h_12 | h_13 | h_14 | h_15 | h_16 =>
    refine answers_if ?_
    rintro ⟨hd, ha, hb⟩
    refine answers_some (congrArg some ?_)
    rw [eq_of_toNat ‹fn.toNat = _›]
    simp only [field_high 3 3 hd, field_high 1 5 ha, field_high 1 5 hb]
    rfl

theorem answers_major23 (u fn d a i p) :
    AnswersTo encodeWord (BitVec.ofBool u ++ 23#6 ++ fn ++ d ++ a ++ i ++ p) (decodeMajor23 u fn d a i p) := by
  unfold decodeMajor23
  split
  case h_2 => exact answers_none
  all_goals
    refine answers_if ?_
    rintro ⟨hd, ha⟩
    refine answers_some (congrArg some ?_)
    rw [eq_of_toNat ‹fn.toNat = _›]
    simp only [field_high 1 5 hd, field_high 1 5 ha]

theorem answers_major24 (u fn d a i p) :
    AnswersTo encodeWord (BitVec.ofBool u ++ 24#6 ++ fn ++ d ++ a ++ i ++ p) (decodeMajor24 u fn d a i p) := by
  unfold decodeMajor24
  exact answers_some rfl

theorem answers_major25 (u fn d a i p) :
    AnswersTo encodeWord (BitVec.ofBool u ++ 25#6 ++ fn ++ d ++ a ++ i ++ p) (decodeMajor25 u fn d a i p) := by
  unfold decodeMajor25
  exact answers_some rfl

theorem answers_major26 (u fn d a i p) :
    AnswersTo encodeWord (BitVec.ofBool u ++ 26#6 ++ fn ++ d ++ a ++ i ++ p) (decodeMajor26 u fn d a i p) := by
  unfold decodeMajor26
  refine answers_some (congrArg some ?_)
  simp only [fields_whole 1 6]

theorem answers_major27 (u fn d a i p) :
    AnswersTo encodeWord (BitVec.ofBool u ++ 27#6 ++ fn ++ d ++ a ++ i ++ p) (decodeMajor27 u fn d a i p) := by
  unfold decodeMajor27
  refine answers_some (congrArg some ?_)
  simp only [fields_whole 1 6]

theorem answers_major28 (u fn d a b p) :
    AnswersTo encodeWord (BitVec.ofBool u ++ 28#6 ++ fn ++ d ++ a ++ b ++ p) (decodeMajor28 u fn d a b p) := by
  unfold decodeMajor28
  refine answers_some (congrArg some ?_)
  simp only [fields_whole 5 1]

theorem answers_major29 (u fn d a b p) :
    AnswersTo encodeWord (BitVec.ofBool u ++ 29#6 ++ fn ++ d ++ a ++ b ++ p) (decodeMajor29 u fn d a b p) := by
  unfold decodeMajor29
  refine answers_some (congrArg some ?_)
  simp only [fields_whole 5 1]

theorem answers_major30 (u fn d a b p) :
    AnswersTo encodeWord (BitVec.ofBool u ++ 30#6 ++ fn ++ d ++ a ++ b ++ p) (decodeMajor30 u fn d a b p) := by
  unfold decodeMajor30
  refine answers_some (congrArg some ?_)
  simp only [fields_whole 5 1]

theorem answers_major31 (u fn d a b p) :
    AnswersTo encodeWord (BitVec.ofBool u ++ 31#6 ++ fn ++ d ++ a ++ b ++ p) (decodeMajor31 u fn d a b p) := by
  unfold decodeMajor31
  refine answers_some (congrArg some ?_)
  simp only [fields_whole 5 1]

theorem answers_major32 (u fn d a b p) :
    AnswersTo encodeWord (BitVec.ofBool u ++ 32#6 ++ fn ++ d ++ a ++ b ++ p) (decodeMajor32 u fn d a b p) := by
  unfold decodeMajor32
  refine answers_if ?_
  rintro hd
  refine answers_some (congrArg some ?_)
  simp only [field_high_two 2 1 3 hd]

theorem answers_major33 (u fn d a b p) :
    AnswersTo encodeWord (BitVec.ofBool u ++ 33#6 ++ fn ++ d ++ a ++ b ++ p) (decodeMajor33 u fn d a b p) := by
  unfold decodeMajor33
  refine answers_some (congrArg some ?_)
  simp only [fields_whole 1 3]

theorem answers_major34 (u fn d a b p) :
    AnswersTo encodeWord (BitVec.ofBool u ++ 34#6 ++ fn ++ d ++ a ++ b ++ p) (decodeMajor34 u fn d a b p) := by
  unfold decodeMajor34
  refine answers_some (congrArg some ?_)
  simp only [fields_whole 1 3]

theorem answers_major35 (u fn d a b p) :
    AnswersTo encodeWord (BitVec.ofBool u ++ 35#6 ++ fn ++ d ++ a ++ b ++ p) (decodeMajor35 u fn d a b p) := by
  unfold decodeMajor35
  split
  case h_9 => exact answers_none
  all_goals
    refine answers_if ?_
    rintro rfl
    refine answers_some ?_
    rw [eq_of_toNat ‹fn.toNat = _›]
    rfl

theorem answers_major36 (u fn d a b p) :
    AnswersTo encodeWord (BitVec.ofBool u ++ 36#6 ++ fn ++ d ++ a ++ b ++ p) (decodeMajor36 u fn d a b p) := by
  unfold decodeMajor36
  refine answers_if ?_
  rintro ⟨rfl, rfl, rfl⟩
  exact answers_some rfl

theorem answers_major37 (u l s t r c) :
    AnswersTo encodeWord (BitVec.ofBool u ++ 37#6 ++ l ++ s ++ t ++ r ++ c) (decodeMajor37 u l s t r c) := by
  unfold decodeMajor37
  exact answers_some rfl

theorem answers_major38 (u fn d a i p) :
    AnswersTo encodeWord (BitVec.ofBool u ++ 38#6 ++ fn ++ d ++ a ++ i ++ p) (decodeMajor38 u fn d a i p) := by
  unfold decodeMajor38
  split
  case h_5 => exact answers_none
  case h_1 | h_3 =>
    refine answers_if ?_
    rintro ⟨rfl, rfl, hi⟩
    refine answers_some (congrArg some ?_)
    rw [eq_of_toNat ‹fn.toNat = _›]
    simp only [fields_join (k' := 5) (k := 1) (n := 4) (m := 2) i rfl, field_low 6 1 hi]
  case h_2 =>
    refine answers_if ?_
    rintro ⟨rfl, rfl⟩
    refine answers_some (congrArg some ?_)
    rw [eq_of_toNat ‹fn.toNat = _›]
    simp only [fields_join (k' := 5) (k := 1) (n := 4) (m := 2) i rfl, fields_whole 6 1]
  case h_4 =>
    refine answers_if ?_
    rintro ⟨rfl, hi⟩
    refine answers_some (congrArg some ?_)
    rw [eq_of_toNat ‹fn.toNat = _›]
    simp only [fields_join (k' := 5) (k := 1) (n := 4) (m := 2) i rfl, field_low 6 1 hi]

theorem answers_major39 (u fn off p) :
    AnswersTo encodeWord (BitVec.ofBool u ++ 39#6 ++ fn ++ off ++ p) (decodeMajor39 u fn off p) := by
  unfold decodeMajor39
  split
  case h_4 => exact answers_none
  all_goals
    refine answers_if ?_
    rintro rfl
    refine answers_some ?_
    rw [eq_of_toNat ‹fn.toNat = _›]
    rfl

theorem answers_major40 (u fn d a b p) :
    AnswersTo encodeWord (BitVec.ofBool u ++ 40#6 ++ fn ++ d ++ a ++ b ++ p) (decodeMajor40 u fn d a b p) := by
  unfold decodeMajor40
  split
  case h_5 => exact answers_none
  case h_1 | h_3 =>
    refine answers_if ?_
    rintro ⟨rfl, rfl, rfl⟩
    refine answers_some ?_
    rw [eq_of_toNat ‹fn.toNat = _›]
    rfl
  case h_2 | h_4 =>
    refine answers_if ?_
    rintro ⟨rfl, rfl, rfl, rfl⟩
    refine answers_some ?_
    rw [eq_of_toNat ‹fn.toNat = _›]
    rfl

theorem answers_major41 (u fn d a b p) :
    AnswersTo encodeWord (BitVec.ofBool u ++ 41#6 ++ fn ++ d ++ a ++ b ++ p) (decodeMajor41 u fn d a b p) := by
  unfold decodeMajor41
  split
  case h_5 => exact answers_none
  case h_1 | h_2 | h_3 =>
    refine answers_if ?_
    rintro ⟨rfl, rfl, hb⟩
    refine answers_some (congrArg some ?_)
    rw [eq_of_toNat ‹fn.toNat = _›]
    simp only [field_high 3 3 hb]
  case h_4 =>
    refine answers_if ?_
    rintro ⟨rfl, hb⟩
    refine answers_some (congrArg some ?_)
    rw [eq_of_toNat ‹fn.toNat = _›]
    simp only [field_high 3 3 hb]

theorem answers_major42 (u fn d a b p) :
    AnswersTo encodeWord (BitVec.ofBool u ++ 42#6 ++ fn ++ d ++ a ++ b ++ p) (decodeMajor42 u fn d a b p) := by
  unfold decodeMajor42
  split
  case h_8 => exact answers_none
  case h_1 | h_2 =>
    refine answers_some ?_
    rw [eq_of_toNat ‹fn.toNat = _›]
    rfl
  case h_3 =>
    refine answers_if ?_
    rintro ⟨rfl, rfl⟩
    refine answers_some ?_
    rw [eq_of_toNat ‹fn.toNat = _›]
    rfl
  case h_4 =>
    refine answers_if ?_
    rintro ⟨rfl, rfl, rfl⟩
    refine answers_some ?_
    rw [eq_of_toNat ‹fn.toNat = _›]
    rfl
  case h_5 =>
    refine answers_if ?_
    rintro ⟨rfl, rfl⟩
    refine answers_some ?_
    rw [eq_of_toNat ‹fn.toNat = _›]
    rfl
  case h_6 =>
    refine answers_if ?_
    rintro ⟨rfl, rfl, hb⟩
    refine answers_some (congrArg some ?_)
    rw [eq_of_toNat ‹fn.toNat = _›]
    simp only [field_high 4 2 hb]
  case h_7 =>
    refine answers_if ?_
    rintro ⟨hd, ha⟩
    refine answers_some (congrArg some ?_)
    rw [eq_of_toNat ‹fn.toNat = _›]
    simp only [field_high 1 5 hd, field_high 1 5 ha]

theorem answers_major43 (u fn d a b p) :
    AnswersTo encodeWord (BitVec.ofBool u ++ 43#6 ++ fn ++ d ++ a ++ b ++ p) (decodeMajor43 u fn d a b p) := by
  unfold decodeMajor43
  split
  case h_7 => exact answers_none
  case h_1 | h_5 =>
    refine answers_if ?_
    rintro rfl
    refine answers_some ?_
    rw [eq_of_toNat ‹fn.toNat = _›]
    rfl
  case h_2 | h_3 | h_4 =>
    refine answers_if ?_
    rintro ⟨rfl, rfl⟩
    refine answers_some ?_
    rw [eq_of_toNat ‹fn.toNat = _›]
    rfl
  case h_6 =>
    refine answers_if ?_
    rintro ⟨rfl, rfl⟩
    refine answers_some ?_
    rw [eq_of_toNat ‹fn.toNat = _›]
    rfl

theorem answers_major44 (u fn d a b p) :
    AnswersTo encodeWord (BitVec.ofBool u ++ 44#6 ++ fn ++ d ++ a ++ b ++ p) (decodeMajor44 u fn d a b p) := by
  unfold decodeMajor44
  split
  case h_2 => exact answers_none
  all_goals
    refine answers_if ?_
    rintro ⟨rfl, rfl⟩
    refine answers_some ?_
    rw [eq_of_toNat ‹fn.toNat = _›]
    rfl

theorem answers_major45 (u fn d a b p) :
    AnswersTo encodeWord (BitVec.ofBool u ++ 45#6 ++ fn ++ d ++ a ++ b ++ p) (decodeMajor45 u fn d a b p) := by
  unfold decodeMajor45
  split
  case h_4 => exact answers_none
  all_goals
    refine answers_if ?_
    rintro ⟨rfl, rfl⟩
    refine answers_some ?_
    rw [eq_of_toNat ‹fn.toNat = _›]
    rfl

theorem answers_major46 (u fn d a b p) :
    AnswersTo encodeWord (BitVec.ofBool u ++ 46#6 ++ fn ++ d ++ a ++ b ++ p) (decodeMajor46 u fn d a b p) := by
  unfold decodeMajor46
  split
  case h_12 => exact answers_none
  case h_1 | h_4 =>
    refine answers_some ?_
    rw [eq_of_toNat ‹fn.toNat = _›]
    rfl
  case h_2 =>
    refine answers_if ?_
    rintro ⟨rfl, hb⟩
    refine answers_some (congrArg some ?_)
    rw [eq_of_toNat ‹fn.toNat = _›]
    simp only [field_high 4 2 hb]
  case h_3 | h_10 | h_11 =>
    refine answers_if ?_
    rintro rfl
    refine answers_some ?_
    rw [eq_of_toNat ‹fn.toNat = _›]
    rfl
  case h_5 =>
    refine answers_if ?_
    rintro hb
    refine answers_some (congrArg some ?_)
    rw [eq_of_toNat ‹fn.toNat = _›]
    simp only [field_high 3 3 hb]
  case h_6 =>
    refine answers_if ?_
    rintro ⟨rfl, rfl, hb⟩
    refine answers_some (congrArg some ?_)
    rw [eq_of_toNat ‹fn.toNat = _›]
    simp only [field_high_two 1 2 3 hb]
  case h_7 =>
    refine answers_if ?_
    rintro ⟨rfl, hb⟩
    refine answers_some (congrArg some ?_)
    rw [eq_of_toNat ‹fn.toNat = _›]
    simp only [field_high 4 2 hb]
  case h_8 =>
    refine answers_if ?_
    rintro rfl
    refine answers_some ?_
    rw [eq_of_toNat ‹fn.toNat = _›]
    rfl
  case h_9 =>
    refine answers_if ?_
    rintro ⟨rfl, rfl, rfl⟩
    refine answers_some ?_
    rw [eq_of_toNat ‹fn.toNat = _›]
    rfl

theorem answers_major47 (u fn d csr p) :
    AnswersTo encodeWord (BitVec.ofBool u ++ 47#6 ++ fn ++ d ++ csr ++ p) (decodeMajor47 u fn d csr p) := by
  unfold decodeMajor47
  split
  case h_7 => exact answers_none
  case h_1 | h_2 =>
    refine answers_some ?_
    rw [eq_of_toNat ‹fn.toNat = _›]
    rfl
  case h_3 =>
    refine answers_if ?_
    rintro hcsr
    refine answers_some (congrArg some ?_)
    rw [eq_of_toNat ‹fn.toNat = _›]
    simp only [field_high 8 4 hcsr]
  case h_4 | h_6 =>
    refine answers_if ?_
    rintro ⟨rfl, hcsr⟩
    refine answers_some (congrArg some ?_)
    rw [eq_of_toNat ‹fn.toNat = _›]
    simp only [field_high 4 8 hcsr]
  case h_5 =>
    refine answers_if ?_
    rintro ⟨rfl, rfl, rfl⟩
    refine answers_some ?_
    rw [eq_of_toNat ‹fn.toNat = _›]
    rfl

theorem answers_major0 (u fn pl) : AnswersTo encodeWord (BitVec.ofBool u ++ 0#6 ++ fn ++ pl) (decodeMajor0 u fn pl) := by
  unfold decodeMajor0
  split
  case h_5 => exact answers_none
  case h_1 =>
    refine answers_if ?_
    rintro rfl
    refine answers_some ?_
    rw [eq_of_toNat ‹fn.toNat = _›]
    rfl
  case h_2 =>
    refine answers_if fun hu => answers_some ?_
    rw [eq_of_toNat ‹fn.toNat = _›, (Bool.not_eq_true' u).mp hu]
    rfl
  case h_3 =>
    refine answers_if fun hpl => answers_some (congrArg some ?_)
    rw [eq_of_toNat ‹fn.toNat = _›]
    simp only [field_high_two 17 1 4 hpl]
  case h_4 =>
    refine answers_if ?_
    rintro ⟨hu, hpl⟩
    refine answers_some (congrArg some ?_)
    rw [eq_of_toNat ‹fn.toNat = _›, (Bool.not_eq_true' u).mp hu]
    simp only [fields_join (k' := 19) (k := 16) (n := 3) (m := 3) pl rfl, fields_join (k' := 16) (k := 15) (n := 1) (m := 6) pl rfl,
      fields_join (k' := 15) (k := 13) (n := 2) (m := 7) pl rfl, field_low 9 13 hpl]
    rfl

/-! ## The whole word: its fields are those of its major opcode's format (Table 2-1) -/

theorem ofBool_bit (x : BitVec 1) : BitVec.ofBool (x == 1#1) = x := by
  revert x; decide

/-! One lemma for each format of Table 2-1. -/

theorem answers_hint {w : BitVec 32} {o : Option Instr} {n : Nat} (hn : (w.extractLsb' 25 6).toNat = n)
    (h : AnswersTo encodeWord (BitVec.ofBool (w.extractLsb' 31 1 == 1#1) ++ BitVec.ofNat 6 n ++
      w.extractLsb' 22 3 ++ w.extractLsb' 0 22) o) :
    AnswersTo encodeWord w o := by
  rw [← eq_of_toNat hn, ofBool_bit] at h
  rwa [fields_join (k' := 31) (k := 25) (n := 6) (m := 1) w rfl,
    fields_join (k' := 25) (k := 22) (n := 3) (m := 7) w rfl,
    fields_join (k' := 22) (k := 0) (n := 22) (m := 10) w rfl, Bits.extract_all] at h
theorem answers_reg {w : BitVec 32} {o : Option Instr} {n : Nat} (hn : (w.extractLsb' 25 6).toNat = n)
    (h : AnswersTo encodeWord (BitVec.ofBool (w.extractLsb' 31 1 == 1#1) ++ BitVec.ofNat 6 n ++
      w.extractLsb' 21 4 ++ w.extractLsb' 15 6 ++ w.extractLsb' 9 6 ++ w.extractLsb' 3 6 ++ w.extractLsb' 0 3) o) :
    AnswersTo encodeWord w o := by
  rw [← eq_of_toNat hn, ofBool_bit] at h
  rwa [fields_join (k' := 31) (k := 25) (n := 6) (m := 1) w rfl,
    fields_join (k' := 25) (k := 21) (n := 4) (m := 7) w rfl,
    fields_join (k' := 21) (k := 15) (n := 6) (m := 11) w rfl,
    fields_join (k' := 15) (k := 9) (n := 6) (m := 17) w rfl,
    fields_join (k' := 9) (k := 3) (n := 6) (m := 23) w rfl,
    fields_join (k' := 3) (k := 0) (n := 3) (m := 29) w rfl, Bits.extract_all] at h
theorem answers_imm {w : BitVec 32} {o : Option Instr} {n : Nat} (hn : (w.extractLsb' 25 6).toNat = n)
    (h : AnswersTo encodeWord (BitVec.ofBool (w.extractLsb' 31 1 == 1#1) ++ BitVec.ofNat 6 n ++
      w.extractLsb' 22 3 ++ w.extractLsb' 16 6 ++ w.extractLsb' 10 6 ++ w.extractLsb' 3 7 ++ w.extractLsb' 0 3) o) :
    AnswersTo encodeWord w o := by
  rw [← eq_of_toNat hn, ofBool_bit] at h
  rwa [fields_join (k' := 31) (k := 25) (n := 6) (m := 1) w rfl,
    fields_join (k' := 25) (k := 22) (n := 3) (m := 7) w rfl,
    fields_join (k' := 22) (k := 16) (n := 6) (m := 10) w rfl,
    fields_join (k' := 16) (k := 10) (n := 6) (m := 16) w rfl,
    fields_join (k' := 10) (k := 3) (n := 7) (m := 22) w rfl,
    fields_join (k' := 3) (k := 0) (n := 3) (m := 29) w rfl, Bits.extract_all] at h
theorem answers_wait {w : BitVec 32} {o : Option Instr} {n : Nat} (hn : (w.extractLsb' 25 6).toNat = n)
    (h : AnswersTo encodeWord (BitVec.ofBool (w.extractLsb' 31 1 == 1#1) ++ BitVec.ofNat 6 n ++
      w.extractLsb' 20 5 ++ w.extractLsb' 15 5 ++ w.extractLsb' 10 5 ++ w.extractLsb' 5 5 ++ w.extractLsb' 0 5) o) :
    AnswersTo encodeWord w o := by
  rw [← eq_of_toNat hn, ofBool_bit] at h
  rwa [fields_join (k' := 31) (k := 25) (n := 6) (m := 1) w rfl,
    fields_join (k' := 25) (k := 20) (n := 5) (m := 7) w rfl,
    fields_join (k' := 20) (k := 15) (n := 5) (m := 12) w rfl,
    fields_join (k' := 15) (k := 10) (n := 5) (m := 17) w rfl,
    fields_join (k' := 10) (k := 5) (n := 5) (m := 22) w rfl,
    fields_join (k' := 5) (k := 0) (n := 5) (m := 27) w rfl, Bits.extract_all] at h
theorem answers_branch {w : BitVec 32} {o : Option Instr} {n : Nat} (hn : (w.extractLsb' 25 6).toNat = n)
    (h : AnswersTo encodeWord (BitVec.ofBool (w.extractLsb' 31 1 == 1#1) ++ BitVec.ofNat 6 n ++
      w.extractLsb' 22 3 ++ w.extractLsb' 3 19 ++ w.extractLsb' 0 3) o) :
    AnswersTo encodeWord w o := by
  rw [← eq_of_toNat hn, ofBool_bit] at h
  rwa [fields_join (k' := 31) (k := 25) (n := 6) (m := 1) w rfl,
    fields_join (k' := 25) (k := 22) (n := 3) (m := 7) w rfl,
    fields_join (k' := 22) (k := 3) (n := 19) (m := 10) w rfl,
    fields_join (k' := 3) (k := 0) (n := 3) (m := 29) w rfl, Bits.extract_all] at h
theorem answers_csr {w : BitVec 32} {o : Option Instr} {n : Nat} (hn : (w.extractLsb' 25 6).toNat = n)
    (h : AnswersTo encodeWord (BitVec.ofBool (w.extractLsb' 31 1 == 1#1) ++ BitVec.ofNat 6 n ++
      w.extractLsb' 21 4 ++ w.extractLsb' 15 6 ++ w.extractLsb' 3 12 ++ w.extractLsb' 0 3) o) :
    AnswersTo encodeWord w o := by
  rw [← eq_of_toNat hn, ofBool_bit] at h
  rwa [fields_join (k' := 31) (k := 25) (n := 6) (m := 1) w rfl,
    fields_join (k' := 25) (k := 21) (n := 4) (m := 7) w rfl,
    fields_join (k' := 21) (k := 15) (n := 6) (m := 11) w rfl,
    fields_join (k' := 15) (k := 3) (n := 12) (m := 17) w rfl,
    fields_join (k' := 3) (k := 0) (n := 3) (m := 29) w rfl, Bits.extract_all] at h

/-- Every word that decodes is the word of the instruction it decodes to. -/
theorem answers_word (w : BitVec 32) : AnswersTo encodeWord w (decodeWord w) := by
  unfold decodeWord
  split
  case h_1 h => exact answers_hint h (answers_major0 _ _ _)
  case h_2 h => exact answers_reg h (answers_major1 _ _ _ _ _ _)
  case h_3 h => exact answers_reg h (answers_major2 _ _ _ _ _ _)
  case h_4 h => exact answers_reg h (answers_major3 _ _ _ _ _ _)
  case h_5 h => exact answers_reg h (answers_major4 _ _ _ _ _ _)
  case h_6 h => exact answers_imm h (answers_major5 _ _ _ _ _ _)
  case h_7 h => exact answers_imm h (answers_major6 _ _ _ _ _ _)
  case h_8 h => exact answers_imm h (answers_major7 _ _ _ _ _ _)
  case h_9 h => exact answers_reg h (answers_major8 _ _ _ _ _ _)
  case h_10 h => exact answers_reg h (answers_major9 _ _ _ _ _ _)
  case h_11 h => exact answers_reg h (answers_major10 _ _ _ _ _ _)
  case h_12 h => exact answers_reg h (answers_major11 _ _ _ _ _ _)
  case h_13 h => exact answers_reg h (answers_major12 _ _ _ _ _ _)
  case h_14 h => exact answers_reg h (answers_major13 _ _ _ _ _ _)
  case h_15 h => exact answers_reg h (answers_major14 _ _ _ _ _ _)
  case h_16 h => exact answers_reg h (answers_major15 _ _ _ _ _ _)
  case h_17 h => exact answers_reg h (answers_major16 _ _ _ _ _ _)
  case h_18 h => exact answers_reg h (answers_major17 _ _ _ _ _ _)
  case h_19 h => exact answers_reg h (answers_major18 _ _ _ _ _ _)
  case h_20 h => exact answers_reg h (answers_major19 _ _ _ _ _ _)
  case h_21 h => exact answers_reg h (answers_major20 _ _ _ _ _ _)
  case h_22 h => exact answers_reg h (answers_major21 _ _ _ _ _ _)
  case h_23 h => exact answers_reg h (answers_major22 _ _ _ _ _ _)
  case h_24 h => exact answers_imm h (answers_major23 _ _ _ _ _ _)
  case h_25 h => exact answers_imm h (answers_major24 _ _ _ _ _ _)
  case h_26 h => exact answers_imm h (answers_major25 _ _ _ _ _ _)
  case h_27 h => exact answers_imm h (answers_major26 _ _ _ _ _ _)
  case h_28 h => exact answers_imm h (answers_major27 _ _ _ _ _ _)
  case h_29 h => exact answers_reg h (answers_major28 _ _ _ _ _ _)
  case h_30 h => exact answers_reg h (answers_major29 _ _ _ _ _ _)
  case h_31 h => exact answers_reg h (answers_major30 _ _ _ _ _ _)
  case h_32 h => exact answers_reg h (answers_major31 _ _ _ _ _ _)
  case h_33 h => exact answers_reg h (answers_major32 _ _ _ _ _ _)
  case h_34 h => exact answers_reg h (answers_major33 _ _ _ _ _ _)
  case h_35 h => exact answers_reg h (answers_major34 _ _ _ _ _ _)
  case h_36 h => exact answers_reg h (answers_major35 _ _ _ _ _ _)
  case h_37 h => exact answers_reg h (answers_major36 _ _ _ _ _ _)
  case h_38 h => exact answers_wait h (answers_major37 _ _ _ _ _ _)
  case h_39 h => exact answers_imm h (answers_major38 _ _ _ _ _ _)
  case h_40 h => exact answers_branch h (answers_major39 _ _ _ _)
  case h_41 h => exact answers_reg h (answers_major40 _ _ _ _ _ _)
  case h_42 h => exact answers_reg h (answers_major41 _ _ _ _ _ _)
  case h_43 h => exact answers_reg h (answers_major42 _ _ _ _ _ _)
  case h_44 h => exact answers_reg h (answers_major43 _ _ _ _ _ _)
  case h_45 h => exact answers_reg h (answers_major44 _ _ _ _ _ _)
  case h_46 h => exact answers_reg h (answers_major45 _ _ _ _ _ _)
  case h_47 h => exact answers_reg h (answers_major46 _ _ _ _ _ _)
  case h_48 h => exact answers_csr h (answers_major47 _ _ _ _ _)
  case h_49 => exact answers_none

/-! ## Fjarmar words (Table 13-2) -/

/-- The fields of a Fjarmar word down to its reserved field, and those below it by its opcode: an immediate, a register's number, or the
operation and format of a combination. -/
def chunkHead (x : BitVec 64) : BitVec 32 :=
  x.extractLsb' 58 6 ++ x.extractLsb' 54 4 ++ x.extractLsb' 50 4 ++ x.extractLsb' 46 4 ++ x.extractLsb' 42 4 ++ x.extractLsb' 38 4 ++ x.extractLsb' 32 6

theorem chunkHead_eq (x : BitVec 64) : chunkHead x = x.extractLsb' 32 32 := by
  unfold chunkHead
  rw [fields_join (k' := 58) (k := 54) (n := 4) (m := 6) x rfl,
    fields_join (k' := 54) (k := 50) (n := 4) (m := 10) x rfl,
    fields_join (k' := 50) (k := 46) (n := 4) (m := 14) x rfl,
    fields_join (k' := 46) (k := 42) (n := 4) (m := 18) x rfl,
    fields_join (k' := 42) (k := 38) (n := 4) (m := 22) x rfl,
    fields_join (k' := 38) (k := 32) (n := 6) (m := 26) x rfl]

theorem chunk_some {x : BitVec 64} {i : Instr} (h : encodeChunk i = some (chunkHead x ++ x.extractLsb' 0 32)) :
    AnswersTo encodeChunk x (some i) := by
  rw [chunkHead_eq, fields_join (k' := 32) (k := 0) (n := 32) (m := 32) x rfl, Bits.extract_all] at h
  exact answers_some h

theorem chunk_some_csr {x : BitVec 64} {i : Instr} (h : encodeChunk i = some (chunkHead x ++ x.extractLsb' 12 20 ++ x.extractLsb' 0 12)) :
    AnswersTo encodeChunk x (some i) := by
  rw [chunkHead_eq, fields_join (k' := 32) (k := 12) (n := 20) (m := 32) x rfl,
    fields_join (k' := 12) (k := 0) (n := 12) (m := 52) x rfl, Bits.extract_all] at h
  exact answers_some h

theorem chunk_some_comb {x : BitVec 64} {i : Instr} (h : encodeChunk i = some (chunkHead x ++ x.extractLsb' 8 24 ++ x.extractLsb' 4 4 ++ x.extractLsb' 0 4)) :
    AnswersTo encodeChunk x (some i) := by
  rw [chunkHead_eq, fields_join (k' := 32) (k := 8) (n := 24) (m := 32) x rfl,
    fields_join (k' := 8) (k := 4) (n := 4) (m := 56) x rfl,
    fields_join (k' := 4) (k := 0) (n := 4) (m := 60) x rfl, Bits.extract_all] at h
  exact answers_some h

theorem chunk_some_cfwd {x : BitVec 64} {i : Instr} (h : encodeChunk i = some (chunkHead x ++ x.extractLsb' 12 20 ++ x.extractLsb' 8 4 ++ x.extractLsb' 4 4 ++ x.extractLsb' 0 4)) :
    AnswersTo encodeChunk x (some i) := by
  rw [chunkHead_eq, fields_join (k' := 32) (k := 12) (n := 20) (m := 32) x rfl,
    fields_join (k' := 12) (k := 8) (n := 4) (m := 52) x rfl,
    fields_join (k' := 8) (k := 4) (n := 4) (m := 56) x rfl,
    fields_join (k' := 4) (k := 0) (n := 4) (m := 60) x rfl, Bits.extract_all] at h
  exact answers_some h

theorem answers_chunk (x : BitVec 64) : AnswersTo encodeChunk x (decodeChunk x) := by
  unfold decodeChunk
  refine answers_ite (fun _ => answers_none) fun hrs => ?_
  rw [ne_eq, not_not] at hrs
  split
  case h_1 hop =>
    refine answers_if ?_
    rintro ⟨hmd, himm⟩
    exact chunk_some (by rw [chunkHead, eq_of_toNat hop, hrs, hmd, himm]; rfl)
  case h_2 hop =>
    refine answers_if ?_
    rintro ⟨hmd, himm⟩
    exact chunk_some (by rw [chunkHead, eq_of_toNat hop, hrs, hmd, himm]; rfl)
  case h_3 hop =>
    refine answers_if ?_
    rintro ⟨hmd, hlow, -, -⟩
    refine chunk_some_comb (congrArg some ?_)
    rw [chunkHead, eq_of_toNat hop, hrs, hlow]
    simp only [field_high 3 1 hmd]
    rfl
  case h_4 hop =>
    refine answers_if ?_
    rintro ⟨hmd, hlow, -, -⟩
    refine chunk_some_cfwd (congrArg some ?_)
    rw [chunkHead, eq_of_toNat hop, hrs, hlow]
    simp only [field_high 3 1 hmd]
    rfl
  case h_5 hop =>
    refine answers_if ?_
    rintro ⟨-, hd, hch, himm⟩
    exact chunk_some (by rw [chunkHead, eq_of_toNat hop, hrs, hd, hch, himm]; rfl)
  case h_6 hop =>
    refine answers_ite ?_ fun _ => answers_if ?_
    · rintro ⟨hmd, hd, hch, himm⟩
      exact chunk_some (by rw [chunkHead, eq_of_toNat hop, hrs, hmd, hd, hch, himm]; rfl)
    · rintro ⟨hmd, hd, hch, himm⟩
      exact chunk_some (by rw [chunkHead, eq_of_toNat hop, hrs, hmd, hd, hch, himm]; rfl)
  case h_7 hop =>
    refine answers_if ?_
    rintro ⟨hmd, ha, hb, hch⟩
    exact chunk_some (by rw [chunkHead, eq_of_toNat hop, hrs, hmd, ha, hb, hch]; rfl)
  case h_8 hop =>
    refine answers_ite ?_ fun _ => answers_if ?_
    · rintro ⟨hmd, ha, hb, hch⟩
      exact chunk_some (by rw [chunkHead, eq_of_toNat hop, hrs, hmd, ha, hb, hch]; rfl)
    · rintro ⟨hmd, ha, hb, hch⟩
      exact chunk_some (by rw [chunkHead, eq_of_toNat hop, hrs, hmd, ha, hb, hch]; rfl)
  case h_9 hop =>
    refine answers_ite ?_ fun _ => answers_if ?_
    · rintro ⟨hmd, hch⟩
      exact chunk_some (by rw [chunkHead, eq_of_toNat hop, hrs, hmd, hch]; rfl)
    · rintro ⟨hmd, hch⟩
      exact chunk_some (by rw [chunkHead, eq_of_toNat hop, hrs, hmd, hch]; rfl)
  case h_10 hop =>
    refine answers_if ?_
    rintro ⟨hmd, hd, hb, hch⟩
    exact chunk_some (by rw [chunkHead, eq_of_toNat hop, hrs, hmd, hd, hb, hch]; rfl)
  case h_11 hop =>
    refine answers_if ?_
    rintro ⟨hmd, hd, hb, himm⟩
    exact chunk_some (by rw [chunkHead, eq_of_toNat hop, hrs, hmd, hd, hb, himm]; rfl)
  case h_12 hop =>
    refine answers_if ?_
    rintro ⟨hmd, hd, ha, hb, hch, himm⟩
    exact chunk_some (by rw [chunkHead, eq_of_toNat hop, hrs, hmd, hd, ha, hb, hch, himm]; rfl)
  case h_13 hop =>
    refine answers_if ?_
    rintro ⟨hmd, hd, ha, hb, hch, himm⟩
    exact chunk_some (by rw [chunkHead, eq_of_toNat hop, hrs, hmd, hd, ha, hb, hch, himm]; rfl)
  case h_14 hop =>
    refine answers_if ?_
    rintro ⟨hmd, ha, hb, hch, hcsr⟩
    exact chunk_some_csr (by rw [chunkHead, eq_of_toNat hop, hrs, hmd, ha, hb, hch, hcsr]; rfl)
  case h_15 hop =>
    refine answers_if ?_
    rintro ⟨hmd, hd, hb, hch, hcsr⟩
    exact chunk_some_csr (by rw [chunkHead, eq_of_toNat hop, hrs, hmd, hd, hb, hch, hcsr]; rfl)
  case h_16 => exact answers_none

/-- Settles O60: every row's fixed bits and operands are the whole of its word, so the word is the one that its instruction encodes to. -/
theorem encodeDecode : Obligations.EncodeDecode := by
  unfold Obligations.EncodeDecode
  exact ⟨answers_word, answers_chunk⟩

/-- The round trip of every instruction, by the law of its own. -/
theorem roundTrip : ∀ i : Instr, RoundTrip.Statement i
  | .add u d a b p => RoundTrip.add u d a b p
  | .sub u d a b p => RoundTrip.sub u d a b p
  | .mul u d a b p => RoundTrip.mul u d a b p
  | .mulhi u d a b p => RoundTrip.mulhi u d a b p
  | .mulhiu u d a b p => RoundTrip.mulhiu u d a b p
  | .mad u d a b p => RoundTrip.mad u d a b p
  | .and u d a b p => RoundTrip.and u d a b p
  | .or u d a b p => RoundTrip.or u d a b p
  | .xor u d a b p => RoundTrip.xor u d a b p
  | .andn u d a b p => RoundTrip.andn u d a b p
  | .min u d a b p => RoundTrip.min u d a b p
  | .max u d a b p => RoundTrip.max u d a b p
  | .minu u d a b p => RoundTrip.minu u d a b p
  | .maxu u d a b p => RoundTrip.maxu u d a b p
  | .add64 u d a b p => RoundTrip.add64 u d a b p
  | .sub64 u d a b p => RoundTrip.sub64 u d a b p
  | .mul64 u d a b p => RoundTrip.mul64 u d a b p
  | .mulhi64 u d a b p => RoundTrip.mulhi64 u d a b p
  | .mulhiu64 u d a b p => RoundTrip.mulhiu64 u d a b p
  | .mad64 u d a b p => RoundTrip.mad64 u d a b p
  | .and64 u d a b p => RoundTrip.and64 u d a b p
  | .or64 u d a b p => RoundTrip.or64 u d a b p
  | .xor64 u d a b p => RoundTrip.xor64 u d a b p
  | .andn64 u d a b p => RoundTrip.andn64 u d a b p
  | .min64 u d a b p => RoundTrip.min64 u d a b p
  | .max64 u d a b p => RoundTrip.max64 u d a b p
  | .minu64 u d a b p => RoundTrip.minu64 u d a b p
  | .maxu64 u d a b p => RoundTrip.maxu64 u d a b p
  | .shl u d a b p => RoundTrip.shl u d a b p
  | .shr u d a b p => RoundTrip.shr u d a b p
  | .sar u d a b p => RoundTrip.sar u d a b p
  | .rot u d a b p => RoundTrip.rot u d a b p
  | .abs u d a p => RoundTrip.abs u d a p
  | .clz u d a p => RoundTrip.clz u d a p
  | .popc u d a p => RoundTrip.popc u d a p
  | .brev u d a p => RoundTrip.brev u d a p
  | .bfx u d a b p => RoundTrip.bfx u d a b p
  | .bfi u d a b p => RoundTrip.bfi u d a b p
  | .permb u d a b p => RoundTrip.permb u d a b p
  | .div u d a b p => RoundTrip.div u d a b p
  | .divu u d a b p => RoundTrip.divu u d a b p
  | .rem u d a b p => RoundTrip.rem u d a b p
  | .remu u d a b p => RoundTrip.remu u d a b p
  | .shl64 u d a b p => RoundTrip.shl64 u d a b p
  | .shr64 u d a b p => RoundTrip.shr64 u d a b p
  | .sar64 u d a b p => RoundTrip.sar64 u d a b p
  | .rot64 u d a b p => RoundTrip.rot64 u d a b p
  | .abs64 u d a p => RoundTrip.abs64 u d a p
  | .clz64 u d a p => RoundTrip.clz64 u d a p
  | .popc64 u d a p => RoundTrip.popc64 u d a p
  | .brev64 u d a p => RoundTrip.brev64 u d a p
  | .bfx64 u d a b p => RoundTrip.bfx64 u d a b p
  | .bfi64 u d a b p => RoundTrip.bfi64 u d a b p
  | .permb64 u d a b p => RoundTrip.permb64 u d a b p
  | .div64 u d a b p => RoundTrip.div64 u d a b p
  | .divu64 u d a b p => RoundTrip.divu64 u d a b p
  | .rem64 u d a b p => RoundTrip.rem64 u d a b p
  | .remu64 u d a b p => RoundTrip.remu64 u d a b p
  | .addi u d a i p => RoundTrip.addi u d a i p
  | .muli u d a i p => RoundTrip.muli u d a i p
  | .andi u d a i p => RoundTrip.andi u d a i p
  | .ori u d a i p => RoundTrip.ori u d a i p
  | .xori u d a i p => RoundTrip.xori u d a i p
  | .shli u d a i p => RoundTrip.shli u d a i p
  | .shri u d a i p => RoundTrip.shri u d a i p
  | .sari u d a i p => RoundTrip.sari u d a i p
  | .addi64 u d a i p => RoundTrip.addi64 u d a i p
  | .muli64 u d a i p => RoundTrip.muli64 u d a i p
  | .andi64 u d a i p => RoundTrip.andi64 u d a i p
  | .ori64 u d a i p => RoundTrip.ori64 u d a i p
  | .xori64 u d a i p => RoundTrip.xori64 u d a i p
  | .shli64 u d a i p => RoundTrip.shli64 u d a i p
  | .shri64 u d a i p => RoundTrip.shri64 u d a i p
  | .sari64 u d a i p => RoundTrip.sari64 u d a i p
  | .movi u d i p => RoundTrip.movi u d i p
  | .movi64 u d i p => RoundTrip.movi64 u d i p
  | .fadd u d a b p => RoundTrip.fadd u d a b p
  | .fsub u d a b p => RoundTrip.fsub u d a b p
  | .fmul u d a b p => RoundTrip.fmul u d a b p
  | .ffma u d a b p => RoundTrip.ffma u d a b p
  | .fmin u d a b p => RoundTrip.fmin u d a b p
  | .fmax u d a b p => RoundTrip.fmax u d a b p
  | .fsgnJ u d a b p => RoundTrip.fsgnJ u d a b p
  | .fsgnN u d a b p => RoundTrip.fsgnN u d a b p
  | .fsgnX u d a b p => RoundTrip.fsgnX u d a b p
  | .fclass u d a p => RoundTrip.fclass u d a p
  | .fdiv u d a b p => RoundTrip.fdiv u d a b p
  | .hadd2 u t d a b p => RoundTrip.hadd2 u t d a b p
  | .hmul2 u t d a b p => RoundTrip.hmul2 u t d a b p
  | .hfma2 u t d a b p => RoundTrip.hfma2 u t d a b p
  | .hmin2 u t d a b p => RoundTrip.hmin2 u t d a b p
  | .hmax2 u t d a b p => RoundTrip.hmax2 u t d a b p
  | .dadd u d a b p => RoundTrip.dadd u d a b p
  | .dmul u d a b p => RoundTrip.dmul u d a b p
  | .dfma u d a b p => RoundTrip.dfma u d a b p
  | .icmp u c q a b p => RoundTrip.icmp u c q a b p
  | .icmp64 u c q a b p => RoundTrip.icmp64 u c q a b p
  | .fcmp u c t q a b p => RoundTrip.fcmp u c t q a b p
  | .plog u o q a b p => RoundTrip.plog u o q a b p
  | .sel u s d a b p => RoundTrip.sel u s d a b p
  | .cvt u t d a e k p => RoundTrip.cvt u t d a e k p
  | .cvtpk u t d a b p => RoundTrip.cvtpk u t d a b p
  | .cvtupk u t d a k p => RoundTrip.cvtupk u t d a k p
  | .rcp u d a p => RoundTrip.rcp u d a p
  | .rsq u d a p => RoundTrip.rsq u d a p
  | .sqrt u d a p => RoundTrip.sqrt u d a p
  | .exp2 u d a p => RoundTrip.exp2 u d a p
  | .log2 u d a p => RoundTrip.log2 u d a p
  | .sin u d a p => RoundTrip.sin u d a p
  | .cos u d a p => RoundTrip.cos u d a p
  | .tanh u d a p => RoundTrip.tanh u d a p
  | .shfl u m d a b p => RoundTrip.shfl u m d a b p
  | .shflImm u m d a n p => RoundTrip.shflImm u m d a n p
  | .voteAll u q s p => RoundTrip.voteAll u q s p
  | .voteAny u q s p => RoundTrip.voteAny u q s p
  | .voteBallot u d s p => RoundTrip.voteBallot u d s p
  | .voteUni u q s p => RoundTrip.voteUni u q s p
  | .matchLanes u d a p => RoundTrip.matchLanes u d a p
  | .partset u k p => RoundTrip.partset u k p
  | .vred u o d a t p => RoundTrip.vred u o d a t p
  | .vscan u o d a e t p => RoundTrip.vscan u o d a e t p
  | .mov u d a p => RoundTrip.mov u d a p
  | .mov64 u d a p => RoundTrip.mov64 u d a p
  | .movs u d a p => RoundTrip.movs u d a p
  | .movsHi u d a p => RoundTrip.movsHi u d a p
  | .movs64 u d a p => RoundTrip.movs64 u d a p
  | .rdlane u d a n p => RoundTrip.rdlane u d a n p
  | .rdlane64 u d a n p => RoundTrip.rdlane64 u d a n p
  | .sadd u d a b p => RoundTrip.sadd u d a b p
  | .ssub u d a b p => RoundTrip.ssub u d a b p
  | .smul u d a b p => RoundTrip.smul u d a b p
  | .sand u d a b p => RoundTrip.sand u d a b p
  | .sor u d a b p => RoundTrip.sor u d a b p
  | .sxor u d a b p => RoundTrip.sxor u d a b p
  | .sshl u d a b p => RoundTrip.sshl u d a b p
  | .sshr u d a b p => RoundTrip.sshr u d a b p
  | .scmp u c q a b p => RoundTrip.scmp u c q a b p
  | .saddi u d a i p => RoundTrip.saddi u d a i p
  | .ld u s d a o p => RoundTrip.ld u s d a o p
  | .st u s d a o p => RoundTrip.st u s d a o p
  | .lda u s d a z o p => RoundTrip.lda u s d a z o p
  | .stl u s d a z o p => RoundTrip.stl u s d a z o p
  | .atomTeam u f d a w b p => RoundTrip.atomTeam u f d a w b p
  | .atomCluster u f d a w b p => RoundTrip.atomCluster u f d a w b p
  | .atomDevice u f d a w b p => RoundTrip.atomDevice u f d a w b p
  | .atomFabric u f d a w b p => RoundTrip.atomFabric u f d a w b p
  | .red u f w s a b p => RoundTrip.red u f w s a b p
  | .atomcas u w s d a b p => RoundTrip.atomcas u w s d a b p
  | .atomincb u w s d a b p => RoundTrip.atomincb u w s d a b p
  | .sigf u s a b p => RoundTrip.sigf u s a b p
  | .fence u s p => RoundTrip.fence u s p
  | .wait u l s t r c => RoundTrip.wait u l s t r c
  | .barv u l i p => RoundTrip.barv u l i p
  | .barw u l i q p => RoundTrip.barw u l i q p
  | .bars u l i p => RoundTrip.bars u l i p
  | .barst u d l i p => RoundTrip.barst u d l i p
  | .bra o p => RoundTrip.bra o p
  | .bru o p => RoundTrip.bru o p
  | .call o p => RoundTrip.call o p
  | .callr a p => RoundTrip.callr a p
  | .ret p => RoundTrip.ret p
  | .jmpr a p => RoundTrip.jmpr a p
  | .exit p => RoundTrip.exit p
  | .rjenrol u j p => RoundTrip.rjenrol u j p
  | .rjpark u j p => RoundTrip.rjpark u j p
  | .rjout u j p => RoundTrip.rjout u j p
  | .rjget u d j p => RoundTrip.rjget u d j p
  | .spawn u d a b p => RoundTrip.spawn u d a b p
  | .spawnb u d a b p => RoundTrip.spawnb u d a b p
  | .take u d p => RoundTrip.take u d p
  | .endt u p => RoundTrip.endt u p
  | .tjoin u a p => RoundTrip.tjoin u a p
  | .role u k p => RoundTrip.role u k p
  | .launch u d a q p => RoundTrip.launch u d a q p
  | .tmma u a b p => RoundTrip.tmma u a b p
  | .tzero u a p => RoundTrip.tzero u a p
  | .tacld u a p => RoundTrip.tacld u a p
  | .tacst u a p => RoundTrip.tacst u a p
  | .tquant u a b p => RoundTrip.tquant u a b p
  | .tlend u d p => RoundTrip.tlend u d p
  | .vchain u a p => RoundTrip.vchain u a p
  | .vatwait u v p => RoundTrip.vatwait u v p
  | .vattake u v p => RoundTrip.vattake u v p
  | .vatfree u v p => RoundTrip.vatfree u v p
  | .cpy u d a b p => RoundTrip.cpy u d a b p
  | .cpya u d s p => RoundTrip.cpya u d s p
  | .cpyg u d a p => RoundTrip.cpyg u d a p
  | .cpyx u d a b p => RoundTrip.cpyx u d a b p
  | .cbload u d a k p => RoundTrip.cbload u d a k p
  | .qpush u s q p => RoundTrip.qpush u s q p
  | .aaset u a s p => RoundTrip.aaset u a s p
  | .vatarm u a v p => RoundTrip.vatarm u a v p
  | .cpyabort u p => RoundTrip.cpyabort u p
  | .decsub u d a p => RoundTrip.decsub u d a p
  | .rshd u d a p => RoundTrip.rshd u d a p
  | .csrr u d c p => RoundTrip.csrr u d c p
  | .csrw u a c p => RoundTrip.csrw u a c p
  | .feat u d n p => RoundTrip.feat u d n p
  | .trap u n p => RoundTrip.trap u n p
  | .tret p => RoundTrip.tret p
  | .brk u n p => RoundTrip.brk u n p
  | .nop u => RoundTrip.nop u
  | .hintImm y => RoundTrip.hintImm y
  | .hintSched u w h => RoundTrip.hintSched u w h
  | .hintMod r q m c => RoundTrip.hintMod r q m c
  | .chunkMovi d imm => RoundTrip.chunkMovi d imm
  | .chunkMoviHi d imm => RoundTrip.chunkMoviHi d imm
  | .chunkAddi d a b imm => RoundTrip.chunkAddi d a b imm
  | .chunkAddiN d a b imm => RoundTrip.chunkAddiN d a b imm
  | .loop d imm => RoundTrip.loop d imm
  | .bnz a imm => RoundTrip.bnz a imm
  | .yield => RoundTrip.yield
  | .chunkHalt => RoundTrip.chunkHalt
  | .chunkCsrr d csr => RoundTrip.chunkCsrr d csr
  | .chunkCsrw a csr => RoundTrip.chunkCsrw a csr
  | .bind a ch => RoundTrip.bind a ch
  | .waitf cc a b => RoundTrip.waitf cc a b
  | .chunkSigf a b => RoundTrip.chunkSigf a b
  | .chunkSigfAdd a b => RoundTrip.chunkSigfAdd a b
  | .xmit d a b ch => RoundTrip.xmit d a b ch
  | .recv d a b ch => RoundTrip.recv d a b ch
  | .comb m op f d a b ch => RoundTrip.comb m op f d a b ch
  | .cfwd m fw op f d a b ch => RoundTrip.cfwd m fw op f d a b ch
  | .tlbinvWrite c v => RoundTrip.tlbinvWrite c v
  | .hardwareBreakpoint c mask => RoundTrip.hardwareBreakpoint c mask
  | .loadCompletion c k => RoundTrip.loadCompletion c k
  | .storePerformed c k => RoundTrip.storePerformed c k
  | .fenceCompletion c k => RoundTrip.fenceCompletion c k
  | .fenceConflictRollback c k => RoundTrip.fenceConflictRollback c k
  | .queueEntryArrival c k peer => RoundTrip.queueEntryArrival c k peer
  | .copyCompletion c k peer => RoundTrip.copyCompletion c k peer
  | .copyFault c k peer refused => RoundTrip.copyFault c k peer refused
  | .matrixOperationRetire c k => RoundTrip.matrixOperationRetire c k
  | .vchainRetire c k => RoundTrip.vchainRetire c k
  | .tlbInvalidationComplete c => RoundTrip.tlbInvalidationComplete c
  | .asyncEventTaken k => RoundTrip.asyncEventTaken k
  | .clusterRestore k => RoundTrip.clusterRestore k
  | .preemptionRequest q => RoundTrip.preemptionRequest q
  | .sliceExpiry q => RoundTrip.sliceExpiry q
  | .drainTimeout grid cluster => RoundTrip.drainTimeout grid cluster
  | .dependenceFlagRead q => RoundTrip.dependenceFlagRead q
  | .clusterPlacement => RoundTrip.clusterPlacement
  | .impositionStartArrival link slot => RoundTrip.impositionStartArrival link slot
  | .impositionStartTimeout k => RoundTrip.impositionStartTimeout k
  | .chunkArrival link slot src x => RoundTrip.chunkArrival link slot src x
  | .waitfFlagRead link slot => RoundTrip.waitfFlagRead link slot
  | .reshardPlanning => RoundTrip.reshardPlanning
  | .curdReceived curd bytes => RoundTrip.curdReceived curd bytes
  | .pendingCounterChange tensor => RoundTrip.pendingCounterChange tensor
  | .commit => RoundTrip.commit
  | .participantStop rank => RoundTrip.participantStop rank
  | .decodeRequestAssignment dec => RoundTrip.decodeRequestAssignment dec
  | .frameOutput dec fr => RoundTrip.frameOutput dec fr
  | .slotStart link slot => RoundTrip.slotStart link slot
  | .slotEnd link => RoundTrip.slotEnd link
  | .flitReception link f => RoundTrip.flitReception link f
  | .remoteRequestTimeout c k => RoundTrip.remoteRequestTimeout c k
  | .fecWindowEnd _ _ _ => RoundTrip.of_none _ rfl rfl
  | .retrainingEnd link w ok => RoundTrip.retrainingEnd link w ok
  | .clockStepChange slower => RoundTrip.clockStepChange slower
  | .coolantHold => RoundTrip.coolantHold
  | .coolantHoldRelease => RoundTrip.coolantHoldRelease
  | .correctedError dram => RoundTrip.correctedError dram
  | .uncorrectableError addr => RoundTrip.uncorrectableError addr
  | .parityErrorReexecution c mask => RoundTrip.parityErrorReexecution c mask
  | .sampleTag core quad ctx => RoundTrip.sampleTag core quad ctx
  | .traceBlockWrite ctx => RoundTrip.traceBlockWrite ctx
  | .liveMigration ctx move => RoundTrip.liveMigration ctx move
  | .coldStart imgs fail => RoundTrip.coldStart imgs fail
  | .warmStart imgs fail => RoundTrip.warmStart imgs fail
  | .ctxcreate cmd => RoundTrip.ctxcreate cmd
  | .ctxdestroy cmd => RoundTrip.ctxdestroy cmd
  | .qpbind cmd => RoundTrip.qpbind cmd
  | .qopen cmd => RoundTrip.qopen cmd
  | .qcancel cmd => RoundTrip.qcancel cmd
  | .hostLaunch cmd => RoundTrip.hostLaunch cmd
  | .hostTlbinv cmd => RoundTrip.hostTlbinv cmd
  | .seqctlResume cmd => RoundTrip.seqctlResume cmd
  | .seqctlStep cmd => RoundTrip.seqctlStep cmd
  | .seqctlAbort cmd => RoundTrip.seqctlAbort cmd
  | .seqctlStop cmd => RoundTrip.seqctlStop cmd
  | .rsabort cmd => RoundTrip.rsabort cmd
  | .mrreg cmd => RoundTrip.mrreg cmd
  | .mrdereg cmd => RoundTrip.mrdereg cmd
  | .suspend cmd => RoundTrip.suspend cmd
  | .linkstat cmd => RoundTrip.linkstat cmd
  | .objload cmd => RoundTrip.objload cmd
  | .objdrop cmd => RoundTrip.objdrop cmd
  | .debugHalt cmd => RoundTrip.debugHalt cmd
  | .debugRelease cmd => RoundTrip.debugRelease cmd
  | .debugHold cmd => RoundTrip.debugHold cmd
  | .debugUnhold cmd => RoundTrip.debugUnhold cmd
  | .debugStep cmd => RoundTrip.debugStep cmd
  | .debugBkset cmd => RoundTrip.debugBkset cmd
  | .debugBkclr cmd => RoundTrip.debugBkclr cmd
  | .debugSetpc cmd => RoundTrip.debugSetpc cmd
  | .debugDump cmd => RoundTrip.debugDump cmd
  | .tracecfg cmd => RoundTrip.tracecfg cmd
  | .attest cmd => RoundTrip.attest cmd
  | .keyload cmd => RoundTrip.keyload cmd
  | .bbread cmd => RoundTrip.bbread cmd
  | .mgmtrd cmd => RoundTrip.mgmtrd cmd
  | .mgmtwr cmd => RoundTrip.mgmtwr cmd
  | .rdmaWrite qp rkey off data => RoundTrip.rdmaWrite qp rkey off data
  | .rdmaRead qp rkey off len => RoundTrip.rdmaRead qp rkey off len
  | .invalidRequestNak qp => RoundTrip.invalidRequestNak qp
  | .ecnMark qp => RoundTrip.ecnMark qp
  | .ethernetPortDown port => RoundTrip.ethernetPortDown port
  | .queuedResultWrite c => RoundTrip.queuedResultWrite c
  | .managementConnectorAccess x => RoundTrip.managementConnectorAccess x

/-- Settles O59: an instruction's words are read back field by field. -/
theorem decodeEncode : Obligations.DecodeEncode := by
  unfold Obligations.DecodeEncode
  intro i hwf hwords
  obtain ⟨hlen, hdec⟩ := roundTrip i hwf
  exact ⟨hlen, hdec hwords⟩

end Sys2Proof.Encodings

/-! PROOFS. Chapter 4: the words that write registers or predicates of each lane (R93 to R116). -/
namespace Sys2Proof.VectorScalar
open Sys2Proof.Machine Sys2Proof.Claims Sys2Proof.Tables

/-! ## Table 4-1: every word is a one-, two- or three-operand form of its row's function -/

/-- A word of Table 4-1 as one of the three operand forms. -/
def Form32 (i : Instr) (s : State) (x : BitVec 6 × (View → Nat → Word × Word)) : Prop :=
  (∃ a g, exec i s = issue i s (un32 x.1 a g) ∧ x.2 = fun w l => g (w.opnd 0 a.toNat l)) ∨
  (∃ a b g, exec i s = issue i s (bin32 x.1 a b g) ∧ x.2 = fun w l => g (w.opnd 0 a.toNat l) (w.opnd 1 b.toNat l)) ∨
  (∃ a b g, exec i s = issue i s (acc32 x.1 a b g) ∧ x.2 = fun w l => g (w.opnd 0 a.toNat l) (w.opnd 1 b.toNat l) (w.opnd 2 x.1.toNat l))

/-- The same on pairs. -/
def Form64 (i : Instr) (s : State) (x : BitVec 6 × (View → Nat → Dword × Word)) : Prop :=
  (useOf i).dst = some (r2 x.1) ∧
  ((∃ a g, exec i s = issue i s (un64 x.1 a g) ∧ x.2 = fun w l => g (w.g.rv64 a.toNat l)) ∨
  (∃ a b g, exec i s = issue i s (bin64 x.1 a b g) ∧ x.2 = fun w l => g (w.g.rv64 a.toNat l) (w.g.rv64 b.toNat l)) ∨
  (∃ a b g, exec i s = issue i s (acc64 x.1 a b g) ∧ x.2 = fun w l => g (w.g.rv64 a.toNat l) (w.g.rv64 b.toNat l) (w.g.rv64 x.1.toNat l)))

theorem table41_form {i : Instr} {d : BitVec 6} {f : View → Nat → Word × Word} (hf : table41 i = some (d, f)) (s : State) :
    Form32 i s (d, f) := by
  refine of_entry (P := Form32 i s) ?_ hf
  clear hf
  cases i
  case abs | clz | popc | brev => exact Or.inl ⟨_, _, rfl, rfl⟩
  case mad | bfi => exact Or.inr (Or.inr ⟨_, _, _, rfl, rfl⟩)
  case add | sub | mul | mulhi | mulhiu | and | or | xor | andn | min | max | minu | maxu | shl | shr | sar | rot | bfx | permb |
      div | divu | rem | remu => exact Or.inr (Or.inl ⟨_, _, _, rfl, rfl⟩)
  all_goals exact trivial

theorem table41W_form {i : Instr} {d : BitVec 6} {f : View → Nat → Dword × Word} (hf : table41W i = some (d, f)) (s : State) :
    Form64 i s (d, f) := by
  refine of_entry (P := Form64 i s) ?_ hf
  clear hf
  cases i
  case abs64 | clz64 | popc64 | brev64 => exact And.intro rfl (Or.inl ⟨_, _, rfl, rfl⟩)
  case mad64 | bfi64 => exact And.intro rfl (Or.inr (Or.inr ⟨_, _, _, rfl, rfl⟩))
  case add64 | sub64 | mul64 | mulhi64 | mulhiu64 | and64 | or64 | xor64 | andn64 | min64 | max64 | minu64 | maxu64 | shl64 | shr64 |
      sar64 | rot64 | bfx64 | permb64 | div64 | divu64 | rem64 | remu64 => exact And.intro rfl (Or.inr (Or.inl ⟨_, _, _, rfl, rfl⟩))
  all_goals exact trivial

/-- Settles O1: each word is an operand form of its row's function. -/
theorem integer32Results : Obligations.Integer32Results := by
  unfold Obligations.Integer32Results
  intro i s d f hf hready
  have hform := table41_form hf s
  unfold Form32 at hform
  dsimp only at hform
  obtain ⟨a, g, hexec, rfl⟩ | ⟨a, b, g, hexec, rfl⟩ | ⟨a, b, g, hexec, rfl⟩ := hform
  · exact yields_un32 hexec hready
  · exact yields_bin32 hexec hready
  · exact yields_acc32 hexec hready

/-- Settles O2: each word is an operand form of its row's function, on pairs. -/
theorem integer64Results : Obligations.Integer64Results := by
  unfold Obligations.Integer64Results
  intro i s d f hf hready
  have hform := table41W_form hf s
  unfold Form64 at hform
  dsimp only at hform
  obtain ⟨hdst, ⟨a, g, hexec, rfl⟩ | ⟨a, b, g, hexec, rfl⟩ | ⟨a, b, g, hexec, rfl⟩⟩ := hform
  · exact yields_un64 hexec hready hdst
  · exact yields_bin64 hexec hready hdst
  · exact yields_acc64 hexec hready hdst

/-! ## Immediate forms and moves (R95, R109) -/

/-- Settles O4: an immediate form is the one-operand form of its function with the immediate of the prefix group; a move writes what it reads. -/
theorem immediateAndMoveResults : Obligations.ImmediateAndMoveResults := by
  unfold Obligations.ImmediateAndMoveResults
  intro i s f hf
  refine of_entry (P := fun f => ready i s = true → yields i s (f (viewOf i s))) ?_ hf
  clear hf
  cases i
  case addi | muli | andi | ori | xori => exact fun hready => yields_imm32 rfl hready
  case shli u d a m p => exact fun hready => yields_un32 (f := fun x => quiet (shlW x m.toNat)) rfl hready
  case shri u d a m p => exact fun hready => yields_un32 (f := fun x => quiet (shrW x m.toNat)) rfl hready
  case sari u d a m p => exact fun hready => yields_un32 (f := fun x => quiet (sarW x m.toNat)) rfl hready
  case addi64 | muli64 | andi64 | ori64 | xori64 => exact fun hready => yields_imm64 rfl hready rfl
  case shli64 u d a m p => exact fun hready => yields_un64 (f := fun x => quiet (shlW x m.toNat)) rfl hready rfl
  case shri64 u d a m p => exact fun hready => yields_un64 (f := fun x => quiet (shrW x m.toNat)) rfl hready rfl
  case sari64 u d a m p => exact fun hready => yields_un64 (f := fun x => quiet (sarW x m.toNat)) rfl hready rfl
  case mov => exact fun hready => yields_un32 (f := quiet) rfl hready
  case mov64 => exact fun hready => yields_un64 (f := quiet) rfl hready rfl
  case movi u d m p => exact fun hready => yields_reg _ (show exec _ s = execMovi u d m p s from rfl) hready rfl
  case movi64 u d m p => exact fun hready => yields_pair _ (show exec _ s = execMovi64 u d m p s from rfl) hready rfl rfl
  case movs u d a p => exact fun hready => yields_reg _ (show exec _ s = execMovs u d a p s from rfl) hready rfl
  case movsHi u d a p => exact fun hready => yields_reg _ (show exec _ s = execMovsHi u d a p s from rfl) hready rfl
  case movs64 u d a p => exact fun hready => yields_pair _ (show exec _ s = execMovs64 u d a p s from rfl) hready rfl rfl
  all_goals exact trivial

/-! ## Floating point (R97 to R100) -/

/-- Settles O5: each word is a rounding form: one register, a pair, or two packed elements. -/
theorem roundedResults : Obligations.RoundedResults := by
  unfold Obligations.RoundedResults
  intro i s f hf
  refine of_entry (P := fun f => ready i s = true → yields i s f) ?_ hf
  clear hf
  cases i
  case fadd u d a b p => exact fun hready => yields_round32 _ (show exec _ s = execFadd u d a b p s from rfl) hready rfl
  case fsub u d a b p => exact fun hready => yields_round32 _ (show exec _ s = execFsub u d a b p s from rfl) hready rfl
  case fmul u d a b p => exact fun hready => yields_round32 _ (show exec _ s = execFmul u d a b p s from rfl) hready rfl
  case ffma u d a b p => exact fun hready => yields_round32 _ (show exec _ s = execFfma u d a b p s from rfl) hready rfl
  case fdiv u d a b p => exact fun hready => yields_round32 _ (show exec _ s = execFdiv u d a b p s from rfl) hready rfl
  case hadd2 u t d a b p => exact fun hready => yields_round32x2 _ (show exec _ s = execHadd2 u t d a b p s from rfl) hready rfl
  case hmul2 u t d a b p => exact fun hready => yields_round32x2 _ (show exec _ s = execHmul2 u t d a b p s from rfl) hready rfl
  case hfma2 u t d a b p => exact fun hready => yields_round32x2 _ (show exec _ s = execHfma2 u t d a b p s from rfl) hready rfl
  case dadd u d a b p => exact fun hready => yields_round64 _ (show exec _ s = execDadd u d a b p s from rfl) hready rfl rfl
  case dmul u d a b p => exact fun hready => yields_round64 _ (show exec _ s = execDmul u d a b p s from rfl) hready rfl rfl
  case dfma u d a b p => exact fun hready => yields_round64 _ (show exec _ s = execDfma u d a b p s from rfl) hready rfl rfl
  all_goals exact trivial

/-- Settles O6: signs are two-operand forms that raise no flag; classes, minima and maxima write a result that is not rounded. -/
theorem unroundedFloatResults : Obligations.UnroundedFloatResults := by
  unfold Obligations.UnroundedFloatResults
  intro i s f hf
  refine of_entry (P := fun f => ready i s = true → yields i s (f (viewOf i s))) ?_ hf
  clear hf
  cases i
  case fmin u d a b p => exact fun hready => yields_exact32 _ (show exec _ s = execFmin u d a b p s from rfl) hready rfl
  case fmax u d a b p => exact fun hready => yields_exact32 _ (show exec _ s = execFmax u d a b p s from rfl) hready rfl
  case fsgnJ => exact fun hready => yields_bin32 (f := fun x y => withSign x y.msb) rfl hready
  case fsgnN => exact fun hready => yields_bin32 (f := fun x y => withSign x (!y.msb)) rfl hready
  case fsgnX => exact fun hready => yields_bin32 (f := fun x y => withSign x (x.msb != y.msb)) rfl hready
  case fclass u d a p => exact fun hready => yields_exact32 _ (show exec _ s = execFclass u d a p s from rfl) hready rfl
  case hmin2 u t d a b p => exact fun hready => yields_exact32 _ (show exec _ s = execHmin2 u t d a b p s from rfl) hready rfl
  case hmax2 u t d a b p => exact fun hready => yields_exact32 _ (show exec _ s = execHmax2 u t d a b p s from rfl) hready rfl
  all_goals exact trivial

/-! ## Predicates (R96, R101 to R103, R112) -/

/-- Settles O7: each word sets pd lane by lane, from values read before any is written. -/
theorem predicateResults : Obligations.PredicateResults := by
  unfold Obligations.PredicateResults
  intro i s f hf
  refine of_entry (P := fun f => ready i s = true → yields i s (f (viewOf i s))) ?_ hf
  clear hf
  cases i
  case icmp u c q a b p => exact fun hready => yields_setPred q _ (show exec _ s = execIcmp u c q a b p s from rfl) hready rfl
  case icmp64 u c q a b p => exact fun hready => yields_setPred q _ (show exec _ s = execIcmp64 u c q a b p s from rfl) hready rfl
  case fcmp u c t q a b p => exact fun hready => yields_setPred q _ (show exec _ s = execFcmp u c t q a b p s from rfl) hready rfl
  case plog u o q a b p => exact fun hready => yields_setPred q _ (show exec _ s = execPlog u o q a b p s from rfl) hready rfl
  case scmp u c q a b p => exact fun hready => yields_setPred q _ (show exec _ s = execScmp u c q a b p s from rfl) hready rfl
  case voteAll u q ps p => exact fun hready => yields_setPred q _ (show exec _ s = execVoteAll u q ps p s from rfl) hready rfl
  case voteAny u q ps p => exact fun hready => yields_setPred q _ (show exec _ s = execVoteAny u q ps p s from rfl) hready rfl
  case voteUni u q ps p => exact fun hready => yields_setPred q _ (show exec _ s = execVoteUni u q ps p s from rfl) hready rfl
  all_goals exact trivial

/-! ## Words that read the group's state (R127, R142, R144, R196) -/

/-- CSRR writes a pair for a 64-bit register, one register for another. -/
theorem yields_csrr {u : Bool} {d : BitVec 6} {c : BitVec 12} {p : BitVec 3} {s : State} (hready : ready (.csrr u d c p) s = true) :
    yields (.csrr u d c p) s (fun l =>
      let x := readCsr (enter (.csrr u d c p) s) (viewOf (.csrr u d c p) s).g l c
      if csrWide c then two d.toNat x else one d.toNat (x.extractLsb' 0 32)) := by
  have hexec : exec (.csrr u d c p) s = execCsrr u d c p s := rfl
  have hdst : (useOf (.csrr u d c p)).dst = some (if csrWide c then r2 d else r1 d) := rfl
  by_cases hw : csrWide c = true
  · simp only [hw, if_true] at hdst ⊢
    exact yields_pair _ hexec hready hdst (by simp only [hw, if_true])
  · simp only [hw, Bool.false_eq_true, if_false]
    exact yields_reg _ hexec hready (by simp only [hw, Bool.false_eq_true, if_false])

/-- Settles O9: each word writes what it reads lane by lane. -/
theorem statusReadResults : Obligations.StatusReadResults := by
  unfold Obligations.StatusReadResults
  intro i s f hf
  refine of_entry (P := fun f => ready i s = true → yields i s f) ?_ hf
  clear hf
  cases i
  case csrr u d c p => exact fun hready => yields_csrr hready
  case feat u d n p => exact fun hready => yields_reg _ (show exec _ s = execFeat u d n p s from rfl) hready rfl
  case rjget u d j p => exact fun hready => yields_reg _ (show exec _ s = execRjget u d j p s from rfl) hready rfl
  case barst u d k x p => exact fun hready => yields_reg _ (show exec _ s = execBarst u d k x p s from rfl) hready rfl
  all_goals exact trivial

/-! ## Scalar words (R96, R109) -/

/-- A scalar word of two s registers takes effect once per issue. -/
theorem makes_scalar2 {i : Instr} {s : State} {d a b : BitVec 5} {f : Dword → Dword → Dword}
    (hexec : exec i s = issue i s (scalar2 d a b f)) (hready : ready i s = true) :
    makes i s (if (viewOf i s).act = 0 then (viewOf i s).g
      else (viewOf i s).g.ws d.toNat (f ((viewOf i s).g.rs a.toNat) ((viewOf i s).g.rs b.toNat))) :=
  makes_once i s _ (fun _ g => g.ws d.toNat (f ((viewOf i s).g.rs a.toNat) ((viewOf i s).g.rs b.toNat))) hexec hready rfl

/-- A write to an s register: s0 discards it, and another register alone changes. -/
theorem rs_ws (g : Grp) (n m : Nat) (x : Dword) : (g.ws n x).rs m = if m = n ∧ n ≠ 0 then x else g.rs m := by
  unfold Grp.ws
  by_cases hn : n = 0
  · simp [hn]
  · simp only [hn, if_false, ne_eq, not_false_eq_true, and_true, Grp.rs, Bank.get_set]
    by_cases hm : m = 0
    · simp [hm, Ne.symm hn]
    · simp [hm]

/-- Settles O10: each word takes effect once, on one s register. -/
theorem scalarResults : Obligations.ScalarResults := by
  unfold Obligations.ScalarResults
  constructor
  · intro i s d f hf
    refine of_entry (x := (d, f)) (P := fun x => ready i s = true → makes i s (if (viewOf i s).act = 0 then (viewOf i s).g
      else (viewOf i s).g.ws x.1.toNat (x.2 (viewOf i s)))) ?_ hf
    clear hf
    cases i
    case saddi u d a m p =>
      exact fun hready => makes_once _ s _ (fun _ g => g.ws d.toNat _) (show exec _ s = execSaddi u d a m p s from rfl) hready rfl
    case rdlane u d a n p =>
      exact fun hready => makes_once _ s _ (fun _ g => g.ws d.toNat _) (show exec _ s = execRdlane u d a n p s from rfl) hready rfl
    case rdlane64 u d a n p =>
      exact fun hready => makes_once _ s _ (fun _ g => g.ws d.toNat _) (show exec _ s = execRdlane64 u d a n p s from rfl) hready rfl
    case sshl u d a b p => exact fun hready => makes_scalar2 (f := fun x y => shlW x y.toNat) rfl hready
    case sshr u d a b p => exact fun hready => makes_scalar2 (f := fun x y => shrW x y.toNat) rfl hready
    case sadd | ssub | smul | sand | sor | sxor => exact fun hready => makes_scalar2 rfl hready
    all_goals exact trivial
  · exact fun g n m x => ⟨rfl, rs_ws g n m x⟩

end Sys2Proof.VectorScalar

/-! PROOFS. Chapters 2, 4 and 5: words that write their group. -/
namespace Sys2Proof.GroupWords
open Sys2Proof.Machine Sys2Proof.Claims Sys2Proof.Tables

/-! ## PARTSET past the fence of another lane (R114, R186) -/

/-- Lane 5 of group 0 has run past a fence that is not complete. -/
def otherFence : Fence :=
  { id := 0, scope := 0, pc := 0x20000, after := [], lanes := [{ lane := 5, preds := 0, flags := 0, srseed := 0, run := 0 }]
    regs := [], queues := [], part := 0, sectors := [], specOps := [], conflict := false }

/-- Lanes 0 and 1 of that group stand at a word. -/
def besideFence : State :=
  { State.reset.setGrp 0 { probeGrp false 0x20000 with fences := [otherFence] } with cur := { lanes := 3, pc := 0x20000 } }

/-- What the fences of a word's group note of PART after the word. -/
def notedParts (o : Res) (k : Nat) : List Word :=
  match o with
  | .next t => (t.grp k).fences.map (·.part)
  | _ => []

/-- A word that makes G of its group leaves the fences of G. -/
theorem notedParts_of_makes {i : Instr} {s : State} {G : Grp} (h : makes i s G) :
    notedParts (exec i s) s.key = G.fences.map (·.part) := by
  obtain ⟨t, hexec, hleaves⟩ := h
  rw [hexec]
  show (t.grp s.key).fences.map (·.part) = _
  rw [hleaves.group]
  rfl

/-- Refutes O11: PARTSET by lanes outside an incomplete fence also sets the value of PART that the fence's rollback restores (R186). -/
theorem not_groupWriteResults : ¬ Obligations.GroupWriteResults := by
  unfold Obligations.GroupWriteResults
  intro h
  have hmakes := h (.partset true 3 0) besideFence _ rfl (by decide)
  have hnoted := notedParts_of_makes hmakes
  revert hnoted
  decide

/-! ## Status and control registers (R30, R142, R143) -/

/-- The outcomes of a CSRW whose values neither trap nor wait. -/
theorem csrw_outs_ok {w : View} {s : State} {c : BitVec 12} {val : Nat → Dword}
    (h : ∀ l, inMask w.act l = true → csrReserved c (val l) = false ∧ csrwOut w s c (val l) = .ok) :
    (lanesOf w.act).map (fun l => (l, if (lanesOf w.act).any (fun l => csrReserved c (val l)) then .trap 1 6 0 none else csrwOut w s c (val l))) =
      (lanesOf w.act).map (fun l => (l, LaneOut.ok)) := by
  have hbad : (lanesOf w.act).any (fun l => csrReserved c (val l)) = false := by
    rw [List.any_eq_false]
    intro l hl
    simp [(h l ((mem_lanesOf _ _).mp hl)).1]
  apply List.map_congr_left
  intro l hl
  rw [hbad, if_neg Bool.false_ne_true, (h l ((mem_lanesOf _ _).mp hl)).2]

theorem eq_of_toNat {c : BitVec 12} {n : Nat} (h : c.toNat = n) : c = BitVec.ofNat 12 n := by
  rw [← h, BitVec.ofNat_toNat, BitVec.setWidth_eq]

theorem csrWritable_cases {c : BitVec 12} (hw : csrWritable c = true) (hp : csrPerLane c = false) :
    c = 0x010 ∨ c = 0x011 ∨ c = 0x012 ∨ c = 0x014 ∨ c = 0x023 ∨ c = 0x050 ∨ c = 0x060 := by
  simp only [csrWritable, List.contains_eq_mem, decide_eq_true_eq, List.mem_cons, List.not_mem_nil, or_false] at hw
  rcases hw with h | h | h | h | h | h | h | h | h | h <;> obtain rfl := eq_of_toNat h <;> revert hp <;> decide

/-- The registers that CSRR knows (Table 1-3). -/
theorem csrKnown_cases {c : BitVec 12} (h : csrKnown c = true) :
    c ∈ [0x000#12, 0x001, 0x002, 0x003, 0x004, 0x005, 0x006, 0x007, 0x008, 0x010, 0x011, 0x012, 0x013, 0x014, 0x020, 0x021,
      0x022, 0x023, 0x024, 0x030, 0x031, 0x032, 0x033, 0x040, 0x050, 0x051, 0x060] := by
  have hm := List.mem_map_of_mem (f := BitVec.ofNat 12) (List.contains_iff_mem.mp h)
  rw [BitVec.ofNat_toNat, BitVec.setWidth_eq] at hm
  exact hm

/-- What CSRR reads where the writable registers of a group hold these values, and every other reads `rest`. -/
def groupCsr (c : BitVec 12) (part qwin rmode trapen scaleh cpbind tlbinv rest : Dword) : Dword :=
  if c = 0x010#12 then part else if c = 0x011#12 then qwin else if c = 0x012#12 then rmode else if c = 0x014#12 then trapen
  else if c = 0x023#12 then scaleh else if c = 0x050#12 then cpbind else if c = 0x060#12 then tlbinv else rest

section
variable (s : State) (g : Grp) (l : Nat) {c' : BitVec 12} (hk : csrKnown c' = true) (y : Word) (x : Dword)
include hk

theorem readCsr_written (part qwin rmode trapen cpbind : Word) (scaleh tlbinv : Dword) (ids : List Nat) :
    readCsr s { g with part := part, qwin := qwin, rmode := rmode, trapen := trapen, scaleh := scaleh, cpbind := cpbind
                       tlbinv := tlbinv, tlbAfter := ids } l c' =
      groupCsr c' (part.setWidth 64) (qwin.setWidth 64) (rmode.setWidth 64) (trapen.setWidth 64) scaleh (cpbind.setWidth 64) tlbinv
        (readCsr s g l c') := by
  have := csrKnown_cases hk
  fin_cases this <;> rfl
theorem readCsr_held : readCsr s g l c' = groupCsr c' (g.part.setWidth 64) (g.qwin.setWidth 64) (g.rmode.setWidth 64)
    (g.trapen.setWidth 64) g.scaleh (g.cpbind.setWidth 64) g.tlbinv (readCsr s g l c') :=
  readCsr_written s g l hk g.part g.qwin g.rmode g.trapen g.cpbind g.scaleh g.tlbinv g.tlbAfter

end

/-! One value changed changes one register's reading. -/

section
variable {c : BitVec 12} {part qwin rmode trapen scaleh cpbind tlbinv rest : Dword} (x : Dword)

theorem groupCsr_part : groupCsr c x qwin rmode trapen scaleh cpbind tlbinv rest =
    if c = 0x010#12 then x else groupCsr c part qwin rmode trapen scaleh cpbind tlbinv rest := by
  unfold groupCsr
  split <;> rfl
theorem groupCsr_qwin : groupCsr c part x rmode trapen scaleh cpbind tlbinv rest =
    if c = 0x011#12 then x else groupCsr c part qwin rmode trapen scaleh cpbind tlbinv rest := by
  by_cases h : c = 0x011#12 <;> simp [groupCsr, h]
theorem groupCsr_rmode : groupCsr c part qwin x trapen scaleh cpbind tlbinv rest =
    if c = 0x012#12 then x else groupCsr c part qwin rmode trapen scaleh cpbind tlbinv rest := by
  by_cases h : c = 0x012#12 <;> simp [groupCsr, h]
theorem groupCsr_trapen : groupCsr c part qwin rmode x scaleh cpbind tlbinv rest =
    if c = 0x014#12 then x else groupCsr c part qwin rmode trapen scaleh cpbind tlbinv rest := by
  by_cases h : c = 0x014#12 <;> simp [groupCsr, h]
theorem groupCsr_scaleh : groupCsr c part qwin rmode trapen x cpbind tlbinv rest =
    if c = 0x023#12 then x else groupCsr c part qwin rmode trapen scaleh cpbind tlbinv rest := by
  by_cases h : c = 0x023#12 <;> simp [groupCsr, h]
theorem groupCsr_cpbind : groupCsr c part qwin rmode trapen scaleh x tlbinv rest =
    if c = 0x050#12 then x else groupCsr c part qwin rmode trapen scaleh cpbind tlbinv rest := by
  by_cases h : c = 0x050#12 <;> simp [groupCsr, h]
theorem groupCsr_tlbinv : groupCsr c part qwin rmode trapen scaleh cpbind x rest =
    if c = 0x060#12 then x else groupCsr c part qwin rmode trapen scaleh cpbind tlbinv rest := by
  by_cases h : c = 0x060#12 <;> simp [groupCsr, h]

end

section
variable (s : State) (g : Grp) (l : Nat) {c' : BitVec 12} (hk : csrKnown c' = true) (y : Word) (x : Dword)
include hk

/-! What CSRR reads of a group in which one register has been written. -/

theorem readCsr_part (m : Word) : readCsr s (g.setPart m y) l c' = if c' = 0x010#12 then y.setWidth 64 else readCsr s g l c' := by
  have := csrKnown_cases hk
  fin_cases this <;> rfl
theorem readCsr_qwin : readCsr s { g with qwin := y } l c' = if c' = 0x011#12 then y.setWidth 64 else readCsr s g l c' :=
  (readCsr_written s g l hk ..).trans ((groupCsr_qwin _).trans (congrArg _ (readCsr_held s g l hk).symm))
theorem readCsr_rmode : readCsr s { g with rmode := y } l c' = if c' = 0x012#12 then y.setWidth 64 else readCsr s g l c' :=
  (readCsr_written s g l hk ..).trans ((groupCsr_rmode _).trans (congrArg _ (readCsr_held s g l hk).symm))
theorem readCsr_trapen : readCsr s { g with trapen := y } l c' = if c' = 0x014#12 then y.setWidth 64 else readCsr s g l c' :=
  (readCsr_written s g l hk ..).trans ((groupCsr_trapen _).trans (congrArg _ (readCsr_held s g l hk).symm))
theorem readCsr_scaleh : readCsr s { g with scaleh := x } l c' = if c' = 0x023#12 then x else readCsr s g l c' :=
  (readCsr_written s g l hk ..).trans ((groupCsr_scaleh _).trans (congrArg _ (readCsr_held s g l hk).symm))
theorem readCsr_cpbind : readCsr s { g with cpbind := y } l c' = if c' = 0x050#12 then y.setWidth 64 else readCsr s g l c' :=
  (readCsr_written s g l hk ..).trans ((groupCsr_cpbind _).trans (congrArg _ (readCsr_held s g l hk).symm))
theorem readCsr_tlbinv (ids : List Nat) :
    readCsr s { g with tlbinv := x, tlbAfter := ids } l c' = if c' = 0x060#12 then x else readCsr s g l c' :=
  (readCsr_written s g l hk ..).trans ((groupCsr_tlbinv _).trans (congrArg _ (readCsr_held s g l hk).symm))

end

/-- A 32-bit value goes through a 32-bit register. -/
theorem low_setWidth {x : Dword} (h : x.toNat < 2 ^ 32) : (x.extractLsb' 0 32).setWidth 64 = x := by
  apply BitVec.eq_of_toNat_eq
  simp only [BitVec.toNat_setWidth, BitVec.extractLsb'_toNat, Nat.shiftRight_zero]
  omega

/-- CSRR after a CSRW: the register written gives the value, TLBINV its extent and BUSY; another reads as before. -/
theorem readCsr_writeCsr (s : State) (k l : Nat) (m : Word) (c c' : BitVec 12) (x : Dword) (hw : csrWritable c = true)
    (hp : csrPerLane c = false) (hk : csrKnown c' = true) (hx : csrWide c = false → x.toNat < 2 ^ 32) :
    readCsr (writeCsr s k m c x) ((writeCsr s k m c x).grp k) l c' =
      if c' = c then (if c = 0x060#12 then (x &&& 0x00FFFFFFFFFF000C#64) ||| 1 else x) else readCsr s (s.grp k) l c' := by
  have hread : ∀ f : Grp → Grp, readCsr (s.modGrp k f) ((s.modGrp k f).grp k) l c' = readCsr s (f (s.grp k)) l c' := fun f => by
    rw [State.grp_modGrp]
    rfl
  rcases csrWritable_cases hw hp with rfl | rfl | rfl | rfl | rfl | rfl | rfl
  · exact (hread _).trans ((readCsr_part s _ l hk _ m).trans (by rw [low_setWidth (hx rfl)]; rfl))
  · exact (hread _).trans ((readCsr_qwin s _ l hk _).trans (by rw [low_setWidth (hx rfl)]; rfl))
  · exact (hread _).trans ((readCsr_rmode s _ l hk _).trans (by rw [low_setWidth (hx rfl)]; rfl))
  · exact (hread _).trans ((readCsr_trapen s _ l hk _).trans (by rw [low_setWidth (hx rfl)]; rfl))
  · exact (hread _).trans (readCsr_scaleh s _ l hk _)
  · exact (hread _).trans ((readCsr_cpbind s _ l hk _).trans (by rw [low_setWidth (hx rfl)]; rfl))
  · exact (hread _).trans (readCsr_tlbinv s _ l hk _ _)

theorem csrPerLane_cases {c : BitVec 12} (h : csrPerLane c = true) : c = 0x013 ∨ c = 0x020 ∨ c = 0x033 := by
  simpa [csrPerLane, or_assoc] using h

/-- What CSRR reads of a lane, where it reads `rest` of its group. -/
def laneCsr (c : BitVec 12) (x : Lane) (rest : Dword) : Dword :=
  if c = 0x013#12 then x.srseed.setWidth 64 else if c = 0x020#12 then x.flags.setWidth 64
  else if c = 0x032#12 then x.taddr else if c = 0x033#12 then x.tpc else rest

theorem laneCsr_srseed (c : BitVec 12) (x : Lane) (y : Word) (rest : Dword) :
    laneCsr c { x with srseed := y } rest = if c = 0x013#12 then y.setWidth 64 else laneCsr c x rest := by
  unfold laneCsr
  split <;> rfl
theorem laneCsr_flags (c : BitVec 12) (x : Lane) (y : Word) (rest : Dword) :
    laneCsr c { x with flags := y } rest = if c = 0x020#12 then y.setWidth 64 else laneCsr c x rest := by
  by_cases h : c = 0x020#12 <;> simp [laneCsr, h]
theorem laneCsr_tpc (c : BitVec 12) (x : Lane) (y rest : Dword) :
    laneCsr c { x with tpc := y } rest = if c = 0x033#12 then y else laneCsr c x rest := by
  by_cases h : c = 0x033#12 <;> simp [laneCsr, h]

section
variable (s : State) (g : Grp) {l l' : Nat} {c' : BitVec 12} (hk : csrKnown c' = true)
include hk

/-- What CSRR reads of a lane depends on its FLAGS, SRSEED, TADDR and TPC alone. -/
theorem readCsr_modLane (l l' : Nat) (f : Lane → Lane) :
    readCsr s (g.modLane l f) l' c' = laneCsr c' ((g.modLane l f).lane l') (readCsr s g l' c') := by
  have := csrKnown_cases hk
  fin_cases this <;> rfl
theorem readCsr_lane (l : Nat) : readCsr s g l c' = laneCsr c' (g.lane l) (readCsr s g l c') := by
  have := csrKnown_cases hk
  fin_cases this <;> rfl

/-- Changing a lane changes what CSRR reads for no other lane. -/
theorem readCsr_modLane_other (f : Lane → Lane) (hl : l' ≠ l) : readCsr s (g.modLane l f) l' c' = readCsr s g l' c' := by
  rw [readCsr_modLane s g hk l l' f, Grp.lane_modLane, if_neg hl, ← readCsr_lane s g hk]

/-! What CSRR reads for a lane in which one register has been written. -/

theorem readCsr_srseed (y : Word) :
    readCsr s (g.modLane l (fun x => { x with srseed := y })) l c' = if c' = 0x013#12 then y.setWidth 64 else readCsr s g l c' := by
  rw [readCsr_modLane s g hk, Grp.lane_modLane, if_pos rfl, laneCsr_srseed, ← readCsr_lane s g hk]
theorem readCsr_flags (y : Word) :
    readCsr s (g.modLane l (fun x => { x with flags := y })) l c' = if c' = 0x020#12 then y.setWidth 64 else readCsr s g l c' := by
  rw [readCsr_modLane s g hk, Grp.lane_modLane, if_pos rfl, laneCsr_flags, ← readCsr_lane s g hk]
theorem readCsr_tpc (y : Dword) :
    readCsr s (g.modLane l (fun x => { x with tpc := y })) l c' = if c' = 0x033#12 then y else readCsr s g l c' := by
  rw [readCsr_modLane s g hk, Grp.lane_modLane, if_pos rfl, laneCsr_tpc, ← readCsr_lane s g hk]

end

/-- CSRR after a CSRW of a lane's register: that lane reads the value; another lane, and another register, read as before. -/
theorem readCsr_writeLaneCsr (s : State) (g : Grp) (l l' : Nat) (c c' : BitVec 12) (x : Dword) (hp : csrPerLane c = true)
    (hk : csrKnown c' = true) (hx : csrWide c = false → x.toNat < 2 ^ 32) :
    readCsr s (writeLaneCsr g l c x) l' c' = if c' = c ∧ l' = l then x else readCsr s g l' c' := by
  by_cases hl : l' = l
  · subst hl
    simp only [and_true]
    rcases csrPerLane_cases hp with rfl | rfl | rfl
    · exact (readCsr_srseed s g hk _).trans (by rw [low_setWidth (hx rfl)]; rfl)
    · exact (readCsr_flags s g hk _).trans (by rw [low_setWidth (hx rfl)]; rfl)
    · exact readCsr_tpc s g hk x
  · rw [if_neg (fun h => hl h.2)]
    exact readCsr_modLane_other s g hk _ hl

/-- The lane whose value a CSRW writes for lane l: its own for a lane's register, the lowest of Act for another (R143). -/
def csrwFrom (w : View) (c : BitVec 12) (l : Nat) : Nat := if csrPerLane c then l else (lowest w.act).getD l

/-- What a CSRW by the lanes of `done` does. -/
def csrwEffect (w : View) (a : BitVec 6) (c : BitVec 12) (done : Word) (t : State) : State :=
  if done = 0 then t
  else if csrPerLane c then t.modGrp w.key (fun g => (lanesOf done).foldl (fun g l => writeLaneCsr g l c (csrwValue w c a (csrwFrom w c l))) g)
  else writeCsr t w.key done c (csrwValue w c a (csrwFrom w c 0))

/-- A CSRW whose values neither trap nor wait completes with its write. -/
theorem completes_csrw {u : Bool} {a : BitVec 6} {c : BitVec 12} {p : BitVec 3} {s : State} (hready : ready (.csrw u a c p) s = true)
    (hval : ∀ l, inMask (viewOf (.csrw u a c p) s).act l = true →
      csrReserved c (csrwValue (viewOf (.csrw u a c p) s) c a (csrwFrom (viewOf (.csrw u a c p) s) c l)) = false ∧
      csrwOut (viewOf (.csrw u a c p) s) (enter (.csrw u a c p) s) c
        (csrwValue (viewOf (.csrw u a c p) s) c a (csrwFrom (viewOf (.csrw u a c p) s) c l)) = .ok) :
    completes (.csrw u a c p) s (csrwEffect (viewOf (.csrw u a c p) s) a c (viewOf (.csrw u a c p) s).act) :=
  (show exec _ s = execCsrw u a c p s from rfl).trans (issue_ready _ s _ hready (csrw_outs_ok hval))

/-- Each lane writes its own value to a lane's register; the lowest lane's goes to another. -/
theorem csrwEffect_eq (w : View) (a : BitVec 6) (c : BitVec 12) (done : Word) :
    csrwEffect w a c done = fun t => if done = 0 then t
      else if csrPerLane c then t.modGrp w.key (fun g => (lanesOf done).foldl (fun g l => writeLaneCsr g l c (csrwValue w c a l)) g)
      else writeCsr t w.key done c (csrwValue w c a (csrwFrom w c 0)) := by
  funext t
  unfold csrwEffect
  by_cases hp : csrPerLane c = true
  · simp only [csrwFrom, hp, if_true]
  · simp only [hp, if_false, Bool.false_eq_true]

/-- Settles O12: a register that is not a lane's is one field of the group; a lane's is one field of the lane. -/
theorem csrWrites : Obligations.CsrWrites := by
  unfold Obligations.CsrWrites
  refine ⟨?completes, ?group, ?lane⟩
  case completes =>
    intro u a c p s hready
    dsimp only
    intro hval
    exact csrwEffect_eq (viewOf (.csrw u a c p) s) a c _ ▸ completes_csrw hready hval
  case group => exact fun s k l m c c' x hw hp hk _ hx => readCsr_writeCsr s k l m c c' x hw hp hk hx
  case lane => exact fun s g l l' c c' x hp hk hx => readCsr_writeLaneCsr s g l l' c c' x hp hk hx

/-! ## The queue of special functions and conversions (R92) -/

/-- What f does at one lane is what the result r says: the lane's flags and generator, and words for the group's queue. -/
structure QueueEff (f : Grp → Nat → Grp × List (Nat × Word)) (r : Nat → Lane → LaneResult) : Prop where
  rest : ∀ g l, (f g l).1 = g.put g.v (f g l).1.lanes
  lane : ∀ g l j, (f g l).1.lane j = if j = l then (r l (g.lane l)).into (g.lane l) else g.lane j
  words : ∀ g l, (f g l).2 = keyed g l (r l (g.lane l))

/-- The fold over a list of lanes without repeats: every lane takes its result, and the words stand in lane order. -/
theorem QueueEff.fold {f : Grp → Nat → Grp × List (Nat × Word)} {r : Nat → Lane → LaneResult} (h : QueueEff f r) (ls : List Nat)
    (hn : ls.Nodup) (g : Grp) (ws : List (Nat × Word)) :
    let x := ls.foldl (fun (acc : Grp × List (Nat × Word)) l => ((f acc.1 l).1, acc.2 ++ (f acc.1 l).2)) (g, ws)
    x.1 = g.put g.v x.1.lanes ∧ (∀ j, x.1.lane j = if j ∈ ls then (r j (g.lane j)).into (g.lane j) else g.lane j) ∧
    x.2 = ws ++ ls.flatMap (fun l => keyed g l (r l (g.lane l))) := by
  induction ls generalizing g ws with
  | nil => exact ⟨rfl, by simp, by simp⟩
  | cons a t ih =>
    obtain ⟨ha, ht⟩ := List.nodup_cons.mp hn
    obtain ⟨hrest, hlane, hwords⟩ := ih ht (f g a).1 (ws ++ (f g a).2)
    have hother : ∀ l ∈ t, (f g a).1.lane l = g.lane l := fun l hl => by
      rw [h.lane, if_neg]
      rintro rfl
      exact ha hl
    refine ⟨Grp.put_trans hrest (h.rest g a) |>.trans (by rw [congrArg Grp.v (h.rest g a)]; rfl), fun j => ?_, ?_⟩
    · refine (hlane j).trans ?_
      by_cases hj : j ∈ t
      · simp [hj, hother j hj]
      · by_cases hja : j = a
        · subst hja; simp [ha, h.lane]
        · simp [hj, hja, h.lane]
    · refine hwords.trans ?_
      rw [h.words, List.flatMap_cons, List.append_assoc]
      congr 2
      refine List.flatMap_congr fun l hl => ?_
      rw [hother l hl, h.rest g a]
      rfl

/-- The group that a word leaves whose lanes `ls` queue their results. -/
def queueResults (f : Grp → Nat → Grp × List (Nat × Word)) (ls : List Nat) (g : Grp) : Grp :=
  let r := ls.foldl (fun (acc : Grp × List (Nat × Word)) l => ((f acc.1 l).1, acc.2 ++ (f acc.1 l).2)) (g, [])
  { r.1 with sfq := r.1.sfq ++ [⟨r.2⟩] }

theorem queueResults_rest {f : Grp → Nat → Grp × List (Nat × Word)} {r : Nat → Lane → LaneResult} (h : QueueEff f r) (ls : List Nat)
    (hn : ls.Nodup) (g : Grp) : queueResults f ls g = { g with
      lanes := (queueResults f ls g).lanes, sfq := g.sfq ++ [⟨ls.flatMap (fun l => keyed g l (r l (g.lane l)))⟩] } := by
  obtain ⟨hrest, -, hwords⟩ := h.fold ls hn g []
  unfold queueResults
  dsimp only
  rw [hwords, hrest]
  rfl
theorem queueResults_lane {f : Grp → Nat → Grp × List (Nat × Word)} {r : Nat → Lane → LaneResult} (h : QueueEff f r) (ls : List Nat)
    (hn : ls.Nodup) (g : Grp) (j : Nat) :
    (queueResults f ls g).lane j = if j ∈ ls then (r j (g.lane j)).into (g.lane j) else g.lane j :=
  (h.fold ls hn g []).2.1 j

/-- A word appends its lanes' results to the queue, and lets those lanes go on. -/
def Queues (i : Instr) (s : State) (f : Nat → LaneResult) : Prop :=
  ∃ t, exec i s = .next t ∧ t = s.put t.grps ∧ (∀ k, k ≠ s.key → t.grp k = s.grp k) ∧
    t.grp s.key = { (viewOf i s).g with
      lanes := (t.grp s.key).lanes
      sfq := if (viewOf i s).act = 0 then (viewOf i s).g.sfq
        else (viewOf i s).g.sfq ++ [⟨(acting i s).flatMap (fun l => keyed (s.grp s.key) l (f l))⟩] } ∧
    (∀ l, inMask s.cur.lanes l = true → (t.grp s.key).lane l = after i s
      (if inMask (viewOf i s).act l then (f l).into ((s.grp s.key).lane l) else (s.grp s.key).lane l)) ∧
    (∀ l, inMask s.cur.lanes l = false → (t.grp s.key).lane l = (s.grp s.key).lane l)

/-- A ready word whose results join the queue. -/
theorem queues_results {i : Instr} {s : State} {f : View → Grp → Nat → Grp × List (Nat × Word)} {r : Nat → Lane → LaneResult}
    (he : exec i s = issue i s (fun w _ => queued w (f w))) (hready : ready i s = true) (hf : QueueEff (f (viewOf i s)) r) :
    Queues i s (fun l => r l ((s.grp s.key).lane l)) := by
  obtain ⟨t, hexec, hleaves⟩ := makes_once i s _ (fun done => queueResults (f (viewOf i s)) (lanesOf done)) he hready rfl
  have hnodup := lanesOf_nodup (viewOf i s).act
  have hlane := queueResults_lane hf _ hnodup (viewOf i s).g
  refine ⟨t, hexec, hleaves.rest, hleaves.others, ?_, fun l hl => ?_, fun l hl => ?_⟩
  · rw [hleaves.group]
    split
    · rfl
    · rw [queueResults_rest hf _ hnodup]
      simp only [viewOf_lane, keyed, viewOf_vkey]
      rfl
  · rw [hleaves.moved l hl]
    split
    · next h0 => rw [h0, inMask_zero, viewOf_lane]; rfl
    · rw [hlane]
      simp only [mem_lanesOf, viewOf_lane]
  · rw [hleaves.off l hl]
    have hact : inMask (viewOf i s).act l = false := by
      by_contra hc
      rw [act_sub i s (by simpa using hc)] at hl
      exact absurd hl (by decide)
    split
    · exact viewOf_lane i s l
    · rw [hlane, if_neg (by simp [mem_lanesOf, hact]), viewOf_lane]

/-- Flags and a word. -/
theorem word_eff (d : Nat) (f : Nat → FRes) :
    QueueEff (fun g l => (g.raise l (f l).flags, [(g.vkey d l, FRes.w32 (f l))])) (fun l _ => one d (FRes.w32 (f l)) (f l).flags) where
  rest g l := raise_put _ _ _
  lane g l j := by simp [lane_raise, LaneResult.into, one]
  words g l := rfl

/-- The words of a value narrower than its register, or as wide. -/
theorem destWords_one (g : Grp) (l d y : Nat) (fl : Word) : destWords g d l 1 y = keyed g l (one d (BitVec.ofNat 32 y) fl) := rfl
theorem destWords_two (g : Grp) (l d y : Nat) (fl : Word) : destWords g d l 2 y = keyed g l (two d (BitVec.ofNat 64 y) fl) := by
  have hlo : (BitVec.ofNat 64 y).extractLsb' 0 32 = BitVec.ofNat 32 y := by
    apply BitVec.eq_of_toNat_eq
    simp only [BitVec.extractLsb'_toNat, BitVec.toNat_ofNat, Nat.shiftRight_zero]
    omega
  have hhi : (BitVec.ofNat 64 y).extractLsb' 32 32 = BitVec.ofNat 32 (y / 2 ^ 32) := by
    apply BitVec.eq_of_toNat_eq
    simp only [BitVec.extractLsb'_toNat, BitVec.toNat_ofNat, Nat.shiftRight_eq_div_pow]
    omega
  simp only [destWords, keyed, two, hlo, hhi, List.map_cons, List.map_nil]

/-- A conversion: the generator steps where the mode is stochastic, then flags and a register or a pair. -/
theorem convert_eff (wide : Bool) (d m : Nat) (f : Nat → Nat → FRes) (y : FRes → Nat) :
    QueueEff (fun g l => ((stepLane g l m).2.raise l (f l (stepLane g l m).1).flags,
        cvtWords g wide d l (y (f l (stepLane g l m).1))))
      (fun l x =>
        let r := f l (drawn m x.srseed)
        { if wide then two d (BitVec.ofNat 64 (y r)) r.flags else one d (BitVec.ofNat 32 (y r)) r.flags with
          seed := some (stepped m x.srseed) }) where
  rest g l := (Grp.put_trans (raise_put _ _ _) (stepLane_put _ _ _)).trans (by rw [v_stepLane])
  lane g l j := by
    by_cases h : j = l
    · subst h
      cases wide <;> simp [lane_raise, lane_stepLane, stepLane_drawn, LaneResult.into, one, two]
    · simp [h, lane_raise, lane_stepLane]
  words g l := by
    rw [stepLane_drawn]
    cases wide
    · exact destWords_one g l d _ (f l (drawn m (g.lane l).srseed)).flags
    · exact destWords_two g l d _ (f l (drawn m (g.lane l).srseed)).flags

/-- Two elements converted one after the other (R75, R105): the generator steps for each. -/
theorem pack_eff (d m width : Nat) (f : Nat → Nat → Nat → FRes) :
    QueueEff (fun g l =>
        let s0 := stepLane g l m
        let s1 := stepLane s0.2 l m
        let x := pair16 (f 0 l s0.1) (f 1 l s1.1) width
        (s1.2.raise l x.flags, [(g.vkey d l, FRes.w32 x)]))
      (fun l x =>
        let y := pair16 (f 0 l (drawn m x.srseed)) (f 1 l (drawn m (stepped m x.srseed))) width
        { one d (FRes.w32 y) y.flags with seed := some (stepped m (stepped m x.srseed)) }) where
  rest g l := (Grp.put_trans (raise_put _ _ _) (Grp.put_trans (stepLane_put _ _ _) (stepLane_put _ _ _))).trans
    (by rw [v_stepLane, v_stepLane])
  lane g l j := by
    by_cases h : j = l
    · subst h; simp [lane_raise, lane_stepLane, stepLane_drawn, LaneResult.into, one]
    · simp [h, lane_raise, lane_stepLane]
  words g l := by simp [stepLane_drawn, lane_stepLane, keyed, one]

/-- Settles O13: every word of the queue joins it lane by lane; QUEUED_RESULT_WRITE takes its head. -/
theorem queuedResults : Obligations.QueuedResults := by
  unfold Obligations.QueuedResults
  constructor
  · intro i s f hf
    refine of_entry (P := fun f => ready i s = true → Queues i s f) ?_ hf
    clear hf
    cases i
    case cvt u t d a e k p =>
      exact fun hready => queues_results (show exec _ s = execCvt u t d a e k p s from rfl) hready
        (convert_eff (wideType t) d.toNat _ (fun l r => convert (styOf t.toNat) (styOf e.toNat) (dynMode (viewOf _ s)) r (k == 1#1)
          (if wideType e then ((viewOf _ s).g.rv64 a.toNat l).toNat else ((viewOf _ s).opnd 0 a.toNat l).toNat))
          (fun r => widen (styOf t.toNat) (if wideType t then 64 else 32) r.bits))
    case cvtpk u t d a b p =>
      exact fun hready => queues_results (show exec _ s = execCvtpk u t d a b p s from rfl) hready
        (pack_eff d.toNat _ (pkTy t.toNat).width (fun k l r => convert (pkTy t.toNat) (.flt fp32) (dynMode (viewOf _ s)) r false
          (if k = 0 then (viewOf _ s).n32 0 a l else (viewOf _ s).n32 1 b l)))
    case cvtupk u t d a k p => exact fun hready => queues_results (show exec _ s = execCvtupk u t d a k p s from rfl) hready (word_eff d.toNat _)
    case rcp u d a p => exact fun hready => queues_results (show exec _ s = execRcp u d a p s from rfl) hready (word_eff d.toNat _)
    case rsq u d a p => exact fun hready => queues_results (show exec _ s = execRsq u d a p s from rfl) hready (word_eff d.toNat _)
    case sqrt u d a p => exact fun hready => queues_results (show exec _ s = execSqrt u d a p s from rfl) hready (word_eff d.toNat _)
    case exp2 u d a p => exact fun hready => queues_results (show exec _ s = execExp2 u d a p s from rfl) hready (word_eff d.toNat _)
    case log2 u d a p => exact fun hready => queues_results (show exec _ s = execLog2 u d a p s from rfl) hready (word_eff d.toNat _)
    case sin u d a p => exact fun hready => queues_results (show exec _ s = execSin u d a p s from rfl) hready (word_eff d.toNat _)
    case cos u d a p => exact fun hready => queues_results (show exec _ s = execCos u d a p s from rfl) hready (word_eff d.toNat _)
    case tanh u d a p => exact fun hready => queues_results (show exec _ s = execTanh u d a p s from rfl) hready (word_eff d.toNat _)
    all_goals exact trivial
  · intro c s q rest hq
    show execQueuedResultWrite c s = _
    unfold execQueuedResultWrite State.modGrp
    dsimp only
    rw [hq]


/-! ## Hints and prefixes (R47 to R52) -/

/-- A word whose lanes complete with no effect. -/
theorem makes_nothing {i : Instr} {s : State} (hexec : exec i s = issue i s (fun w _ => allOk w (fun _ s => s))) (hready : ready i s = true) :
    makes i s (viewOf i s).g :=
  ⟨_, hexec.trans (issue_ready i s _ hready rfl), leaves_enter i s⟩

/-- A prefix word that passes its checks joins the prefix group. -/
theorem prefixWord_joins {i : Instr} {s : State} (f : Prefix → Prefix) (h0 : s.cur.lanes ≠ 0)
    (hrun : s.cur.pos = 0 → overRun (s.grp s.key) s.cur.lanes (groupLen s (s.grp s.key) s.cur.pc) = 0)
    (hdec : decodeTrap (s.grp s.key) s.cur.lanes s.cur.pre {} i = none) :
    prefixWord i s f = { s with cur := { s.cur with pos := s.cur.pos + 1, pre := f s.cur.pre } } := by
  unfold prefixWord
  dsimp only
  rw [if_neg h0, if_neg (fun h => h.2 (hrun h.1))]
  unfold State.key at hdec
  rw [hdec]

/-- Settles O14: NOP and HINT.SCHED have no effect of their own; a prefix word adds its bits to the prefix group. -/
theorem nopsAndPrefixWords : Obligations.NopsAndPrefixWords := by
  unfold Obligations.NopsAndPrefixWords
  refine ⟨⟨fun u s hready => makes_nothing rfl hready, fun u y h s hready => makes_nothing rfl hready⟩, ?_⟩
  intro s h0 hrun
  constructor
  · intro y hdec
    exact congrArg Host.Outcome.next (prefixWord_joins (fun q => { q with imms := q.imms ++ [y] }) h0 hrun hdec)
  · intro r q m c hdec
    exact congrArg Host.Outcome.next (prefixWord_joins (fun x =>
      { x with hasMod := true, rnd := r.toNat, pd := q.toNat, promote := m == 1#1, cache := c.toNat }) h0 hrun hdec)

end Sys2Proof.GroupWords

/-! PROOFS. Chapters 5 and 7: transfers, rejoin, traps and the checks of decoding and of accesses. -/
namespace Sys2Proof.ControlTraps
open Sys2Proof.Machine Sys2Proof.Claims Sys2Proof.Tables

/-! ## Control transfers (R121 to R125) -/

theorem exec_targets {i : Instr} {call : Bool} {f : View → Nat → Dword} (hf : targets i = some (call, f)) (s : State) :
    exec i s = issue i s (transfer call f) := by
  refine of_entry (x := (call, f)) (P := fun x : Bool × (View → Nat → Dword) => exec i s = issue i s (transfer x.1 x.2)) ?_ hf
  clear hf
  cases i
  case bra | bru | call | callr | jmpr | ret => exact Eq.refl (exec _ s)
  all_goals exact trivial

theorem checkTarget_reachable {call : Bool} {w : View} {t : Dword} (h : reachable call w t) : checkTarget w call t = .goto t := by
  obtain ⟨halign, hregion⟩ := h
  unfold checkTarget
  rw [if_neg (by simpa using halign), if_neg]
  simp only [Bool.and_eq_true, bne_iff_ne, ne_eq, not_and, not_not]
  exact hregion

/-- The lanes of Act whose outcomes complete the word are all of Act. -/
theorem completers_all (m : Word) {out : Nat → LaneOut} (h : ∀ l, inMask m l = true → (out l).completes = true) :
    maskOf ((((lanesOf m).map (fun l => (l, out l))).filter (fun o => o.2.completes)).map (·.1)) = m := by
  rw [List.filter_eq_self.mpr, List.map_map]
  · exact (congrArg maskOf (List.map_id _)).trans (maskOf_lanesOf m)
  · intro o ho
    obtain ⟨l, hl, rfl⟩ := List.mem_map.mp ho
    exact h l ((mem_lanesOf _ _).mp hl)

/-- The issue of a ready word whose lanes in Act all complete, each as its outcome says. -/
theorem issue_moves {i : Instr} {s : State} {m : View → State → Meaning} {out : Nat → LaneOut} {eff : Word → State → State}
    (hready : ready i s = true) (hm : m (viewOf i s) (enter i s) = ⟨(acting i s).map (fun l => (l, out l)), eff⟩)
    (hcomp : ∀ l, inMask (viewOf i s).act l = true → (out l).completes = true ∧ (out l).calm = true ∧ out l ≠ .wait) :
    issue i s m = .next (settle i s ((acting i s).map (fun l => (l, out l))) (eff (viewOf i s).act (enter i s))) := by
  have hout : ∀ o ∈ (acting i s).map (fun l => (l, out l)), inMask (viewOf i s).act o.1 = true ∧ o.2 = out o.1 := by
    intro o ho
    obtain ⟨l, hl, rfl⟩ := List.mem_map.mp ho
    exact ⟨(mem_lanesOf _ _).mp hl, rfl⟩
  have hmask : maskOf ((((acting i s).map (fun l => (l, out l))).filter (fun o => o.2.completes)).map (·.1)) = (viewOf i s).act :=
    completers_all (viewOf i s).act (fun l hl => (hcomp l hl).1)
  rw [issue_settles i s m hready _ eff hm (fun o ho => (hout o ho).1) (fun o ho => by
    rw [(hout o ho).2]; exact (hcomp _ (hout o ho).1).2.1) (holdsBack_calm _ _ (fun o ho => by
    rw [(hout o ho).2]; exact (hcomp _ (hout o ho).1).2.2)), hmask]

/-- The return address of a call in register 63 of each lane of a mask. -/
def linkLanes (m : Word) (x : Word) (g : Grp) : Grp := (lanesOf m).foldl (fun g l => g.wv 63 l x) g

theorem linkLanes_rest (m x : Word) (g : Grp) : linkLanes m x g = g.put (linkLanes m x g).v g.lanes := by
  unfold linkLanes
  induction lanesOf m generalizing g with
  | nil => rfl
  | cons a t ih => exact Grp.put_trans (ih (g.wv 63 a x)) (Grp.wv_rest g 63 a x)
theorem linkLanes_rv (m x : Word) (g : Grp) (n l : Nat) (hl : l < 32) :
    (linkLanes m x g).rv n l = if n = 63 ∧ inMask m l = true then x else g.rv n l := by
  obtain ⟨hrest, -, hin, hkept⟩ := (eff_reg 63 (fun _ => x)).fold (lanesOf m) (lanesOf_nodup m)
    (fun l hl => inMask_lt ((mem_lanesOf _ _).mp hl)) g
  by_cases hm : inMask m l = true
  · rw [show (linkLanes m x g).rv n l = _ from hin l ((mem_lanesOf _ _).mpr hm) n]
    by_cases hn : n = 63
    · subst hn; simp [LaneResult.reads, one, hm]
    · simp [LaneResult.reads, one, hn, Ne.symm hn]
  · rw [if_neg (fun h => hm h.2)]
    have hkey : (linkLanes m x g).vkey n l = g.vkey n l := Grp.vkey_of hrest n l
    have : ∀ l' ∈ lanesOf m, ∀ y ∈ (one 63 x).regs, g.vkey n l ≠ g.vkey y.1 l' := by
      intro l' hl' y _ he
      obtain ⟨-, rfl⟩ := Grp.vkey_inj g he hl (inMask_lt ((mem_lanesOf _ _).mp hl'))
      exact hm ((mem_lanesOf _ _).mp hl')
    exact (congrArg (Bank.get 0 (linkLanes m x g).v) hkey).trans (hkept _ this)

/-- The state in which the lanes of a transfer are sent on: a call has written its return address. -/
def linked (call : Bool) (i : Instr) (s : State) : State :=
  if call then (enter i s).modGrp s.key (linkLanes (viewOf i s).act (s.cur.next.extractLsb' 0 32)) else enter i s

theorem linked_put (call : Bool) (i : Instr) (s : State) : linked call i s = s.put (linked call i s).grps := by
  cases call <;> rfl
theorem linked_others (call : Bool) (i : Instr) (s : State) {k : Nat} (hk : k ≠ s.key) : (linked call i s).grp k = s.grp k := by
  have henter : (enter i s).grp k = s.grp k := State.grp_setGrp_other s _ hk
  cases call
  · exact henter
  · exact (State.grp_modGrp_other _ _ hk).trans henter
theorem linked_grp (call : Bool) (i : Instr) (s : State) : (linked call i s).grp s.key =
    if call then linkLanes (viewOf i s).act (s.cur.next.extractLsb' 0 32) (viewOf i s).g else (viewOf i s).g := by
  cases call
  · exact enter_grp i s
  · exact (State.grp_modGrp ..).trans (congrArg _ (enter_grp i s))

theorem exec_transfer {i : Instr} {s : State} {call : Bool} {f : View → Nat → Dword} (hf : targets i = some (call, f))
    (hready : ready i s = true) (hreach : ∀ l, inMask (viewOf i s).act l = true → reachable call (viewOf i s) (f (viewOf i s) l)) :
    exec i s = .next (settle i s ((acting i s).map (fun l => (l, LaneOut.goto (f (viewOf i s) l)))) (linked call i s)) := by
  have hm : transfer call f (viewOf i s) (enter i s) = ⟨(acting i s).map (fun l => (l, LaneOut.goto (f (viewOf i s) l))),
      fun done t => if call then t.modGrp s.key (linkLanes done (s.cur.next.extractLsb' 0 32)) else t⟩ := by
    unfold transfer
    congr 1
    exact List.map_congr_left fun l hl => by rw [checkTarget_reachable (hreach l ((mem_lanesOf _ _).mp hl))]
  exact (exec_targets hf s).trans (issue_moves hready hm (fun l _ => ⟨rfl, rfl, fun h => nomatch h⟩))

/-- Settles O15: a transfer whose targets are reachable sends each lane of Act on; a call first writes v63. -/
theorem controlTransfers : Obligations.ControlTransfers := by
  unfold Obligations.ControlTransfers
  intro i s call f hf hready hreach
  have hexec := exec_transfer hf hready hreach
  obtain ⟨hothers, hgroup, hlanes⟩ := settle_facts i s (linked call i s) (fun l => LaneOut.goto (f (viewOf i s) l))
  have hrest := State.modGrp_put (linked_put call i s) s.key
    (fun g => moveLanes g (viewOf i s) (bFlag i) ((acting i s).map (fun l => (l, LaneOut.goto (f (viewOf i s) l))) ++
      idleOuts s.cur.lanes (viewOf i s).act))
  rw [← settle] at hrest
  generalize settle i s _ (linked call i s) = t at hexec hrest hothers hgroup hlanes
  have hlinked : (linked call i s).grp s.key = (viewOf i s).g.put ((linked call i s).grp s.key).v (viewOf i s).g.lanes := by
    rw [linked_grp]
    cases call
    · rfl
    · exact linkLanes_rest _ _ _
  have hlane : ∀ l, ((linked call i s).grp s.key).lane l = (s.grp s.key).lane l := fun l => by
    rw [hlinked]
    exact viewOf_lane i s l
  refine ⟨t, hexec, hrest, fun k hk => (hothers k hk).trans (linked_others call i s hk), ?group, fun l hl => ?act, fun l hl ha => ?idle,
    fun l hl => ?off, fun l n hl => ?regs⟩
  case group =>
    rw [hgroup, hlinked]
    rfl
  case act => rw [hlanes, if_pos hl, hlane]; rfl
  case idle => rw [hlanes, if_neg (by simp [ha]), if_pos hl, hlane]
  case off =>
    have ha : ¬ inMask (viewOf i s).act l = true := fun ha => by simp [act_sub i s ha] at hl
    rw [hlanes, if_neg ha, if_neg (by simp [hl]), hlane]
  case regs =>
    have hregs : (t.grp s.key).rv n l = ((linked call i s).grp s.key).rv n l := by
      rw [hgroup]
      rfl
    rw [hregs, linked_grp]
    cases call
    · simp
    · simp [linkLanes_rv _ _ _ n l hl]

/-! ## Rejoin masks (R127 to R129) -/

/-- A mask that can release clears, and its lanes go on at the word after their RJPARK. -/
theorem evalRelease_releases {g : Grp} {n : Nat} (h : g.releases n = true) :
    (g.evalRelease n).rj n = 0 ∧
    ∀ l, ((g.evalRelease n).lane l).parked = (if inMask (g.rj n) l then none else (g.lane l).parked) ∧
      ((g.evalRelease n).lane l).pc = (if inMask (g.rj n) l then (g.lane l).unpark else (g.lane l).pc) := by
  unfold Grp.evalRelease
  rw [h]
  simp only [Bool.not_true, Bool.false_eq_true, if_false]
  constructor
  · simp [Grp.rj, Grp.wj]
  · intro l
    have hlane : ∀ f : Nat → Lane → Lane, ((g.modLanes (lanesOf (g.rj n)) f).wj n 0).lane l =
        if inMask (g.rj n) l then f l (g.lane l) else g.lane l := fun f => by
      refine (Grp.lane_modLanes _ (lanesOf_nodup _) f g l).trans ?_
      simp only [mem_lanesOf]
    rw [hlane]
    split
    · exact ⟨rfl, rfl⟩
    · exact ⟨rfl, rfl⟩

/-- The meaning of an RJPARK on mask n (R127): the lanes that the mask holds park. -/
def rjparkMeaning (u : Bool) (n : Nat) (w : View) (_ : State) : Meaning :=
  ⟨(lanesOf w.act).map (fun l => (l, if inMask (w.g.rj n) l then .hold else .ok)),
   fun done t =>
    checkDeadlock (t.modGrp w.key (fun g =>
      (g.modLanes ((lanesOf done).filter (fun l => inMask (w.g.rj n) l)) (fun _ x =>
        { x with parked := some n, unpark := w.next, waiting := false, bkPass := false, run := if u then 0 else x.run + w.words })).evalRelease n))
      w.key⟩

theorem exec_rjpark (u : Bool) (j p : BitVec 3) (s : State) :
    exec (.rjpark u j p) s = issue (.rjpark u j p) s (rjparkMeaning u j.toNat) := rfl

/-- Settles O16: RJPARK holds the lanes of its mask and lets the others go on; a release is decided on the mask alone. -/
theorem rejoinParkAndRelease : Obligations.RejoinParkAndRelease := by
  unfold Obligations.RejoinParkAndRelease
  constructor
  · intro u j p s hready
    have hissue := issue_moves (m := rjparkMeaning u j.toNat)
      (out := fun l => if inMask ((viewOf (.rjpark u j p) s).g.rj j.toNat) l then .hold else .ok) hready rfl fun l _ => by
        split
        · exact ⟨rfl, rfl, fun h => nomatch h⟩
        · exact ⟨rfl, rfl, fun h => nomatch h⟩
    exact (exec_rjpark u j p s).trans hissue
  · intro g n
    refine ⟨evalRelease_releases, fun h => ?_⟩
    unfold Grp.evalRelease
    rw [h]
    rfl

end Sys2Proof.ControlTraps

namespace Sys2Proof.ControlTraps
open Sys2Proof.Machine Sys2Proof.Claims Sys2Proof.Tables

/-! ## Trap entry (R134, R136) -/

theorem trapHalts_iff (g : Grp) (c d : Nat) :
    trapHalts g c d = true ↔ Machine.trapEntry g c d = 0 ∨ ((c = 0x0B ∨ c = 0x0C) ∧ g.hold = true) := by
  simp [trapHalts]

/-- Settles O18: what a trap makes of its group, by whether it halts it. -/
theorem trapEntry : Obligations.TrapEntry := by
  unfold Obligations.TrapEntry
  constructor
  · intro s k m c d tpc taddr h t hne hhold
    have hrun : trapHalts (s.grp k) c d = false := by
      rw [Bool.eq_false_iff, ne_eq, trapHalts_iff]
      rintro (h0 | ⟨hc, hh⟩)
      · exact hne h0
      · rw [hhold hc] at hh
        exact absurd hh (by decide)
    have hgrp : t.grp k = trapped (s.grp k) m c d false tpc taddr := by
      rw [takeTrap_grp, if_pos rfl, hrun]
      rfl
    refine ⟨takeTrap_rest .., fun k' hk => ?_, ?_, fun l => ?_⟩
    · rw [takeTrap_grp, if_neg hk]
    · rw [hgrp]
      exact trapped_rest ..
    · rw [hgrp, trapped_lane]
      rfl
  · intro s k m c d tpc taddr h t hh
    have hgrp : t.grp k = { trapped (s.grp k) m c d true tpc taddr with
        halted := true, haltPend := false, hstat := if Machine.trapEntry (s.grp k) c d = 0 then 2 else 4 } := by
      rw [takeTrap_grp, if_pos rfl, (trapHalts_iff ..).mpr hh]
      rfl
    have hlane : ∀ l, (t.grp k).lane l = (trapped (s.grp k) m c d true tpc taddr).lane l := fun l => by
      rw [hgrp]
      rfl
    have hrest := trapped_rest (s.grp k) m c d true tpc taddr
    refine ⟨?_, ?_, ?_, ?_, fun l hl => ?_, fun l hl => ?_⟩
    · rw [hgrp]
    · rw [hgrp]
    · rw [hgrp, hrest]
    · rw [hgrp, hrest]
    · rw [hlane, trapped_lane, if_pos hl]
      exact ⟨rfl, rfl, rfl⟩
    · rw [hlane, trapped_lane, if_neg (by simp [hl])]

/-! ## Misaligned accesses and targets (R124, R170) -/

/-- A word whose every lane of Act traps with one cause and DETAIL, TPC naming the word. -/
theorem issue_traps_at {i : Instr} {s : State} {m : View → State → Meaning} (hready : ready i s = true) {c d : Nat} (hd : d < 256)
    {addr : Nat → Dword} {eff : Word → State → State}
    (hm : m (viewOf i s) (enter i s) = ⟨(acting i s).map (fun l => (l, .trap c d (addr l) none)), eff⟩)
    (heff : eff 0 (enter i s) = enter i s) (hact : (viewOf i s).act ≠ 0)
    (htraps : (s.grp s.key).tlanes = 0) (hfences : (s.grp s.key).fences = []) :
    issue i s m = .next (takeTrap (trapping i s 0) s.key (viewOf i s).act c d (fun _ => s.cur.pc)
      (fun l => if inMask (viewOf i s).act l then addr l else 0)) := by
  refine (issue_traps i s m hready c d hd addr none eff hm heff hact htraps hfences).trans (congrArg _ ?_)
  refine takeTrap_congr _ _ _ _ _ _ _ _ _ fun l hl => ⟨rfl, ?_⟩
  rw [if_pos hl]

/-- Where the check of each lane of Act answers a trap, the outcomes of an access are those traps. -/
theorem memOuts_traps {s : State} {w : View} {cls : Cls} {k : AccKind} {reads rel : Bool} {size : Nat} {ea : Nat → Dword} {c d : Nat}
    (h : ∀ l, inMask w.act l = true → checkAccess s w.g l k (ea l) size = .trap c d) :
    memOuts s w cls k reads rel size ea = (lanesOf w.act).map (fun l => (l, .trap c d (ea l) none)) := by
  have hacc : (lanesOf w.act).map (fun l => (l, laneAcc s w k size ea l)) = (lanesOf w.act).map (fun l => (l, AccRes.trap c d)) :=
    List.map_congr_left fun l hl => by rw [laneAcc, h l ((mem_lanesOf _ _).mp hl)]
  unfold memOuts
  dsimp only
  rw [hacc]
  simp [AccRes.isLocal, AccRes.isFabric, selfWaits, accOut, Function.comp_def]

/-! ## A group written twice -/

theorem bank_del_none {α : Type} {m : Bank α} {k : Nat} (h : ∀ e ∈ m, e.1 ≠ k) : m.del k = m := by
  induction m with
  | nil => rfl
  | cons e r ih =>
    obtain ⟨k', v⟩ := e
    rw [Bank.del, if_neg (h _ (List.mem_cons_self ..)), ih fun e he => h e (List.mem_cons_of_mem _ he)]
theorem bank_del_ins {α : Type} {m : Bank α} {k : Nat} (v : α) (h : ∀ e ∈ m, e.1 ≠ k) : (m.ins k v).del k = m := by
  induction m with
  | nil => simp [Bank.ins, Bank.del]
  | cons e r ih =>
    obtain ⟨k', v'⟩ := e
    have hk := h _ (List.mem_cons_self ..)
    have hr : ∀ e ∈ r, e.1 ≠ k := fun e he => h e (List.mem_cons_of_mem _ he)
    by_cases hl : k < k'
    · rw [Bank.ins, if_pos hl, Bank.del, if_pos rfl, Bank.del, if_neg hk, bank_del_none hr]
    · rw [Bank.ins, if_neg hl, Bank.del, if_neg hk, ih hr]
/-- Of two writes to one index the last counts. -/
theorem bank_set_set {α : Type} [DecidableEq α] (d : α) (m : Bank α) (k : Nat) (v v' : α) : (m.set d k v).set d k v' = m.set d k v' := by
  have hdel : (m.set d k v).del k = m.del k := by
    unfold Bank.set
    split
    · exact bank_del_none (Bank.del_keys m k)
    · exact bank_del_ins v (Bank.del_keys m k)
  rw [Bank.set, hdel]
  rfl
theorem setGrp_setGrp (s : State) (k : Nat) (g g' : Grp) : (s.setGrp k g).setGrp k g' = s.setGrp k g' :=
  congrArg (fun b => ({ s with grps := b } : State)) (bank_set_set ..)
theorem modGrp_setGrp (s : State) (k : Nat) (g : Grp) (f : Grp → Grp) : (s.setGrp k g).modGrp k f = s.setGrp k (f g) := by
  rw [State.modGrp, State.grp_setGrp, setGrp_setGrp]

/-! ## TRET (R133, R137) -/

theorem allLanes_nodup (g : Grp) : g.allLanes.Nodup := by
  unfold Grp.allLanes
  split <;> decide

theorem unhold_rest (g : Grp) : g.unhold = g.put g.v g.unhold.lanes := by
  unfold Grp.unhold
  split
  · exact Grp.modLanes_rest _ _ _
  · rfl
theorem unhold_lane (g : Grp) (l : Nat) :
    g.unhold.lane l = { g.lane l with held := (g.lane l).held && (g.tlanes != 0 || !g.allLanes.contains l) } := by
  by_cases h : g.tlanes = 0
  · rw [Grp.unhold, if_pos h, Grp.lane_modLanes _ (allLanes_nodup g)]
    by_cases hl : l ∈ g.allLanes
    · simp [h, hl]
    · simp [h, hl]
  · rw [Grp.unhold, if_neg h, show (g.tlanes != 0) = true from bne_iff_ne.mpr h, Bool.true_or, Bool.and_true]

theorem resumeCopy_with (g : Grp) (b : Bank Lane) (m : Word) :
    resumeCopy { g with lanes := b, tlanes := m } = { resumeCopy g with lanes := b, tlanes := m } := by
  unfold resumeCopy
  cases h : g.cfOp <;> simp only [h]
/-- What a feeder context resumes does not depend on its lanes. -/
theorem resumes_with (g : Grp) (b : Bank Lane) (m : Word) :
    (if ({ g with lanes := b, tlanes := m } : Grp).isFeeder then resumeCopy { g with lanes := b, tlanes := m }
      else { g with lanes := b, tlanes := m }) = { (if g.isFeeder then resumeCopy g else g) with lanes := b, tlanes := m } := by
  by_cases h : g.isFeeder = true
  · rw [if_pos h, if_pos h]
    exact resumeCopy_with g b m
  · rw [if_neg h, if_neg h]
theorem resumeCopy_lane (g : Grp) (l : Nat) : (resumeCopy g).lane l = g.lane l := by
  unfold resumeCopy
  cases h : g.cfOp <;> rfl

/-- The lanes of a mask stand at their TPC, out of TLANES. -/
def atTpc (m : Word) (g : Grp) : Grp :=
  let h := g.modLanes (lanesOf m) (fun _ x =>
    { x with pc := x.tpc, run := 0, sub := 0, waiting := false, held := false, stopped := none, parity := false, bkPass := true })
  { h with tlanes := h.tlanes &&& ~~~ m }

theorem atTpc_unhold_rest (m : Word) (g : Grp) :
    (atTpc m g).unhold = { g with lanes := (atTpc m g).unhold.lanes, tlanes := g.tlanes &&& ~~~ m } := by
  rw [unhold_rest, atTpc, Grp.modLanes_rest]
  rfl
theorem atTpc_lane (m : Word) (g : Grp) (l : Nat) : (atTpc m g).lane l = if inMask m l then
    { g.lane l with pc := (g.lane l).tpc, run := 0, sub := 0, waiting := false, held := false, stopped := none, parity := false, bkPass := true }
    else g.lane l := by
  refine (Grp.lane_modLanes _ (lanesOf_nodup m) _ g l).trans ?_
  simp only [mem_lanesOf]

/-- A feeder context resumes its copy, and the lanes of a mask that are single-stepped trap after their next word. -/
def goOn (m : Word) (g : Grp) : Grp :=
  (if g.isFeeder then resumeCopy g else g).modLanes (lanesOf m) (fun _ x => { x with stepDue := x.stepArm })

/-- What TRET makes of the group, the lanes of a mask returning. -/
def returned (m : Word) (g : Grp) : Grp := goOn m (atTpc m g).unhold

theorem returned_rest (m : Word) (g : Grp) : returned m g =
    { (if g.isFeeder then resumeCopy g else g) with lanes := (returned m g).lanes, tlanes := g.tlanes &&& ~~~ m } := by
  unfold returned goOn
  rw [Grp.modLanes_rest, atTpc_unhold_rest, resumes_with]
  rfl
theorem returned_lane (m : Word) (g : Grp) (l : Nat) : (returned m g).lane l = if inMask m l then
      { g.lane l with
        pc := (g.lane l).tpc, run := 0, sub := 0, waiting := false, held := false, stopped := none, parity := false, bkPass := true,
        stepDue := (g.lane l).stepArm }
    else { g.lane l with held := (g.lane l).held && (g.tlanes &&& ~~~ m != 0 || !g.allLanes.contains l) } := by
  have hlane : ∀ x : Grp, (if x.isFeeder then resumeCopy x else x).lane l = x.lane l := fun x => by
    split
    · exact resumeCopy_lane x l
    · rfl
  have hall : (atTpc m g).allLanes = g.allLanes := by
    rw [atTpc, Grp.modLanes_rest]
    rfl
  have htl : (atTpc m g).tlanes = g.tlanes &&& ~~~ m := by
    rw [atTpc, Grp.modLanes_rest]
    rfl
  unfold returned goOn
  rw [Grp.lane_modLanes _ (lanesOf_nodup m), hlane, unhold_lane, atTpc_lane, hall, htl]
  simp only [mem_lanesOf]
  split
  · rfl
  · rfl

/-- The meaning of TRET. -/
def tretMeaning (w : View) (s : State) : Meaning :=
  ⟨(lanesOf w.act).map (fun l => (l, if inMask (s.grp w.key).tlanes l then .hold else .trap 2 2 0 none)),
   fun done s => if done = 0 then s else s.modGrp w.key (returned done)⟩

theorem exec_tret (p : BitVec 3) (s : State) : exec (.tret p) s = issue (.tret p) s tretMeaning := by
  show issue _ _ _ = _
  congr 1
  funext w s
  unfold tretMeaning
  congr 1
  funext done t
  split
  · rfl
  · exact modGrp_setGrp t w.key (atTpc done (t.grp w.key)).unhold (goOn done)

/-- A lane that is not trapped traps at its TRET. -/
theorem tret_untrapped {p : BitVec 3} {s : State} (hready : ready (.tret p) s = true) (hact : (viewOf (.tret p) s).act ≠ 0)
    (htraps : (s.grp s.key).tlanes = 0) (hfences : (s.grp s.key).fences = []) :
    exec (.tret p) s = .next (takeTrap (trapping (.tret p) s 0) s.key (viewOf (.tret p) s).act 2 2 (fun _ => s.cur.pc) (fun _ => 0)) := by
  refine (exec_tret p s).trans ((issue_traps (.tret p) s tretMeaning hready 2 2 (by decide) (fun _ => 0) none
    (fun done t => if done = 0 then t else t.modGrp s.key (returned done)) ?_ ?_ hact htraps hfences))
  · have hnone : ∀ l, inMask ((enter (.tret p) s).grp s.key).tlanes l = false := fun l => by
      rw [enter_grp, viewOf_tlanes, htraps]
      exact inMask_zero l
    unfold tretMeaning
    congr 1
    exact List.map_congr_left fun l _ => by rw [if_neg (by rw [show (viewOf (.tret p) s).key = s.key from rfl, hnone]; decide)]
  · rfl

/-- Settles O20: TRET returns the lanes of Act that are trapped, and traps where none of the group is. -/
theorem trapReturn : Obligations.TrapReturn := by
  unfold Obligations.TrapReturn
  intro p s hready w hact
  refine ⟨fun ht hf => tret_untrapped hready hact ht hf, fun htrapped => ?_⟩
  have hm : tretMeaning w (enter (.tret p) s) = ⟨(acting (.tret p) s).map (fun l => (l, LaneOut.hold)),
      fun done t => if done = 0 then t else t.modGrp s.key (returned done)⟩ := by
    unfold tretMeaning
    congr 1
    refine List.map_congr_left fun l hl => ?_
    rw [show w.key = s.key from rfl, enter_grp, viewOf_tlanes, if_pos (htrapped l ((mem_lanesOf _ _).mp hl))]
  have hexec := (exec_tret p s).trans (issue_moves (out := fun _ => .hold) hready hm fun l _ => ⟨rfl, rfl, fun h => nomatch h⟩)
  rw [if_neg hact] at hexec
  obtain ⟨hothers, hgroup, hlanes⟩ := settle_facts (.tret p) s ((enter (.tret p) s).modGrp s.key (returned w.act)) (fun _ => LaneOut.hold)
  have hrest := State.modGrp_put (s := s) (t := (enter (.tret p) s).modGrp s.key (returned w.act)) rfl s.key
    (fun g => moveLanes g w (bFlag (.tret p)) ((acting (.tret p) s).map (fun l => (l, LaneOut.hold)) ++ idleOuts s.cur.lanes w.act))
  rw [← settle] at hrest
  generalize settle (.tret p) s _ _ = t at hexec hrest hothers hgroup hlanes
  rw [State.grp_modGrp, enter_grp] at hgroup hlanes
  refine ⟨t, hexec, hrest, fun k hk => ?others, ?group, fun l hl => ?act, fun l hl ha => ?idle, fun l hl => ?off⟩
  case others =>
    rw [hothers k hk, State.grp_modGrp_other _ _ hk]
    exact State.grp_setGrp_other s _ hk
  case group =>
    rw [hgroup, returned_rest, ← viewOf_tlanes (.tret p) s]
    rfl
  case act =>
    rw [hlanes, if_pos hl, returned_lane, if_pos hl, viewOf_lane, ready_step hready (act_sub _ s hl)]
    rfl
  case idle =>
    have hna := Bool.eq_false_iff.mp ha
    rw [hlanes, if_neg hna, if_pos hl, returned_lane, if_neg hna, viewOf_lane]
    rfl
  case off =>
    have hna : ¬ inMask w.act l = true := fun ha => Bool.eq_false_iff.mp hl (act_sub _ s ha)
    have hall : (viewOf (.tret p) s).g.allLanes = (s.grp s.key).allLanes := by
      rw [viewOf_g]
      rfl
    rw [hlanes, if_neg hna, if_neg (Bool.eq_false_iff.mp hl), returned_lane, if_neg hna, viewOf_lane, viewOf_tlanes, hall]

/-! ## Accesses that trap (R132, R170, Table 7-2) -/

theorem checkAccess_misaligned (s : State) (g : Grp) (l : Nat) (k : AccKind) {ea : Dword} {size : Nat} (h : ea.toNat % size ≠ 0) :
    checkAccess s g l k ea size = .trap 8 0 := if_pos h

/-- A meaning in a state all of whose lanes trap with one cause and DETAIL, and that has no effect without a lane. -/
def AllTrap (m : Meaning) (w : View) (s : State) (c d : Nat) (ea : Nat → Dword) : Prop :=
  m.outs = (lanesOf w.act).map (fun l => (l, .trap c d (ea l) none)) ∧ m.eff 0 s = s

theorem issue_allTrap {i : Instr} {s : State} {m : View → State → Meaning} (hready : ready i s = true) {c d : Nat} (hd : d < 256)
    {ea : Nat → Dword} (hm : AllTrap (m (viewOf i s) (enter i s)) (viewOf i s) (enter i s) c d ea) (hact : (viewOf i s).act ≠ 0)
    (htraps : (s.grp s.key).tlanes = 0) (hfences : (s.grp s.key).fences = []) :
    issue i s m = .next (takeTrap (trapping i s 0) s.key (viewOf i s).act c d (fun _ => s.cur.pc)
      (fun l => if inMask (viewOf i s).act l then ea l else 0)) :=
  issue_traps_at hready hd (congrArg (fun o => (⟨o, (m (viewOf i s) (enter i s)).eff⟩ : Meaning)) hm.1) hm.2 hact htraps hfences

theorem fixLoads_none (g : Grp) : g.fixLoads (fun _ _ => false) = g := by
  have hop : ∀ o : PendOp, (match o.body with
      | .load ps => { o with body := .load (ps.map (fun p => if false then { p with live := false } else p)) }
      | _ => o) = o := by
    intro o
    split
    · next h => simp [← h]
    · rfl
  unfold Grp.fixLoads
  exact (congrArg (fun ops => { g with ops := ops }) ((List.map_congr_left fun o _ => hop o).trans (List.map_id _))).trans rfl
theorem settleLoads_nil (g : Grp) (n : Nat) : settleLoads g [] n = g := fixLoads_none g
theorem hinted_nil (s : State) (w : View) (ea : Nat → Dword) (size : Nat) : hinted s w ea size [] = s := by
  unfold hinted
  split <;> rfl
theorem enter_modGrp (i : Instr) (s : State) {f : Grp → Grp} (h : f (viewOf i s).g = (viewOf i s).g) :
    (enter i s).modGrp s.key f = enter i s := by
  rw [State.modGrp, enter_grp, h]
  exact congrArg clearCur (setGrp_setGrp ..)

section
variable {s : State} {w : View} {size : Nat} {k : AccKind} {ea : View → Nat → Dword} {c d : Nat}
variable (h : ∀ l, inMask w.act l = true → checkAccess s w.g l k (ea w l) size = .trap c d)
include h

theorem loadMeaning_traps (sgn plain : Bool) (dest : BitVec 6) (pre : View → State → State) :
    AllTrap (loadMeaning size sgn plain k dest ea pre w s) w s c d (ea w) :=
  ⟨memOuts_traps h, hinted_nil ..⟩

theorem storeMeaning_traps (rel : Option Nat) (home : Bool) (rk : RemoteKind) (data : View → Nat → Nat) :
    AllTrap (storeMeaning size k rel home rk data ea w s) w s c d (ea w) :=
  ⟨memOuts_traps h, by cases rel <;> rfl⟩
end

/-- An acquire load that must wait for what it is owed traps first (R245). -/
theorem later_traps {m : Meaning} {w : View} {s : State} {c d : Nat} {ea : Nat → Dword} (p : Prop) [Decidable p]
    (h : AllTrap m w s c d ea) :
    AllTrap (if p then ⟨m.outs.map (fun x => if x.2 = .ok then (x.1, .wait) else x), m.eff⟩ else m) w s c d ea := by
  split
  · refine ⟨?_, h.2⟩
    rw [h.1, List.map_map]
    exact List.map_congr_left fun l _ => rfl
  · exact h

/-- A SIGF whose address is misaligned, or suits it, traps as its checks say. -/
theorem placed_traps {m : Meaning} {w : View} {s : State} {c d : Nat} {ea : View → Nat → Dword} (h : AllTrap m w s c d (ea w))
    (hs : ∀ l, inMask w.act l = true → checkAccess s w.g l ⟨.write, true⟩ (ea w l) 8 = .trap c d ∧
      (sigfPlaced (ea w l) = true ∨ (ea w l).toNat % 8 ≠ 0)) :
    AllTrap ⟨m.outs.map (fun o => if (ea w o.1).toNat % 8 ≠ 0 then (o.1, .trap 8 0 (ea w o.1) none)
      else if sigfPlaced (ea w o.1) then o else (o.1, .trap 7 1 (ea w o.1) none)), m.eff⟩ w s c d (ea w) := by
  refine ⟨?_, h.2⟩
  rw [h.1, List.map_map]
  refine List.map_congr_left fun l hl => ?_
  obtain ⟨hc, hp⟩ := hs l ((mem_lanesOf _ _).mp hl)
  rw [Function.comp]
  by_cases ha : (ea w l).toNat % 8 = 0
  · rw [if_neg (not_not.mpr ha), if_pos (hp.resolve_right (not_not.mpr ha))]
  · rw [if_pos ha]
    cases (checkAccess_misaligned s w.g l ⟨.write, true⟩ ha).symm.trans hc
    rfl

theorem atomMeaning_traps {i : Instr} {s : State} {wide : Bool} {sc fn a c d : Nat}
    (h : ∀ l, inMask (viewOf i s).act l = true → checkAccess (enter i s) (viewOf i s).g l ⟨.write, atomFlagOk wide fn sc⟩
      ((viewOf i s).g.rv64 a l) (if wide then 8 else 4) = .trap c d)
    (rk : RemoteKind) (dest : Option (BitVec 6)) (x e : View → Nat → Nat) :
    AllTrap (atomMeaning wide sc fn rk dest a x e (viewOf i s) (enter i s)) (viewOf i s) (enter i s) c d
      (fun l => (viewOf i s).g.rv64 a l) := by
  constructor
  · unfold atomMeaning
    dsimp only
    rw [memOuts_traps h, List.map_map]
    refine List.map_congr_left fun l _ => ?_
    rw [Function.comp, if_neg fun hc => nomatch hc.1]
  · exact enter_modGrp i s (f := fun g => settleLoads g [] (if wide then 8 else 4)) (settleLoads_nil ..)

/-- Whatever the checks of an access answer alike for every lane of Act, the word's issue takes. -/
def TrapsAlike (i : Instr) (s : State) (x : Nat × AccKind × (View → Nat → Dword) × (Dword → Bool)) : Prop :=
  ∀ c d, (∀ l, inMask (viewOf i s).act l = true →
      checkAccess (enter i s) (viewOf i s).g l x.2.1 (x.2.2.1 (viewOf i s) l) x.1 = .trap c d ∧
      (x.2.2.2 (x.2.2.1 (viewOf i s) l) = true ∨ (x.2.2.1 (viewOf i s) l).toNat % x.1 ≠ 0)) →
    ∃ m, exec i s = issue i s m ∧ AllTrap (m (viewOf i s) (enter i s)) (viewOf i s) (enter i s) c d (x.2.2.1 (viewOf i s))

theorem accesses_trapAlike {i : Instr} {x : Nat × AccKind × (View → Nat → Dword) × (Dword → Bool)} (hi : accesses i = some x) (s : State) :
    TrapsAlike i s x := by
  refine of_entry (P := TrapsAlike i s) ?_ hi
  clear hi
  cases i
  case ld => exact fun c d h => ⟨_, rfl, loadMeaning_traps (fun l hl => (h l hl).1) ..⟩
  case lda => exact fun c d h => ⟨_, rfl, later_traps _ (loadMeaning_traps (fun l hl => (h l hl).1) ..)⟩
  case st | stl => exact fun c d h => ⟨_, rfl, storeMeaning_traps (fun l hl => (h l hl).1) ..⟩
  case sigf => exact fun c d h => ⟨_, rfl, placed_traps (storeMeaning_traps (fun l hl => (h l hl).1) ..) h⟩
  case atomTeam | atomCluster | atomDevice | atomFabric | red | atomcas | atomincb =>
    exact fun c d h => ⟨_, rfl, atomMeaning_traps (fun l hl => (h l hl).1) ..⟩
  all_goals exact trivial

theorem exec_access_traps {i : Instr} {s : State} {size : Nat} {k : AccKind} {ea : View → Nat → Dword} {suits : Dword → Bool} {c d : Nat}
    (hi : accesses i = some (size, k, ea, suits)) (hready : ready i s = true) (hd : d < 256) (hact : (viewOf i s).act ≠ 0)
    (htraps : (s.grp s.key).tlanes = 0) (hfences : (s.grp s.key).fences = [])
    (h : ∀ l, inMask (viewOf i s).act l = true → checkAccess (enter i s) (viewOf i s).g l k (ea (viewOf i s) l) size = .trap c d ∧
      (suits (ea (viewOf i s) l) = true ∨ (ea (viewOf i s) l).toNat % size ≠ 0)) :
    exec i s = .next (takeTrap (trapping i s 0) s.key (viewOf i s).act c d (fun _ => s.cur.pc)
      (fun l => if inMask (viewOf i s).act l then ea (viewOf i s) l else 0)) := by
  obtain ⟨m, hexec, hm⟩ := accesses_trapAlike hi s c d h
  exact hexec.trans (issue_allTrap hready hd hm hact htraps hfences)

theorem accesses_load {i : Instr} {f : LoadForm} (h : loads i = some f) :
    accesses i = some (f.size, ⟨.read, f.size == 8⟩, f.ea, fun _ => true) := by
  rw [accesses, h]
theorem accesses_store {i : Instr} {f : StoreForm} (h : stores i = some f) : accesses i = some (f.size, f.kind, f.ea, f.suits) := by
  have hl : loads i = none := by
    refine of_row ?_ h
    clear h
    cases i
    case st | stl | sigf => exact rfl
    all_goals exact trivial
  rw [accesses, hl, h]

theorem checkTarget_misaligned {call : Bool} {w : View} {t : Dword} (h : t.toNat % 4 ≠ 0) : checkTarget w call t = .trap 8 1 t none := by
  unfold checkTarget
  rw [if_pos h]

/-- Settles O21: the first check of Table 7-2 and the first of a target decide before any other. -/
theorem misalignedTraps : Obligations.MisalignedTraps := by
  unfold Obligations.MisalignedTraps
  constructor
  · intro i s size ea hi hready hact htraps hfences hmis
    have hcase : ∃ k suits, accesses i = some (size, k, ea, suits) := by
      rcases hi with ⟨f, hf, rfl, rfl⟩ | ⟨f, hf, rfl, rfl⟩
      · exact ⟨_, _, accesses_load hf⟩
      · exact ⟨_, _, accesses_store hf⟩
    obtain ⟨k, suits, hacc⟩ := hcase
    exact exec_access_traps hacc hready (by decide) hact htraps hfences
      fun l hl => ⟨checkAccess_misaligned _ _ _ _ (hmis l hl), .inr (hmis l hl)⟩
  · intro i s call f hf hready hact htraps hfences hmis
    refine (exec_targets hf s).trans (issue_allTrap hready (by decide) ⟨?_, ?_⟩ hact htraps hfences)
    · unfold transfer
      exact List.map_congr_left fun l hl => by rw [checkTarget_misaligned (hmis l ((mem_lanesOf _ _).mp hl))]
    · cases call
      · rfl
      · exact enter_modGrp i s (f := linkLanes 0 ((viewOf i s).next.extractLsb' 0 32)) rfl

/-! ## The checks of Table 7-2, one lemma a region -/

/-- The region of a local address, by its upper 16 bits (Table 7-1). -/
theorem regionOf_local {a : Dword} (h : a.getLsbD 63 = false) : regionOf a =
    if bitsOf a 48 16 < 0x80 then .global else if bitsOf a 48 16 = 0xF0 then .priv else if bitsOf a 48 16 = 0xF1 then .opstore
    else if bitsOf a 48 16 = 0xF2 then .cluster else if bitsOf a 48 16 = 0xF3 then .scratch
    else if bitsOf a 48 16 = 0xF4 then .flag else .none := by
  rw [regionOf, h]
  rfl
theorem regionOf_remote {a : Dword} (h : a.getLsbD 63 = true) : regionOf a = .fabric := if_pos h

section
variable {s : State} {g : Grp} {l : Nat} {k : AccKind} {ea : Dword} {size : Nat} (hal : ea.toNat % size = 0)
include hal

theorem checkAccess_none (h : regionOf ea = .none) : checkAccess s g l k ea size = .trap 7 1 := by
  rw [checkAccess, if_neg (not_not.mpr hal), h]
theorem checkAccess_priv (h : regionOf ea = .priv) (ho : 65536 ≤ offsetOf ea) : checkAccess s g l k ea size = .trap 7 1 := by
  rw [checkAccess, if_neg (not_not.mpr hal), h]
  exact if_neg (Nat.not_lt.mpr ho)
theorem checkAccess_global (h : regionOf ea = .global) : checkAccess s g l k ea size = translated s g k.need ea true true := by
  rw [checkAccess, if_neg (not_not.mpr hal), h]
theorem checkAccess_flag (h : regionOf ea = .flag) : checkAccess s g l k ea size =
    if offsetOf ea ≥ 2 ^ 32 then .trap 7 1 else translated s g k.need ea false k.flagOk := by
  rw [checkAccess, if_neg (not_not.mpr hal), h]
theorem checkAccess_window {r : Region} (h : regionOf ea = r) (hw : r = .opstore ∨ r = .cluster ∨ r = .scratch) :
    checkAccess s g l k ea size = match windowPlace s g r (offsetOf ea) size with
      | some loc => .ok { loc := loc, tag := 0, l1 := false, page := none }
      | none => .trap 7 1 := by
  rw [checkAccess, if_neg (not_not.mpr hal), h]
  rcases hw with rfl | rfl | rfl <;> rfl
end

/-! ## The leaf's own checks (R268, R270) -/

theorem bitsOf_one (e : Dword) (n : Nat) : (bitsOf e n 1 = 0 ↔ e.getLsbD n = false) ∧ (bitsOf e n 1 = 1 ↔ e.getLsbD n = true) := by
  rw [BitVec.getLsbD, Nat.testBit_eq_decide_div_mod_eq, decide_eq_false_iff_not, decide_eq_true_iff]
  unfold bitsOf
  omega

section
variable {s : State} {who ctxid : Nat} {c : Context} {need : Need} {va e : Dword} {shift : Nat}
variable (hleaf : leafOf s who ctxid c (va.toNat % 2 ^ 56) = .leaf e shift)
include hleaf

theorem translate_readOnly (hn : need = .write) (h4 : e.getLsbD 4 = false) : translate s who ctxid c need va = .deny 0 := by
  unfold Machine.translate
  dsimp only
  rw [hleaf]
  exact if_pos ⟨hn, (bitsOf_one e 4).1.mpr h4⟩

theorem translate_keyBarred (h4 : need = .write → e.getLsbD 4 = true) (h5 : need = .exec → e.getLsbD 5 = true) (hid : bitsOf e 48 16 = ctxid)
    (h6 : e.getLsbD 6 = true → c.conf = true) (hkey : c.keys.getLsbD (bitsOf e 40 8) = false) : translate s who ctxid c need va = .deny 2 := by
  have hw : ¬(need = .write ∧ bitsOf e 4 1 = 0) := fun h => by
    have := (bitsOf_one e 4).1.mp h.2
    rw [h4 h.1] at this
    cases this
  have hx : ¬(need = .exec ∧ bitsOf e 5 1 = 0) := fun h => by
    have := (bitsOf_one e 5).1.mp h.2
    rw [h5 h.1] at this
    cases this
  have ho : ¬(bitsOf e 48 16 ≠ ctxid ∨ (bitsOf e 6 1 = 1 ∧ c.conf = false)) := by
    rintro (h | ⟨h, hc⟩)
    · exact h hid
    · rw [h6 ((bitsOf_one e 6).2.mp h)] at hc
      cases hc
  unfold Machine.translate
  dsimp only
  rw [hleaf]
  dsimp only
  rw [if_neg hw, if_neg hx, if_neg ho, if_pos hkey]
end

theorem translated_noPage {s : State} {g : Grp} {need : Need} {va : Dword}
    (h : translate s g.asker g.ctxid (s.ctx g.ctxid) need va = .noPage) (l1 form : Bool) :
    translated s g need va l1 form = .trap (if need = .write then 6 else 5) 0 := by
  rw [translated, h]
theorem translated_barred {s : State} {g : Grp} {need : Need} {va : Dword}
    (h : translate s g.asker g.ctxid (s.ctx g.ctxid) need va ≠ .noPage) (l1 : Bool) : translated s g need va l1 false = .trap 7 0 := by
  unfold translated
  split
  · next hn => exact absurd hn h
  · rfl
theorem translated_deny {s : State} {g : Grp} {need : Need} {va : Dword} {d : Nat}
    (h : translate s g.asker g.ctxid (s.ctx g.ctxid) need va = .deny d) (l1 : Bool) : translated s g need va l1 true = .trap 7 d := by
  rw [translated, h]
  rfl

/-- A translated address, in global memory or the flag window: its checks from the fifth on. -/
theorem checkAccess_translated {s : State} {g : Grp} {l : Nat} {k : AccKind} {ea : Dword} {size : Nat} (hal : ea.toNat % size = 0)
    (h : regionOf ea = .global ∨ (regionOf ea = .flag ∧ offsetOf ea < 2 ^ 32)) :
    checkAccess s g l k ea size =
      translated s g k.need ea (regionOf ea == .global) (regionOf ea == .global || k.flagOk) := by
  rcases h with h | ⟨h, ho⟩
  · rw [checkAccess_global hal h, h]
    rfl
  · rw [checkAccess_flag hal h, h, if_neg (Nat.not_le.mpr ho)]
    rfl

/-- A fabric address (R169, Table 17-3): the region of its lower part, FAB and the contract, and the peer. -/
theorem checkAccess_fabric {s : State} {g : Grp} {l : Nat} {k : AccKind} {ea : Dword} {size : Nat} (hal : ea.toNat % size = 0)
    (h : regionOf ea = .fabric) :
    checkAccess s g l k ea size =
      (let low := regionOf (ea &&& 0x00FFFFFFFFFFFFFF#64)
       if !(low == .global || (low == .flag && decide (offsetOf ea < 2 ^ 32))) then .trap 7 1
       else
        if (s.ctx g.ctxid).fab = false ∨ (s.ctx g.ctxid).contract.getLsbD 10 = false then .trap 7 0
        else match Config.peerEntry (s.ctx g.ctxid).peers (bitsOf ea 56 7) with
          | none => .trap 7 1
          | some m => .fabric (bitsOf ea 56 7) m) := by
  rw [checkAccess, if_neg (not_not.mpr hal), h] <;> rfl

/-- Settles O22: the checks of Table 7-2 one by one, and the issue of a word every lane of which fails one. -/
theorem accessTraps : Obligations.AccessTraps := by
  unfold Obligations.AccessTraps
  refine ⟨?traps, ?checks, ?leaf⟩
  case traps =>
    intro i s size k ea suits c d hi hready hact htraps hfences hd h
    exact exec_access_traps hi hready hd hact htraps hfences fun l hl => ⟨(h l hl).2, .inl (h l hl).1⟩
  case leaf =>
    intro s who ctxid c need va e shift hleaf
    exact ⟨translate_readOnly hleaf, translate_keyBarred hleaf⟩
  case checks =>
    intro s g l k ea size r top off t c low
    refine ⟨fun h => checkAccess_misaligned s g l k h, fun hal hloc => ?here, fun hal hfab => ?fabric⟩
    case here =>
      have hreg := regionOf_local hloc
      have hwindow := fun r => checkAccess_window (s := s) (g := g) (l := l) (k := k) (r := r) hal
      refine ⟨fun h80 hno => ?none, fun h ho => ?priv, fun h ho => ?opOut, fun h ho => ?opIn, fun h ho => ?cluster, fun h ho => ?scratch,
        fun h ho => ?flagOut, fun h => ?translated⟩
      case none =>
        refine checkAccess_none hal (hreg.trans ?_)
        rw [if_neg (by omega), if_neg (by omega), if_neg (by omega), if_neg (by omega), if_neg (by omega), if_neg (by omega)]
      case priv =>
        refine checkAccess_priv hal (hreg.trans ?_) ho
        rw [show bitsOf ea 48 16 = 0xF0 from h]
        rfl
      case opOut =>
        refine (hwindow .opstore (hreg.trans ?_) (.inl rfl)).trans ?_
        · rw [show bitsOf ea 48 16 = 0xF1 from h]
          rfl
        · rw [show windowPlace s g .opstore (offsetOf ea) size = none from if_neg (Nat.not_le.mpr ho)]
      case opIn =>
        refine (hwindow .opstore (hreg.trans ?_) (.inl rfl)).trans ?_
        · rw [show bitsOf ea 48 16 = 0xF1 from h]
          rfl
        · rw [show windowPlace s g .opstore (offsetOf ea) size = some (opLoc t.core (t.opBase + off)) from if_pos ho]
      case cluster =>
        refine (hwindow .cluster (hreg.trans ?_) (.inr (.inl rfl))).trans ?_
        · rw [show bitsOf ea 48 16 = 0xF2 from h]
          rfl
        · rw [show windowPlace s g .cluster (offsetOf ea) size = none from if_neg fun hc => Nat.not_lt.mpr ho hc.1]
      case scratch =>
        refine (hwindow .scratch (hreg.trans ?_) (.inr (.inr rfl))).trans ?_
        · rw [show bitsOf ea 48 16 = 0xF3 from h]
          rfl
        · rw [windowPlace, ho]
      case flagOut =>
        refine (checkAccess_flag hal (hreg.trans ?_)).trans (if_pos ho)
        rw [show bitsOf ea 48 16 = 0xF4 from h]
        rfl
      case translated =>
        have hglobal : top < 0x80 → regionOf ea = .global := fun ht => hreg.trans (if_pos ht)
        have hflag : top = 0xF4 → regionOf ea = .flag := fun ht => hreg.trans (by rw [show bitsOf ea 48 16 = 0xF4 from ht]; rfl)
        have hr := checkAccess_translated (s := s) (g := g) (l := l) (k := k) hal (h.imp hglobal fun hf => ⟨hflag hf.1, hf.2⟩)
        refine ⟨fun hn => hr.trans (translated_noPage hn ..), fun ht hk hn => ?_, fun d hd hk => ?_⟩
        · refine hr.trans ?_
          rw [hflag ht, hk]
          exact translated_barred hn _
        · refine hr.trans ?_
          have hform : (regionOf ea == .global || k.flagOk) = true := by
            rcases h with h | h
            · rw [hglobal h]
              rfl
            · rw [hk h.1, Bool.or_true]
          rw [hform]
          exact translated_deny hd _
    case fabric =>
      have hr := checkAccess_fabric (s := s) (g := g) (l := l) (k := k) hal (regionOf_remote hfab)
      dsimp only at hr
      have hlow : (!(regionOf low == .global || (regionOf low == .flag && decide (off < 2 ^ 32)))) = true ↔
          ¬(regionOf low = .global ∨ (regionOf low = .flag ∧ off < 2 ^ 32)) := by
        rw [Bool.not_eq_true', Bool.eq_false_iff, ne_eq, Bool.or_eq_true, Bool.and_eq_true, beq_iff_eq, beq_iff_eq, decide_eq_true_iff]
      refine ⟨fun hng hnf => hr.trans (if_pos (hlow.mpr (not_or.mpr ⟨hng, hnf⟩))), fun hin => ?_⟩
      · replace hr := hr.trans (if_neg fun h => hlow.mp h hin)
        refine ⟨fun hno => hr.trans (if_pos hno), fun hf hc => hr.trans (if_neg ?_)⟩
        rintro (h | h)
        · rw [hf] at h
          cases h
        · rw [hc] at h
          cases h

end Sys2Proof.ControlTraps

namespace Sys2Proof.ControlTraps
open Sys2Proof.Machine Sys2Proof.Claims Sys2Proof.Tables

/-! ## Checks of decoding (R43, R57, R58, R369) -/

/-- Every word but a prefix is executed by an issue. -/
theorem exec_issue {i : Instr} (hword : (encodeWord i).isSome = true) (hp : isPrefix i = false) (s : State) : ∃ m, exec i s = issue i s m := by
  obtain ⟨w, hw⟩ := Option.isSome_iff_exists.mp hword
  refine of_row (Q := isPrefix i = false → ∃ m, exec i s = issue i s m) ?_ hw hp
  clear hword hp hw
  cases i
  case hintImm | hintMod => exact fun hp => nomatch hp
  all_goals solve
    | exact trivial
    | exact fun _ => ⟨_, rfl⟩

theorem issue_untraced {i : Instr} {s : State} (h : (s.ctx (s.grp s.key).ctxid).trace.on = false) (m : View → State → Meaning) :
    issue i s m = .next (issueCore s {} i m) := by
  have hs : ∀ t, sampled s i t = t := fun t => by
    unfold sampled
    exact if_pos (by rw [show (s.ctx (s.grp s.cur.key).ctxid).trace.on = false from h]; rfl)
  rw [issue, issueState, hs]

theorem splitFence_noFence {s : State} (h : (s.grp s.key).fences = []) (i : Instr) : splitFence s i = s := by
  unfold splitFence
  refine if_pos (.inl (if_pos ?_))
  rw [show (s.grp s.cur.key).fences = [] from h]
  rfl

/-- A trap met by a group with no trapped lane and no incomplete fence is taken. -/
theorem meetTrap_taken {s : State} {k : Nat} (ht : (s.grp k).tlanes = 0) (hf : (s.grp k).fences = []) (m n : Word) (c d : Nat) (pc : Dword)
    (addr : Nat → Dword) (clear : Grp → Grp) :
    meetTrap s k m n c d pc addr clear = takeTrap ((clearCur s).setGrp k (clear (s.grp k))) k m c d (fun _ => pc) addr := by
  have hgrp : (clearCur s).grp k = s.grp k := rfl
  unfold meetTrap
  dsimp only
  rw [hgrp, ht, if_neg (by simp [Grp.fenced, hf]), if_neg (by simp), if_neg (by simp)]

section
variable {i : Instr} {s : State} (m : View → State → Meaning) (hlanes : s.cur.lanes ≠ 0)
variable (ht : (s.grp s.key).tlanes = 0) (hf : (s.grp s.key).fences = [])
include hlanes ht hf

theorem issueCore_overRun (hpos : s.cur.pos = 0) (hover : overRun (s.grp s.key) s.cur.lanes 1 ≠ 0) :
    issueCore s {} i m = takeTrap ((clearCur s).setGrp s.key (s.grp s.key)) s.key
      (overRun (s.grp s.key) ((s.grp s.key).standingWith s.cur.lanes s.cur.pc) 1) 1 1 (fun _ => s.cur.pc) (fun _ => 0) := by
  unfold issueCore
  rw [splitFence_noFence hf]
  dsimp only
  rw [if_neg hlanes, if_pos ⟨hpos, hover⟩]
  exact meetTrap_taken ht hf ..

theorem issueCore_decodeTrap (hover : s.cur.pos = 0 → overRun (s.grp s.key) s.cur.lanes 1 = 0) {c d : Nat}
    (htrap : decodeTrap (s.grp s.key) s.cur.lanes s.cur.pre {} i = some (c, d)) :
    issueCore s {} i m = takeTrap ((clearCur s).setGrp s.key (s.grp s.key)) s.key
      ((s.grp s.key).standingWith s.cur.lanes s.cur.pc &&&
        ~~~ overRun (s.grp s.key) ((s.grp s.key).standingWith s.cur.lanes s.cur.pc) (s.cur.pos + 1)) c d (fun _ => s.cur.pc) (fun _ => 0) := by
  unfold issueCore
  rw [splitFence_noFence hf]
  dsimp only
  rw [if_neg hlanes, if_neg fun h => h.2 (hover h.1), show decodeTrap (s.grp s.cur.key) _ _ _ _ = _ from htrap]
  exact meetTrap_taken ht hf ..
end

/-! ## The order of the checks of Table 2-11 -/

section
variable {g : Grp} {m : Word} {q : Prefix} {i : Instr}

theorem decodeTrap_limit {d : Nat} (h : limitTrap g.kern i = some d) : decodeTrap g m q {} i = some (1, d) := by
  rw [decodeTrap, h]
theorem decodeTrap_prefix (hl : limitTrap g.kern i = none) (h : prefixBad q i = true) : decodeTrap g m q {} i = some (1, 2) := by
  rw [decodeTrap, hl]
  exact if_pos (by rw [h]; rfl)
/-- After the limits and the prefixes, the context decides. -/
theorem decodeTrap_context (hl : limitTrap g.kern i = none) (hp : prefixBad q i = false) :
    decodeTrap g m q {} i = match contextTrap g i with
      | some d => some (2, d)
      | none => if fieldBad g i then some (1, 4) else match windowTrap g i with
        | some d => some (0x0E, d)
        | none => match queueTrap g m i with
          | some d => some (0x0D, d)
          | none => none := by
  rw [decodeTrap, hl]
  simp only [hp, Bool.or_false, Bool.false_or, Bool.false_eq_true, if_false] <;> rfl
theorem contextTrap_engine (hf : g.isFeeder = false) (h : majorOf i = 46) : contextTrap g i = some 0 := by
  rw [contextTrap, hf, h]
  rfl
theorem contextTrap_feeder (hf : g.isFeeder = true) (h : feederBars i = true) : contextTrap g i = some 3 := by
  rw [contextTrap, hf, h]
  rfl
theorem contextTrap_part (hf : g.isFeeder = false) (hc : g.kern.compat = true) (h : writesPart i = true) : contextTrap g i = some 1 := by
  have hmajor : (majorOf i == 46) = false ∧ feederCsr i = false := by
    refine of_flag ?_ h
    clear h
    cases i
    case partset => exact ⟨rfl, rfl⟩
    case csrw u a c' p =>
      refine flag (b := c' == 0x010#12) fun hc => ?_
      obtain rfl := beq_iff_eq.mp hc
      exact ⟨rfl, rfl⟩
    all_goals exact trivial
  rw [contextTrap, hf, hc, h, hmajor.1, hmajor.2]
  rfl

theorem fieldBad_align (h : ∃ o ∈ (useOf i).src ++ (useOf i).dst.toList, o.reg % o.align ≠ 0) : fieldBad g i = true := by
  have ha : ((useOf i).src ++ (useOf i).dst.toList).any (fun o => o.reg % o.align != 0) = true := by
    obtain ⟨o, ho, hh⟩ := h
    exact List.any_eq_true.mpr ⟨o, ho, bne_iff_ne.mpr hh⟩
  unfold fieldBad
  dsimp only
  rw [ha, Bool.true_or, Bool.true_or]
theorem hitsQueue_iff (o : Opnd) : o.hitsQueue = true ↔ o.reg ≤ 55 ∧ 48 < o.reg + o.len := by
  rw [Opnd.hitsQueue, Bool.and_eq_true, decide_eq_true_iff, decide_eq_true_iff]
theorem fieldBad_queue (hq : g.qwinOn = true) (h : ∃ o ∈ (useOf i).dst.toList, o.reg ≤ 55 ∧ 48 < o.reg + o.len) :
    fieldBad g i = true := by
  have ha : (useOf i).dst.toList.any Opnd.hitsQueue = true := by
    obtain ⟨o, ho, hh⟩ := h
    exact List.any_eq_true.mpr ⟨o, ho, (hitsQueue_iff o).mpr hh⟩
  unfold fieldBad
  dsimp only
  rw [ha, hq, Bool.true_and, Bool.or_true]

theorem windowTrap_register (h : ∃ o ∈ (useOf i).src ++ (useOf i).dst.toList, g.win ≤ o.reg + o.len - 1) : windowTrap g i = some 0 := by
  obtain ⟨o, ho, hh⟩ := h
  exact if_pos (List.any_eq_true.mpr ⟨o, ho, decide_eq_true hh⟩)
theorem windowTrap_role (h : ∀ o ∈ (useOf i).src ++ (useOf i).dst.toList, o.reg + o.len - 1 < g.win) :
    windowTrap g i = match roleOf i with
      | some k => when (decide (k ≥ g.nroles)) 1
      | none => none := by
  refine if_neg ?_
  rw [List.any_eq_true]
  rintro ⟨o, ho, hh⟩
  exact absurd (of_decide_eq_true hh) (Nat.not_le.mpr (h o ho))

theorem queueTrap_single (hq : g.qwinOn = true) (h : ∃ o ∈ (useOf i).src, o.len = 1 ∧ o.reg ≤ 55 ∧ 48 < o.reg + o.len)
    (hl : ∃ l ∈ g.live, inMask m l = false) : queueTrap g m i = some 0 := by
  obtain ⟨o, ho, hlen, hh⟩ := h
  obtain ⟨l, hmem, hm⟩ := hl
  unfold queueTrap
  rw [hq]
  refine (if_neg (by decide)).trans (if_pos ?_)
  rw [Bool.and_eq_true, List.any_eq_true, List.any_eq_true]
  exact ⟨⟨o, ho, by rw [hlen, (hitsQueue_iff o).mpr hh]; rfl⟩, l, hmem, by rw [hm]; rfl⟩
theorem queueTrap_wide (hq : g.qwinOn = true) (h : ∃ o ∈ (useOf i).src, o.len ≠ 1 ∧ o.reg ≤ 55 ∧ 48 < o.reg + o.len)
    (hl : ∀ l ∈ g.live, inMask m l = true) : queueTrap g m i = some 1 := by
  obtain ⟨o, ho, hlen, hh⟩ := h
  have hall : g.live.any (fun l => !inMask m l) = false := by
    rw [List.any_eq_false]
    intro l hmem
    rw [hl l hmem]
    decide
  unfold queueTrap
  rw [hq]
  dsimp only
  rw [hall, Bool.and_false]
  refine if_pos (List.any_eq_true.mpr ⟨o, ho, ?_⟩)
  rw [(hitsQueue_iff o).mpr hh, Bool.and_true]
  exact bne_iff_ne.mpr hlen
end

/-- The order of the checks of Table 2-11, each under the premise that none before it fails. -/
theorem decodeTrap_order (i : Instr) (g : Grp) (m : Word) (q : Prefix) :
    let u := useOf i
    let trap := decodeTrap g m q {} i
    (∀ d, limitTrap g.kern i = some d → trap = some (1, d)) ∧
    (limitTrap g.kern i = none → (prefixBad q i = true → trap = some (1, 2)) ∧
      (prefixBad q i = false →
        (g.isFeeder = false → majorOf i = 46 → trap = some (2, 0)) ∧
        (g.isFeeder = true → feederBars i = true → trap = some (2, 3)) ∧
        (g.isFeeder = false → g.kern.compat = true → writesPart i = true → trap = some (2, 1)) ∧
        (contextTrap g i = none →
          ((∃ o ∈ u.src ++ u.dst.toList, o.reg % o.align ≠ 0) → trap = some (1, 4)) ∧
          (g.qwinOn = true → (∃ o ∈ u.dst.toList, o.reg ≤ 55 ∧ 48 < o.reg + o.len) → trap = some (1, 4)) ∧
          (fieldBad g i = false →
            ((∃ o ∈ u.src ++ u.dst.toList, g.win ≤ o.reg + o.len - 1) → trap = some (0x0E, 0)) ∧
            ((∀ o ∈ u.src ++ u.dst.toList, o.reg + o.len - 1 < g.win) →
              (∀ k, roleOf i = some k → g.nroles ≤ k → trap = some (0x0E, 1)) ∧
              ((∀ k, roleOf i = some k → k < g.nroles) →
                (g.qwinOn = true → (∃ o ∈ u.src, o.len = 1 ∧ o.reg ≤ 55 ∧ 48 < o.reg + o.len) →
                  (∃ l ∈ g.live, inMask m l = false) → trap = some (0x0D, 0)) ∧
                (g.qwinOn = true → (∃ o ∈ u.src, o.len ≠ 1 ∧ o.reg ≤ 55 ∧ 48 < o.reg + o.len) →
                  (∀ l ∈ g.live, inMask m l = true) → trap = some (0x0D, 1)))))))) := by
  intro u trap
  refine ⟨fun d h => decodeTrap_limit h, fun hl => ⟨decodeTrap_prefix hl, fun hp => ?_⟩⟩
  have hcontext : trap = _ := decodeTrap_context hl hp
  have hsome : ∀ d, contextTrap g i = some d → trap = some (2, d) := fun d h => by rw [hcontext, h]
  refine ⟨fun hf h => hsome 0 (contextTrap_engine hf h), fun hf h => hsome 3 (contextTrap_feeder hf h),
    fun hf hc h => hsome 1 (contextTrap_part hf hc h), fun hc => ?_⟩
  rw [hc] at hcontext
  have hfield : fieldBad g i = true → trap = some (1, 4) := fun h => hcontext.trans (if_pos h)
  refine ⟨fun h => hfield (fieldBad_align h), fun hq h => hfield (fieldBad_queue hq h), fun hf => ?_⟩
  replace hcontext := hcontext.trans (if_neg (Bool.eq_false_iff.mp hf))
  refine ⟨fun h => by rw [hcontext, windowTrap_register h], fun hw => ?_⟩
  rw [windowTrap_role hw] at hcontext
  refine ⟨fun k hk hn => ?role, fun hr => ?_⟩
  case role =>
    rw [hcontext, hk]
    dsimp only
    rw [show decide (k ≥ g.nroles) = true from decide_eq_true hn]
    rfl
  have hqueue : trap = match queueTrap g m i with
      | some d => some (0x0D, d)
      | none => none := by
    rw [hcontext]
    cases hk : roleOf i with
    | none => rfl
    | some k =>
      dsimp only
      rw [show decide (k ≥ g.nroles) = false from decide_eq_false (Nat.not_le.mpr (hr k hk))]
      rfl
  exact ⟨fun hq h hlive => by rw [hqueue, queueTrap_single hq h hlive], fun hq h hlive => by rw [hqueue, queueTrap_wide hq h hlive]⟩

/-! ## A feature that the contract lacks (R369) -/

/-- Every lane of Act traps with cause c and DETAIL d, TPC naming the word. -/
def trapOuts (w : View) (c d : Nat) : List (Nat × LaneOut) := (lanesOf w.act).map (fun l => (l, LaneOut.trap c d 0 none))

theorem mem_trapOuts {w : View} {c d : Nat} {o : Nat × LaneOut} (h : o ∈ trapOuts w c d) :
    inMask w.act o.1 = true ∧ o.2 = .trap c d 0 none := by
  obtain ⟨l, hl, rfl⟩ := List.mem_map.mp h
  exact ⟨(mem_lanesOf _ _).mp hl, rfl⟩
theorem mem_idleOuts {m act : Word} {o : Nat × LaneOut} (h : o ∈ idleOuts m act) :
    inMask m o.1 = true ∧ inMask act o.1 = false ∧ o.2 = .ok := by
  obtain ⟨l, hl, rfl⟩ := List.mem_map.mp h
  rw [mem_lanesOf, inMask_diff, Bool.and_eq_true, Bool.not_eq_true'] at hl
  exact ⟨hl.1, hl.2, rfl⟩
theorem trapOuts_ne_nil {w : View} (h : w.act ≠ 0) (c d : Nat) : trapOuts w c d ≠ [] := by
  intro hn
  apply h
  rw [← maskOf_lanesOf w.act, List.map_eq_nil_iff.mp hn]
  rfl

section
variable (w : View) (m : Word) (c d : Nat)

theorem filter_trapOuts {p : Nat × LaneOut → Bool} (ht : ∀ l, p (l, .trap c d 0 none) = true) (hi : ∀ l, p (l, .ok) = false) :
    (trapOuts w c d ++ idleOuts m w.act).filter p = trapOuts w c d := by
  rw [List.filter_append, List.filter_eq_self.mpr, List.filter_eq_nil_iff.mpr, List.append_nil]
  · intro o ho
    rw [show o = (o.1, .ok) from Prod.ext rfl (mem_idleOuts ho).2.2, hi]
    decide
  · intro o ho
    rw [show o = (o.1, .trap c d 0 none) from Prod.ext rfl (mem_trapOuts ho).2, ht]
theorem filter_idleOuts {p : Nat × LaneOut → Bool} (ht : ∀ l, p (l, .trap c d 0 none) = false) (hi : ∀ l, p (l, .ok) = true) :
    (trapOuts w c d ++ idleOuts m w.act).filter p = idleOuts m w.act := by
  rw [List.filter_append, List.filter_eq_nil_iff.mpr, List.filter_eq_self.mpr, List.nil_append]
  · intro o ho
    rw [show o = (o.1, .ok) from Prod.ext rfl (mem_idleOuts ho).2.2, hi]
  · intro o ho
    rw [show o = (o.1, .trap c d 0 none) from Prod.ext rfl (mem_trapOuts ho).2, ht]
    decide

theorem trapOuts_noViolation : (trapOuts w c d ++ idleOuts m w.act).findSome? (fun o => o.2.violates) = none := by
  rw [List.findSome?_eq_none_iff]
  intro o ho
  rcases List.mem_append.mp ho with ho | ho
  · rw [(mem_trapOuts ho).2]
    rfl
  · rw [(mem_idleOuts ho).2.2]
    rfl

theorem bestTrap_trapOuts (hact : w.act ≠ 0) : bestTrap (trapOuts w c d ++ idleOuts m w.act) = some (c * 256 + d) := by
  have hidle : (idleOuts m w.act).filterMap (fun o => o.2.trapCode) = [] := by
    rw [List.filterMap_eq_nil_iff]
    intro o ho
    rw [(mem_idleOuts ho).2.2]
    rfl
  rw [bestTrap, List.filterMap_append, hidle, List.append_nil]
  refine min?_replicate _ _ ?_ ?_
  · obtain ⟨o, r, ho⟩ := List.exists_cons_of_ne_nil (trapOuts_ne_nil hact c d)
    intro hn
    have := List.filterMap_eq_nil_iff.mp hn o (by rw [ho]; exact List.mem_cons_self ..)
    rw [(mem_trapOuts (ho ▸ List.mem_cons_self ..)).2] at this
    cases this
  · intro x hx
    obtain ⟨o, ho, hox⟩ := List.mem_filterMap.mp hx
    rw [(mem_trapOuts ho).2] at hox
    exact (Option.some.inj hox).symm

theorem done_idle : w.done (idleOuts m w.act) = 0 := by
  apply mask_ext
  intro l
  rw [View.done, inMask_and, inMask_maskOf, inMask_zero]
  by_cases hl : inMask w.act l = true
  · have : l ∉ ((idleOuts m w.act).filter (fun o => o.2.completes || o.2.resume.isSome)).map (·.1) := by
      intro hm
      obtain ⟨o, ho, rfl⟩ := List.mem_map.mp hm
      rw [(mem_idleOuts (List.mem_of_mem_filter ho)).2.1] at hl
      cases hl
    simp [this]
  · simp [hl]
end

/-- The lanes of Act trap alike and the others go on: what a commit makes of them. -/
theorem commit_trapOuts {s0 s : State} {w : View} {ends : Bool} {c d : Nat} (hd : d < 256) (hact : w.act ≠ 0)
    (hstep : ∀ o ∈ trapOuts w c d ++ idleOuts w.lanes w.act, (w.g.lane o.1).stepArm = false)
    (ht : (s.grp w.key).tlanes = 0) (hf : (s.grp w.key).fences = []) :
    commit s0 s w ends ⟨trapOuts w c d ++ idleOuts w.lanes w.act, fun _ s => s⟩ =
      takeTrap ((s.modGrp w.key (fun g => moveLanes g w ends (idleOuts w.lanes w.act))).modGrp w.key
        (fun g => g.keepPoison (s0.grp w.key).poison 0)) w.key w.act c d (fun _ => w.pc) (fun _ => 0) := by
  have htakers : takersOf (trapOuts w c d ++ idleOuts w.lanes w.act) (c * 256 + d) = trapOuts w c d :=
    filter_trapOuts w w.lanes c d (fun l => beq_self_eq_true _) (fun l => rfl)
  have hothers := filter_idleOuts w w.lanes c d (p := fun o => o.2.trapCode == none) (fun l => rfl) (fun l => rfl)
  have hmask : maskOf ((trapOuts w c d).map (·.1)) = w.act := by
    rw [trapOuts, List.map_map]
    exact (congrArg maskOf (List.map_id _)).trans (maskOf_lanesOf _)
  have hserved : (trapOuts w c d).filter (fun o => o.2.resume.isSome) = [] :=
    List.filter_eq_nil_iff.mpr fun o ho => by rw [(mem_trapOuts ho).2]; exact Bool.false_ne_true
  have hcode : (c * 256 + d) / 256 = c ∧ (c * 256 + d) % 256 = d := by omega
  unfold commit
  simp only [trapOuts_noViolation, stepTraps_id _ _ _ hstep, bestTrap_trapOuts w w.lanes c d hact, htakers, hothers, hmask, hserved,
    List.append_nil, hcode.1, hcode.2, ht, finish, done_idle]
  rw [if_neg (by simp [Grp.fenced, hf]), if_neg (by simp), if_neg (by simp)]
  refine takeTrap_congr _ _ _ _ _ _ _ _ _ fun l _ => ?_
  split
  · next o ho =>
    rw [(mem_trapOuts (List.mem_of_find?_eq_some ho)).2]
    exact ⟨rfl, rfl⟩
  · exact ⟨rfl, rfl⟩

theorem lt_of_feature {p q r u v : Bool} {n : Nat}
    (h : (if p then some 1 else if q then some 2 else if r then some 5 else if u then some 7 else Machine.when v 9) = some n) : n < 256 := by
  unfold Machine.when at h
  split_ifs at h <;> cases h <;> decide
theorem missingFeature_lt {c : BitVec 512} {q : Prefix} {i : Instr} {b : Nat} (h : missingFeature c q i = some b) : b < 256 :=
  lt_of_feature h

theorem exec_ungranted {i : Instr} {s : State} {b : Nat} (hword : (encodeWord i).isSome = true) (hp : isPrefix i = false)
    (hruns : runsUngranted i s = true) (hobs : unobserved s = true)
    (hb : missingFeature (s.ctx (s.grp s.key).ctxid).contract s.cur.pre i = some b) (hact : (viewOf i s).act ≠ 0)
    (ht : (s.grp s.key).tlanes = 0) (hf : (s.grp s.key).fences = []) :
    exec i s = .next (takeTrap (trapping i s 0) s.key (viewOf i s).act 0x0A b (fun _ => s.cur.pc) (fun _ => 0)) := by
  obtain ⟨f, hexec⟩ := exec_issue hword hp s
  simp only [unobserved, Bool.and_eq_true, Bool.not_eq_true', List.all_eq_true, mem_lanesOf] at hobs
  obtain ⟨hstep, htrace⟩ := hobs
  simp only [runsUngranted, Bool.and_eq_true, bne_iff_ne, ne_eq, Bool.or_eq_true, beq_iff_eq, Bool.not_eq_true'] at hruns
  obtain ⟨⟨⟨⟨⟨h0, h1⟩, h2⟩, h3⟩, h4⟩, h6⟩ := hruns
  obtain ⟨q, hq⟩ := Option.isSome_iff_exists.mp h4
  have hover : ¬ (s.cur.pos = 0 ∧ overRun (s.grp s.cur.key) s.cur.lanes 1 ≠ 0) := fun h => h1.elim (· h.1) h.2
  have hv : viewOf i s = ⟨s.key, q.2.enterWord (s.grp s.key).queues s.cur.lanes (actOf (s.grp s.key) s.cur.lanes i) i, s.cur.lanes,
      actOf (s.grp s.key) s.cur.lanes i, s.cur.pc, s.cur.next, s.cur.pre, q.1⟩ := by
    simp [viewOf, hq]
  have hcommit : issueCore s {} i f = commit (clearCur s) (enter i s) (viewOf i s) (bFlag i)
      ⟨trapOuts (viewOf i s) 0x0A b ++ idleOuts (viewOf i s).lanes (viewOf i s).act, fun _ s => s⟩ := by
    unfold issueCore
    rw [splitFence_noFence hf]
    simp only [h0, if_false, hover, State.key] at h2 h3 hq hb h6 ⊢
    have h3' : mustStall (s.grp s.cur.key) s.cur.lanes (actOf (s.grp s.cur.key) s.cur.lanes i) i = false := by simpa [viewOf, State.key] using h3
    simp only [h2, h3', hq, hb, h6]
    unfold enter
    rw [hv]
    rfl
  rw [hexec, issue_untraced htrace, hcommit, commit_trapOuts (missingFeature_lt hb) hact]
  · rfl
  · intro o ho
    rw [viewOf_lane]
    rcases List.mem_append.mp ho with ho | ho
    · simpa using hstep _ (act_sub i s (mem_trapOuts ho).1)
    · simpa using hstep _ (mem_idleOuts ho).1
  · exact (congrArg Grp.tlanes (enter_grp i s)).trans ((viewOf_tlanes i s).trans ht)
  · exact (congrArg Grp.fences (enter_grp i s)).trans (viewOf_fences hf i)

/-- Settles O23: the over-run, the order of the checks, and the features, each as the issue meets it. -/
theorem decodeTraps : Obligations.DecodeTraps := by
  unfold Obligations.DecodeTraps
  refine ⟨?_, decodeTrap_order, fun i s b hword hp hruns hobs hb hact ht hf => exec_ungranted hword hp hruns hobs hb hact ht hf⟩
  intro i s hword hp hlanes g m ht hf htrace
  obtain ⟨f, hexec⟩ := exec_issue hword hp s
  refine ⟨fun hpos hover => ?_, fun hover c d htrap => ?_⟩
  · exact (hexec.trans (issue_untraced htrace f)).trans (congrArg _ (issueCore_overRun f hlanes ht hf hpos hover))
  · exact (hexec.trans (issue_untraced htrace f)).trans (congrArg _ (issueCore_decodeTrap f hlanes ht hf hover htrap))

end Sys2Proof.ControlTraps

namespace Sys2Proof.ControlTraps
open Sys2Proof.Machine Sys2Proof.Claims

/-! ## What leaves the lives of a group's lanes alone (R126) -/

/-- The trapped lanes stay the same, no rejoin mask gains a lane, and no lane exits or changes its task. -/
structure KeepsLives (g g' : Grp) : Prop where
  tlanes : g'.tlanes = g.tlanes
  masks  : ∀ n l, inMask (g'.rj n) l = true → inMask (g.rj n) l = true
  lanes  : ∀ l, (g'.lane l).exited = (g.lane l).exited ∧ (g'.lane l).task = (g.lane l).task

theorem KeepsLives.refl (g : Grp) : KeepsLives g g := ⟨rfl, fun _ _ h => h, fun _ => ⟨rfl, rfl⟩⟩
theorem KeepsLives.trans {a b c : Grp} (h : KeepsLives a b) (h' : KeepsLives b c) : KeepsLives a c where
  tlanes := h'.tlanes.trans h.tlanes
  masks n l hl := h.masks n l (h'.masks n l hl)
  lanes l := ⟨(h'.lanes l).1.trans (h.lanes l).1, (h'.lanes l).2.trans (h.lanes l).2⟩
theorem KeepsLives.foldl {α : Type} {f : Grp → α → Grp} (hf : ∀ g x, KeepsLives g (f g x)) (l : List α) (g : Grp) :
    KeepsLives g (l.foldl f g) := by
  induction l generalizing g with
  | nil => exact .refl g
  | cons x r ih => exact (hf g x).trans (ih _)

theorem modLane_lives (g : Grp) (l : Nat) {f : Lane → Lane} (hf : ∀ x, (f x).exited = x.exited ∧ (f x).task = x.task) :
    KeepsLives g (g.modLane l f) where
  tlanes := rfl
  masks _ _ h := h
  lanes j := by
    rw [Grp.lane_modLane]
    split
    · next h => rw [h]; exact hf _
    · exact ⟨rfl, rfl⟩
theorem modLanes_lives (g : Grp) (ls : List Nat) {f : Nat → Lane → Lane} (hf : ∀ l x, (f l x).exited = x.exited ∧ (f l x).task = x.task) :
    KeepsLives g (g.modLanes ls f) := KeepsLives.foldl (fun g l => modLane_lives g l (hf l)) ls g
/-- A rejoin mask that loses lanes. -/
theorem wj_lives (g : Grp) (n : Nat) {x : Word} (h : ∀ l, inMask x l = true → inMask (g.rj n) l = true) : KeepsLives g (g.wj n x) where
  tlanes := rfl
  masks n' l hl := by
    by_cases hn : n' = n
    · subst hn
      exact h l (by simpa [Grp.rj, Grp.wj] using hl)
    · simpa [Grp.rj, Grp.wj, Bank.get_set_other _ _ _ hn] using hl
  lanes _ := ⟨rfl, rfl⟩

theorem unhold_lives (g : Grp) : KeepsLives g g.unhold := by
  unfold Grp.unhold
  split
  · exact modLanes_lives g _ fun _ _ => ⟨rfl, rfl⟩
  · exact .refl g
theorem evalRelease_lives (g : Grp) (n : Nat) : KeepsLives g (g.evalRelease n) := by
  unfold Grp.evalRelease
  split
  · exact .refl g
  · refine KeepsLives.trans ?_ (wj_lives _ n fun l hl => by rw [inMask_zero] at hl; cases hl)
    exact modLanes_lives g _ fun _ _ => ⟨rfl, rfl⟩
theorem evalReleases_lives (g : Grp) : KeepsLives g g.evalReleases := KeepsLives.foldl evalRelease_lives _ g
theorem struck_lives (m : Word) (ns : List Nat) (g : Grp) : KeepsLives g (ns.foldl (fun g n => g.wj n (g.rj n &&& ~~~ m)) g) :=
  KeepsLives.foldl (fun g n => wj_lives g n fun l hl => by rw [inMask_diff] at hl; exact (Bool.and_eq_true _ _ ▸ hl).1) _ g
theorem strikeOut_lives (g : Grp) (m : Word) : KeepsLives g (g.strikeOut m) := struck_lives m _ g
theorem struck_masks {m : Word} {n l : Nat} (hl : inMask m l = true) (ns : List Nat) (hn : n ∈ ns) (g : Grp) :
    inMask ((ns.foldl (fun g n => g.wj n (g.rj n &&& ~~~ m)) g).rj n) l = false := by
  induction ns generalizing g with
  | nil => cases hn
  | cons a r ih =>
    by_cases hr : n ∈ r
    · exact ih hr _
    · obtain rfl : n = a := (List.mem_cons.mp hn).resolve_right hr
      by_contra hc
      have hwas := (struck_lives m r (g.wj n (g.rj n &&& ~~~ m))).masks n l (by simpa using hc)
      simp [Grp.rj, Grp.wj, inMask_diff, hl] at hwas
theorem strikeOut_masks (g : Grp) {m : Word} {n l : Nat} (hn : n < 8) (hl : inMask m l = true) : inMask ((g.strikeOut m).rj n) l = false :=
  struck_masks hl _ (List.mem_range.mpr hn) g

/-! ## Barriers -/

/-- Memory and the lives of one group's lanes stay. -/
def QuietAt (k : Nat) (s t : State) : Prop := t.mem = s.mem ∧ KeepsLives (s.grp k) (t.grp k)

theorem QuietAt.refl (k : Nat) (s : State) : QuietAt k s s := ⟨rfl, .refl _⟩
theorem QuietAt.trans {k : Nat} {a b c : State} (h : QuietAt k a b) (h' : QuietAt k b c) : QuietAt k a c :=
  ⟨h'.1.trans h.1, h.2.trans h'.2⟩
theorem QuietAt.foldl {k : Nat} {α : Type} {f : State → α → State} (hf : ∀ s x, QuietAt k s (f s x)) (l : List α) (s : State) :
    QuietAt k s (l.foldl f s) := by
  induction l generalizing s with
  | nil => exact .refl k s
  | cons x r ih => exact (hf s x).trans (ih _)

theorem setBar_quiet (k : Nat) (s : State) (r : BarRef) (b : Barrier) : QuietAt k s (s.setBar r b) := by
  unfold State.setBar
  split <;> exact .refl k s

theorem get_map_lives {f : Grp → Grp} (hf : ∀ g, KeepsLives g (f g)) (p : Grp → Bool) (b : Bank Grp) (k : Nat) :
    KeepsLives (Bank.get {} b k) (Bank.get {} (b.map (fun e => if p e.2 then (e.1, f e.2) else e)) k) := by
  induction b with
  | nil => exact .refl _
  | cons e r ih =>
    obtain ⟨k', g⟩ := e
    have hhead : (if p g then (k', f g) else (k', g)) = (k', if p g then f g else g) := by split <;> rfl
    rw [List.map_cons, hhead]
    by_cases hk : k' = k
    · rw [Bank.get, Bank.get, if_pos hk, if_pos hk]
      split
      · exact hf g
      · exact .refl g
    · rw [Bank.get, Bank.get, if_neg hk, if_neg hk]
      exact ih

theorem modWho_quiet (k : Nat) (s : State) (grid who : Nat) {f : Grp → Grp} (hf : ∀ g, KeepsLives g (f g)) :
    QuietAt k s (s.modWho grid who f) := ⟨rfl, get_map_lives hf _ s.grps k⟩

theorem markDone_quiet (k : Nat) (s : State) (r : BarRef) (b : Barrier) : QuietAt k s (markDone s r b) := by
  refine QuietAt.foldl (fun s e => ?_) _ s
  split
  · exact .refl k s
  · exact modWho_quiet k s _ _ fun g => modLanes_lives g _ fun _ _ => ⟨rfl, rfl⟩

theorem completePhases_quiet (k n : Nat) (s : State) (r : BarRef) (d : Nat × Nat × Nat) : QuietAt k s (completePhases n s r d) := by
  induction n generalizing s with
  | zero => exact .refl k s
  | succ n ih =>
    unfold completePhases
    dsimp only
    split
    · exact ((markDone_quiet k s r _).trans (setBar_quiet k _ r _)).trans (ih _)
    · exact .refl k s

theorem arriveLanes_quiet (k : Nat) (s : State) (g : Grp) (level idx : Nat) (m : Word) : QuietAt k s (arriveLanes s g level idx m) :=
  (setBar_quiet k s _ _).trans (completePhases_quiet k _ _ _ _)

theorem settleExit_quiet (k : Nat) (s : State) (j : Nat) : QuietAt k s (settleExit s j) := by
  refine QuietAt.foldl (fun s x => ?_) _ s
  dsimp only
  split
  · exact .refl k s
  · exact arriveLanes_quiet k s _ _ _ _

/-! ## EXIT -/

/-- The lanes of a mask are out for good; of the others no lane exits or changes its task, and no rejoin mask gains a lane. -/
structure TakesOut (m : Word) (g g' : Grp) : Prop where
  out   : ∀ l, inMask m l = true → (g'.lane l).exited = true ∧ (g'.lane l).task = none ∧ inMask g'.tlanes l = false ∧
    ∀ n, n < 8 → inMask (g'.rj n) l = false
  rest  : ∀ l, inMask m l = false → (g'.lane l).exited = (g.lane l).exited ∧ (g'.lane l).task = (g.lane l).task
  masks : ∀ n l, inMask (g'.rj n) l = true → inMask (g.rj n) l = true

theorem TakesOut.keeps {m : Word} {a b c : Grp} (h : TakesOut m a b) (h' : KeepsLives b c) : TakesOut m a c where
  out l hl := by
    obtain ⟨he, ht, htl, hm⟩ := h.out l hl
    refine ⟨(h'.lanes l).1.trans he, (h'.lanes l).2.trans ht, by rw [h'.tlanes, htl], fun n hn => ?_⟩
    by_contra hc
    have := h'.masks n l (by simpa using hc)
    rw [hm n hn] at this
    cases this
  rest l hl := ⟨(h'.lanes l).1.trans (h.rest l hl).1, (h'.lanes l).2.trans (h.rest l hl).2⟩
  masks n l hl := h.masks n l (h'.masks n l hl)

/-- The lanes of a mask have exited. -/
def exited (m : Word) (g : Grp) : Grp :=
  let g := g.modLanes (lanesOf m) (fun _ x => { x with exited := true, task := none, waiting := false, resv := none, bars := [] })
  ((({ g with tlanes := g.tlanes &&& ~~~ m }).unhold).strikeOut m).evalReleases

theorem exited_takesOut (m : Word) (g : Grp) : TakesOut m g (exited m g) := by
  let f : Nat → Lane → Lane := fun _ x => { x with exited := true, task := none, waiting := false, resv := none, bars := [] }
  let g1 : Grp := { g.modLanes (lanesOf m) f with tlanes := (g.modLanes (lanesOf m) f).tlanes &&& ~~~ m }
  have hlane : ∀ l, g1.lane l = if inMask m l then f l (g.lane l) else g.lane l := fun l => by
    refine (Grp.lane_modLanes _ (lanesOf_nodup m) f g l).trans ?_
    simp only [mem_lanesOf]
  have hj : g1.j = g.j := by
    show (g.modLanes (lanesOf m) f).j = g.j
    rw [Grp.modLanes_rest]
    rfl
  have hlives := (unhold_lives g1).trans (strikeOut_lives _ m)
  refine TakesOut.keeps (b := (g1.unhold).strikeOut m) ⟨fun l hl => ?_, fun l hl => ?_, fun n l hl => ?_⟩ (evalReleases_lives _)
  · refine ⟨(hlives.lanes l).1.trans ?_, (hlives.lanes l).2.trans ?_, ?_, fun n hn => strikeOut_masks _ hn hl⟩
    · rw [hlane, if_pos hl]
    · rw [hlane, if_pos hl]
    · rw [hlives.tlanes]
      exact (inMask_diff ..).trans (by rw [hl, Bool.not_true, Bool.and_false])
  · rw [(hlives.lanes l).1, (hlives.lanes l).2, hlane, if_neg (by simp [hl])]
    exact ⟨rfl, rfl⟩
  · have := hlives.masks n l hl
    unfold Grp.rj at this ⊢
    rwa [hj] at this

theorem exitLanes_eq (s : State) (k : Nat) {m : Word} (h : m ≠ 0) : exitLanes s k m =
    if ((s.modGrp k (exited m)).grp k).isFeeder then s.modGrp k (exited m) else settleExit (s.modGrp k (exited m)) k := if_neg h
theorem exitLanes_mem (s : State) (k : Nat) (m : Word) : (exitLanes s k m).mem = s.mem := by
  by_cases h : m = 0
  · rw [exitLanes, if_pos h]
  · rw [exitLanes_eq s k h]
    split
    · exact State.modGrp_mem ..
    · exact (settleExit_quiet k _ k).1.trans (State.modGrp_mem ..)
theorem exitLanes_takesOut (s : State) (k : Nat) (m : Word) : TakesOut m (s.grp k) ((exitLanes s k m).grp k) := by
  by_cases h : m = 0
  · rw [exitLanes, if_pos h, h]
    exact ⟨fun l hl => absurd hl (by rw [inMask_zero]; decide), fun _ _ => ⟨rfl, rfl⟩, fun _ _ h => h⟩
  · have hout : TakesOut m (s.grp k) ((s.modGrp k (exited m)).grp k) := by
      rw [State.grp_modGrp]
      exact exited_takesOut m (s.grp k)
    rw [exitLanes_eq s k h]
    split
    · exact hout
    · exact hout.keeps (settleExit_quiet k _ k).2

/-- A trap leaves the masks, and lets no lane exit and no task end. -/
theorem takeTrap_lives (s : State) (k : Nat) (m : Word) (c d : Nat) (tpc taddr : Nat → Dword) :
    let g := (takeTrap s k m c d tpc taddr).grp k
    g.tlanes = m ∧ g.j = (s.grp k).j ∧ ∀ l, (g.lane l).exited = ((s.grp k).lane l).exited ∧ (g.lane l).task = ((s.grp k).lane l).task := by
  intro g
  let t := trapped (s.grp k) m c d (trapHalts (s.grp k) c d) tpc taddr
  have ht : t.tlanes = m ∧ t.j = (s.grp k).j ∧ ∀ l, (t.lane l).exited = ((s.grp k).lane l).exited ∧ (t.lane l).task = ((s.grp k).lane l).task := by
    refine ⟨rfl, ?_, fun l => ?_⟩
    · rw [show t.j = _ from congrArg Grp.j (trapped_rest ..)]
      rfl
    · rw [show t.lane l = _ from trapped_lane ..]
      split
      · exact ⟨rfl, rfl⟩
      · exact ⟨rfl, rfl⟩
  have hg : g = t ∨ g = { t with halted := true, haltPend := false, hstat := if Machine.trapEntry (s.grp k) c d = 0 then 2 else 4 } := by
    rw [show g = _ from takeTrap_grp ..]
    rw [if_pos rfl]
    dsimp only
    split
    · exact .inr rfl
    · exact .inl rfl
  rcases hg with hg | hg
  · rw [hg]; exact ht
  · rw [hg]; exact ht

/-- A deadlock traps live lanes alone (R131). -/
theorem checkDeadlock_takesOut {m : Word} {g : Grp} {s : State} {k : Nat} (h : TakesOut m g (s.grp k)) :
    TakesOut m g ((checkDeadlock s k).grp k) := by
  unfold checkDeadlock
  dsimp only
  split
  · exact h
  · obtain ⟨htl, hj, hlanes⟩ := takeTrap_lives s k (maskOf (s.grp k).live) 1 8 (fun l => ((s.grp k).lane l).pc) (fun _ => 0)
    have hrj : ∀ n, Grp.rj (State.grp _ k) n = (s.grp k).rj n := fun n => congrArg (fun b => Bank.get 0 b n) hj
    refine ⟨fun l hl => ?_, fun l hl => ?_, fun n l hl => h.masks n l (by rwa [hrj] at hl)⟩
    · obtain ⟨he, ht, -, hm⟩ := h.out l hl
      refine ⟨(hlanes l).1.trans he, (hlanes l).2.trans ht, ?_, fun n hn => by rw [hrj, hm n hn]⟩
      rw [htl, inMask_maskOf, decide_eq_false_iff_not]
      rintro ⟨-, hlive⟩
      rw [Grp.live, List.mem_filter, he] at hlive
      exact Bool.false_ne_true hlive.2
    · exact ⟨(hlanes l).1.trans (h.rest l hl).1, (hlanes l).2.trans (h.rest l hl).2⟩
theorem checkDeadlock_mem (s : State) (k : Nat) : (checkDeadlock s k).mem = s.mem := by
  unfold checkDeadlock
  dsimp only
  split
  · rfl
  · rw [takeTrap_rest]

/-- The lanes move on without an exit. -/
theorem settle_lives (i : Instr) (s T : State) (out : Nat → LaneOut) :
    KeepsLives (T.grp s.key) ((settle i s ((acting i s).map (fun l => (l, out l))) T).grp s.key) := by
  obtain ⟨-, hgroup, hlanes⟩ := settle_facts i s T out
  refine ⟨by rw [hgroup]; rfl, fun n l hl => by rw [hgroup] at hl; exact hl, fun l => ?_⟩
  rw [hlanes]
  split
  · cases out l <;> exact ⟨rfl, rfl⟩
  · split <;> exact ⟨rfl, rfl⟩

/-- Settles O17: EXIT holds its lanes, taken out of the group; what follows lets no other lane exit. -/
theorem exitLeaves : Obligations.ExitLeaves := by
  unfold Obligations.ExitLeaves
  intro p s hready w hremote
  have hexec : exec (.exit p) s = .next (settle (.exit p) s ((acting (.exit p) s).map (fun l => (l, LaneOut.hold)))
      (checkDeadlock (exitLanes (enter (.exit p) s) s.key w.act) s.key)) :=
    issue_moves (m := fun w _ => ⟨(lanesOf w.act).map (fun l => (l, if noRemote w.g (laneBit l) then .hold else .wait)),
        fun done s => checkDeadlock (exitLanes s w.key done) w.key⟩) (out := fun _ => .hold) hready
      (congrArg (fun o => (⟨o, _⟩ : Meaning)) (List.map_congr_left fun l hl => by rw [if_pos (hremote l ((mem_lanesOf _ _).mp hl))]))
      fun l _ => ⟨rfl, rfl, fun h => nomatch h⟩
  have hout := (checkDeadlock_takesOut (exitLanes_takesOut (enter (.exit p) s) s.key w.act)).keeps
    (settle_lives (.exit p) s (checkDeadlock (exitLanes (enter (.exit p) s) s.key w.act) s.key) fun _ => .hold)
  rw [enter_grp] at hout
  refine ⟨_, hexec, ?_, hout.out, fun l hl => ?_⟩
  · rw [settle, State.modGrp_mem, checkDeadlock_mem, exitLanes_mem]
    rfl
  · have hj : (viewOf (.exit p) s).g.j = (s.grp s.key).j := by rw [viewOf_g]
    obtain ⟨he, ht⟩ := hout.rest l hl
    rw [viewOf_lane] at he ht
    refine ⟨he, ht, fun n _ hm => ?_⟩
    have := hout.masks n l hm
    unfold Grp.rj at this ⊢
    rwa [hj] at this

end Sys2Proof.ControlTraps


/-! PROOFS. Chapter 7: waits and barriers. -/
namespace Sys2Proof.MemorySync
open Sys2Proof.Machine Sys2Proof.Claims Sys2Proof.Tables

/-! ## Words every lane of Act completes -/

/-- The issue of a ready word each lane of whose Act completes it, up to what its effect is called. -/
theorem completes_of {i : Instr} {s : State} {m : View → State → Meaning} {E : State → State} (hexec : exec i s = issue i s m)
    (hready : ready i s = true) (houts : (m (viewOf i s) (enter i s)).outs = (acting i s).map (fun l => (l, LaneOut.ok)))
    (heff : (m (viewOf i s) (enter i s)).eff (viewOf i s).act (enter i s) = E (enter i s)) : completes i s E := by
  refine hexec.trans ((issue_ready i s m hready houts).trans ?_)
  rw [heff]

/-- Where each lane of Act comes to `.ok`, so do all. -/
theorem outs_ok {i : Instr} {s : State} {out : Nat → LaneOut} (h : ∀ l, inMask (viewOf i s).act l = true → out l = .ok) :
    (lanesOf (viewOf i s).act).map (fun l => (l, out l)) = (acting i s).map (fun l => (l, LaneOut.ok)) :=
  List.map_congr_left fun l hl => by rw [h l ((mem_lanesOf _ _).mp hl)]

/-! ## Waits (R165, R187, R193, R231) -/

/-- The meaning of BARW on barrier n of level l for parity q. -/
def barwMeaning (l n q : Nat) (w : View) (s : State) : Meaning :=
  let b := s.bar (w.g.barRef l n)
  let waits := b.parity != q
  let traps := !waits && dmgTraps s w.g l n (b.phase - 1) b.lastD
  ⟨(lanesOf w.act).map (fun x => (x, if waits then .wait else if traps then dmgTrap l n else .ok)),
   fun done s =>
     let s := if traps then s.modGrp w.key (fun g => markReported g l n (b.phase - 1)) else s
     if done = 0 then s else barAcquire s w.g l n⟩

/-- A barrier whose phase has come, undamaged or reported. -/
theorem barwMeaning_passes {l n q : Nat} {w : View} {s : State} (hpar : (s.bar (w.g.barRef l n)).parity = q)
    (hdmg : dmgTraps s w.g l n ((s.bar (w.g.barRef l n)).phase - 1) (s.bar (w.g.barRef l n)).lastD = false) :
    barwMeaning l n q w s = ⟨(lanesOf w.act).map (fun x => (x, .ok)), fun done s => if done = 0 then s else barAcquire s w.g l n⟩ := by
  unfold barwMeaning
  simp only [hpar, hdmg, bne_self_eq_false, Bool.not_false, Bool.and_false, Bool.false_eq_true, if_false]

/-- What a lane of TJOIN whose counter reads zero comes to. -/
theorem tjoinOut_ok {s : State} {w : View} {l : Nat} {j : Dword} (h : (j == 0 || (match joinPlace s w.g .read j with
      | .ok p => (s.poisoned none p.loc 8).isNone && !incPending w.g l p.loc 8 &&
          readPlaceNat (s.flushSector w.g.core (p.loc / 256)) w.g l p.loc p.tag false 8 == 0
      | _ => false)) = true) : tjoinOut s w l j = .ok := by
  unfold tjoinOut
  by_cases hj : j = 0
  · rw [if_pos hj]
  · rw [if_neg hj]
    rw [beq_eq_false_iff_ne.mpr hj, Bool.false_or] at h
    cases hp : joinPlace s w.g .read j with
    | ok p =>
      rw [hp] at h
      simp only [Bool.and_eq_true, Bool.not_eq_true', Option.isNone_iff_eq_none, beq_iff_eq] at h
      obtain ⟨⟨hpoison, hinc⟩, hread⟩ := h
      simp only [hpoison, hinc, hread]
      rfl
    | fabric a b => rw [hp] at h; cases h
    | trap c d => rw [hp] at h; cases h
    | violation c d => rw [hp] at h; cases h

/-- Settles O32: each wait under its own condition. -/
theorem waitsComplete : Obligations.WaitsComplete := by
  unfold Obligations.WaitsComplete
  intro i s acq hw hready
  refine of_entry (x := (true, acq)) (P := fun x : Bool × (State → State) => x.1 = true → ready i s = true →
    completes i s (fun t => if (viewOf i s).act = 0 then t else x.2 t)) ?_ hw rfl hready
  clear hw hready
  cases i
  case wait u l st t r c =>
    intro hmet hready
    refine completes_of (m := _) rfl hready ?_ ?_
    · exact outs_ok fun x _ => if_pos hmet
    · exact (ite_self (c := (viewOf (.wait u l st t r c) s).act = 0) _).symm
  case barw u l n q p =>
    intro hmet hready
    rw [Bool.and_eq_true, beq_iff_eq, Bool.not_eq_true'] at hmet
    have hm := barwMeaning_passes (w := viewOf (.barw u l n q p) s) (s := enter (.barw u l n q p) s) hmet.1 hmet.2
    refine completes_of (m := barwMeaning l.toNat n.toNat q.toNat) rfl hready ?_ ?_
    · rw [hm]
      rfl
    · rw [hm]
  case tjoin u a p =>
    intro hmet hready
    rw [List.all_eq_true] at hmet
    exact completes_of rfl hready (outs_ok fun x hx => tjoinOut_ok (hmet x ((mem_lanesOf _ _).mpr hx))) rfl
  case vatwait u v p =>
    intro hmet hready
    rw [Bool.and_eq_true, Bool.or_eq_true, beq_iff_eq, beq_iff_eq] at hmet
    obtain ⟨hvat, hfull⟩ := hmet
    refine completes_of rfl hready ?_ rfl
    refine outs_ok fun x _ => ?_
    rw [hvat]
    exact if_pos hfull
  all_goals exact trivial

/-! ## Barriers (R190 to R194) -/

theorem countGroup_keeps (b : Barrier) (gmax who : Nat) :
    (b.countGroup gmax who).phase = b.phase ∧ (b.countGroup gmax who).lastD = b.lastD := by
  unfold Barrier.countGroup
  split
  · exact ⟨rfl, rfl⟩
  · split
    · exact ⟨rfl, rfl⟩
    · exact ⟨rfl, rfl⟩

theorem countIf_keeps (c : Prop) [Decidable c] (b : Barrier) (gmax who : Nat) :
    (if c then b.countGroup gmax who else b).phase = b.phase ∧ (if c then b.countGroup gmax who else b).lastD = b.lastD := by
  split
  · exact countGroup_keeps b gmax who
  · exact ⟨rfl, rfl⟩

/-- Held arrivals count in the phase that takes them. -/
theorem enterHeld_keeps (s : State) (grid gmax : Nat) (held : List (Nat × Word)) (b : Barrier) :
    (enterHeld s grid gmax held b).phase = b.phase ∧ (enterHeld s grid gmax held b).lastD = b.lastD := by
  induction held generalizing b with
  | nil => exact ⟨rfl, rfl⟩
  | cons x r ih =>
    obtain ⟨who, m⟩ := x
    unfold enterHeld
    dsimp only
    exact ⟨(ih _).1.trans (countIf_keeps ..).1, (ih _).2.trans (countIf_keeps ..).2⟩

theorem nextPhase_parts (s : State) (grid G F C : Nat) (b : Barrier) :
    (b.nextPhase s grid G F C).phase = b.phase + 1 ∧ (b.nextPhase s grid G F C).parity = 1 - b.parity ∧
    (b.nextPhase s grid G F C).lastD = b.dmg := by
  obtain ⟨hphase, hdmg⟩ : (b.nextPhase s grid G F C).phase = b.phase + 1 ∧ (b.nextPhase s grid G F C).lastD = b.dmg :=
    enterHeld_keeps ..
  refine ⟨hphase, ?_, hdmg⟩
  unfold Barrier.parity
  rw [hphase]
  omega

section
variable {w : View} {s : State} {l n : Nat}

/-- A lane that arrives anew is held. -/
theorem barsOut_new {x : Nat} (hmark : barMark (w.g.lane x) l n w.pc = none) (hfree : mustWaitToArrive s w l n x = false) :
    barsOut s w l n x = .hold := by
  unfold barsOut
  rw [hmark]
  exact if_neg (by rw [hfree]; exact Bool.false_ne_true)
/-- A lane whose phase has completed, undamaged or reported, goes on. -/
theorem barsOut_done {x : Nat} {m : BarMark} {ph : Nat} {d : Bool} (hmark : barMark (w.g.lane x) l n w.pc = some m)
    (hdone : m.done = some (ph, d)) (hdmg : dmgTraps s w.g l n ph d = false) : barsOut s w l n x = .ok := by
  unfold barsOut
  rw [hmark]
  dsimp only
  rw [hdone]
  exact if_neg (by rw [hdmg]; exact Bool.false_ne_true)

theorem foldl_noTrap {outs : List (Nat × LaneOut)} (h : ∀ o ∈ outs, o.2 ≠ dmgTrap l n) (f : State → Nat × LaneOut → State) (t : State) :
    outs.foldl (fun s o => if o.2 = dmgTrap l n then f s o else s) t = t := by
  induction outs generalizing t with
  | nil => rfl
  | cons o r ih =>
    rw [List.foldl_cons, if_neg (h o (List.mem_cons_self ..))]
    exact ih (fun o ho => h o (List.mem_cons_of_mem _ ho)) t

/-- Lanes that all arrive anew are marked and stay. -/
theorem barsEff_new {outs : List (Nat × LaneOut)} {m : Word} (houts : ∀ o ∈ outs, o.2 ≠ dmgTrap l n)
    (hnew : ∀ x, inMask m x = true → barMark (w.g.lane x) l n w.pc = none) :
    barsEff w l n outs m s = arriveGroup (s.modGrp w.key (fun g =>
      g.modLanes (lanesOf m) (fun _ y => { y with bars := y.bars ++ [⟨l, n, w.pc, none⟩], waiting := true }))) w l n m := by
  have hold : (lanesOf m).filter (fun x => (barMark (w.g.lane x) l n w.pc).isSome) = [] :=
    List.filter_eq_nil_iff.mpr fun x hx => by rw [hnew x ((mem_lanesOf _ _).mp hx)]; exact Bool.false_ne_true
  have hall : (lanesOf m).filter (fun x => !(barMark (w.g.lane x) l n w.pc).isSome) = lanesOf m :=
    List.filter_eq_self.mpr fun x hx => by rw [hnew x ((mem_lanesOf _ _).mp hx)]; rfl
  unfold barsEff
  dsimp only
  rw [hold, hall, maskOf_lanesOf, foldl_noTrap houts]
  rfl

/-- Lanes whose phase has completed drop their marks and acquire. -/
theorem barsEff_done {outs : List (Nat × LaneOut)} {m : Word} (houts : ∀ o ∈ outs, o.2 ≠ dmgTrap l n) (hm : m ≠ 0)
    (hdone : ∀ x, inMask m x = true → (barMark (w.g.lane x) l n w.pc).isSome = true) :
    barsEff w l n outs m s = barAcquire (s.modGrp w.key (fun g => g.modLanes (lanesOf m) (fun _ y =>
      { y with bars := y.bars.filter (fun m => !(m.level == l && m.idx == n && m.pc == w.pc)) }))) w.g l n := by
  have hold : (lanesOf m).filter (fun x => (barMark (w.g.lane x) l n w.pc).isSome) = lanesOf m :=
    List.filter_eq_self.mpr fun x hx => hdone x ((mem_lanesOf _ _).mp hx)
  have hnone : (lanesOf m).filter (fun x => !(barMark (w.g.lane x) l n w.pc).isSome) = [] :=
    List.filter_eq_nil_iff.mpr fun x hx => by rw [hdone x ((mem_lanesOf _ _).mp hx)]; exact Bool.false_ne_true
  have hne : (lanesOf m).isEmpty = false := by
    rw [List.isEmpty_eq_false_iff]
    intro he
    exact hm (by rw [← maskOf_lanesOf m, he]; rfl)
  unfold barsEff
  dsimp only
  rw [hold, hnone, foldl_noTrap houts, hne]
  rfl
end

/-- The meaning of BARS on barrier n of level l. -/
def barsMeaning (l n : Nat) (w : View) (s : State) : Meaning :=
  ⟨(lanesOf w.act).map (fun x => (x, barsOut s w l n x)), barsEff w l n ((lanesOf w.act).map (fun x => (x, barsOut s w l n x)))⟩

/-- Settles O33: BARV, the two turns of a BARS, and a phase's completion. -/
theorem barrierArrivals : Obligations.BarrierArrivals := by
  unfold Obligations.BarrierArrivals
  refine ⟨⟨?barv, ?new, ?done⟩, fun s grid G F C b => nextPhase_parts s grid G F C b⟩
  case barv =>
    intro u l n p s hready i w hfree
    refine completes_of rfl hready (outs_ok fun x hx => ?_) rfl
    exact if_neg (by rw [hfree x hx]; exact Bool.false_ne_true)
  case new =>
    intro u l n p s hready i w hnew
    have houts : (lanesOf w.act).map (fun x => (x, barsOut (enter i s) w l.toNat n.toNat x)) = (acting i s).map (fun x => (x, LaneOut.hold)) :=
      List.map_congr_left fun x hx => by
        obtain ⟨hmark, hfree⟩ := hnew x ((mem_lanesOf _ _).mp hx)
        rw [barsOut_new hmark hfree]
    have hexec := ControlTraps.issue_moves (m := barsMeaning l.toNat n.toNat) (out := fun _ => .hold) hready
      (congrArg (fun o => (⟨o, barsEff w l.toNat n.toNat o⟩ : Meaning)) houts) fun x _ => ⟨rfl, rfl, fun h => nomatch h⟩
    rw [barsEff_new (fun o ho => by obtain ⟨x, -, rfl⟩ := List.mem_map.mp ho; exact fun h => nomatch h) fun x hx => (hnew x hx).1] at hexec
    exact hexec
  case done =>
    intro u l n p s hready i w hdone hact
    have houts : (lanesOf w.act).map (fun x => (x, barsOut (enter i s) w l.toNat n.toNat x)) = (acting i s).map (fun x => (x, LaneOut.ok)) :=
      List.map_congr_left fun x hx => by
        obtain ⟨m, ph, d, hmark, hd, hdmg⟩ := hdone x ((mem_lanesOf _ _).mp hx)
        rw [barsOut_done hmark hd hdmg]
    refine completes_of (m := barsMeaning l.toNat n.toNat) rfl hready houts ?_
    refine barsEff_done (fun o ho => ?_) hact fun x hx => ?_
    · rw [houts] at ho
      obtain ⟨x, -, rfl⟩ := List.mem_map.mp ho
      exact fun h => nomatch h
    · obtain ⟨m, ph, d, hmark, -, -⟩ := hdone x hx
      rw [hmark]
      rfl

end Sys2Proof.MemorySync


/-! PROOFS. Chapter 7: loads, stores and atomics of this module, at their issue and when they are performed. -/
namespace Sys2Proof.MemorySync
open Sys2Proof.Machine Sys2Proof.Claims Sys2Proof.Tables

/-! ## Accesses of this module (R171, R173) -/

theorem places_ne_nil {m : Word} (place : Nat → Place) (h : m ≠ 0) : ((lanesOf m).map (fun l => (l, place l))).isEmpty = false := by
  rw [List.isEmpty_eq_false_iff]
  exact fun hn => lanesOf_ne_nil h (List.map_eq_nil_iff.mp hn)

/-- The form of a load gives its meaning. -/
theorem exec_loads {i : Instr} {f : LoadForm} (h : loads i = some f) (s : State) : ∃ d : BitVec 6, f.dest = d.toNat ∧
    ∃ m : View → State → Meaning, exec i s = issue i s m ∧ ∀ w t, f.mayAcquire w t = true →
      m w t = loadMeaning f.size f.sgn f.plain ⟨.read, f.size == 8⟩ d f.ea f.before w t := by
  refine of_entry (P := fun f : LoadForm => ∃ d : BitVec 6, f.dest = d.toNat ∧ ∃ m : View → State → Meaning, exec i s = issue i s m ∧
    ∀ w t, f.mayAcquire w t = true → m w t = loadMeaning f.size f.sgn f.plain ⟨.read, f.size == 8⟩ d f.ea f.before w t) ?_ h
  clear h
  cases i
  case ld => exact ⟨_, rfl, _, rfl, fun _ _ _ => rfl⟩
  case lda =>
    refine ⟨_, rfl, _, rfl, fun w t hm => if_neg ?_⟩
    rw [LoadForm.mayAcquire, Bool.not_eq_true'] at hm
    rw [hm]
    exact Bool.false_ne_true
  all_goals exact trivial

/-- Writes to register entries: of two to one entry the last stands. -/
theorem get_foldl_set (ds : List (Nat × Word)) (v : Bank Word) (j : Nat) :
    Bank.get 0 (ds.foldl (fun v x => Bank.set 0 v x.1 x.2) v) j = ds.foldl (fun v x => if x.1 = j then x.2 else v) (Bank.get 0 v j) := by
  induction ds generalizing v with
  | nil => rfl
  | cons x r ih =>
    rw [List.foldl_cons, List.foldl_cons, ih, Bank.get_set]
    simp only [eq_comm]

/-- Settles O27: a load at its issue, and its completion. -/
theorem loads : Obligations.Loads := by
  unfold Obligations.Loads
  constructor
  · intro i s f place hf hready w hact hroom hlocal hmay hplaces
    obtain ⟨d, hd, m, hexec, hm⟩ := exec_loads hf s
    replace hm := hm w (enter i s) hmay
    refine completes_of hexec hready ?_ ?_
    · rw [hm]
      exact memOuts_local hroom hlocal
    · rw [hm]
      show (loadMeaning f.size f.sgn f.plain ⟨.read, f.size == 8⟩ d f.ea f.before w (enter i s)).eff w.act (enter i s) = _
      unfold loadMeaning
      dsimp only
      rw [if_neg hact, placesOf_local _ hplaces, sharesOf_local _ _ _ _ _ hplaces, sharesOf_local _ _ _ _ _ hplaces, places_ne_nil _ hact,
        maskOf_places, hd]
      rfl
  · intro c k s o ps hfind hbody hdone ds
    have hexec : exec (.loadCompletion c k) s = .next (s.modGrp c (fun g => (g.returnData k ds).finishOp k)) := by
      show Host.Outcome.next _ = _
      rw [hfind]
      dsimp only
      rw [hbody]
      dsimp only
      rw [hdone]
      rfl
    refine ⟨_, hexec, rfl, fun c' hc => State.grp_modGrp_other _ _ hc, State.grp_modGrp .., fun j => ?_⟩
    rw [State.grp_modGrp]
    exact get_foldl_set ds _ j

/-! ## What a full L1 sends home (R247, R264) -/

/-- From s to t the L1 of one core has given copies up, dirty ones to memory; nothing else of a byte has changed. -/
structure SentHome (core : Nat) (s t : State) : Prop where
  tags   : t.tags = s.tags
  others : ∀ c a, c ≠ core → a < 2 ^ 42 → t.l1Byte c a = s.l1Byte c a
  byte   : ∀ a, a < 2 ^ 42 → (t.l1Byte core a = s.l1Byte core a ∧ t.rawByte a = s.rawByte a) ∨
    (t.l1Byte core a = none ∧ (s.l1Byte core a = some (true, t.rawByte a) ∨
      ((∀ b, s.l1Byte core a ≠ some (true, b)) ∧ t.rawByte a = s.rawByte a)))
  far    : ∀ a, 2 ^ 42 ≤ a → t.rawByte a = s.rawByte a

theorem SentHome.refl (core : Nat) (s : State) : SentHome core s s :=
  ⟨rfl, fun _ _ _ _ => rfl, fun _ _ => .inl ⟨rfl, rfl⟩, fun _ _ => rfl⟩
theorem SentHome.trans {core : Nat} {a b c : State} (h : SentHome core a b) (h' : SentHome core b c) : SentHome core a c where
  tags := h'.tags.trans h.tags
  others k x hk hx := (h'.others k x hk hx).trans (h.others k x hk hx)
  far x hx := (h'.far x hx).trans (h.far x hx)
  byte x hx := by
    rcases h'.byte x hx with ⟨hl', hr'⟩ | ⟨hn', hd'⟩
    · rw [hl', hr']
      exact h.byte x hx
    · refine .inr ⟨hn', ?_⟩
      rcases h.byte x hx with ⟨hl, hr⟩ | ⟨hn, hd⟩
      · rw [hl, hr] at hd'
        exact hd'
      · rw [hn] at hd'
        obtain ⟨-, hr'⟩ := hd'.resolve_left (fun h => nomatch h)
        rw [hr']
        exact hd

/-- What differs in nothing but the tags, the bytes and the L1s of two states is all that counts. -/
theorem SentHome.of_eq {core : Nat} {s t t' : State} (h : SentHome core s t) (htags : t'.tags = t.tags) (hl1 : t'.l1 = t.l1) (hmem : t'.mem = t.mem) :
    SentHome core s t' := by
  have hb : ∀ c a, t'.l1Byte c a = t.l1Byte c a := fun c a => congrArg (fun l => Bank.get none l (l1Key c a)) hl1
  have hr : ∀ a, t'.rawByte a = t.rawByte a := fun a => congrArg (fun m => Bank.get memDefault m a) hmem
  refine ⟨htags.trans h.tags, fun c a hc ha => by rw [hb, h.others c a hc ha], fun a ha => ?_, fun a ha => by rw [hr, h.far a ha]⟩
  rw [hb, hr]
  exact h.byte a ha

theorem flushByte_sentHome (core : Nat) (s : State) {loc : Nat} (hloc : loc < 2 ^ 42) : SentHome core s (s.flushByte core loc) := by
  unfold State.flushByte
  split
  · next b hb =>
    refine ⟨rfl, fun c a hc ha => ?_, fun a ha => ?_, fun a ha => ?_⟩
    · rw [State.l1Byte_setL1 _ _ _ _ hloc ha, if_neg fun h => hc h.1]
      rfl
    · rw [State.l1Byte_setL1 _ _ _ _ hloc ha, State.rawByte_setL1, State.rawByte_setRaw]
      by_cases h : a = loc
      · subst h
        exact .inr ⟨if_pos ⟨rfl, rfl⟩, .inl (by rw [if_pos rfl]; exact hb)⟩
      · rw [if_neg fun hh => h hh.2, if_neg h]
        exact .inl ⟨rfl, rfl⟩
    · rw [State.rawByte_setL1, State.rawByte_setRaw, if_neg (by omega)]
  · next b hb =>
    refine ⟨rfl, fun c a hc ha => ?_, fun a ha => ?_, fun a ha => rfl⟩
    · rw [State.l1Byte_setL1 _ _ _ _ hloc ha, if_neg fun h => hc h.1]
    · rw [State.l1Byte_setL1 _ _ _ _ hloc ha, State.rawByte_setL1]
      by_cases h : a = loc
      · subst h
        exact .inr ⟨if_pos ⟨rfl, rfl⟩, .inr ⟨fun b' hb' => (nomatch hb.symm.trans hb'), rfl⟩⟩
      · rw [if_neg fun hh => h hh.2]
        exact .inl ⟨rfl, rfl⟩
  · exact .refl core s

theorem flushBytes_sentHome (core : Nat) {locs : List Nat} (h : ∀ l ∈ locs, l < 2 ^ 42) (s : State) :
    SentHome core s (locs.foldl (fun s l => s.flushByte core l) s) := by
  induction locs generalizing s with
  | nil => exact .refl core s
  | cons a r ih => exact (flushByte_sentHome core s (h a (List.mem_cons_self ..))).trans (ih (fun l hl => h l (List.mem_cons_of_mem _ hl)) _)

theorem flushLocs_sentHome (core : Nat) {locs : List Nat} (h : ∀ l ∈ locs, l < 2 ^ 42) (s : State) : SentHome core s (s.flushLocs core locs) := by
  unfold State.flushLocs
  split
  · exact .refl core s
  · dsimp only
    rw [State.noted_rest]
    refine SentHome.of_eq (t := locs.foldl (fun s l => s.flushByte core l) _)
      (SentHome.trans (SentHome.of_eq (.refl core s) ?_ ?_ ?_) (flushBytes_sentHome core h _)) rfl rfl rfl
    · rw [State.dirtyL2_rest, State.coverChains_rest]
    · rw [State.dirtyL2_rest, State.coverChains_rest]
    · rw [State.dirtyL2_mem, State.coverChains_mem]

theorem flushSector_sentHome (core sector : Nat) (s : State) : SentHome core s (s.flushSector core sector) := by
  refine flushLocs_sentHome core (fun l hl => ?_) s
  obtain ⟨e, -, rfl⟩ := List.mem_map.mp (List.mem_of_mem_filter hl)
  exact Nat.mod_lt _ (by decide)

theorem fitL1_sentHome (core : Nat) (s : State) : SentHome core s (s.fitL1 core) := by
  unfold State.fitL1
  dsimp only
  split
  · exact .refl core s
  · split
    · exact .refl core s
    · exact flushSector_sentHome core _ s

/-! ## Stores in an L1 (R173, R264) -/

/-- Bytes written in the L1 of a core, in words that stand under their key, stand there dirty; no other byte of an L1 changes, nor memory. -/
theorem writeL1s_facts {core tag loc : Nat} (d : List Byte) (i : Nat) (s : State) (hfit : loc + i + d.length ≤ 2 ^ 42)
    (htag : ∀ a, loc + i ≤ a → a < loc + i + d.length → wordTag s (a / 32) = tag) :
    let t := (d.zipIdx i).foldl (fun s (x : Byte × Nat) => s.writeL1 core tag (loc + x.2) x.1) s
    t.tags = s.tags ∧ t.mem = s.mem ∧ ∀ c a, a < 2 ^ 42 → t.l1Byte c a =
      if c = core ∧ loc + i ≤ a ∧ a < loc + i + d.length then some (true, d.getD (a - (loc + i)) 0) else s.l1Byte c a := by
  induction d generalizing i s with
  | nil => exact ⟨rfl, rfl, fun c a _ => by rw [if_neg (by simp)]; rfl⟩
  | cons b r ih =>
    rw [List.length_cons] at hfit htag
    intro t
    have hfirst : s.writeL1 core tag (loc + i) b = s.setL1 core (loc + i) (some (true, b)) := by
      rw [State.writeL1, State.retag_same (htag _ (Nat.le_refl _) (by omega))]
    have ht : t = (r.zipIdx (i + 1)).foldl (fun s (x : Byte × Nat) => s.writeL1 core tag (loc + x.2) x.1)
        (s.setL1 core (loc + i) (some (true, b))) := by
      show ((b :: r).zipIdx i).foldl _ s = _
      rw [List.zipIdx_cons, List.foldl_cons, hfirst]
    obtain ⟨htags, hmem, hl1⟩ := ih (i + 1) (s.setL1 core (loc + i) (some (true, b))) (by omega)
      (fun a h1 h2 => htag a (by omega) (by omega))
    rw [← ht] at htags hmem hl1
    refine ⟨htags, hmem, fun c a ha => ?_⟩
    rw [hl1 c a ha, State.l1Byte_setL1 _ _ _ _ (by omega) ha]
    by_cases hc : c = core
    · by_cases h0 : a = loc + i
      · subst h0
        simp [hc]
      · by_cases h1 : loc + i ≤ a ∧ a < loc + i + (r.length + 1)
        · rw [if_pos ⟨hc, by omega⟩, List.length_cons, if_pos ⟨hc, h1⟩, show a - (loc + i) = (a - (loc + (i + 1))) + 1 by omega,
            List.getD_cons_succ]
        · rw [if_neg (by omega), if_neg (by omega), List.length_cons, if_neg (by omega)]
    · rw [if_neg fun h => hc h.1, if_neg fun h => hc h.1, if_neg fun h => hc h.1]

/-- A write in an L1: its bytes as the L1 takes them, before it sends home what it has no room for. -/
theorem writeBytesL1_facts {s : State} {who : Option (Nat × Nat)} {core tag loc : Nat} {d : List Byte} {stream : Bool}
    (hfit : loc + d.length ≤ 2 ^ 42) (htag : ∀ a, loc ≤ a → a < loc + d.length → wordTag s (a / 32) = tag) :
    ∃ u, SentHome core u (s.writeBytesL1 who core tag loc d stream) ∧ u.tags = s.tags ∧ u.mem = s.mem ∧
      ∀ c a, a < 2 ^ 42 → u.l1Byte c a =
        if c = core ∧ loc ≤ a ∧ a < loc + d.length then some (true, d.getD (a - loc) 0) else s.l1Byte c a := by
  obtain ⟨htags, hmem, hl1⟩ := writeL1s_facts (core := core) d 0 s hfit htag
  unfold State.writeBytesL1
  dsimp only
  refine ⟨_, fitL1_sentHome core _, ?_, ?_, fun c a ha => ?_⟩
  · rw [State.noted_rest, State.coverChains_rest]
    dsimp only
    split <;> exact htags
  · rw [State.noted_mem, State.coverChains_mem]
    dsimp only
    split <;> exact hmem
  · rw [State.noted_rest, State.coverChains_rest]
    refine Eq.trans ?_ (hl1 c a ha)
    unfold State.l1Byte
    dsimp only
    split <;> rfl

/-- A byte written at its home leaves every other byte of every L1. -/
theorem writeByte_l1Byte {s : State} {tag loc : Nat} (ht : isDram loc = true → wordTag s (loc / 32) = tag) (core : Option Nat) (b : Byte)
    {c a : Nat} (ha : a < 2 ^ 42) (hne : a ≠ loc) : (s.writeByte core tag loc b).l1Byte c a = s.l1Byte c a := by
  unfold State.writeByte
  split
  · next h =>
    rw [State.retag_same (ht h), State.l1Byte_setRaw]
    cases core with
    | none => rfl
    | some k =>
      dsimp only
      split
      · rw [State.l1Byte_setL1 _ _ _ _ (of_decide_eq_true h) ha, if_neg fun hh => hne hh.2]
      · rfl
  · rfl

theorem writeBytes_folded {tag loc : Nat} (core : Option Nat) (d : List Byte) (i : Nat) {s : State}
    (ht : ∀ a, loc + i ≤ a → a < loc + i + d.length → isDram a = true → wordTag s (a / 32) = tag) {c a : Nat} (ha : a < 2 ^ 42)
    (hout : a < loc + i ∨ loc + i + d.length ≤ a) :
    ((d.zipIdx i).foldl (fun s (x : Byte × Nat) => s.writeByte core tag (loc + x.2) x.1) s).l1Byte c a = s.l1Byte c a := by
  induction d generalizing i s with
  | nil => rfl
  | cons b r ih =>
    rw [List.length_cons] at ht hout
    have h0 : isDram (loc + i) = true → wordTag s ((loc + i) / 32) = tag := ht _ (Nat.le_refl _) (by omega)
    rw [List.zipIdx_cons, List.foldl_cons, ih (i + 1) _ (by omega), writeByte_l1Byte h0 _ _ ha (by omega)]
    intro a h1 h2 h3
    unfold wordTag
    rw [State.writeByte_tags h0]
    exact ht a (by omega) (by omega) h3
/-- Bytes written at their home leave every other byte of every L1. -/
theorem writeBytes_l1Byte {tag loc : Nat} (who : Option (Nat × Nat)) (core : Option Nat) (d : List Byte) {s : State}
    (ht : ∀ a, loc ≤ a → a < loc + d.length → isDram a = true → wordTag s (a / 32) = tag) {c a : Nat} (ha : a < 2 ^ 42)
    (hout : a < loc ∨ loc + d.length ≤ a) : (s.writeBytes who core tag loc d).l1Byte c a = s.l1Byte c a := by
  refine Eq.trans ?_ (writeBytes_folded core d 0 ht ha hout)
  unfold State.writeBytes State.l1Byte
  dsimp only
  rw [State.noted_rest, State.coverChains_rest, State.dirtyL2_rest]
  rfl

/-! ## Stores (R171, R173, R183, R188) -/

theorem performOp_single {s : State} {k id : Nat} {o : PendOp} {p : PStore} (hfind : (s.grp k).findOp id = some o)
    (hbody : o.body = .store [p] none) (hready : storeReady (s.grp k) o none p = true) (hlane : p.lane < 32) :
    ∃ f, performOp s k id (BitVec.allOnes 32) = (performStore s k (s.grp k).core p).modGrp k f := by
  have hmask : inMask (BitVec.allOnes 32) p.lane = true := by
    rw [inMask, BitVec.getLsbD_allOnes, decide_eq_true hlane]
  have hsplit : splitStores (fun q => inMask (BitVec.allOnes 32) q.lane && storeReady (s.grp k) o none q) [] [p] = ([p], []) := by
    unfold splitStores
    rw [if_pos (by rw [hmask, hready]; rfl)]
    rfl
  refine ⟨fun g => (g.setOp { o with body := .store [] none }).finishOp id, ?_⟩
  unfold performOp performWhere
  dsimp only
  rw [hfind]
  dsimp only
  rw [hbody]
  dsimp only
  rw [hsplit]
  rfl

/-- A plain store at its home. -/
theorem performStore_home {s : State} {k core : Nat} {p : PStore} (hl1 : p.l1 = false) (hinc : p.incs = []) :
    performStore s k core p = s.writeBytes (some (k, p.lane)) (some core) p.tag p.loc p.data := by
  rw [performStore, hl1, hinc]
  rfl
/-- A plain store in its core's L1. -/
theorem performStore_l1 {s : State} {k core : Nat} {p : PStore} (hl1 : p.l1 = true) (hinc : p.incs = []) :
    performStore s k core p = s.writeBytesL1 (some (k, p.lane)) core p.tag p.loc p.data p.stream := by
  rw [performStore, hl1, hinc]
  rfl

/-- What a plain store leaves in the bytes and in every L1. -/
def StoreLeft (core : Nat) (p : PStore) (s t : State) : Prop :=
  (∀ n, n < p.data.length → if p.l1 = true then t.readByte (some core) p.tag (p.loc + n) = p.data.getD n 0
    else t.rawByte (p.loc + n) = p.data.getD n 0) ∧
  (∀ a, a < p.loc ∨ p.loc + p.data.length ≤ a → t.rawByte a = s.rawByte a ∨
    (p.l1 = true ∧ s.l1Byte core a = some (true, t.rawByte a) ∧ t.l1Byte core a = none)) ∧
  (∀ c a, a < 2 ^ 42 → a < p.loc ∨ p.loc + p.data.length ≤ a → t.l1Byte c a = s.l1Byte c a ∨
    (p.l1 = true ∧ c = core ∧ t.l1Byte c a = none))

theorem performStore_left {s : State} {k core : Nat} {p : PStore} (hinc : p.incs = []) (hfit : p.l1 = true → p.loc + p.data.length ≤ 2 ^ 42)
    (htag : ∀ a, p.loc ≤ a → a < p.loc + p.data.length → isDram a = true ∨ p.l1 = true → wordTag s (a / 32) = p.tag) :
    StoreLeft core p s (performStore s k core p) := by
  cases hl1 : p.l1 with
  | false =>
    rw [performStore_home hl1 hinc]
    have ht : ∀ a, p.loc ≤ a → a < p.loc + p.data.length → isDram a = true → wordTag s (a / 32) = p.tag :=
      fun a h1 h2 h3 => htag a h1 h2 (.inl h3)
    refine ⟨fun n hn => ?_, fun a ha => .inl ?_, fun c a h42 ha => .inl (writeBytes_l1Byte _ _ _ ht h42 ha)⟩
    · rw [hl1, if_neg Bool.false_ne_true, State.writeBytes_raw _ _ _ ht, if_pos (by omega), Nat.add_sub_cancel_left]
    · rw [State.writeBytes_raw _ _ _ ht, if_neg (by omega)]
  | true =>
    rw [performStore_l1 hl1 hinc]
    obtain ⟨u, hsent, htags, hmem, hu⟩ := writeBytesL1_facts (who := some (k, p.lane)) (core := core) (stream := p.stream) (hfit hl1)
      (fun a h1 h2 => htag a h1 h2 (.inr hl1))
    generalize s.writeBytesL1 (some (k, p.lane)) core p.tag p.loc p.data p.stream = t at hsent
    have hraw : ∀ a, u.rawByte a = s.rawByte a := fun a => congrArg (fun m => Bank.get memDefault m a) hmem
    have hfit' := hfit hl1
    refine ⟨fun n hn => ?_, fun a ha => ?_, fun c a h42 ha => ?_⟩
    · have hin := hu core (p.loc + n) (by omega)
      rw [if_pos ⟨rfl, by omega, by omega⟩, Nat.add_sub_cancel_left] at hin
      have hword : wordTag t ((p.loc + n) / 32) = p.tag :=
        (congrArg (fun b => Bank.get 0 b ((p.loc + n) / 32)) (hsent.tags.trans htags)).trans (htag _ (by omega) (by omega) (.inr hl1))
      rw [if_pos hl1, State.readByte, hword, bne_self_eq_false, Bool.and_false, if_neg Bool.false_ne_true]
      rcases hsent.byte (p.loc + n) (by omega) with ⟨hsame, -⟩ | ⟨hnone, hd | ⟨hd, -⟩⟩
      · rw [hsame, hin]
      · rw [hin] at hd
        rw [hnone]
        exact (Prod.mk.inj (Option.some.inj hd)).2.symm
      · exact absurd hin (hd _)
    · by_cases h42 : a < 2 ^ 42
      · have hout := hu core a h42
        rw [if_neg (by omega)] at hout
        rcases hsent.byte a h42 with ⟨-, hsame⟩ | ⟨hnone, hd | ⟨-, hd⟩⟩
        · exact .inl (hsame.trans (hraw a))
        · exact .inr ⟨hl1, by rw [← hout, hd], hnone⟩
        · exact .inl (hd.trans (hraw a))
      · exact .inl ((hsent.far a (by omega)).trans (hraw a))
    · have hout := hu c a h42
      rw [if_neg (by omega)] at hout
      by_cases hc : c = core
      · subst hc
        rcases hsent.byte a h42 with ⟨hsame, -⟩ | ⟨hnone, -⟩
        · exact .inl (hsame.trans hout)
        · exact .inr ⟨hl1, rfl, hnone⟩
      · exact .inl ((hsent.others c a hc h42).trans hout)

/-- The form of a store names a meaning: the store's, but that a SIGF also checks where its address lies. -/
def StoreMeans (i : Instr) (s : State) (f : StoreForm) : Prop :=
  ∃ m : View → State → Meaning, exec i s = issue i s m ∧ (∀ w t, (m w t).eff =
    (storeMeaning f.size f.kind f.rel f.home (if f.kind.flagOk then .sigf else .write) f.data f.ea w t).eff) ∧
    ∀ w t, (∀ l, inMask w.act l = true → f.suits (f.ea w l) = true ∧ (f.ea w l).toNat % f.size = 0) →
      (storeMeaning f.size f.kind f.rel f.home (if f.kind.flagOk then .sigf else .write) f.data f.ea w t).outs =
        (lanesOf w.act).map (fun l => (l, LaneOut.ok)) → (m w t).outs = (lanesOf w.act).map (fun l => (l, LaneOut.ok))

theorem exec_stores {i : Instr} {f : StoreForm} (h : stores i = some f) (s : State) : StoreMeans i s f := by
  refine of_entry (P := StoreMeans i s) ?_ h
  clear h
  cases i
  case st | stl => exact ⟨_, rfl, fun _ _ => rfl, fun _ _ _ h => h⟩
  case sigf =>
    refine ⟨_, rfl, fun _ _ => rfl, fun w t hs h => ?_⟩
    refine (congrArg (List.map _) h).trans ?_
    rw [List.map_map]
    refine List.map_congr_left fun l hl => ?_
    obtain ⟨hsuits, hal⟩ := hs l ((mem_lanesOf _ _).mp hl)
    rw [Function.comp]
    dsimp only
    rw [if_neg (not_not.mpr hal), if_pos hsuits]
  all_goals exact trivial

/-- Settles O28: a store at its issue, and a plain store performed. -/
theorem stores : Obligations.Stores := by
  unfold Obligations.Stores
  constructor
  · intro i s f place hf hready w hact hroom hlocal hsuits
    obtain ⟨m, hexec, heff, houts⟩ := exec_stores hf s
    have hplaces : ∀ l, inMask w.act l = true → checkAccess (enter i s) w.g l f.kind (f.ea w l) f.size = .ok (place l) :=
      fun l hl => (hlocal l hl).1
    have hal : ∀ l, inMask w.act l = true → (f.ea w l).toNat % f.size = 0 := fun l hl => by
      by_contra h
      exact nomatch (hplaces l hl).symm.trans (ControlTraps.checkAccess_misaligned _ _ _ _ h)
    refine completes_of hexec hready (houts _ _ (fun l hl => ⟨hsuits l hl, hal l hl⟩) (memOuts_local hroom hlocal)) ?_
    rw [heff]
    show (storeMeaning f.size f.kind f.rel f.home _ f.data f.ea w (enter i s)).eff w.act (enter i s) = _
    unfold storeMeaning
    dsimp only
    rw [placesOf_local _ hplaces, sharesOf_local _ _ _ _ _ hplaces, places_ne_nil _ hact, maskOf_places]
    cases f.rel <;> rfl
  · intro c k s o p hfind hbody hdone hgo hinc hlane hfit htag
    obtain ⟨f, hperf⟩ := performOp_single hfind hbody hgo hlane
    have hexec : exec (.storePerformed c k) s = .next ((performStore s c (s.grp c).core p).modGrp c f) := by
      show Host.Outcome.next _ = _
      rw [hfind]
      dsimp only
      rw [hbody]
      dsimp only
      rw [hdone, hperf]
      rfl
    exact ⟨_, hexec, performStore_left hinc hfit htag⟩

/-! ## Atomics (R171, R180, R181) -/

theorem natToBytes_length (n x : Nat) : (natToBytes n x).length = n := by
  induction n generalizing x with
  | zero => rfl
  | succ n ih => rw [natToBytes, List.length_cons, ih]

/-- The form of an atomic gives its meaning. -/
theorem exec_atomics {i : Instr} {f : AtomForm} (h : atomics i = some f) (s : State) :
    exec i s = issue i s (atomMeaning f.wide f.scope f.fn f.kind f.dest f.addr f.x f.e) := by
  refine of_entry (P := fun f : AtomForm => exec i s = issue i s (atomMeaning f.wide f.scope f.fn f.kind f.dest f.addr f.x f.e)) ?_ h
  clear h
  cases i
  case atomTeam | atomCluster | atomDevice | atomFabric | red | atomcas | atomincb => exact Eq.refl (exec _ s)
  all_goals exact trivial

/-- An atomic at a home: the old value, the new one in its bytes, and nothing else (Table 7-7). -/
theorem atomAt_home {s : State} {k core sc size : Nat} {rk : RemoteKind} {l : Nat} {p : Place} {x e : Nat} (hl1 : p.l1 = false)
    (ht : ∀ a, p.loc ≤ a → a < p.loc + size → isDram a = true → wordTag s (a / 32) = p.tag) :
    let r := atomAt s k core sc size rk l p x e
    let old := s.readNat none p.tag p.loc size
    r.2 = old ∧
    (∀ n, n < size → r.1.rawByte (p.loc + n) =
      (natToBytes size (remoteOp (8 * size) rk (BitVec.ofNat _ old) (BitVec.ofNat _ x) (BitVec.ofNat _ e)).toNat).getD n 0) ∧
    (∀ a, a < p.loc ∨ p.loc + size ≤ a → r.1.rawByte a = s.rawByte a) := by
  intro r old
  let d := natToBytes size (remoteOp (8 * size) rk (BitVec.ofNat _ old) (BitVec.ofNat _ x) (BitVec.ofNat _ e)).toNat
  have hr : r = (s.writeBytes (some (k, l)) (some core) p.tag p.loc d, old) := by
    show atomAt s k core sc size rk l p x e = _
    unfold atomAt
    rw [hl1]
    rfl
  have hlen : d.length = size := natToBytes_length ..
  have hraw := State.writeBytes_raw (some (k, l)) (some core) d (by rw [hlen]; exact ht)
  rw [hlen] at hraw
  refine ⟨by rw [hr], fun n hn => ?_, fun a ha => ?_⟩
  · rw [hr, hraw, if_pos (by omega), Nat.add_sub_cancel_left]
  · rw [hr, hraw, if_neg (by omega)]

/-- Settles O29: an atomic at its issue, and one lane's atomic at a home. -/
theorem atomics : Obligations.Atomics := by
  unfold Obligations.Atomics
  refine ⟨?_, fun s k core sc size rk l p x e hl1 ht => atomAt_home hl1 ht⟩
  intro i s f place hf hready w ea k hact hroom hlocal hwaits
  have hplaces : ∀ l, inMask w.act l = true → checkAccess (enter i s) w.g l k (ea l) f.size = .ok (place l) := fun l hl => (hlocal l hl).1
  refine completes_of (exec_atomics hf s) hready ?_ ?_
  · show ((memOuts (enter i s) w (if f.dest.isSome then .ld else .st) k true false f.size ea).map
      (fun o => if o.2 = .ok ∧ atomWaits (enter i s) w k f.size ea o.1 then (o.1, LaneOut.wait) else o)) = _
    rw [memOuts_local hroom hlocal, List.map_map]
    refine List.map_congr_left fun l hl => ?_
    rw [Function.comp, hwaits l ((mem_lanesOf _ _).mp hl), if_neg fun h => Bool.false_ne_true h.2]
  · show (atomMeaning f.wide f.scope f.fn f.kind f.dest f.addr f.x f.e w (enter i s)).eff w.act (enter i s) = _
    unfold atomMeaning
    dsimp only
    rw [show (if f.wide then 8 else 4) = f.size from rfl, placesOf_local _ hplaces, sharesOf_local _ _ _ _ _ hplaces, places_ne_nil _ hact, maskOf_places]
    cases f.dest <;> rfl

end Sys2Proof.MemorySync


/-! PROOFS. What reads, writes, releases and acquires of memory leave alone: all but the stores, the caches and each group's operations and
noted conflicts. -/
namespace Sys2Proof.MemoryWork
open Sys2Proof.Machine

/-- A group after work in memory: its operations may have gone on and its fences have noted a conflict. -/
structure GrpWorked (g h : Grp) : Prop where
  rest : h = { g with ops := h.ops, fences := h.fences }
  ids  : h.fences.map (·.id) = g.fences.map (·.id)

/-- A state after work in memory. -/
structure Worked (s t : State) : Prop where
  rest : t = { s with mem := t.mem, l1 := t.l1, streams := t.streams, l2 := t.l2, poison := t.poison, tags := t.tags, grps := t.grps }
  grps : ∀ c, GrpWorked (s.grp c) (t.grp c)

theorem GrpWorked.refl (g : Grp) : GrpWorked g g := ⟨rfl, rfl⟩
theorem GrpWorked.trans {a b c : Grp} (h : GrpWorked a b) (h' : GrpWorked b c) : GrpWorked a c where
  rest := by rw [h'.rest, h.rest]
  ids := h'.ids.trans h.ids
theorem GrpWorked.of_ops (g : Grp) (ops : List PendOp) : GrpWorked g { g with ops := ops } := ⟨rfl, rfl⟩
theorem GrpWorked.lanes {g h : Grp} (hw : GrpWorked g h) (l : Nat) : h.lane l = g.lane l := by rw [hw.rest]; rfl

theorem GrpWorked.ite {g a b : Grp} (p : Prop) [Decidable p] (ha : GrpWorked g a) (hb : GrpWorked g b) : GrpWorked g (if p then a else b) := by
  split
  · exact ha
  · exact hb
theorem fixLoads_worked (g : Grp) (hit : Nat → LPart → Bool) : GrpWorked g (g.fixLoads hit) := .of_ops _ _
theorem setOp_worked (g : Grp) (o : PendOp) : GrpWorked g (g.setOp o) := .of_ops _ _
theorem finishOp_worked (g : Grp) (id : Nat) : GrpWorked g (g.finishOp id) := .of_ops _ _

theorem Worked.refl (s : State) : Worked s s := ⟨rfl, fun _ => .refl _⟩
theorem Worked.trans {a b c : State} (h : Worked a b) (h' : Worked b c) : Worked a c where
  rest := by rw [h'.rest, h.rest]
  grps k := (h.grps k).trans (h'.grps k)
theorem Worked.foldl {α : Type} {f : State → α → State} (hf : ∀ s x, Worked s (f s x)) (l : List α) (s : State) : Worked s (l.foldl f s) := by
  induction l generalizing s with
  | nil => exact .refl s
  | cons x r ih => exact (hf s x).trans (ih _)
theorem Worked.ite {s t u : State} (p : Prop) [Decidable p] (ht : Worked s t) (hu : Worked s u) : Worked s (if p then t else u) := by
  split
  · exact ht
  · exact hu
theorem Worked.of_stores (s : State) {t : State} (h : t = { s with
      mem := t.mem, l1 := t.l1, streams := t.streams, l2 := t.l2, poison := t.poison, tags := t.tags }) : Worked s t where
  rest := by rw [h]
  grps c := by rw [h]; exact .refl _

theorem Worked.deques {s t : State} (h : Worked s t) : t.deques = s.deques := by rw [h.rest]
theorem Worked.deque {s t : State} (h : Worked s t) (core : Nat) : t.deque core = s.deque core := by rw [h.rest]; rfl
theorem Worked.lane {s t : State} (h : Worked s t) (c l : Nat) : (t.grp c).lane l = (s.grp c).lane l := (h.grps c).lanes l

/-- A group read from a bank whose groups have all been worked on. -/
theorem get_map_worked (F : Nat × Grp → Nat × Grp) (hkey : ∀ e, (F e).1 = e.1) (hF : ∀ e, GrpWorked e.2 (F e).2) (b : Bank Grp) (c : Nat) :
    GrpWorked (Bank.get {} b c) (Bank.get {} (b.map F) c) := by
  induction b with
  | nil => exact .refl _
  | cons e r ih =>
    rw [List.map_cons]
    show GrpWorked (if e.1 = c then e.2 else Bank.get {} r c) (if (F e).1 = c then (F e).2 else Bank.get {} (r.map F) c)
    rw [hkey]
    split
    · exact hF e
    · exact ih

theorem modGrp_worked (s : State) (k : Nat) (f : Grp → Grp) (hf : GrpWorked (s.grp k) (f (s.grp k))) : Worked s (s.modGrp k f) where
  rest := rfl
  grps c := by
    by_cases hc : c = k
    · subst hc
      rw [State.grp_modGrp]
      exact hf
    · rw [State.grp_modGrp_other s f hc]
      exact .refl _

/-! ## The caches -/

theorem noted_worked (s : State) (who : Option (Nat × Nat)) (sectors : List Nat) : Worked s (s.noted who sectors) := by
  unfold State.noted
  split
  · refine ⟨rfl, fun c => get_map_worked _ (fun e => ?_) (fun e => ?_) s.grps c⟩
    · split <;> rfl
    · split
      · exact .refl _
      · refine ⟨rfl, ?_⟩
        rw [List.map_map]
        refine List.map_congr_left fun f _ => ?_
        rw [Function.comp_apply]
        split <;> rfl
  · exact .refl s
theorem coverChains_worked (s : State) (hit : Nat → Bool) : Worked s (s.coverChains hit) := by
  unfold State.coverChains
  split
  · exact .refl s
  · refine ⟨rfl, fun c => get_map_worked _ (fun e => ?_) (fun e => ?_) s.grps c⟩
    · rfl
    · exact .of_ops _ _
theorem dirtyL2_worked (s : State) (sectors : List Nat) : Worked s (s.dirtyL2 sectors) := .of_stores s (by rw [State.dirtyL2_rest])
theorem flushByte_worked (s : State) (core loc : Nat) : Worked s (s.flushByte core loc) := by
  unfold State.flushByte
  split <;> exact .of_stores s rfl
theorem flushLocs_worked (s : State) (core : Nat) (locs : List Nat) : Worked s (s.flushLocs core locs) := by
  unfold State.flushLocs
  refine .ite _ (.refl s) ?_
  refine Worked.trans ?_ (noted_worked _ none _)
  refine Worked.trans ?_ (.of_stores _ rfl)
  refine Worked.trans ?_ (Worked.foldl (fun s l => flushByte_worked s core l) locs _)
  exact (coverChains_worked s _).trans (dirtyL2_worked _ _)
theorem flushCore_worked (s : State) (core : Nat) : Worked s (s.flushCore core) := flushLocs_worked s core _
theorem flushSector_worked (s : State) (core sector : Nat) : Worked s (s.flushSector core sector) := flushLocs_worked s core _
theorem flushSectorAll_worked (s : State) (sector : Nat) : Worked s (s.flushSectorAll sector) :=
  Worked.foldl (fun s c => flushSector_worked s c sector) _ s
theorem dropLocs_worked (s : State) (core : Nat) (locs : List Nat) : Worked s (s.dropLocs core locs) := by
  unfold State.dropLocs
  refine .ite _ (.refl s) (Worked.trans (Worked.foldl (fun s l => ?_) locs s) (noted_worked _ none _))
  split
  · exact .of_stores s rfl
  · exact .refl s
theorem fitL1_worked (s : State) (core : Nat) : Worked s (s.fitL1 core) :=
  .ite _ (.refl s) (.ite _ (.refl s) (flushSector_worked s core _))
theorem releaseAt_worked (s : State) (core scope : Nat) : Worked s (releaseAt s core scope) :=
  .ite _ (flushCore_worked s core) (.refl s)
theorem acquireAt_worked (s : State) (core scope : Nat) : Worked s (acquireAt s core scope) :=
  .ite _ (dropLocs_worked s core _) (.refl s)

/-! ## Reads and writes -/

theorem setRaws_worked {α : Type} (at_ : α → Nat) (b : α → Byte) (l : List α) (s : State) :
    Worked s (l.foldl (fun s x => s.setRaw (at_ x) (b x)) s) := Worked.foldl (fun s _ => .of_stores s rfl) l s
theorem retag_worked (s : State) (tag w : Nat) : Worked s (s.retag tag w) := by
  unfold State.retag
  refine .ite _ (.refl s) ?_
  refine (flushSectorAll_worked s (w / 8)).trans ?_
  refine Worked.trans (setRaws_worked (fun i => w * 32 + i) (byteOf _) (List.range 32) _) (.of_stores _ rfl)
theorem writeByte_worked (s : State) (core : Option Nat) (tag loc : Nat) (b : Byte) : Worked s (s.writeByte core tag loc b) := by
  unfold State.writeByte
  refine .ite _ ?_ (.of_stores s rfl)
  refine (retag_worked s tag (loc / 32)).trans (Worked.trans ?_ (.of_stores _ rfl))
  split
  · exact .ite _ (.of_stores _ rfl) (.refl _)
  · exact .refl _
theorem writeBytes_worked (s : State) (who : Option (Nat × Nat)) (core : Option Nat) (tag loc : Nat) (d : List Byte) :
    Worked s (s.writeBytes who core tag loc d) := by
  unfold State.writeBytes
  refine Worked.trans ?_ (noted_worked _ who _)
  refine Worked.trans ?_ (coverChains_worked _ _)
  refine Worked.trans ?_ (dirtyL2_worked _ _)
  exact Worked.trans (Worked.foldl (fun s x => writeByte_worked s core tag _ _) _ s) (.of_stores _ rfl)
theorem writeL1_worked (s : State) (core tag loc : Nat) (b : Byte) : Worked s (s.writeL1 core tag loc b) :=
  (retag_worked s tag _).trans (.of_stores _ rfl)
theorem writeBytesL1_worked (s : State) (who : Option (Nat × Nat)) (core tag loc : Nat) (d : List Byte) (stream : Bool) :
    Worked s (s.writeBytesL1 who core tag loc d stream) := by
  unfold State.writeBytesL1
  refine Worked.trans ?_ (fitL1_worked _ core)
  refine Worked.trans ?_ (noted_worked _ who _)
  refine Worked.trans ?_ (coverChains_worked _ _)
  have hbytes : Worked s (d.zipIdx.foldl (fun s x => s.writeL1 core tag (loc + x.2) x.1) s) :=
    Worked.foldl (fun s x => writeL1_worked s core tag _ _) _ s
  exact hbytes.trans (Worked.trans (.ite _ (.refl _) (.of_stores _ rfl)) (.of_stores _ rfl))
theorem stepWord_worked (s : State) (who : Nat × Nat) (core tag loc : Nat) (f : Dword → Dword) : Worked s (stepWord s who core tag loc f) :=
  (flushSector_worked s core _).trans (writeBytes_worked _ _ _ _ _ _)

/-! ## Stores and releases -/

theorem performStore_worked (s : State) (k core : Nat) (p : PStore) : Worked s (performStore s k core p) := by
  unfold performStore
  refine Worked.trans ?_ (Worked.foldl (fun s x => stepWord_worked s _ core _ _ _) p.incs _)
  exact .ite _ (writeBytesL1_worked ..) (writeBytes_worked ..)
theorem storesPerformed_worked (g : Grp) (hit : Nat → LPart → Bool) (o : PendOp) (id : Nat) (released empty : Bool) :
    GrpWorked g (if empty then ((if released then g.fixLoads hit else g).setOp o).finishOp id else (if released then g.fixLoads hit else g).setOp o) :=
  have hset := (GrpWorked.ite (released = true) (fixLoads_worked g hit) (.refl g)).trans (setOp_worked _ o)
  .ite _ (hset.trans (finishOp_worked _ id)) hset
theorem performWhere_worked (s : State) (k id : Nat) (pick : PStore → Bool) : Worked s (performWhere s k id pick) := by
  unfold performWhere
  dsimp only
  split
  · split
    · refine Worked.trans (Worked.trans ?_ (Worked.foldl (fun s p => performStore_worked s k _ p) _ _)) (modGrp_worked _ k _ ?_)
      · exact .ite _ (flushCore_worked s _) (.refl s)
      · exact storesPerformed_worked _ _ _ _ _ _
    · exact .refl s
  · exact .refl s
theorem drainStores_worked (s : State) (k : Nat) (m : Word) : Worked s (drainStores s k m) :=
  Worked.foldl (fun s id => performWhere_worked s k id _) _ s
theorem releaseLanes_worked (s : State) (k : Nat) (m : Word) : Worked s (releaseLanes s k m) :=
  (drainStores_worked s k m).trans (modGrp_worked _ k _ (fixLoads_worked _ _))

end Sys2Proof.MemoryWork


/-! PROOFS. Chapter 7: fences that run ahead. -/
namespace Sys2Proof.FenceProofs
open Sys2Proof.Machine Sys2Proof.Claims Sys2Proof.MemoryWork

/-! ## The fence a word begins -/

theorem fence_makes {u : Bool} {sc : BitVec 4} {p : BitVec 3} {s : State} (hready : ready (.fence u sc p) s = true)
    (hremote : ∀ l, inMask (viewOf (.fence u sc p) s).act l = true → noRemote (viewOf (.fence u sc p) s).g (laneBit l) = true) :
    makes (.fence u sc p) s (if (viewOf (.fence u sc p) s).act = 0 then (viewOf (.fence u sc p) s).g else
      { (viewOf (.fence u sc p) s).g.drainQueued with
        fences := (viewOf (.fence u sc p) s).g.fences ++ [newFence (viewOf (.fence u sc p) s).g.drainQueued sc.toNat
          (viewOf (.fence u sc p) s).pc (viewOf (.fence u sc p) s).act]
        nextOp := (viewOf (.fence u sc p) s).g.nextOp + 1 }) := by
  have houts : (lanesOf (viewOf (.fence u sc p) s).act).map (fun l =>
      (l, if noRemote (viewOf (.fence u sc p) s).g (laneBit l) then LaneOut.ok else .wait)) =
      (acting (.fence u sc p) s).map (fun l => (l, LaneOut.ok)) :=
    MemorySync.outs_ok fun l hl => if_pos (hremote l hl)
  refine ⟨_, issue_ready _ s _ hready houts, ?_⟩
  dsimp only
  split
  · exact leaves_enter _ s
  · exact leaves_modGrp _ s _

/-! ## The fences of a group -/

theorem findFence_none_iff (g : Grp) (k : Nat) : g.findFence k = none ↔ k ∉ g.fences.map (·.id) := by
  unfold Grp.findFence
  rw [List.find?_eq_none, List.mem_map]
  simp
theorem findFence_worked {g h : Grp} (hw : GrpWorked g h) {k : Nat} (hg : g.findFence k = none) : h.findFence k = none := by
  rw [findFence_none_iff] at hg ⊢
  rwa [hw.ids]
theorem dropFence_findFence (g : Grp) (k : Nat) : (g.dropFence k).findFence k = none := by
  rw [findFence_none_iff, Grp.dropFence]
  simp
theorem findFence_id {g : Grp} {k : Nat} {f : Fence} (h : g.findFence k = some f) : f.id = k := by
  simpa using List.find?_some h

/-! ## The samples a fence held back -/

/-- Group c of t is that of s but for its samples, and only contexts differ beside. -/
theorem traceAdds_rest (id : Nat) (recs : List (Option Nat × List Byte)) (f : Option Nat × List Byte → List Byte) (s : State) :
    ∃ cs, recs.foldl (fun s x => s.traceAdd id (f x)) s = { s with ctxs := cs } := by
  induction recs generalizing s with
  | nil => exact ⟨s.ctxs, rfl⟩
  | cons x r ih =>
    obtain ⟨cs, h⟩ := State.traceAdd_ctxs s id (f x)
    obtain ⟨cs', h'⟩ := ih { s with ctxs := cs }
    exact ⟨cs', by rw [List.foldl_cons, h, h']⟩
theorem releaseSamples_rest (s : State) (c id : Nat) (undone : Bool) : ∃ cs xs, (releaseSamples s c id undone).grp c = { s.grp c with samples := xs } ∧
    releaseSamples s c id undone = { s with ctxs := cs, grps := (releaseSamples s c id undone).grps } := by
  unfold releaseSamples
  dsimp only
  split
  · exact ⟨s.ctxs, (s.grp c).samples, rfl, rfl⟩
  · obtain ⟨cs, h⟩ := traceAdds_rest (s.grp c).ctxid ((s.grp c).samples.filter (fun x => x.1 == some id))
      (fun x => if undone then x.2.set 3 (x.2.getD 3 0 ||| 1) else x.2)
      (s.setGrp c { s.grp c with samples := (s.grp c).samples.filter (fun x => x.1 != some id) })
    rw [h]
    exact ⟨cs, _, State.grp_setGrp s c _, rfl⟩

/-! ## Completion -/

theorem completeFence_findFence (s : State) (c : Nat) (f : Fence) : ((completeFence s c f).grp c).findFence f.id = none := by
  unfold completeFence
  refine findFence_worked (((releaseAt_worked _ _ _).trans (acquireAt_worked _ _ _)).grps c) ?_
  obtain ⟨-, xs, h, -⟩ := releaseSamples_rest (s.modGrp c (fun g =>
    (g.dropFence f.id).modLanes (f.lanes.map (·.lane)) (fun _ x => { x with held := x.held && g.tlanes != 0 }))) c f.id false
  rw [h, State.grp_modGrp, Grp.modLanes_rest]
  exact dropFence_findFence (s.grp c) f.id

theorem fenceCompletion_exec {s : State} {c k : Nat} {f f' : Fence} (hfind : (s.grp c).findFence k = some f) (hconf : f.conflict = false)
    (hfence : fenceReady (s.grp c) f = true) (howed : owedTo (settleFor s (s.grp c) f.scope) (s.grp c) f.scope = [])
    (hfind' : ((settleFor s (s.grp c) f.scope).grp c).findFence k = some f') (hconf' : f'.conflict = false) :
    exec (.fenceCompletion c k) s = .next (completeFence (settleFor s (s.grp c) f.scope) c f') := by
  show execFenceCompletion c k s = _
  unfold execFenceCompletion
  simp only [hfind, hconf, hfence, howed, hfind', hconf']
  rfl

/-! ## Rollback -/

theorem retireList_mem (l : List PendOp) (b : List Cls) : ∀ o ∈ retireList l b, o ∈ l := by
  induction l generalizing b with
  | nil => exact fun _ h => h
  | cons a r ih =>
    intro o ho
    unfold retireList at ho
    split at ho
    · exact List.mem_cons_of_mem _ (ih _ o ho)
    · rcases List.mem_cons.mp ho with rfl | ho
      · exact List.mem_cons_self ..
      · exact List.mem_cons_of_mem _ (ih _ o ho)
theorem retireList_keeps (l : List PendOp) (b : List Cls) {o : PendOp} (ho : o ∈ l) (hdone : o.done = false) : o ∈ retireList l b := by
  induction l generalizing b with
  | nil => cases ho
  | cons a r ih =>
    unfold retireList
    rcases List.mem_cons.mp ho with rfl | ho
    · rw [hdone]
      exact List.mem_cons_self ..
    · split
      · exact ih _ ho
      · exact List.mem_cons_of_mem _ (ih _ ho)

theorem dropSpec_id (f : Fence) (o : PendOp) : (f.dropSpec o).id = o.id := by
  unfold Fence.dropSpec
  split <;> rfl
theorem dropSpec_other {f : Fence} {o : PendOp} (h : o.id ∉ f.specOps) : f.dropSpec o = o := by
  unfold Fence.dropSpec
  rw [if_pos]
  simpa using h
/-- Nothing of the fence's lanes is left in an operation issued past it. -/
theorem dropSpec_body {f : Fence} {o : PendOp} (h : o.id ∈ f.specOps) : match (f.dropSpec o).body with
    | .load ps => ∀ p ∈ ps, inMask f.mask p.lane = false
    | .store ps _ => ∀ p ∈ ps, inMask f.mask p.lane = false
    | _ => True := by
  unfold Fence.dropSpec
  rw [if_neg (by simpa using h)]
  cases o.body with
  | load ps => exact fun p hp => by simpa using (List.mem_filter.mp hp).2
  | store ps rel => exact fun p hp => by simpa using (List.mem_filter.mp hp).2
  | _ => trivial

theorem get_filter {α : Type} (d : α) (q : Nat → Bool) (b : Bank α) (j : Nat) :
    Bank.get d (b.filter (fun e => q e.1)) j = if q j then Bank.get d b j else d := by
  induction b with
  | nil => rw [List.filter_nil, Bank.get_nil, ite_self]
  | cons e r ih =>
    have hcons : Bank.get d (e :: r) j = if e.1 = j then e.2 else Bank.get d r j := rfl
    rw [List.filter_cons, hcons]
    by_cases he : q e.1 = true
    · rw [if_pos he]
      show (if e.1 = j then e.2 else Bank.get d _ j) = _
      rw [ih]
      by_cases hj : e.1 = j
      · rw [if_pos hj, if_pos hj, if_pos (hj ▸ he)]
      · rw [if_neg hj, if_neg hj]
    · rw [if_neg he, ih]
      by_cases hj : e.1 = j
      · rw [if_neg (hj ▸ he), if_neg (hj ▸ he)]
      · rw [if_neg hj]

/-- The registers of the lanes q back as `ds` has them, one write after another. -/
theorem get_foldl_setIf (q : Nat → Bool) (ds : Bank Word) (v : Bank Word) (j : Nat) :
    Bank.get 0 (ds.foldl (fun v e => if q e.1 then Bank.set 0 v e.1 e.2 else v) v) j =
      if q j then ds.foldl (fun x e => if e.1 = j then e.2 else x) (Bank.get 0 v j) else Bank.get 0 v j := by
  induction ds generalizing v with
  | nil => exact (ite_self _).symm
  | cons e r ih =>
    rw [List.foldl_cons, List.foldl_cons, ih]
    by_cases hj : e.1 = j
    · subst hj
      by_cases hq : q e.1 = true
      · rw [if_pos hq, if_pos hq, if_pos hq, if_pos rfl, Bank.get_set_same]
      · rw [if_neg hq, if_neg hq, if_neg hq]
    · have hget : Bank.get 0 (if q e.1 then Bank.set 0 v e.1 e.2 else v) j = Bank.get 0 v j := by
        split
        · exact Bank.get_set_other 0 v e.2 (Ne.symm hj)
        · rfl
      rw [hget, if_neg hj]

theorem rolledBack_v (f : Fence) (v : Bank Word) (j : Nat) :
    Bank.get 0 (f.regs.foldl (fun v (e : Nat × Word) => if inMask f.mask (e.1 % 32) then Bank.set 0 v e.1 e.2 else v)
      (v.filter (fun (e : Nat × Word) => !inMask f.mask (e.1 % 32)))) j =
    if inMask f.mask (j % 32) then f.regs.foldl (fun x e => if e.1 = j then e.2 else x) 0 else Bank.get 0 v j := by
  rw [get_foldl_setIf (fun n => inMask f.mask (n % 32)), get_filter 0 (fun n => !inMask f.mask (n % 32))]
  by_cases h : inMask f.mask (j % 32) = true
  · rw [if_pos h, if_pos h, h]
    rfl
  · rw [if_neg h, if_neg h, Bool.eq_false_iff.mpr h]
    rfl

theorem foldl_fenceLane (F : FenceLane → Lane → Lane) (ls : List FenceLane) (g : Grp) :
    ls.foldl (fun g x => g.modLane x.lane (F x)) g = g.put g.v (ls.foldl (fun g x => g.modLane x.lane (F x)) g).lanes := by
  induction ls generalizing g with
  | nil => rfl
  | cons a r ih => rw [List.foldl_cons, ih, Grp.modLane_rest g]; rfl
theorem lane_foldl_out (F : FenceLane → Lane → Lane) (ls : List FenceLane) (g : Grp) {l : Nat} (h : l ∉ ls.map (·.lane)) :
    (ls.foldl (fun g x => g.modLane x.lane (F x)) g).lane l = g.lane l := by
  induction ls generalizing g with
  | nil => rfl
  | cons a r ih =>
    rw [List.map_cons, List.mem_cons, not_or] at h
    rw [List.foldl_cons, ih _ h.2, Grp.lane_modLane, if_neg h.1]
theorem lane_foldl_in (F : FenceLane → Lane → Lane) {ls : List FenceLane} (hnd : (ls.map (·.lane)).Nodup) (g : Grp) {x : FenceLane} (hx : x ∈ ls) :
    (ls.foldl (fun g x => g.modLane x.lane (F x)) g).lane x.lane = F x (g.lane x.lane) := by
  induction ls generalizing g with
  | nil => cases hx
  | cons a r ih =>
    rw [List.map_cons, List.nodup_cons] at hnd
    obtain ⟨ha, hr⟩ := hnd
    rw [List.foldl_cons]
    rcases List.mem_cons.mp hx with rfl | hx
    · rw [lane_foldl_out F r _ ha, Grp.lane_modLane, if_pos rfl]
    · have hne : x.lane ≠ a.lane := fun hc => ha (hc ▸ List.mem_map_of_mem hx)
      rw [ih hr _ hx, Grp.lane_modLane, if_neg hne]

/-- What a rollback makes of its group, each part by itself. -/
theorem rollbackFence_parts (g : Grp) (f : Fence) : ∃ b q,
    rollbackFence g f = { g with
      v := f.regs.foldl (fun v (e : Nat × Word) => if inMask f.mask (e.1 % 32) then Bank.set 0 v e.1 e.2 else v)
        (g.v.filter (fun (e : Nat × Word) => !inMask f.mask (e.1 % 32)))
      sfq := q, queues := f.queues, part := f.part, lanes := b
      fences := g.fences.filter (fun x => x.id != f.id)
      ops := retireList (g.ops.map f.dropSpec) [] } ∧
    (∀ l, l ∉ f.lanes.map (·.lane) → Bank.get {} b l = g.lane l) ∧
    ((f.lanes.map (·.lane)).Nodup → ∀ x ∈ f.lanes, Bank.get {} b x.lane = backToFence f x (g.lane x.lane)) := by
  let h : Grp := { g with
    v := f.regs.foldl (fun v (e : Nat × Word) => if inMask f.mask (e.1 % 32) then Bank.set 0 v e.1 e.2 else v)
      (g.v.filter (fun (e : Nat × Word) => !inMask f.mask (e.1 % 32)))
    sfq := (g.sfq.map (fun (q : QueuedResult) =>
      (⟨q.keys.filter (fun (e : Nat × Word) => !inMask f.mask (e.1 % 32))⟩ : QueuedResult))).filter (fun q => !q.keys.isEmpty)
    queues := f.queues, part := f.part
    ops := g.ops.map f.dropSpec }
  refine ⟨(f.lanes.foldl (fun (g : Grp) (x : FenceLane) => g.modLane x.lane (backToFence f x)) h).lanes, h.sfq, ?_, fun l hl => lane_foldl_out (backToFence f) f.lanes h hl,
    fun hnd x hx => lane_foldl_in (backToFence f) hnd h hx⟩
  show ((f.lanes.foldl (fun g x => g.modLane x.lane (backToFence f x)) h).dropFence f.id).retireOps = _
  rw [foldl_fenceLane]
  rfl

/-- Settles O31: the fence a word records, what completes it, and what a conflict puts back. -/
theorem fences : Obligations.Fences := by
  unfold Obligations.Fences
  refine ⟨?_, fun c k s f hfind => ⟨?_, fun hconf hnd => ?_⟩⟩
  · intro u sc p s hready w hremote
    exact fence_makes hready hremote
  · intro f' hconf hfence t howed hfind' hconf'
    refine ⟨fenceCompletion_exec hfind hconf hfence howed hfind' hconf', ?_⟩
    rw [← findFence_id hfind']
    exact completeFence_findFence t c f'
  · obtain ⟨cs, xs, hgrp, hrest⟩ := releaseSamples_rest s c f.id true
    obtain ⟨b, q, hroll, hout, hin⟩ := rollbackFence_parts ((releaseSamples s c f.id true).grp c) f
    have ht : (undoFence s c f).grp c = rollbackFence ((releaseSamples s c f.id true).grp c) f := State.grp_modGrp _ c _
    rw [hroll] at ht
    rw [hgrp] at ht hout hin
    have hexec : exec (.fenceConflictRollback c k) s = .next (undoFence s c f) := by
      show execFenceConflictRollback c k s = _
      unfold execFenceConflictRollback
      simp only [hfind, hconf, if_true]
    refine ⟨undoFence s c f, hexec, ?_⟩
    rw [ht]
    refine ⟨?_, hin hnd, hout, ?_, ?_, fun j => rolledBack_v f _ j, ?_, ?_, rfl, rfl⟩
    · rw [← findFence_id hfind]
      exact dropFence_findFence (s.grp c) f.id
    · unfold undoFence
      rw [State.modGrp_rest, hrest]
    · unfold undoFence
      rw [State.modGrp_rest, hrest]
    · intro o ho hspec
      obtain ⟨o', -, rfl⟩ := List.mem_map.mp (retireList_mem _ _ o ho)
      rw [dropSpec_id] at hspec
      exact dropSpec_body hspec
    · intro o ho hspec hdone
      exact retireList_keeps _ _ (List.mem_map.mpr ⟨o, ho, dropSpec_other hspec⟩) hdone

end Sys2Proof.FenceProofs


/-! PROOFS. The machine as a whole: reset, the words written out, and the instruction a step runs. -/
namespace Sys2Proof.WholeMachine
open Sys2Proof.Machine Sys2Proof.Claims

/-! ## Reset (R389) -/

theorem reset_cycleOf (core : Nat) : State.reset.cycleOf core = 0 := by
  show (List.replicate 128 (0 : Dword)).getD core 0 = 0
  rw [List.getD_eq_getElem?_getD, List.getElem?_replicate]
  split <;> rfl

theorem reset_qp_enabled : ∀ q, (State.reset.qp q).enabled = decide (q < 2)
  | 0 => rfl
  | 1 => rfl
  | q + 2 => by simp [State.reset, State.qp, Bank.get]

/-- Settles O54: every bank of the reset state is empty but the queue pairs', whose two entries are enabled. -/
theorem resetState : Obligations.ResetState := by
  unfold Obligations.ResetState
  exact ⟨reset_mem_wf, fun _ => rfl, fun _ _ => rfl, reset_cycleOf, rfl, fun _ => rfl, fun _ => rfl, fun _ => rfl, fun _ => rfl,
    reset_qp_enabled, rfl, rfl, rfl, rfl⟩

/-! ## Words and steps -/

/-- Settles O58: the decoder evaluates on each of the five words. -/
theorem writtenWords : Obligations.WrittenWords := by
  unfold Obligations.WrittenWords
  exact ⟨rfl, rfl, rfl, rfl, rfl⟩

/-- No arm of `exec` stops: each, a word's `issue` as well as an event's state, is a next state. -/
theorem exec_answers (i : Instr) (s : State) : ∃ t, exec i s = .next t := by
  cases i <;> exact ⟨_, rfl⟩

theorem step_done {s t : State} (h : stepDoing s = .done t) : step s = .next t := by simp [step, h]
theorem step_run {s t : State} {i : Instr} (h : stepDoing s = .run i t) : step s = exec i t := by simp [step, h]

/-- Settles O56: a step is a state or an instruction executed, and every instruction answers a next state. -/
theorem everyStepAnswers : Obligations.EveryStepAnswers := by
  unfold Obligations.EveryStepAnswers
  refine ⟨exec_answers, fun s => ?_⟩
  cases h : stepDoing s with
  | done t => exact ⟨t, step_done h⟩
  | run i t => exact step_run h ▸ exec_answers i t

/-! ### What a step comes to -/

theorem inGroup_idle {s : State} (h : s.cur.lanes = 0) : inGroup s = false := by simp [inGroup, h]

theorem stepDoing_agenda {s : State} {x : Turn} {rest : List Turn} (hcur : s.cur.lanes = 0) (hag : s.agenda = x :: rest) :
    stepDoing s = turnOf { passTime s with agenda := rest } x := by
  have hg : inGroup (passTime s) = false := inGroup_idle hcur
  have hn : nextTurn (passTime s) s.tick = (x, { passTime s with agenda := rest }) := by
    unfold nextTurn
    rw [show (passTime s).agenda = x :: rest from hag]
  simp only [stepDoing, hg, hn]
  rfl

theorem stepDoing_group {s : State} (hcur : s.cur.lanes ≠ 0) (hdead : s.mgmt.dead = false) (hask : s.mgmt.asked = none) :
    stepDoing s = fetchTurn (passTime s) := by
  have hg : inGroup (passTime s) = true := by
    simp [inGroup, show (passTime s).cur = s.cur from rfl, show (passTime s).mgmt = s.mgmt from rfl, hdead, hask]; exact hcur
  simp [stepDoing, hg]

theorem turnOf_event {s : State} {i : Instr} (h : answers s.mgmt i = true) :
    turnOf s (.event i) = .run i ((commandPair i).elim s (endAhead s)) := if_pos h

theorem turnOf_lanes {s : State} (hdead : s.mgmt.dead = false) (hask : s.mgmt.asked = none) (k : Nat) (m : Word) :
    turnOf s (.lanes k m) = lanesTurn s k m := by simp [turnOf, hdead, hask]

theorem turnOf_seq {s : State} (hdead : s.mgmt.dead = false) (hask : s.mgmt.asked = none) {j : Nat} (hj : j < 32) :
    turnOf s (.seq j) = seqTurn s j := by simp [turnOf, hdead, hask, hj]

/-- Lanes with nothing before their word fetch it. -/
theorem lanesTurn_fetches {s : State} {k : Nat} {m : Word} (hok : laneTurnOk (s.grp k) m = true)
    (hev : (eventPending s k && atEventBoundary (s.grp k)) = false) (hkept : keptForEvent s k m = false)
    (hfront : frontTrap s k m ((s.grp k).lane ((lowest m).getD 0)).pc = none)
    (hbrk : breakLanes (s.grp k) m ((s.grp k).lane ((lowest m).getD 0)).pc
      (groupLen s (s.grp k) ((s.grp k).lane ((lowest m).getD 0)).pc) = none) :
    lanesTurn s k m = fetchTurn { s with cur := { key := k, lanes := m, pc := ((s.grp k).lane ((lowest m).getD 0)).pc } } := by
  simp [lanesTurn, hok, hev, hkept, hfront, hbrk]

/-- The first word of an issue stands at its PC. -/
theorem fetchWord_first {s : State} {x : Fetched} (hpos : s.cur.pos = 0) (h : fetchWord s (s.grp s.cur.key) s.cur.pc = x) :
    fetchWord s (s.grp s.cur.key) (s.cur.pc + BitVec.ofNat 64 (4 * s.cur.pos)) = x := by
  rw [hpos, show BitVec.ofNat 64 (4 * 0) = 0#64 from rfl, BitVec.add_zero]
  exact h

/-- A word fetched that decodes is run, in the state with it in progress and its lanes' TAKE left. -/
theorem fetchTurn_runs {s : State} {w : Word} {i : Instr}
    (hf : fetchWord s (s.grp s.cur.key) (s.cur.pc + BitVec.ofNat 64 (4 * s.cur.pos)) = .word w) (hd : decodeMarred w = some (i, {})) :
    fetchTurn s = .run i (leaveTakes { s with cur := { s.cur with word := w } } (some i)) := by
  simp [fetchTurn, hf, hd]

theorem fetchTurn_undecoded {s : State} {w : Word}
    (hf : fetchWord s (s.grp s.cur.key) (s.cur.pc + BitVec.ofNat 64 (4 * s.cur.pos)) = .word w) (hd : decodeMarred w = none)
    (htrace : (s.ctx (s.grp s.cur.key).ctxid).trace.on = false) :
    fetchTurn s = .done (undecoded (leaveTakes { s with cur := { s.cur with word := w } } none) w) := by
  simp only [fetchTurn, hf, hd, sampledTrap]
  rw [if_neg]
  simp only [Bool.and_eq_true, not_and]
  intro h
  exact absurd (htrace ▸ h) (by simp)

/-- A sequencer whose chosen slot stands at a word that decodes runs it. -/
theorem seqTurn_runs {s : State} {j n : Nat} {i : Instr} (hslot : chooseSlot s j = some n) (hn : n ≠ 3)
    (hpc : ((selectSlot s j n).slot (slotKey j n)).pc < ((selectSlot s j n).slot (slotKey j n)).imp.words.length)
    (hd : decodeChunk (((selectSlot s j n).slot (slotKey j n)).imp.words.getD ((selectSlot s j n).slot (slotKey j n)).pc 0) = some i) :
    seqTurn s j = .run i { selectSlot s j n with seqs := { (selectSlot s j n).seqs with cur := some j } } := by
  unfold seqTurn
  rw [hslot]
  split
  · contradiction
  · next h => exact absurd (Option.some.inj h) hn
  · next n' _ h =>
    obtain rfl := Option.some.inj h
    dsimp only
    rw [if_neg (Nat.not_le.2 hpc), hd]

/-- The state in which a group no longer lists a lane's TAKE. -/
def withoutTake (s : State) (k l : Nat) : State :=
  if (s.grp k).takes.isEmpty then s else s.modGrp k (fun g => { g with takes := g.takesWithout (laneBit l) })

theorem withoutTake_cur (s : State) (k l : Nat) : (withoutTake s k l).cur = s.cur := by
  unfold withoutTake
  split <;> rfl

theorem withoutTake_lane (s : State) (k l l' : Nat) : ((withoutTake s k l).grp k).lane l' = (s.grp k).lane l' := by
  unfold withoutTake
  split
  · rfl
  · rw [State.grp_modGrp]
    rfl

theorem rollbackTake_unreserved {s : State} {k l : Nat} (h : ((s.grp k).lane l).resv = none) : rollbackTake s k l = withoutTake s k l := by
  rw [← withoutTake_lane s k l l] at h
  show (match (((withoutTake s k l).grp k).lane l).resv with | none => withoutTake s k l | some v => _) = _
  rw [h]

/-- Lanes that have reserved nothing leave their TAKE with no lane of the group changed. -/
theorem rollbackTakes_unreserved {k : Nat} : ∀ {ls : List Nat} {s : State}, (∀ l ∈ ls, ((s.grp k).lane l).resv = none) →
    (rollbackTakes s k ls).cur = s.cur ∧ ∀ l, ((rollbackTakes s k ls).grp k).lane l = (s.grp k).lane l
  | [], _, _ => ⟨rfl, fun _ => rfl⟩
  | l :: ls, s, h => by
    obtain ⟨hl, hls⟩ := List.forall_mem_cons.1 h
    obtain ⟨hcur, hlane⟩ := rollbackTakes_unreserved (ls := ls) (s := withoutTake s k l) fun l' hl' => by
      rw [withoutTake_lane]
      exact hls l' hl'
    show (rollbackTakes (rollbackTake s k l) k ls).cur = s.cur ∧ ∀ l', ((rollbackTakes (rollbackTake s k l) k ls).grp k).lane l' = _
    rw [rollbackTake_unreserved hl]
    exact ⟨hcur.trans (withoutTake_cur ..), fun l' => (hlane l').trans (withoutTake_lane ..)⟩

theorem overRun_congr {g g' : Grp} (h : ∀ l, g'.lane l = g.lane l) (m : Word) (n : Nat) : overRun g' m n = overRun g m n := by
  simp only [overRun, h]

/-- An undecodable word that begins no group traps the lanes that may go on for one word more. -/
theorem undecoded_first {s : State} {w : Word} (hpos : s.cur.pos = 0) (hk : hintKind w = 0)
    (hrun : overRun (s.grp s.cur.key) s.cur.lanes 1 = 0) : undecoded s w = trapAll s 1 1 0 0 := by
  simp [undecoded, hk, hpos, hrun]

/-- Settles O57. -/
theorem stepRunsInstruction : Obligations.StepRunsInstruction := by
  unfold Obligations.StepRunsInstruction
  refine ⟨?lanes, ?group, ?seq, ?event⟩
  case lanes =>
    intro s k m rest w hcur hdead hask hag
    dsimp only
    intro hok hev hkept hfront hbrk hfetch
    have hturn : stepDoing s = _ := (stepDoing_agenda hcur hag).trans ((turnOf_lanes (s := { passTime s with agenda := rest }) hdead hask k m).trans
      (lanesTurn_fetches hok hev hkept hfront hbrk))
    refine ⟨fun i hd => step_run (hturn.trans (fetchTurn_runs ?_ hd)), fun hd hk htrace hresv hrun => ?_⟩
    · exact fetchWord_first rfl hfetch
    · refine (step_done (hturn.trans (fetchTurn_undecoded (fetchWord_first rfl hfetch) hd htrace))).trans (congrArg Host.Outcome.next ?_)
      obtain ⟨hc, hlane⟩ := rollbackTakes_unreserved (k := k) (ls := lanesOf (m &&& ~~~ 0))
        (s := { passTime s with agenda := rest, cur := { key := k, lanes := m, pc := _, word := w } })
        fun l hl => hresv l (by
          rw [mem_lanesOf, inMask_diff, inMask_zero] at hl
          simpa using hl)
      refine undecoded_first (congrArg Cur.pos hc) hk ?_
      have hcur : (leaveTakes _ none).cur = _ := hc
      rw [hcur]
      exact (overRun_congr hlane m 1).trans hrun
  case group =>
    intro s w i hcur hdead hask
    dsimp only
    intro hfetch hd
    exact step_run ((stepDoing_group hcur hdead hask).trans (fetchTurn_runs hfetch hd))
  case seq =>
    intro s j n rest i hcur hdead hask hj hag
    dsimp only
    intro hslot hn hpc hd
    refine step_run ((stepDoing_agenda hcur hag).trans
      ((turnOf_seq (s := { passTime s with agenda := rest }) hdead hask hj).trans (seqTurn_runs hslot hn hpc hd)))
  case event =>
    intro s i rest hcur hag ha
    dsimp only
    have hturn : stepDoing s = _ := (stepDoing_agenda hcur hag).trans (turnOf_event (s := { passTime s with agenda := rest }) ha)
    rw [step_run hturn]
    cases commandPair i <;> rfl
end Sys2Proof.WholeMachine

/-! PROOFS. Every function of the machine that answers a state keeps the memory in its canonical form. -/
namespace Sys2Proof.MemoryForm
open Sys2Proof.Machine

/-! ### Folds, branches and results -/

theorem foldl_wf {α : Type} {f : State → α → State} (hf : ∀ s, Memory.wf s.mem = true → ∀ x, Memory.wf (f s x).mem = true)
    {s : State} (h : Memory.wf s.mem = true) (l : List α) : Memory.wf (l.foldl f s).mem = true :=
  State.foldl_keeps (P := fun s => Memory.wf s.mem = true) (fun s x h => hf s h x) l h

theorem foldl_inv {σ α : Type} {P : σ → Prop} {f : σ → α → σ} (hf : ∀ x a, P x → P (f x a)) {x : σ} (h : P x) (l : List α) :
    P (l.foldl f x) := by
  induction l generalizing x with
  | nil => exact h
  | cons a l ih => exact ih (hf x a h)

theorem ite_wf {c : Prop} [Decidable c] {s t : State} (hs : c → Memory.wf s.mem = true) (ht : ¬ c → Memory.wf t.mem = true) :
    Memory.wf (if c then s else t).mem = true := by
  split
  · next hc => exact hs hc
  · next hc => exact ht hc

theorem getD_wf {o : Option State} {s : State} (ho : ∀ t, o = some t → Memory.wf t.mem = true) (h : Memory.wf s.mem = true) :
    Memory.wf (o.getD s).mem = true := by
  cases o with
  | none => exact h
  | some t => exact ho t rfl

theorem except_map_ok {ε α β : Type} {x : Except ε α} {f : α → β} {b : β} (h : x.map f = .ok b) : ∃ a, x = .ok a ∧ f a = b := by
  cases x with
  | error e => cases h
  | ok a => exact ⟨a, rfl, Except.ok.inj h⟩

theorem except_bind_ok {ε α β : Type} {x : Except ε α} {f : α → Except ε β} {b : β} (h : x.bind f = .ok b) :
    ∃ a, x = .ok a ∧ f a = .ok b := by
  cases x with
  | error e => cases h
  | ok a => exact ⟨a, rfl, h⟩

theorem foldlM_ok_wf {α ε : Type} {f : State → α → Except ε State}
    (hf : ∀ s x t, Memory.wf s.mem = true → f s x = .ok t → Memory.wf t.mem = true) {l : List α} {s t : State}
    (h : Memory.wf s.mem = true) (hl : l.foldlM f s = .ok t) : Memory.wf t.mem = true := by
  induction l generalizing s with
  | nil => cases hl; exact h
  | cons x l ih =>
    rw [List.foldlM_cons] at hl
    obtain ⟨u, hu, hl⟩ := except_bind_ok hl
    exact ih (hf _ _ _ h hu) hl

theorem foldlM_some_wf {α : Type} {f : State → α → Option State}
    (hf : ∀ s x t, Memory.wf s.mem = true → f s x = some t → Memory.wf t.mem = true) {l : List α} {s t : State}
    (h : Memory.wf s.mem = true) (hl : l.foldlM f s = some t) : Memory.wf t.mem = true := by
  induction l generalizing s with
  | nil => cases hl; exact h
  | cons x l ih =>
    rw [List.foldlM_cons] at hl
    obtain ⟨u, hu, hl⟩ := Option.bind_eq_some_iff.1 hl
    exact ih (hf _ _ _ h hu) hl

/-- A meaning whose effect keeps the memory in its canonical form. -/
def Keeps (m : Meaning) : Prop := ∀ done s, Memory.wf s.mem = true → Memory.wf (m.eff done s).mem = true

section
variable {s : State} (h : Memory.wf s.mem = true)
include h

theorem setPoison_wf (loc b) : Memory.wf (State.setPoison s loc b).mem = true := h
theorem unpoisonAll_wf (locs) : Memory.wf (State.unpoisonAll s locs).mem = true := by
  unfold State.unpoisonAll
  grind 
theorem leaveL2_wf (current sector x) : Memory.wf (State.leaveL2 s current sector x).mem = true := by
  unfold State.leaveL2
  grind 
theorem enterL2_wf (sector key tag stream) : Memory.wf (State.enterL2 s sector key tag stream).mem = true := by
  unfold State.enterL2
  simp +contextual [foldl_wf, ite_wf, h, State.retag_wf]
theorem takeFree_wf : Memory.wf (State.takeFree s).2.mem = true := h
theorem bboxNote_wf (kind master ctxid code addr note) : Memory.wf (State.bboxNote s kind master ctxid code addr note).mem = true := h
theorem traceAdd_wf (ctxid r) : Memory.wf (State.traceAdd s ctxid r).mem = true := by
  unfold State.traceAdd
  grind [State.setCtx_mem]
theorem traceEvent_wf (g kind lanes pc cause) : Memory.wf (State.traceEvent s g kind lanes pc cause).mem = true := by
  unfold State.traceEvent
  grind [traceAdd_wf]
theorem haltGrp_wf (k cause code) : Memory.wf (State.haltGrp s k cause code).mem = true := by
  unfold State.haltGrp
  grind [State.setGrp_mem, traceEvent_wf]
theorem freezeGrp_wf (k code addr kind) : Memory.wf (State.freezeGrp s k code addr kind).mem = true := by
  unfold State.freezeGrp
  grind [State.bboxAdd_mem, State.modGrp_mem, haltGrp_wf]
theorem takeTrap_wf (k m cause detail tpc taddr) : Memory.wf (takeTrap s k m cause detail tpc taddr).mem = true := by
  unfold takeTrap
  grind [State.setGrp_mem, haltGrp_wf, traceEvent_wf]
theorem trapInTrap_wf (k cause) : Memory.wf (trapInTrap s k cause).mem = true := by
  unfold trapInTrap
  grind [State.bboxAdd_mem, haltGrp_wf]
theorem returnTrap_wf (k m) : Memory.wf (returnTrap s k m).mem = true := h
theorem setBar_wf (r b) : Memory.wf (State.setBar s r b).mem = true := by
  unfold State.setBar
  grind [State.setClus_mem, State.setGrid_mem, State.setTeam_mem]
theorem modWho_wf (grid who f) : Memory.wf (State.modWho s grid who f).mem = true := h
theorem markDone_wf (r b) : Memory.wf (markDone s r b).mem = true := by
  unfold markDone
  exact foldl_wf (fun _ h _ => by grind [modWho_wf]) h _
theorem completePhases_wf (n r d) : Memory.wf (completePhases n s r d).mem = true := by
  induction n generalizing s with
  | zero => exact h
  | succ n ih => unfold completePhases; grind [markDone_wf, setBar_wf]

theorem settleBar_wf (r k) : Memory.wf (settleBar s r k).mem = true := by
  unfold settleBar
  grind [completePhases_wf]
theorem arriveLanes_wf (g level idx m) : Memory.wf (arriveLanes s g level idx m).mem = true := by
  unfold arriveLanes
  grind [setBar_wf, settleBar_wf]
theorem arriveLink_wf (g idx m) : Memory.wf (arriveLink s g idx m).mem = true := by
  unfold arriveLink
  grind [arriveLanes_wf, setBar_wf]
theorem arriveFeeder_wf (g level idx dmg) : Memory.wf (arriveFeeder s g level idx dmg).mem = true := by
  unfold arriveFeeder
  grind [setBar_wf, settleBar_wf]
theorem arriveDecoder_wf (g level idx dmg) : Memory.wf (arriveDecoder s g level idx dmg).mem = true := by
  unfold arriveDecoder
  grind [setBar_wf, settleBar_wf]
theorem settleExit_wf (k) : Memory.wf (settleExit s k).mem = true := by
  unfold settleExit
  exact foldl_wf (fun _ h _ => by grind [arriveLanes_wf]) h _
theorem fillVat_wf (g n dmg dec) : Memory.wf (fillVat s g n dmg dec).mem = true := h
theorem performWhere_wf (k id pick) : Memory.wf (performWhere s k id pick).mem = true := by
  unfold performWhere
  dsimp only
  split
  · split
    · rw [State.modGrp_mem]
      refine foldl_wf (fun _ h _ => performStore_wf h ..) ?_ _
      split
      · exact State.flushCore_wf h _
      · exact h
    · exact h
  · exact h

theorem performOp_wf (k id m) : Memory.wf (performOp s k id m).mem = true := by
  unfold performOp
  grind [performWhere_wf]
theorem performEarly_wf (k o todo scope p) : Memory.wf (performEarly s k o todo scope p).mem = true := by
  unfold performEarly
  grind [State.modGrp_mem, performStore_wf]
theorem performPart_wf (k id i) : Memory.wf (performPart s k id i).mem = true := by
  unfold performPart
  grind [performEarly_wf, performWhere_wf]
theorem drainStores_wf (k m) : Memory.wf (drainStores s k m).mem = true := by
  unfold drainStores
  exact foldl_wf (fun _ h _ => by grind [performOp_wf]) h _
theorem settleOwed_wf (k x) : Memory.wf (settleOwed s k x).mem = true := by
  unfold settleOwed
  have hp := foldl_wf (fun _ h id => performOp_wf h k id (laneBit x.lane)) h
    (((s.grp k).ops.filter (fun o => decide (o.id < x.op))).map (·.id))
  grind [State.flushCore_wf, State.modGrp_mem]

theorem settleGrp_wf (k) : Memory.wf (settleGrp s k).mem = true := by
  unfold settleGrp
  exact foldl_wf (fun _ h _ => by grind [settleOwed_wf]) h _
theorem settleFor_wf (g sc) : Memory.wf (settleFor s g sc).mem = true := by
  unfold settleFor
  exact foldl_wf (fun _ h _ => by grind [settleOwed_wf]) h _
theorem drainOver_wf (k l loc n) : Memory.wf (drainOver s k l loc n).mem = true := by
  unfold drainOver
  have hp := foldl_wf (fun _ h id => performWhere_wf h k id (fun p =>
    p.lane == l && decide (p.loc < loc + n) && decide (loc < p.loc + p.data.length))) h ((s.grp k).ops.map (·.id))
  grind [drainStores_wf]

theorem reloadPart_wf (k id i) : Memory.wf (reloadPart s k id i).mem = true := by
  unfold reloadPart
  grind [State.setGrp_mem]
theorem releaseLanes_wf (k m) : Memory.wf (releaseLanes s k m).mem = true := by
  unfold releaseLanes
  grind [State.modGrp_mem, drainStores_wf]
theorem releaseAt_wf (core scope) : Memory.wf (releaseAt s core scope).mem = true := by
  unfold releaseAt
  grind [State.flushCore_wf]
theorem acquireAt_wf (core scope) : Memory.wf (acquireAt s core scope).mem = true := by
  unfold acquireAt
  grind [State.dropClean_mem]
theorem barAcquire_wf (g level idx) : Memory.wf (barAcquire s g level idx).mem = true := by
  unfold barAcquire
  grind [State.dropClean_mem]
theorem sendRequests_wf (ctxid kind acq sectors shares outs) :
    Memory.wf (sendRequests s ctxid kind acq sectors shares outs).1.mem = true := by
  induction sectors generalizing s outs with
  | nil => exact h
  | cons sec rest ih =>
    unfold sendRequests
    exact ih (by exact h) _

theorem issueRemote_wf (k kind acq shares) : Memory.wf (issueRemote s k kind acq shares).mem = true := by
  unfold issueRemote
  grind [State.modGrp_mem, sendRequests_wf]
theorem peerViolation_wf (ctxid code addr) : Memory.wf (peerViolation s ctxid code addr).1.mem = true := h
theorem performAcc_wf (ctxid k a) : Memory.wf (performAcc s ctxid k a).1.mem = true := by
  unfold performAcc
  grind [State.writeBytes_wf, peerViolation_wf]
theorem performAccs_wf (ctxid k accs) : Memory.wf (performAccs s ctxid k accs).1.mem = true := by
  induction accs generalizing s with
  | nil => exact h
  | cons a rest ih => unfold performAccs; grind [performAcc_wf]

theorem flushAccs_wf (ctxid core accs) : Memory.wf (State.flushAccs s ctxid core accs).mem = true := by
  unfold State.flushAccs
  exact foldl_wf (fun _ h _ => by grind [State.flushSector_wf]) h _
theorem serveRequest_wf (m q) : Memory.wf (serveRequest s m q).mem = true := by
  unfold serveRequest
  grind [State.sendMsg_mem, flushAccs_wf, performAccs_wf]
theorem onResponse_wf (id vals) : Memory.wf (onResponse s id vals).mem = true := by
  unfold onResponse
  grind [State.dropClean_mem, State.modGrp_mem]
theorem peerFreeze_wf (k code) : Memory.wf (State.peerFreeze s k code).mem = true := by
  unfold State.peerFreeze
  grind [State.modGrp_mem, haltGrp_wf]
theorem onRefusal_wf (id lanes) : Memory.wf (onRefusal s id lanes).mem = true := by
  unfold onRefusal
  grind [State.modGrp_mem, peerFreeze_wf]
theorem onBlock_wf (id answer) : Memory.wf (onBlock s id answer).mem = true := by
  unfold onBlock
  grind [State.modGrp_mem, peerFreeze_wf]
theorem clearCur_wf : Memory.wf (clearCur s).mem = true := h
theorem stall_wf (key lanes blocks) : Memory.wf (stall s key lanes blocks).mem = true := h
theorem holdIssue_wf (key lanes) : Memory.wf (holdIssue s key lanes).mem = true := h
theorem finish_wf {m : Meaning} (hm : Keeps m) (w ends os) : Memory.wf (finish w ends m os s).mem = true := hm _ _ h

theorem haltIssue_wf {m : Meaning} (hm : Keeps m) {s0 : State} (h0 : Memory.wf s0.mem = true) (w ends takers others cause) :
    Memory.wf (haltIssue s0 s w ends m takers others cause).mem = true := by
  unfold haltIssue
  grind [trapInTrap_wf, finish_wf, State.modGrp_mem]

theorem commit_wf {m : Meaning} (hm : Keeps m) {s0 : State} (h0 : Memory.wf s0.mem = true) (w ends) :
    Memory.wf (commit s0 s w ends m).mem = true := by
  unfold commit
  grind [holdIssue_wf, freezeGrp_wf, finish_wf, haltIssue_wf, takeTrap_wf, State.modGrp_mem]

theorem meetTrap_wf (key m standing cause detail pc addr clear) : Memory.wf (meetTrap s key m standing cause detail pc addr clear).mem = true := by
  unfold meetTrap
  grind [State.setGrp_mem, clearCur_wf, holdIssue_wf, takeTrap_wf, trapInTrap_wf]
theorem trapAll_wf (n cause detail addr) : Memory.wf (trapAll s n cause detail addr).mem = true := by
  unfold trapAll
  grind [meetTrap_wf]
theorem trapOver_wf (n) : Memory.wf (trapOver s n).mem = true := by
  unfold trapOver
  grind [meetTrap_wf]
theorem splitFence_wf (i) : Memory.wf (splitFence s i).mem = true := by
  unfold splitFence
  grind [State.modGrp_mem]
theorem issueCore_wf (bad i) {m : View → State → Meaning} (hm : ∀ w s, Memory.wf s.mem = true → Keeps (m w s)) :
    Memory.wf (issueCore s bad i m).mem = true := by
  have hidle : ∀ outs, Keeps ⟨outs, fun _ s => s⟩ := fun _ _ _ h => h
  have hm : ∀ outs w s, Memory.wf s.mem = true → Keeps ⟨outs, (m w s).eff⟩ := fun _ => hm
  unfold issueCore
  grind [splitFence_wf, trapOver_wf, trapAll_wf, stall_wf, holdIssue_wf, freezeGrp_wf, clearCur_wf, commit_wf, State.setGrp_mem]

theorem recordSample_wf (x0 act memory) : Memory.wf (recordSample x0 s act memory).mem = true := by
  unfold recordSample
  grind [State.modGrp_mem, traceAdd_wf]
theorem sampled_wf (x0 i) : Memory.wf (sampled x0 i s).mem = true := by
  unfold sampled
  grind [State.modGrp_mem, recordSample_wf]
theorem sampledTrap_wf (x0) : Memory.wf (sampledTrap x0 s).mem = true := by
  unfold sampledTrap
  grind [recordSample_wf]
theorem issueState_wf (bad i) {m : View → State → Meaning} (hm : ∀ w s, Memory.wf s.mem = true → Keeps (m w s)) :
    Memory.wf (issueState s bad i m).mem = true := sampled_wf (issueCore_wf h bad i hm) ..

theorem checkDeadlock_wf (k) : Memory.wf (checkDeadlock s k).mem = true := by
  unfold checkDeadlock
  grind [takeTrap_wf]
theorem exitLanes_wf (k m) : Memory.wf (exitLanes s k m).mem = true := by
  unfold exitLanes
  grind [State.modGrp_mem, settleExit_wf]
theorem prefixWord_wf (i f) : Memory.wf (prefixWord i s f).mem = true := by
  unfold prefixWord
  grind [trapAll_wf, trapOver_wf]
theorem startTlbinv_wf (k v) : Memory.wf (startTlbinv s k v).mem = true := h
theorem writeCsr_wf (k m c x) : Memory.wf (writeCsr s k m c x).mem = true := by
  unfold writeCsr
  grind [State.modGrp_mem, startTlbinv_wf]
theorem issueOp_wf (k cls lanes body sectors) : Memory.wf (issueOp s k cls lanes body sectors).mem = true := h
theorem hinted_wf (w ea size ps) : Memory.wf (hinted s w ea size ps).mem = true := by
  unfold hinted
  grind 
theorem selfBefore_wf (w shares) : Memory.wf (selfBefore s w shares).mem = true := by
  unfold selfBefore
  exact foldl_wf (fun _ h _ => by grind [State.flushSector_wf, State.modGrp_mem, drainOver_wf]) h _
theorem releaseRemote_wf (w shares) : Memory.wf (releaseRemote s w shares).mem = true := by
  unfold releaseRemote
  grind [State.flushCore_wf, releaseLanes_wf]
theorem ldaBefore_wf (sc w) : Memory.wf (ldaBefore sc w s).mem = true := by
  unfold ldaBefore
  grind [State.flushAll_wf, acquireAt_wf, settleFor_wf]
theorem atomAt_wf (k core sc size rk l pl x e) : Memory.wf (atomAt s k core sc size rk l pl x e).1.mem = true := by
  unfold atomAt
  grind [State.flushSector_wf, State.writeBytesL1_wf, State.writeBytes_wf]
theorem atomLanes_wf (w sc size rk ea x e places) : Memory.wf (atomLanes w sc size rk ea x e places s).1.mem = true := by
  induction places generalizing s with
  | nil => exact h
  | cons p rest ih => unfold atomLanes; exact ih (atomAt_wf h ..)

theorem releaseSamples_wf (c id undone) : Memory.wf (releaseSamples s c id undone).mem = true := by
  unfold releaseSamples
  dsimp only
  split
  · exact h
  · exact foldl_wf (fun _ h _ => traceAdd_wf h ..) (by exact h) _

theorem completeFence_wf (c f) : Memory.wf (completeFence s c f).mem = true := by
  unfold completeFence
  grind [State.modGrp_mem, acquireAt_wf, releaseAt_wf, releaseSamples_wf]
theorem undoFence_wf (c f) : Memory.wf (undoFence s c f).mem = true := by
  unfold undoFence
  grind [State.modGrp_mem, releaseSamples_wf]
theorem arriveGroup_wf (w level idx m) : Memory.wf (arriveGroup s w level idx m).mem = true := by
  unfold arriveGroup
  grind [arriveLanes_wf, releaseAt_wf, releaseLanes_wf]
theorem barsEff_wf (w level idx outs done) : Memory.wf (barsEff w level idx outs done s).mem = true := by
  unfold barsEff
  dsimp only
  refine arriveGroup_wf (ite_wf (fun _ => ?_) (fun _ => barAcquire_wf ?_ ..)) ..
  all_goals
    rw [State.modGrp_mem]
    refine foldl_wf (fun _ h _ => ?_) h _
    grind [State.modGrp_mem]

theorem writeRange_wf (who ctxid va d) {t : State} (hf : writeRange s who ctxid va d = .ok t) : Memory.wf t.mem = true := by
  obtain ⟨ps, _, rfl⟩ := except_map_ok hf
  exact foldl_wf (fun _ h _ => State.writeBytes_wf h ..) h _

theorem writeHead_wf (ctxid core x0) {t : State} (hf : writeHead s ctxid core x0 = .ok t) : Memory.wf t.mem = true := by
  unfold writeHead at hf
  grind [writeRange_wf]
theorem appendRing_wf (ctxid core fs) {t : State} (hf : appendRing s ctxid core fs = .ok t) : Memory.wf t.mem = true := by
  obtain ⟨hd, _, hf⟩ := except_bind_ok hf
  obtain ⟨s1, h1, hf⟩ := except_bind_ok hf
  obtain ⟨s2, h2, rfl⟩ := except_map_ok hf
  have h1 := foldlM_ok_wf (fun _ _ _ h hf => writeRange_wf h _ _ _ _ hf) h h1
  exact foldl_wf (fun _ h _ => by exact h) (writeHead_wf h1 _ _ _ h2) _

theorem releaseSlots_wf (ctxid core) {t : State} (hf : releaseSlots s ctxid core = .ok t) : Memory.wf t.mem = true := by
  obtain ⟨_, _, hf⟩ := except_bind_ok hf
  obtain ⟨_, _, hf⟩ := except_bind_ok hf
  exact writeHead_wf h _ _ _ hf

theorem voidSlots_wf (grid core xs) {t : State} (hf : voidSlots s grid core xs = .ok t) : Memory.wf t.mem = true := by
  obtain ⟨s1, h1, hf⟩ := except_bind_ok hf
  obtain ⟨s2, h2, rfl⟩ := except_map_ok hf
  have h1 := foldlM_ok_wf (fun _ _ _ h hf => writeRange_wf h _ _ _ _ hf) h h1
  have h2 := releaseSlots_wf h1 _ _ h2
  exact h2

/-- `spillContexts` over any way to append to a ring. -/
def spillVia (app : State → Nat → Nat → List Frame → Except RangeFault State) (core own : Nat) :
    List Nat → List Frame → State → List Frame → Except RangeFault (State × List Frame)
  | [], _, s, acc => .ok (s, acc)
  | c :: rest, fs, s, acc =>
    let mine := fs.filter (fun f => (s.grid f.grid).ctxid == c)
    match app s c core mine with
    | .ok s' => spillVia app core own rest fs s' (acc ++ mine)
    | .error e => if c = own then .error e else spillVia app core own rest fs s acc

omit h in
theorem spillContexts_eq (core own) : spillContexts core own = spillVia appendRing core own := by
  delta spillContexts spillVia
  rfl

theorem spillVia_wf {app : State → Nat → Nat → List Frame → Except RangeFault State}
    (happ : ∀ s c core fs t, Memory.wf s.mem = true → app s c core fs = .ok t → Memory.wf t.mem = true) {core own ctxs frames acc}
    {t : State} {gone} (hf : spillVia app core own ctxs frames s acc = .ok (t, gone)) : Memory.wf t.mem = true := by
  induction ctxs generalizing s acc with
  | nil => cases hf; exact h
  | cons c rest ih =>
    unfold spillVia at hf
    extract_lets mine at hf
    split at hf
    · next ha => exact ih (happ _ _ _ _ _ h ha) hf
    · split at hf
      · cases hf
      · exact ih h hf

theorem spillContexts_wf (core own ctxs frames acc) {t : State} {gone} (hf : spillContexts core own ctxs frames s acc = .ok (t, gone)) :
    Memory.wf t.mem = true := by
  rw [spillContexts_eq] at hf
  exact spillVia_wf h (fun _ _ _ _ _ h hf => appendRing_wf h _ _ _ hf) hf

theorem spill_wf (core own) {t : State} (hf : spill s core own = .ok t) : Memory.wf t.mem = true := by
  unfold spill at hf
  grind [spillContexts_wf, State.setDeque_mem]

theorem pushFrame_wf (core own f after) {t : State} (hf : pushFrame s core own f after = .ok t) : Memory.wf t.mem = true := by
  unfold pushFrame at hf
  grind [State.setDeque_mem, spill_wf]
theorem joinStep_wf (w l j f) : Memory.wf (joinStep s w l j f).2.mem = true := by
  unfold joinStep
  grind [stepWord_wf]
theorem spawnStep_wf (w l j n) : Memory.wf (spawnStep s w l j n).2.mem = true := by
  unfold spawnStep
  grind [State.modGrp_mem, joinStep_wf]
theorem spawnLane_wf (w q l) : Memory.wf (spawnLane w q l s).2.mem = true := by
  unfold spawnLane
  grind [pushFrame_wf, releaseAt_wf, releaseLanes_wf, spawnStep_wf]
theorem spawnLanes_wf (w q lanes) : Memory.wf (spawnLanes w q lanes s).2.mem = true := by
  induction lanes generalizing s with
  | nil => exact h
  | cons l rest ih => unfold spawnLanes; exact ih (spawnLane_wf h ..)

theorem updateFrame_wf (at_ f new) {t : State} (hf : updateFrame s at_ f new = .ok t) : Memory.wf t.mem = true := by
  unfold updateFrame at hf
  grind [State.setDeque_mem, voidSlots_wf, writeRange_wf]
theorem refill_wf (grid core) {t : State} (hf : refill s grid core = .ok t) : Memory.wf t.mem = true := by
  unfold refill at hf
  dsimp only at hf
  split at hf
  · cases hf; exact h
  · obtain ⟨s1, h1, rfl⟩ := except_map_ok hf
    rw [State.setDeque_mem]
    exact voidSlots_wf h _ _ _ h1

theorem bottomFrame_wf (grid core) {t : State} {y} (hf : bottomFrame s grid core = .ok (y, t)) : Memory.wf t.mem = true := by
  unfold bottomFrame at hf
  dsimp only at hf
  split at hf
  · cases hf; exact h
  · split at hf
    · cases hf; exact h
    · obtain ⟨_, _, hf⟩ := except_bind_ok hf
      obtain ⟨s1, h1, hf⟩ := except_map_ok hf
      split at hf <;> cases hf <;> exact refill_wf h _ _ h1

theorem releaseFrame_wf (core f) : Memory.wf (releaseFrame s core f).mem = true := by
  unfold releaseFrame
  refine ite_wf (fun _ => h) (fun _ => ?_)
  rw [State.setDeque_mem]
  exact foldl_wf (fun _ h _ => State.flushCore_wf h _) h _

theorem deal_wf (W at_ f stolen) : Memory.wf (deal W at_ f stolen s).2.mem = true := by
  unfold deal
  grind [releaseFrame_wf, updateFrame_wf]
theorem undoChoice_wf (core v) : Memory.wf (undoChoice s core v).mem = true := by
  unfold undoChoice
  grind [State.setDeque_mem]
theorem rollbackTake_wf (k l) : Memory.wf (rollbackTake s k l).mem = true := by
  unfold rollbackTake
  grind [State.modGrp_mem, undoChoice_wf, updateFrame_wf]
theorem rollbackTakes_wf (k ls) : Memory.wf (rollbackTakes s k ls).mem = true := by
  unfold rollbackTakes
  exact foldl_wf (fun _ h _ => by grind [rollbackTake_wf]) h _
theorem reserve_wf (k l core at_ f choice) : Memory.wf (reserve s k l core at_ f choice).2.mem = true := by
  unfold reserve
  grind [State.modGrp_mem, State.setDeque_mem, updateFrame_wf]
theorem takeOne_wf (k l acts grid core ws) : Memory.wf (takeOne k l acts grid core ws s).2.1.mem = true := by
  unfold takeOne
  grind [State.modGrp_mem, bottomFrame_wf, deal_wf, reserve_wf]
theorem takeLanes_wf (w d lanes) : Memory.wf (takeLanes w d lanes s).2.mem = true := by
  induction lanes generalizing s with
  | nil => exact h
  | cons l rest ih => unfold takeLanes; grind [takeOne_wf, rollbackTake_wf, acquireAt_wf, State.modGrp_mem]

theorem takeRun_wf (w d ls) : Memory.wf (takeRun w d ls s).2.mem = true := by
  unfold takeRun
  grind [State.modGrp_mem, takeLanes_wf]
theorem endtLane_wf (w l) : Memory.wf (endtLane w s l).mem = true := by
  unfold endtLane
  grind [State.modGrp_mem, joinStep_wf, releaseAt_wf, releaseLanes_wf]
theorem engineWrite_wf (core wrote ws) : Memory.wf (engineWrite s core wrote ws).mem = true := by
  unfold engineWrite
  exact foldl_wf (fun _ h _ => by grind [State.writeBytes_wf]) h _
theorem engineEnds_wf (core wrote n ws) : Memory.wf (engineEnds s core wrote n ws).mem = true :=
  unpoisonAll_wf (foldl_wf (fun _ h _ => engineWrite_wf h ..) h _) _

theorem askBlock_wf (key l ea n) : Memory.wf (askBlock s key l ea n).mem = true := by
  unfold askBlock
  exact foldl_wf (fun _ h _ => by grind [State.modGrp_mem, State.sendMsg_mem]) h _
theorem ask_wf (e key l) : Memory.wf (EngFault.ask e key l s).mem = true := by
  unfold EngFault.ask
  grind [askBlock_wf]
theorem dropFetched_wf (key m) : Memory.wf (dropFetched s key m).mem = true := h
theorem startMat_wf (w fn x) : Memory.wf (startMat w fn x s).mem = true := h
theorem matWork_wf (k op) : Memory.wf (matWork s k op).mem = true := by
  unfold matWork
  grind [State.modGrp_mem, engineEnds_wf]
theorem linkEnd_wf (k o op) : Memory.wf (linkEnd s k o op).mem = true := by
  unfold linkEnd
  grind [State.modGrp_mem, barAcquire_wf]
theorem retireMat_wf (k o op) : Memory.wf (retireMat s k o op).mem = true := by
  unfold retireMat
  grind [State.modGrp_mem, arriveLink_wf, freezeGrp_wf, matWork_wf]
theorem matSee_wf (k o op loc) : Memory.wf (matSee s k o op loc).mem = true := by
  unfold matSee
  grind [State.setGrp_mem, linkEnd_wf]
theorem matDo_wf (k o op i part) : Memory.wf (matDo s k o op i part).mem = true := by
  unfold matDo
  grind [State.modGrp_mem, engineWrite_wf, linkEnd_wf]
theorem retireChain_wf (k o op) : Memory.wf (retireChain s k o op).mem = true := by
  unfold retireChain
  grind [State.modGrp_mem, engineEnds_wf, freezeGrp_wf]
theorem chainSee_wf (k o op loc) : Memory.wf (chainSee s k o op loc).mem = true := by
  unfold chainSee
  grind [State.setGrp_mem]
theorem chainDo_wf (k o op i part) : Memory.wf (chainDo s k o op i part).mem = true := by
  unfold chainDo
  grind [State.modGrp_mem, engineWrite_wf]
theorem engineSee_wf (k id loc) : Memory.wf (engineSee s k id loc).mem = true := by
  unfold engineSee
  grind [chainSee_wf, matSee_wf]
theorem engineDo_wf (k id i part) : Memory.wf (engineDo s k id i part).mem = true := by
  unfold engineDo
  grind [chainDo_wf, matDo_wf]
theorem vatAcquire_wf (g n) : Memory.wf (vatAcquire s g n).mem = true := by
  unfold vatAcquire
  grind [State.dropClean_mem]
theorem startCopy_wf (k key) : Memory.wf (startCopy k key s).mem = true := by
  unfold startCopy
  grind [State.modGrp_mem, State.setVat_mem]
theorem writeLeft_wf (core op pos tag loc d) : Memory.wf (writeLeft s core op pos tag loc d).mem = true := by
  unfold writeLeft
  split
  · exact State.writeBytes_wf h ..
  · exact foldl_wf (fun _ h _ => ite_wf (fun _ => h) (fun _ => State.writeBytes_wf h ..)) h _

end

/-! ### A copy's run: only what it delivers changes memory -/

theorem stopAt_st (r : Run) (x) : (r.stopAt x).st = r.st := by cases x <;> rfl
theorem failAt_st (r : Run) (c d a) : (r.failAt c d a).st = r.st := rfl
theorem unanswered_st (r : Run) (rd i va) : (r.unanswered rd i va).st = r.st := by
  unfold Run.unanswered
  split <;> rfl

theorem startCpyx_st (g) (r : Run) : (startCpyx g r).st = r.st := by
  unfold startCpyx
  grind [failAt_st]

theorem readSpot_st (g i va n) (r : Run) : (readSpot g i va n r).2.st = r.st := by
  unfold readSpot
  grind [stopAt_st, unanswered_st]

theorem readSmall_st (g i va n) (r : Run) : (readSmall g i va n r).2.st = r.st := by
  refine List.foldlRecOn (motive := fun x : List Byte × Run => x.2.st = r.st) _ _ rfl fun x h t _ => ?_
  grind [readSpot_st]

theorem pickIndex_st (g i) (r : Run) : (pickIndex g i r).2.st = r.st := by
  unfold pickIndex
  grind [readSmall_st]

theorem copyUnit_st (g i) (r : Run) : (copyUnit g i r).2.st = r.st := by
  unfold copyUnit
  grind [pickIndex_st, failAt_st]

section
variable {r : Run} (h : Memory.wf r.st.mem = true)
include h

theorem writeSpot_wf (g va n d) : Memory.wf (writeSpot g va n d r).st.mem = true := by
  unfold writeSpot peerPiece
  grind [stopAt_st, unanswered_st, writeLeft_wf]

theorem readEnd_wf (g e n) : Memory.wf (readEnd g e n r).2.st.mem = true := by
  unfold readEnd checkSpot
  grind [stopAt_st, readSpot_st]

theorem writeEnd_wf (g e n d) : Memory.wf (writeEnd g e n d r).st.mem = true := by
  cases e with
  | mem va => exact writeSpot_wf h ..
  | book off => exact h

theorem moveBytes_wf (g fuel src dst n) : Memory.wf (moveBytes g fuel src dst n r).st.mem = true := by
  induction fuel generalizing r src dst n with
  | zero => exact h
  | succ fuel ih =>
    unfold moveBytes
    grind [readEnd_wf, writeEnd_wf]

theorem runTo_wf (g stop) : Memory.wf (r.to g stop).st.mem = true := by
  refine List.foldlRecOn (motive := fun x : Run => Memory.wf x.st.mem = true) _ _ h fun r h j _ => ?_
  grind [copyUnit_st, moveBytes_wf]
end

section
variable {s : State} (h : Memory.wf s.mem = true)
include h

theorem beginRun_wf (dry g op) : Memory.wf (beginRun dry s g op).st.mem = true := (startCpyx_st ..).symm ▸ h

theorem runCopy_wf (g op) : Memory.wf (runCopy s g op).st.mem = true := runTo_wf (beginRun_wf h ..) ..

theorem fillBook_wf (g op) : Memory.wf (fillBook s g op).mem = true := by
  unfold fillBook
  grind [writeLeft_wf]
theorem endCopy_wf (k o op dmg) : Memory.wf (endCopy s k o op dmg).mem = true := by
  unfold endCopy
  grind [State.modGrp_mem, arriveFeeder_wf, fillVat_wf]
theorem setCopy_wf (c o op) : Memory.wf (setCopy s c o op).mem = true := h
theorem askPeer_wf (c o op m i n va) : Memory.wf (askPeer s c o op m i n va).mem = true := by
  unfold askPeer
  grind [State.sendMsg_mem, setCopy_wf]
theorem seeAt_wf (c o r i len left va) : Memory.wf (seeAt s c o r i len left va).mem = true := by
  unfold seeAt
  grind [askPeer_wf, setCopy_wf]
theorem copySee_wf (c o op i) : Memory.wf (copySee s c o op i).mem = true := by
  unfold copySee
  grind [beginRun_wf, seeAt_wf]
theorem copyMove_wf (c o op i n) : Memory.wf (copyMove s c o op i n).mem = true := by
  unfold copyMove
  grind [State.sendMsg_mem, State.writeBytes_wf, setCopy_wf]
theorem onCopyAnswer_wf (id answer) : Memory.wf (onCopyAnswer s id answer).mem = true := by
  unfold onCopyAnswer
  grind [peerFreeze_wf, setCopy_wf]
theorem nextEntry_wf (g op p) : Memory.wf (nextEntry s g op p).2.st.mem = true := by
  unfold nextEntry
  extract_lets e
  refine foldl_inv (P := fun x : Bank Word × Run => Memory.wf x.2.st.mem = true) (fun x l h => ?_) (beginRun_wf h ..) _
  dsimp only
  split
  · exact h
  · rw [readSmall_st]
    exact h

theorem queueSee_wf (c o op p i) : Memory.wf (queueSee s c o op p i).mem = true := by
  unfold queueSee
  grind [beginRun_wf, seeAt_wf]
theorem pushEntry_wf (c q e) : Memory.wf (pushEntry s c q e).mem = true := h
theorem copyEarly_wf (c k move i n) : Memory.wf (copyEarly s c k move i n).mem = true := by
  unfold copyEarly
  grind [copyMove_wf, copySee_wf, queueSee_wf]
theorem faultRun_wf (g op) : Memory.wf (faultRun s g op).st.mem = true := by
  unfold faultRun
  grind [beginRun_wf, nextEntry_wf, runCopy_wf]
theorem setFlag_wf (who ctxid va x) {t : State} (hf : setFlag s who ctxid va x = .ok t) : Memory.wf t.mem = true := by
  obtain ⟨p, _, rfl⟩ := except_map_ok hf
  exact State.writeBytes_wf h ..

theorem addFlag_wf (who ctxid va f) {t : State} (hf : addFlag s who ctxid va f = .ok t) : Memory.wf t.mem = true := by
  obtain ⟨x, _, hf⟩ := except_bind_ok hf
  exact setFlag_wf h _ _ _ _ hf

theorem schedViolation_wf (ctxid e) : Memory.wf (schedViolation s ctxid e).mem = true := by
  unfold schedViolation
  grind [State.bboxAdd_mem]
theorem boxStatus_wf (ctxid cflag status) : Memory.wf (boxStatus s ctxid cflag status).mem = true := h
theorem writeStatus_wf (ctxid cflag status) : Memory.wf (writeStatus s ctxid cflag status).mem = true := by
  unfold writeStatus
  grind [State.flushAll_wf, State.sendMsg_mem, boxStatus_wf, schedViolation_wf, setFlag_wf]
theorem onFlagAnswer_wf (id refused) : Memory.wf (onFlagAnswer s id refused).mem = true := by
  unfold onFlagAnswer
  grind [boxStatus_wf]
theorem setReq_wf (r) : Memory.wf (setReq s r).mem = true := h
theorem endReq_wf (r) : Memory.wf (endReq s r).mem = true := h
theorem dropDecContext_wf (ctxid) : Memory.wf (dropDecContext s ctxid).mem = true := h
theorem leaveStream_wf (r fr x) : Memory.wf (leaveStream s r fr x).mem = true := by
  unfold leaveStream
  exact foldl_wf (fun _ h _ => by grind [writeRange_wf]) h _
theorem freezeDec_wf (dec r e) : Memory.wf (freezeDec s dec r e).mem = true := h
theorem finishFrame_wf (dec r f) : Memory.wf (finishFrame s dec r f).mem = true := by
  unfold finishFrame
  have hs := foldl_wf (f := fun t (x : Byte × Nat) =>
      if f.wrote.contains x.2 then t else t.writeBytes none none 0 (frameLoc t (r.grp s) f.vat x.2) [x.1])
    (fun _ h _ => ite_wf (fun _ => h) (fun _ => State.writeBytes_wf h ..)) h f.data.zipIdx
  grind [State.unpoison_mem, freezeDec_wf, writeRange_wf, fillVat_wf, arriveDecoder_wf, endReq_wf, setReq_wf]

theorem beginFrame_wf (dec fr) : Memory.wf (beginFrame s dec fr).mem = true := by
  unfold beginFrame
  grind [State.setVat_mem, freezeDec_wf, leaveStream_wf, setReq_wf]
theorem frameByte_wf (dec i) : Memory.wf (frameByte s dec i).mem = true := by
  unfold frameByte
  grind [State.writeBytes_wf, setReq_wf]
theorem endFrame_wf (dec) : Memory.wf (endFrame s dec).mem = true := by
  unfold endFrame
  grind [finishFrame_wf]
theorem endTeamReqs_wf (grid cluster team) : Memory.wf (endTeamReqs s grid cluster team).mem = true := by
  unfold endTeamReqs
  exact foldl_wf (fun _ h _ => by grind [endFrame_wf]) h _
theorem wakeSlot_wf (k f) : Memory.wf (wakeSlot s k f).mem = true := by
  unfold wakeSlot
  grind [State.setSlot_mem]
theorem freeTransmit_wf (j n) : Memory.wf (freeTransmit s j n).mem = true := by
  unfold freeTransmit
  simp +contextual [foldl_wf, ite_wf, h, State.setSeqLink_mem, wakeSlot_wf]
theorem wakeCurds_wf (j) : Memory.wf (wakeCurds s j).mem = true := h
theorem acceptChunk_wf (j k src c) : Memory.wf (acceptChunk s j k src c).mem = true := by
  unfold acceptChunk
  grind [State.bboxAdd_mem, State.sendMsg_mem, State.setSlot_mem, freeTransmit_wf, wakeCurds_wf, wakeSlot_wf]
theorem settleBacklog_wf (fuel j k) : Memory.wf (settleBacklog fuel j k s).mem = true := by
  induction fuel generalizing s with
  | zero => exact h
  | succ fuel ih => unfold settleBacklog; grind [acceptChunk_wf, State.setSlot_mem]

theorem settleSlot_wf (j k) : Memory.wf (settleSlot s j k).mem = true := by
  unfold settleSlot
  grind [settleBacklog_wf]
theorem arriveChunk_wf (link slot src c) : Memory.wf (arriveChunk s link slot src c).mem = true := by
  unfold arriveChunk
  grind [State.modSlot_mem, settleSlot_wf]
theorem sendChunk_wf (j k n payload label) : Memory.wf (sendChunk s j k n payload label).mem = true := by
  unfold sendChunk
  simp +contextual [foldl_wf, ite_wf, h, State.sendMsg_mem, State.setSeqLink_mem, arriveChunk_wf]
theorem hearEnded_wf (uid m aborted) : Memory.wf (hearEnded s uid m aborted).mem = true := by
  unfold hearEnded
  grind [writeStatus_wf]
theorem partEnded_wf (p) : Memory.wf (partEnded s p).mem = true := by
  unfold partEnded
  grind [State.sendMsg_mem, hearEnded_wf]
theorem lessLive_wf (launcher uid n aborted) : Memory.wf (lessLive s launcher uid n aborted).mem = true := by
  unfold lessLive
  grind [partEnded_wf]
theorem endSlot_wf (j k aborted) : Memory.wf (endSlot s j k aborted).mem = true := by
  unfold endSlot
  refine lessLive_wf (settleSlot_wf (ite_wf (fun _ => ?_) (fun _ => ?_)) _ _) .. <;>
    exact foldl_wf (f := fun t _ => t.bboxAdd 4 (seqMaster k) (s.slot k).imp.ctxid 0 0) (fun _ h _ => h) h _

theorem heldWrite_wf (held va d) : Memory.wf (heldWrite s held va d).mem = true := by
  unfold heldWrite
  exact foldl_wf (fun _ h _ => by grind [State.writeBytes_wf]) h _
theorem leaveSlot_wf (j k) : Memory.wf (leaveSlot s j k).mem = true := by
  unfold leaveSlot
  grind [State.setSeqLink_mem]
theorem freezeSlot_wf (j k kind code phys) : Memory.wf (freezeSlot s j k kind code phys).mem = true := by
  unfold freezeSlot
  grind [State.bboxAdd_mem, State.setSlot_mem, leaveSlot_wf]
theorem stopSlot_wf (j k code detail addr) : Memory.wf (stopSlot s j k code detail addr).mem = true := by
  unfold stopSlot
  dsimp only
  have h0 := fun x => leaveSlot_wf (s := s.setSlot k x) h j k
  split
  · exact h0 _
  · next hw =>
    have h1 := writeRange_wf (h0 _) _ _ _ _ hw
    split
    · next ha =>
      have h2 := addFlag_wf h1 _ _ _ _ ha
      exact ite_wf (fun _ => endSlot_wf h2 ..) (fun _ => h2)
    · split
      · exact freezeSlot_wf h1 ..
      · exact ite_wf (fun _ => endSlot_wf h1 ..) (fun _ => h1)

theorem apply_wf (e j k) : Memory.wf (SeqErr.apply e s j k).mem = true := by
  unfold SeqErr.apply
  grind [freezeSlot_wf, stopSlot_wf]
theorem atBoundary_wf (j k) : Memory.wf (atBoundary s j k).mem = true := by
  unfold atBoundary
  grind [endSlot_wf, stopSlot_wf]
/-- The state that a Fjarmar word comes to, if it comes to one, has a well-formed memory. -/
def ResKept : SeqRes → Prop
  | .go s _ | .boundary s _ | .wait s _ => Memory.wf s.mem = true
  | .err _ | .halt => True

theorem seqCommit_wf {r : SeqRes} (hr : ResKept r) (j k) : Memory.wf (seqCommit s j k r).mem = true := by
  cases r with
  | go t pc => have h : Memory.wf t.mem = true := hr; unfold seqCommit; grind [stopSlot_wf, State.modSlot_mem]
  | boundary t pc => have h : Memory.wf t.mem = true := hr; unfold seqCommit; grind [stopSlot_wf, atBoundary_wf, leaveSlot_wf, State.modSlot_mem]
  | wait t w => exact atBoundary_wf (leaveSlot_wf (s := t.modSlot k _) hr ..) ..
  | err e => exact apply_wf h ..
  | halt => exact endSlot_wf h ..

theorem releaseChunk_wf (j k n) : Memory.wf (releaseChunk s j k n).mem = true := by
  unfold releaseChunk
  grind [State.modSlot_mem, settleSlot_wf]
theorem waitfRead_kept (j x cc a b) : ResKept (waitfRead s j x cc a b) := by
  unfold waitfRead
  split
  · trivial
  · split <;> exact h
theorem rereadFlag_wf (j k) : Memory.wf (rereadFlag s j k).mem = true := by
  unfold rereadFlag
  dsimp only
  split
  · have hr := fun cc a b x y => waitfRead_kept (s := s.setSlot k y) h j x cc a b
    cases decodeChunk ((s.slot k).imp.words.getD (s.slot k).pc 0) with
    | none => exact h
    | some i =>
      cases i
      case waitf cc a b =>
        dsimp only
        split
        · exact h
        · exact seqCommit_wf (by exact h) (hr ..) ..
      all_goals exact h
  · exact h

theorem selectSlot_wf (j n) : Memory.wf (selectSlot s j n).mem = true := h
theorem abortSlot_wf (k) : Memory.wf (abortSlot s k).mem = true := by
  unfold abortSlot
  grind [State.setSlot_mem, endSlot_wf]
theorem dropStarts_wf (k f) : Memory.wf (dropStarts s k f).mem = true := by
  unfold dropStarts
  simp +contextual [foldl_wf, ite_wf, h, State.modSlot_mem, lessLive_wf]
theorem abortPart_wf (launcher uid) : Memory.wf (abortPart s launcher uid).mem = true := by
  unfold abortPart
  exact foldl_wf (fun _ h _ => by grind [abortSlot_wf, dropStarts_wf]) h _
theorem dropSeqContext_wf (ctxid) : Memory.wf (dropSeqContext s ctxid).mem = true := by
  unfold dropSeqContext
  exact foldl_wf (fun _ h _ => by grind [dropStarts_wf, endSlot_wf]) h _
theorem sendAbort_wf (ctxid uid m) : Memory.wf (sendAbort s ctxid uid m).mem = true := by
  unfold sendAbort
  grind [State.sendMsg_mem, abortPart_wf]
theorem modImp_wf (uid f) : Memory.wf (modImp s uid f).mem = true := h
theorem hearAnswer_wf (uid m ok) : Memory.wf (hearAnswer s uid m ok).mem = true := by
  unfold hearAnswer
  split
  · exact h
  · dsimp only
    refine ite_wf (fun _ => modImp_wf h ..) (fun _ => hearEnded_wf (ite_wf (fun _ => modImp_wf h ..) (fun _ => ?_)) ..)
    exact foldl_wf (fun _ h _ => sendAbort_wf h ..) (modImp_wf h ..) _

theorem answerStart_wf (ctxid launcher uid ok) : Memory.wf (answerStart s ctxid launcher uid ok).mem = true := by
  unfold answerStart
  grind [State.sendMsg_mem, hearAnswer_wf]
theorem receiveStart_wf (ctxid launcher kaddr param impid uid digest) :
    Memory.wf (receiveStart s ctxid launcher kaddr param impid uid digest).mem = true := by
  unfold receiveStart
  split
  · exact answerStart_wf h ..
  · split
    · exact answerStart_wf h ..
    · dsimp only
      refine ite_wf (fun _ => lessLive_wf (answerStart_wf ?_ ..) ..) (fun _ => answerStart_wf ?_ ..) <;>
        exact foldl_wf (fun _ h _ => by exact h) (by exact h) _

theorem launchImp_wf (ctxid kaddr param cflag ticket) : Memory.wf (launchImp s ctxid kaddr param cflag ticket).1.mem = true := by
  unfold launchImp
  split <;> simp +contextual [foldl_wf, ite_wf, h, State.sendMsg_mem, receiveStart_wf]
theorem rsSend_wf (dst m) : Memory.wf (rsSend s dst m).mem = true := h
theorem rsTell_wf (m) : Memory.wf (rsTell s m).mem = true := by
  unfold rsTell
  exact foldl_wf (fun _ h _ => by grind [rsSend_wf]) h _
theorem rsBox_wf (kind code phys) : Memory.wf (rsBox s kind code phys).mem = true := by
  unfold rsBox
  grind [State.bboxAdd_mem]
theorem rsBoxFault_wf (e) : Memory.wf (rsBoxFault s e).mem = true := by
  unfold rsBoxFault
  grind [rsBox_wf]
theorem rsLook_wf (off n) : Memory.wf (rsLook s off n).mem = true := by
  unfold rsLook
  grind [rsBoxFault_wf]
theorem rsPut_wf (off n x) : Memory.wf (rsPut s off n x).mem = true := by
  unfold rsPut
  grind [rsBoxFault_wf, writeRange_wf]
theorem rsState_wf (st err) : Memory.wf (rsState s st err).mem = true := by
  unfold rsState
  grind [rsPut_wf]
theorem rsBind_wf : Memory.wf (rsBind s).mem = true := by
  unfold rsBind
  grind [rsLook_wf, rsPut_wf]
theorem dropStaged_wf (j drop) : Memory.wf (dropStaged s j drop).mem = true := by
  unfold dropStaged
  refine ite_wf (fun _ => h) (fun _ => settleSlot_wf ?_ ..)
  rw [State.setSlot_mem]
  exact foldl_wf (fun _ h _ => by exact h) h _

theorem rsFreeSlots_wf : Memory.wf (rsFreeSlots s).mem = true := by
  unfold rsFreeSlots
  exact foldl_wf (fun _ h _ => by grind [State.modSlot_mem, dropStaged_wf, leaveSlot_wf]) h _
theorem wakeFor_wf (cs) : Memory.wf (wakeFor s cs).mem = true := by
  unfold wakeFor
  exact foldl_wf (fun _ h _ => by grind [wakeCurds_wf]) h _
theorem rsDonef_wf : Memory.wf (rsDonef s).mem = true := by
  unfold rsDonef
  grind [rsBoxFault_wf, setFlag_wf]
theorem rsEnd_wf : Memory.wf (rsEnd s).mem = true := by
  unfold rsEnd
  grind [rsDonef_wf, rsFreeSlots_wf]
theorem rsForget_wf : Memory.wf (rsForget s).mem = true := h
theorem rsHalt_wf (err) : Memory.wf (rsHalt s err).mem = true := by
  unfold rsHalt
  grind [rsBind_wf, rsEnd_wf, rsForget_wf, rsState_wf, rsTell_wf]
theorem rsStop_wf (err) : Memory.wf (rsStop s err).mem = true := by
  unfold rsStop
  grind [rsHalt_wf]
theorem rsStopped_wf : Memory.wf (rsStopped s).mem = true := by
  unfold rsStopped
  grind [rsBind_wf, rsEnd_wf, rsForget_wf, rsState_wf]
theorem rsSettled_wf : Memory.wf (rsSettled s).mem = true := by
  unfold rsSettled
  grind [rsHalt_wf]
theorem rsFreeze_wf (kind code phys) : Memory.wf (rsFreeze s kind code phys).mem = true := by
  unfold rsFreeze
  grind [rsBox_wf, rsSettled_wf]
theorem rsFault_wf (e) : Memory.wf (rsFault s e).mem = true := by
  unfold rsFault
  grind [rsBind_wf, rsFreeze_wf, rsHalt_wf, rsPut_wf]
theorem dropReshard_wf (ctxid) : Memory.wf (dropReshard s ctxid).mem = true := by
  unfold dropReshard
  grind [rsFreeSlots_wf, rsTell_wf]
theorem rsAccept_wf (ctxid addr b plist after) : Memory.wf (rsAccept s ctxid addr b plist after).mem = true := by
  unfold rsAccept
  grind [rsFreeSlots_wf]
theorem rsBegin_wf : Memory.wf (rsBegin s).mem = true := by
  unfold rsBegin
  have hs := foldl_wf (fun _ h (a : Nat × Nat × Nat) => State.flushCore_wf h a.2.2) h s.rs.after
  grind [rsState_wf, rsBind_wf, rsStop_wf, rsSettled_wf, rsTell_wf]

theorem rsMark_wf (c b) : Memory.wf (rsMark s c b).mem = true := by
  unfold rsMark
  grind [rsLook_wf, rsPut_wf]
theorem rsFinish_wf : Memory.wf (rsFinish s).mem = true := by
  unfold rsFinish
  grind [rsEnd_wf, rsState_wf, rsTell_wf]
theorem rsCommitted_wf (gen) : Memory.wf (rsCommitted s gen).mem = true := by
  unfold rsCommitted
  grind [rsFault_wf, rsFinish_wf, rsSend_wf, setFlag_wf]
theorem rsCheckMoved_wf : Memory.wf (rsCheckMoved s).mem = true := by
  unfold rsCheckMoved
  grind [rsCommitted_wf, rsEnd_wf, rsFault_wf, rsPut_wf, rsSend_wf, rsState_wf]
theorem rsAsk_wf (cs) : Memory.wf (rsAsk s cs).mem = true := by
  unfold rsAsk
  grind [wakeFor_wf]
theorem rsUnsee_wf (m c) : Memory.wf (rsUnsee s m c).mem = true := h
theorem sendCurd_wf (m c d) : Memory.wf (sendCurd s m c d).mem = true := by
  unfold sendCurd
  exact foldl_wf (fun _ h _ => by grind [State.sendMsg_mem]) h _
theorem rsServe_wf (m c) : Memory.wf (rsServe s m c).mem = true := by
  unfold rsServe
  grind [State.setSeqLink_mem, rsFault_wf, rsUnsee_wf, sendCurd_wf]
theorem rsServeAll_wf : Memory.wf (rsServeAll s).mem = true := by
  unfold rsServeAll
  grind [wakeFor_wf]
theorem rsStore_wf (c x d) : Memory.wf (rsStore s c x d).mem = true := by
  unfold rsStore
  split
  · exact rsFault_wf h _
  · refine rsSettled_wf (rsCheckMoved_wf (rsMark_wf (rsUnsee_wf (ite_wf (fun _ => heldWrite_wf h ..) fun _ => ?_) ..) ..))
    exact unpoisonAll_wf (foldl_wf (fun _ h _ => heldWrite_wf h ..) h _) _

theorem curdArrives_wf (c d) : Memory.wf (curdArrives s c d).mem = true := by
  unfold curdArrives
  grind [rsFault_wf, rsStore_wf]
theorem curdStep_wf (j) : Memory.wf (curdStep s j).mem = true := by
  unfold curdStep
  grind [State.setSlot_mem, curdArrives_wf, rsSend_wf, rsServe_wf, settleSlot_wf]
theorem curdTurn_wf (j) : Memory.wf (curdTurn s j).mem = true := by
  unfold curdTurn
  grind [State.modSlot_mem, curdStep_wf, leaveSlot_wf]
theorem curdSee_wf (m c i n) : Memory.wf (curdSee s m c i n).mem = true := by
  unfold curdSee
  grind [rsFault_wf]
theorem curdMove_wf (j i n) : Memory.wf (curdMove s j i n).mem = true := by
  unfold curdMove
  dsimp only
  split
  · exact h
  · split
    · exact h
    · split
      · exact rsFault_wf h _
      · exact foldl_wf (fun _ h _ => heldWrite_wf h ..) h _

theorem rsBack_wf : Memory.wf (rsBack s).mem = true := by
  unfold rsBack
  grind [rsSend_wf, rsState_wf]
theorem rsClear_wf (cs) : Memory.wf (rsClear s cs).mem = true := by
  unfold rsClear
  exact ite_wf (fun _ => foldl_wf (fun _ h _ => rsMark_wf h ..) h _) (fun _ => rsBack_wf (foldl_wf (fun _ h _ => rsMark_wf h ..) h _))

theorem onClear_wf (cs) : Memory.wf (onClear s cs).mem = true := by
  unfold onClear
  dsimp only
  refine rsSettled_wf (rsAsk_wf (rsClear_wf ?_ _) _)
  dsimp only
  exact foldl_wf (fun _ h _ => dropStaged_wf h ..) h _

theorem onReshard_wf (src ctxid addr m) : Memory.wf (onReshard s src ctxid addr m).mem = true := by
  unfold onReshard
  grind [State.sendMsg_mem, onClear_wf, rsCommitted_wf, rsEnd_wf, rsFinish_wf, rsServeAll_wf, rsSettled_wf, rsState_wf, rsStopped_wf]
theorem onCredit_wf (link n) : Memory.wf (onCredit s link n).mem = true := by
  unfold onCredit
  grind [freeTransmit_wf, rsServeAll_wf]
theorem endPacket_wf (ctxid p code gridid drop) : Memory.wf (endPacket s ctxid p code gridid drop).mem = true := by
  unfold endPacket
  grind [writeStatus_wf]
theorem zeroBytes_wf (loc n) : Memory.wf (zeroBytes s loc n).mem = true := Memory.filter_wf h _

theorem pasteBytes_wf (loc n b) : Memory.wf (pasteBytes s loc n b).mem = true := by
  unfold pasteBytes
  simp +contextual [foldl_wf, ite_wf, h, State.setRaw_wf, zeroBytes_wf]
theorem placeGroup_wf (core fresh x) {t : State} {y} (hf : placeGroup s core fresh x = some (t, y)) : Memory.wf t.mem = true := by
  unfold placeGroup at hf
  grind [State.setGrp_mem]
theorem placeGroups_wf (core fresh gs) {t : State} {y} (hf : placeGroups core fresh gs s = some (t, y)) : Memory.wf t.mem = true := by
  induction gs generalizing s y with
  | nil => cases hf; exact h
  | cons x rest ih =>
    unfold placeGroups at hf
    split at hf
    · cases hf
    · next s1 gid hg =>
      obtain ⟨r, hr, he⟩ := Option.map_eq_some_iff.1 hf
      cases he
      exact ih (placeGroup_wf h _ _ _ hg) hr

/-- A team placed leaves a trace of its own where it was not saved. -/
theorem traced_wf (saved : Bool) (gids : List Nat) : Memory.wf (if saved then s else match gids with
    | g :: _ => s.traceEvent (s.grp (2 * g)) 4 0 0 0
    | [] => s).mem = true := by
  split
  · exact h
  · cases gids with
    | nil => exact h
    | cons g gs => exact traceEvent_wf h ..
theorem dropClean_wf (core) : Memory.wf (s.dropClean core).mem = true := by
  rw [State.dropClean_mem]
  exact h
theorem placeTeam_wf (gk cid core p x) {t : State} (hf : placeTeam s gk cid core p x = some t) : Memory.wf t.mem = true := by
  unfold placeTeam at hf
  dsimp only at hf
  obtain ⟨_, hf⟩ := Option.ite_none_left_eq_some.1 hf
  split at hf
  · next hg =>
    have hs := placeGroups_wf h _ _ _ hg
    rw [← Option.some.inj hf]
    refine traced_wf (dropClean_wf (foldl_wf (fun _ h _ => pasteBytes_wf (by exact h) ..) (pasteBytes_wf ?_ ..) _) _) ..
    exact foldl_wf (fun _ h _ => pasteBytes_wf h ..) (pasteBytes_wf (by exact hs) ..) _
  · contradiction

theorem placeRect_wf (gk cid x teams) {t : State} (hf : placeRect s gk cid x teams = some t) : Memory.wf t.mem = true := by
  obtain ⟨die, _, hf⟩ := List.exists_of_findSome?_eq_some hf
  obtain ⟨row, _, hf⟩ := List.exists_of_findSome?_eq_some hf
  obtain ⟨col, _, hf⟩ := List.exists_of_findSome?_eq_some hf
  dsimp only at hf
  split at hf
  · cases hf
  · obtain ⟨s1, h1, rfl⟩ := Option.map_eq_some_iff.1 hf
    have h1 := foldlM_some_wf (fun _ _ _ h hf => placeTeam_wf h _ _ _ _ _ hf) h h1
    exact h1

theorem takeScratch_wf (gk) {t : State} (hf : takeScratch s gk = some t) : Memory.wf t.mem = true := by
  unfold takeScratch at hf
  dsimp only at hf
  split at hf
  · cases hf; exact h
  · obtain ⟨s1, h1, rfl⟩ := Option.map_eq_some_iff.1 hf
    split at h1
    · cases h1; exact h
    · have h1 := foldlM_some_wf (fun _ _ _ h hf => by
        obtain ⟨b, _, rfl⟩ := Option.map_eq_some_iff.1 hf
        exact zeroBytes_wf (by exact h) ..) h h1
      exact h1

theorem placeCluster_wf (gk cid) {t : State} (hf : placeCluster s gk cid = some t) : Memory.wf t.mem = true := by
  obtain ⟨s1, h1, hf⟩ := Option.bind_eq_some_iff.1 hf
  obtain ⟨s2, h2, rfl⟩ := Option.map_eq_some_iff.1 hf
  have h2 := placeRect_wf (takeScratch_wf h _ h1) _ _ _ _ h2
  exact h2

theorem placeClusters_wf (gk all cs) {t : State} (hf : placeClusters gk all cs s = some t) : Memory.wf t.mem = true := by
  induction cs generalizing s with
  | nil => cases hf; exact h
  | cons c rest ih => unfold placeClusters at hf; grind [placeCluster_wf]

theorem flagViolation_wf (ctxid p have_) : Memory.wf (flagViolation s ctxid p have_).mem = true := by
  unfold flagViolation
  cases (List.range p.ndep).findSome? _ with
  | none => exact h
  | some e => exact schedViolation_wf h ..

theorem settleQueue_wf (fuel q) : Memory.wf (settleQueue fuel q s).mem = true := by
  induction fuel generalizing s with
  | zero => exact h
  | succ fuel ih => unfold settleQueue; grind [flagViolation_wf, endPacket_wf, launchImp_wf, State.setQueue_mem]

theorem settle_wf (q) : Memory.wf (State.settle s q).mem = true := by
  unfold State.settle
  grind [settleQueue_wf]
theorem enqueue_wf (q p after) : Memory.wf (enqueue s q p after).1.mem = true := by
  unfold enqueue
  grind [State.setQueue_mem, settle_wf]
theorem placeHead_wf (q) {t : State} (hf : placeHead s q = some t) : Memory.wf t.mem = true := by
  unfold placeHead at hf
  split at hf
  · cases hf
  · dsimp only at hf
    split at hf
    · cases hf
    · obtain ⟨s1, h1, rfl⟩ := Option.map_eq_some_iff.1 hf
      have h1 := placeClusters_wf (ite_wf (fun _ => foldl_wf (fun _ h _ => State.flushCore_wf h _) h _)
        (fun _ => (by exact foldl_wf (fun _ h _ => State.flushCore_wf h _) h _))) _ _ _ h1
      exact ite_wf (fun _ => settle_wf (by exact h1) _) (fun _ => h1)

theorem placeDiscarded_wf (level) {t : State} (hf : placeDiscarded s level = some t) : Memory.wf t.mem = true := by
  obtain ⟨e, _, hf⟩ := List.exists_of_findSome?_eq_some hf
  split at hf
  · exact placeCluster_wf h _ _ hf
  · cases hf

theorem restoreCluster_wf (c) {t : State} (hf : restoreCluster s c = some t) : Memory.wf t.mem = true :=
  placeRect_wf (by exact h) _ _ _ _ hf

theorem settleAll_wf : Memory.wf (settleAll s).mem = true := by
  unfold settleAll
  exact foldl_wf (fun _ h _ => by grind [settle_wf]) h _
theorem placeNew_wf (level) {t : State} (hf : placeNew s level = some t) : Memory.wf t.mem = true := by
  obtain ⟨q, _, hf⟩ := List.exists_of_findSome?_eq_some hf
  obtain ⟨s1, h1, rfl⟩ := Option.map_eq_some_iff.1 hf
  have h1 := placeHead_wf h _ h1
  exact h1

theorem servePlacement_wf : Memory.wf (servePlacement s).mem = true := by
  have hs := settleAll_wf h
  unfold servePlacement
  dsimp only
  refine getD_wf (fun t hf => ?_) hs
  obtain ⟨level, _, hf⟩ := List.exists_of_findSome?_eq_some hf
  split at hf
  · exact Option.some.inj hf ▸ hs
  · cases hd : placeDiscarded (settleAll s) level with
    | none =>
      rw [hd, Option.orElse_none] at hf
      exact placeNew_wf hs _ hf
    | some u =>
      rw [hd, Option.orElse_some] at hf
      exact Option.some.inj hf ▸ placeDiscarded_wf hs _ hd

theorem dropFrames_wf (gk) : Memory.wf (dropFrames s gk).1.mem = true := by
  unfold dropFrames
  refine List.foldlRecOn (motive := fun x : State × Nat => Memory.wf x.1.mem = true) _ _ h fun x h core _ => ?_
  grind [voidSlots_wf, schedViolation_wf, State.setDeque_mem, State.setRinged_mem]

theorem endGridReqs_wf (gk) : Memory.wf (endGridReqs s gk).mem = true := by
  unfold endGridReqs
  exact foldl_wf (fun _ h _ => by grind [endTeamReqs_wf]) h _
theorem endGrid_wf (gk code) : Memory.wf (endGrid s gk code).mem = true := by
  unfold endGrid
  grind [State.setGrid_mem, dropFrames_wf, endGridReqs_wf, endPacket_wf]
theorem retireGroup_wf (k) : Memory.wf (retireGroup s k).mem = true := by
  unfold retireGroup
  grind [State.setGrp_mem, State.setTeam_mem, settleGrp_wf]
theorem releaseTeam_wf (tk) : Memory.wf (releaseTeam s tk).mem = true := h
theorem retireTeam_wf (tk) : Memory.wf (retireTeam s tk).mem = true := by
  unfold retireTeam
  grind [State.setClus_mem, State.setGrid_mem, endGrid_wf, endTeamReqs_wf, releaseTeam_wf, traceEvent_wf]
theorem passTime_wf : Memory.wf (passTime s).mem = true := h
theorem frontTrap_wf (k m pc) {t : State} (hf : frontTrap s k m pc = some t) : Memory.wf t.mem = true := by
  unfold frontTrap at hf
  grind [meetTrap_wf]
theorem undecoded_wf (w) : Memory.wf (undecoded s w).mem = true := by
  unfold undecoded
  grind [trapAll_wf, trapOver_wf]
theorem leaveTakes_wf (i) : Memory.wf (leaveTakes s i).mem = true := by
  unfold leaveTakes
  exact rollbackTakes_wf h ..
theorem removeGrp_wf (k) : Memory.wf (removeGrp s k).mem = true := by
  unfold removeGrp
  grind [State.setGrp_mem, drainStores_wf, settleGrp_wf]
theorem clearCluster_wf (ck) : Memory.wf (clearCluster s ck).mem = true :=
  foldl_wf (fun _ h _ => endTeamReqs_wf h ..) (foldl_wf (fun _ h _ => removeGrp_wf h _) h _) _

theorem discardCluster_wf (ck) : Memory.wf (discardCluster s ck).mem = true := by
  unfold discardCluster
  grind [State.setClus_mem, State.setGrid_mem, clearCluster_wf]
theorem applyDecision_wf (ck d) : Memory.wf (applyDecision s ck d).mem = true := by
  unfold applyDecision
  grind [State.setClus_mem, discardCluster_wf]
theorem requestCluster_wf (ck T forceSave) : Memory.wf (requestCluster s ck T forceSave).mem = true := by
  unfold requestCluster
  grind [State.setClus_mem, applyDecision_wf]
theorem settleForEvent_wf (k) : Memory.wf (settleForEvent s k).mem = true := by
  unfold settleForEvent
  simp +contextual [foldl_wf, ite_wf, h, State.modGrp_mem, rollbackTakes_wf, undoFence_wf]
theorem saveFrames_wf (gk team core) {t : State} (hf : saveFrames s gk team core = some t) : Memory.wf t.mem = true := by
  unfold saveFrames at hf
  extract_lets fs ctxid at hf
  split at hf
  · exact Option.some.inj hf ▸ h
  · split at hf
    · exact Option.some.inj hf ▸ schedViolation_wf h ..
    · split at hf
      · contradiction
      · split at hf
        · exact Option.some.inj hf ▸ schedViolation_wf h ..
        · next ha =>
          rw [← Option.some.inj hf, State.setDeque_mem]
          exact appendRing_wf h _ _ _ ha

theorem storeCluster_wf (ck) : Memory.wf (storeCluster s ck).mem = true := by
  unfold storeCluster
  dsimp only
  split
  · exact h
  · next hf =>
    have h1 := foldlM_some_wf (fun _ _ _ h hf => saveFrames_wf h _ _ _ hf) h hf
    dsimp only
    rw [State.setClus_mem]
    refine foldl_wf (fun _ h _ => by simpa using h) (foldl_wf (fun _ h _ => by simpa using h) (foldl_wf (fun _ h e => ?_)
      (foldl_wf (fun _ h _ => State.flushCore_wf h _) h1 _) _) _) _
    split
    · exact traceEvent_wf h ..
    · exact h

theorem finishContext_wf (ctxid) : Memory.wf (finishContext s ctxid).mem = true := by
  unfold finishContext
  refine ite_wf (fun _ => h) (fun _ => ?_)
  dsimp only
  exact dropReshard_wf (dropDecContext_wf (foldl_wf (fun _ h _ => endGrid_wf h ..) h _) _) _

theorem takeAsync_wf (k) : Memory.wf (takeAsync s k).mem = true := by
  unfold takeAsync
  grind [State.modGrp_mem, finishContext_wf, haltGrp_wf, removeGrp_wf, settleForEvent_wf, storeCluster_wf]
theorem endConnection_wf (j) : Memory.wf (endConnection s j).mem = true := h
theorem transmit_wf (j k) : Memory.wf (transmit s j k).mem = true := by
  unfold transmit
  grind [State.setLink_mem]
theorem acceptMessages_wf (j ms) : Memory.wf (acceptMessages s j ms).mem = true := by
  unfold acceptMessages
  exact foldl_wf (fun _ h _ => by grind [State.setLink_mem]) h _
theorem refuseRange_wf (m id noPage e) : Memory.wf (refuseRange s m id noPage e).mem = true := by
  unfold refuseRange
  grind [State.sendMsg_mem, peerViolation_wf]
theorem serveWrite_wf (m id addr d) : Memory.wf (serveWrite s m id addr d).mem = true := by
  unfold serveWrite
  grind [State.sendMsg_mem, refuseRange_wf, writeRange_wf]
theorem serveRead_wf (m id addr n) : Memory.wf (serveRead s m id addr n).mem = true := by
  unfold serveRead
  grind [State.sendMsg_mem, refuseRange_wf]
theorem onAnswer_wf (id vals) : Memory.wf (onAnswer s id vals).mem = true := by
  unfold onAnswer
  grind [onCopyAnswer_wf, onFlagAnswer_wf, onResponse_wf]
theorem onBytes_wf (id d) : Memory.wf (onBytes s id d).mem = true := by
  unfold onBytes
  grind [onBlock_wf, onCopyAnswer_wf]
theorem onRefused_wf (id lanes) : Memory.wf (onRefused s id lanes).mem = true := by
  unfold onRefused
  grind [onBlock_wf, onCopyAnswer_wf, onFlagAnswer_wf, onRefusal_wf]
theorem chunkWhole_wf (src link slot c) : Memory.wf (chunkWhole s src link slot c).mem = true := by
  unfold chunkWhole
  grind [arriveChunk_wf]
theorem deliverMessage_wf (m) : Memory.wf (deliverMessage s m).mem = true := by
  unfold deliverMessage
  grind [abortPart_wf, chunkWhole_wf, hearAnswer_wf, hearEnded_wf, onAnswer_wf, onBytes_wf, onCredit_wf, onRefused_wf, onReshard_wf, receiveStart_wf, serveRead_wf, serveRequest_wf, serveWrite_wf]
theorem deliver_wf (k) : Memory.wf (deliver s k).mem = true := by
  unfold deliver
  split <;> simp +contextual [foldl_wf, ite_wf, h, deliverMessage_wf]
theorem clearCounters_wf (j tx) : Memory.wf (clearCounters s j tx).mem = true := h
theorem dropExtent_wf (ctxid v) : Memory.wf (dropExtent s ctxid v).mem = true := h
theorem tlbFill_wf (who ctxid page) : Memory.wf (tlbFill s who ctxid page).mem = true := by
  unfold tlbFill
  grind 
theorem tlbDrop_wf (who ctxid page) : Memory.wf (tlbDrop s who ctxid page).mem = true := h
theorem refuse_wf (status) : Memory.wf (refuse s status).st.mem = true := h
theorem accept_wf : Memory.wf (accept s).st.mem = true := h
theorem freezeQp_wf (q ctxid code phys) : Memory.wf (freezeQp s q ctxid code phys).mem = true := h
theorem failWith_wf (c ctxid e) {d : Done} (hd : Memory.wf d.st.mem = true) : Memory.wf (failWith s c ctxid e d).st.mem = true := by
  unfold failWith
  split
  · exact freezeQp_wf h ..
  · exact hd

theorem unknownCommand_wf (op c) : Memory.wf (unknownCommand s op c).mem = true := by
  unfold unknownCommand
  exact ite_wf (fun _ => h) (fun _ => h)

theorem awaitEnd_wf (x0) {t : State} (hf : awaitEnd s x0 = some t) : Memory.wf t.mem = true := by
  unfold awaitEnd at hf
  grind [dropExtent_wf]
theorem sendReply_wf (q) : Memory.wf (sendReply s q).mem = true := by
  unfold sendReply
  grind [State.send_mem, State.setQp_mem, awaitEnd_wf]
theorem createContext_wf (cmd d) : Memory.wf (createContext s cmd d).st.mem = true := by
  unfold createContext
  have h1 : ∀ x y, Memory.wf (({ s.setCtx x y with free := (s.setCtx x y).free + 1 } : State)).mem = true := fun _ _ => h
  dsimp only
  grind [refuse_wf, accept_wf, failWith_wf, writeRange_wf, State.setCtx_mem]

theorem cancelPackets_wf (q grids) : Memory.wf (cancelPackets s q grids).mem = true := by
  unfold cancelPackets
  refine foldl_wf (fun _ h x => ?_) (by exact h) _
  split
  · exact endPacket_wf h ..
  · exact ite_wf (fun _ => h) (fun _ => endGrid_wf (by exact foldl_wf (fun _ h _ => clearCluster_wf h _) h _) ..)

theorem destroyContext_wf (id) : Memory.wf (destroyContext s id).mem = true := by
  unfold destroyContext
  dsimp only
  refine finishContext_wf ?_ _
  dsimp only
  refine dropReshard_wf (dropDecContext_wf (dropSeqContext_wf (foldl_wf (fun _ h _ => ?_) ?_ _) _) _) _
  · rw [State.setQueue_mem]
    exact cancelPackets_wf h ..
  · exact h

theorem openQueue_wf (b) : Memory.wf (openQueue s b).st.mem = true := by
  unfold openQueue
  grind [State.setQueue_mem, accept_wf, refuse_wf]
theorem rdmaFail_wf (q ctxid e) : Memory.wf (rdmaFail s q ctxid e).mem = true := by
  unfold rdmaFail
  grind [State.send_mem, freezeQp_wf]
theorem rdmaCheck_wf (x) {t : State} (hf : rdmaCheck s x = .error t) : Memory.wf t.mem = true := by
  unfold rdmaCheck at hf
  grind [rdmaFail_wf, State.send_mem]

theorem rdmaStore_wf (ps data done) : Memory.wf (rdmaStore s ps data done).mem = true := by
  unfold rdmaStore
  refine ite_wf (fun _ => foldl_wf (fun _ h _ => State.writeBytes_wf h ..) h _) (fun _ => foldl_wf (fun _ h _ => ?_) h _)
  exact foldl_wf (fun _ h _ => ite_wf (fun _ => h) (fun _ => State.writeBytes_wf h ..)) h _

theorem rdmaEnd_wf (x) : Memory.wf (rdmaEnd s x).mem = true := by
  unfold rdmaEnd
  grind [rdmaCheck_wf, rdmaStore_wf, freezeQp_wf, State.send_mem, State.setQp_mem]

theorem rdmaPart_wf (x n) : Memory.wf (rdmaPart s x n).mem = true := by
  unfold rdmaPart
  grind [State.setQp_mem, State.writeBytes_wf, rdmaCheck_wf]
theorem endAhead_wf (qp) : Memory.wf (endAhead s qp).mem = true := by
  unfold endAhead
  grind [rdmaEnd_wf]
theorem beforeRdma_wf (x) : Memory.wf (beforeRdma s x).mem = true := by
  unfold beforeRdma
  grind [endAhead_wf]
theorem refuseObject_wf (cmd ctxid buf n reason kindex es) :
    Memory.wf (refuseObject s cmd ctxid buf n reason kindex es).st.mem = true := by
  unfold refuseObject
  grind [writeRange_wf, failWith_wf]

theorem refuseLoad_wf (cmd ctxid b f) : Memory.wf (refuseLoad s cmd ctxid b f).st.mem = true := by
  unfold refuseLoad
  grind [freezeQp_wf, refuseObject_wf, refuse_wf]
theorem sealBlock_wf (ctxid records) : Memory.wf (sealBlock s ctxid records).2.mem = true := h
theorem writeTrace_wf (ctxid) : Memory.wf (writeTrace s ctxid).mem = true := by
  unfold writeTrace
  dsimp only
  have h1 := sealBlock_wf h ctxid (s.ctx ctxid).trace.recs.flatten
  split
  · next hf =>
    obtain ⟨s2, h2, hf⟩ := except_bind_ok hf
    have hf := writeRange_wf (writeRange_wf h1 _ _ _ _ h2) _ _ _ _ hf
    exact hf
  · exact schedViolation_wf h1 ..

theorem releaseGroup_wf (k) : Memory.wf (releaseGroup s k).mem = true := h
theorem sealBlocks_wf (ctxid n d) : Memory.wf (sealBlocks ctxid n s d).2.mem = true := by
  induction n generalizing s d with
  | zero => exact h
  | succ n ih => unfold sealBlocks; exact ih (sealBlock_wf h ..) _

theorem writeBuffer_wf (c a d) {t : State} (hf : writeBuffer s c a d = .ok t) : Memory.wf t.mem = true := by
  unfold writeBuffer at hf
  grind [State.writeBytes_wf, writeRange_wf]
theorem rekey_wf (slot key) : Memory.wf (rekey s slot key).mem = true := by
  unfold rekey
  simp +contextual [foldl_wf, ite_wf, h]
theorem migrateOut_wf (id features) : Memory.wf (migrateOut s id features).mem = true := by
  unfold migrateOut
  grind [State.setCtx_mem]
theorem migrateIn_wf (x) : Memory.wf (migrateIn s x).mem = true := by
  unfold migrateIn
  split <;> simp +contextual [foldl_wf, ite_wf, h, State.setClus_mem, State.setCtx_mem, State.setGrid_mem]
theorem afterStart_wf (m) : Memory.wf (afterStart s m).mem = true := rfl

theorem emptyL2_wf : Memory.wf (emptyL2 s).mem = true := by
  refine foldl_wf (fun t h e => ?_) h _
  cases e.2 with
  | none => exact h
  | some x => exact leaveL2_wf h ..

theorem failStart_wf (m step warm) : Memory.wf (failStart s m step warm).mem = true := Memory.filter_wf (emptyL2_wf h) _

theorem coldStart_wf (imgs fail) : Memory.wf (coldStart s imgs fail).mem = true := by
  unfold coldStart
  grind [afterStart_wf, failStart_wf]
theorem warmStart_wf (imgs fail) : Memory.wf (warmStart s imgs fail).mem = true := by
  unfold warmStart
  refine ite_wf (fun _ => coldStart_wf h ..) (fun _ => ite_wf (fun _ => failStart_wf h ..) (fun _ => ite_wf (fun _ => failStart_wf h ..) (fun _ => ?_)))
  rw [State.bboxAdd_mem]
  exact ite_wf (fun _ => Memory.filter_wf (emptyL2_wf h) _) (fun _ => rfl)

theorem keepAge_wf : Memory.wf (keepAge s).mem = true := by
  unfold keepAge
  simp +contextual [foldl_wf, ite_wf, h, State.setQuad_mem]
theorem readyTurn_wf (k m) : Memory.wf (readyTurn s k m).mem = true := by
  unfold readyTurn
  grind [State.modGrp_mem, State.setQuad_mem]
theorem noteStall_wf (k reason) : Memory.wf (noteStall s k reason).mem = true := by
  unfold noteStall
  grind [State.modGrp_mem]
theorem startRun_wf (k m) : Memory.wf (startRun s k m).mem = true := by
  unfold startRun
  dsimp only
  split
  · rw [State.setQuad_mem]
    exact foldl_wf (fun _ h _ => ite_wf (fun _ => h) (fun _ => noteStall_wf h ..)) h _
  · exact h

theorem noteTurn_wf (k m) : Memory.wf (noteTurn s k m).mem = true := by
  unfold noteTurn
  grind [startRun_wf]
theorem chosen_wf (t) : Memory.wf (chosen s t).2.mem = true := by
  unfold chosen
  grind [noteTurn_wf]
theorem keepDue_wf : Memory.wf (keepDue s).mem = true := h
theorem settleDue_wf (d) : Memory.wf (settleDue s d).mem = true := h
theorem nextTurn_wf (n) : Memory.wf (nextTurn s n).2.mem = true := by
  unfold nextTurn
  grind [chosen_wf, keepAge_wf, keepDue_wf, settleDue_wf]
theorem fillSector_wf (core ctxid va) : Memory.wf (fillSector s core ctxid va).mem = true := by
  unfold fillSector
  split
  · exact h
  · split
    · refine ite_wf (fun _ => h) (fun _ => State.fitL1_wf ?_ _)
      dsimp only
      exact foldl_wf (fun _ h _ => ite_wf (fun _ => h) (fun _ => by exact h)) h _
    · exact h

theorem dropL2_wf (sector) : Memory.wf (dropL2 s sector).mem = true := by
  unfold dropL2
  grind [leaveL2_wf]
theorem fitL2_wf (die) : Memory.wf (fitL2 s die).mem = true := by
  unfold fitL2
  grind [dropL2_wf]
theorem fillL2_wf (ctxid va) : Memory.wf (fillL2 s ctxid va).mem = true := by
  unfold fillL2
  grind [enterL2_wf, fitL2_wf]
theorem dropCode_wf (key) : Memory.wf (State.dropCode s key).mem = true := h
theorem fetchFill_wf (core ctxid va) : Memory.wf (fetchFill s core ctxid va).mem = true := by
  unfold fetchFill
  grind [dropCode_wf]
theorem fetchDrop_wf (core word) : Memory.wf (fetchDrop s core word).mem = true := h
end
end Sys2Proof.MemoryForm

namespace Sys2Proof.MemoryForm
open Sys2Proof.Machine

/-! ### Meanings and answers -/

/-- An answer whose next state has a well-formed memory. -/
def Kept (r : Res) : Prop := ∀ t, r = .next t → Memory.wf t.mem = true

theorem next_kept {s : State} (h : Memory.wf s.mem = true) : Kept (.next s) := fun _ ht => Host.Outcome.next.inj ht ▸ h

theorem issue_kept {s : State} (h : Memory.wf s.mem = true) {i} {m : View → State → Meaning}
    (hm : ∀ w s, Memory.wf s.mem = true → Keeps (m w s)) : Kept (issue i s m) := next_kept (issueState_wf h _ _ hm)

theorem allOk_keeps {eff : Word → State → State} (he : ∀ done s, Memory.wf s.mem = true → Memory.wf (eff done s).mem = true) (w) :
    Keeps (allOk w eff) := he

theorem once_keeps (w f) : Keeps (once w f) := fun _ _ h => ite_wf (fun _ => h) (fun _ => h)
theorem queued_keeps (w f) : Keeps (queued w f) := fun _ _ h => ite_wf (fun _ => h) (fun _ => h)
theorem transfer_keeps (isCall f w s) : Keeps (transfer isCall f w s) := fun _ _ h => ite_wf (fun _ => h) (fun _ => h)

theorem loadMeaning_keeps {pre : View → State → State} (hpre : ∀ w s, Memory.wf s.mem = true → Memory.wf (pre w s).mem = true)
    (size sgn plain k d ea w s) : Keeps (loadMeaning size sgn plain k d ea pre w s) := by
  intro done s h
  refine issueRemote_wf (selfBefore_wf (hinted_wf ?_ ..) ..) ..
  exact ite_wf (fun _ => ite_wf (fun _ => h) (fun _ => hpre _ _ h))
    (fun _ => issueOp_wf (by exact ite_wf (fun _ => h) (fun _ => hpre _ _ h)) ..)

theorem storeMeaning_keeps (size k rel home rk data ea w s) : Keeps (storeMeaning size k rel home rk data ea w s) := by
  intro done s h
  refine issueRemote_wf (selfBefore_wf ?_ ..) ..
  refine ite_wf (fun _ => releaseRemote_wf ?_ ..) (fun _ => ?_) <;>
    exact ite_wf (fun _ => h) (fun _ => issueOp_wf (by exact h) ..)

theorem atomMeaning_keeps (wide sc fn rk dest a x e w s) : Keeps (atomMeaning wide sc fn rk dest a x e w s) := by
  intro done s h
  refine issueRemote_wf (selfBefore_wf ?_ ..) ..
  have hr := fun g ps => atomLanes_wf (s := (List.foldl (fun s (x : Nat × Place) => drainOver s w.key x.1 x.2.loc (if wide then 8 else 4)) s
    ps).modGrp w.key g) (foldl_wf (fun _ h _ => drainOver_wf h ..) h _) w sc (if wide then 8 else 4) rk (fun l => w.g.rv64 a l) (x w) (e w)
  exact ite_wf (fun _ => hr ..) (fun _ => issueOp_wf (hr ..) ..)

theorem spawnMeaning_keeps (q w s) : Keeps (spawnMeaning q w s) := fun _ _ h => spawnLanes_wf h ..

theorem takeMeaning_keeps (d w s) : Keeps (takeMeaning d w s) := by
  unfold takeMeaning
  dsimp only
  split <;> exact fun _ _ h => takeRun_wf h ..

theorem feederMeaning_keeps {eff : State → State} (he : ∀ s, Memory.wf s.mem = true → Memory.wf (eff s).mem = true) (w out) :
    Keeps (feederMeaning w out eff) := fun _ _ h => ite_wf (fun _ => h) (fun _ => he _ h)

theorem engineFails_keeps (w l e) : Keeps (engineFails w l e) := fun _ _ h => ite_wf (fun _ => h) (fun _ => ask_wf h ..)

theorem engineMeaning_keeps {α : Type} {check : State → Except EngFault α} {start : α → State → State}
    (hs : ∀ x s, Memory.wf s.mem = true → Memory.wf (start x s).mem = true) (w s) : Keeps (engineMeaning w s check start) := by
  unfold engineMeaning
  split
  · exact fun _ _ h => h
  · split
    · exact engineFails_keeps _ _ _
    · intro done s h
      refine ite_wf (fun _ => h) (fun _ => ?_)
      split
      · exact hs _ _ (dropFetched_wf (drainStores_wf h ..) ..)
      · exact drainStores_wf h ..

theorem matMeaning_keeps (fn a b w s) : Keeps (matMeaning fn a b w s) := engineMeaning_keeps (fun _ _ h => startMat_wf h ..) w s

theorem copyMeaning_keeps {extra : State → State} (he : ∀ s, Memory.wf s.mem = true → Memory.wf (extra s).mem = true)
    (w s bad k aligned busy) : Keeps (copyMeaning w s bad k aligned busy extra) :=
  feederMeaning_keeps (fun _ h => startCopy_wf (he _ (drainStores_wf h ..)) ..) w _

/-- What the lanes come to does not matter to what is done. -/
theorem reached_keeps {m : Meaning} (hm : Keeps m) (outs) : Keeps ⟨outs, m.eff⟩ := hm

theorem reachedLater_keeps {m : Meaning} (hm : Keeps m) (c : Prop) [Decidable c] (outs) : Keeps (if c then ⟨outs, m.eff⟩ else m) := by
  split <;> exact hm

theorem withReqs_wf {s : State} (h : Memory.wf s.mem = true) (d) : Memory.wf ({ s with decs := d } : State).mem = true := h

/-! ### Fjarmar words and commands -/

theorem seqIssue_kept {s : State} (h : Memory.wf s.mem = true) {f : State → Nat → Nat → SeqSlot → SeqRes}
    (hf : ∀ s j k x, Memory.wf s.mem = true → ResKept (f s j k x)) : Kept (seqIssue s f) := by
  refine next_kept ?_
  split
  · exact h
  · dsimp only
    split
    · exact h
    · exact seqCommit_wf (by exact h) (hf _ _ _ _ (by exact h)) ..

theorem seqScalar_kept {s : State} (h : Memory.wf s.mem = true) (f) : Kept (seqScalar s f) := seqIssue_kept h fun _ _ _ _ h => h

theorem seqBranch_kept {s : State} (h : Memory.wf s.mem = true) (k x y imm) : ResKept (seqBranch s k x y imm) := by
  unfold seqBranch
  split
  · exact h
  · trivial

theorem seqSigf_kept {s : State} (h : Memory.wf s.mem = true) (a reads f) : Kept (seqSigf a reads f s) := by
  refine seqIssue_kept h fun s j _ x h => ?_
  split
  · trivial
  · split
    · trivial
    · exact State.writeBytes_wf h ..

theorem combMeaning_kept {s : State} (h : Memory.wf s.mem = true) (m op f d a b ch fwd) : Kept (combMeaning m op f d a b ch fwd s) := by
  refine seqIssue_kept h fun s j k x h => ?_
  split
  · trivial
  split
  · trivial
  split
  · exact h
  dsimp only
  split
  · trivial
  split
  · trivial
  split
  · exact h
  split
  · trivial
  have hr := fun held z g => releaseChunk_wf (s := (heldWrite s held (x.rc a.toNat) z).modSlot k g) (heldWrite_wf h ..) j k ch.toNat
  cases fwd with
  | none => exact hr ..
  | some n => exact sendChunk_wf (hr ..) ..

theorem command_kept {s : State} (h : Memory.wf s.mem = true) {f : State → Nat → List Byte → Done}
    (hf : ∀ s id b, Memory.wf s.mem = true → Memory.wf (f s id b).st.mem = true) (c p len bad) : Kept (command s c p len bad f) := by
  refine next_kept (ite_wf (fun _ => h) (fun _ => ?_))
  show Memory.wf (Done.st _).mem = true
  split
  · exact h
  · split
    · exact h
    · exact hf _ _ _ h

theorem debugCommand_kept {s : State} (h : Memory.wf s.mem = true) {f : State → Nat → List Byte → Done}
    (hf : ∀ s k b, Memory.wf s.mem = true → Memory.wf (f s k b).st.mem = true) (act c) : Kept (debugCommand act c s f) := by
  refine command_kept h (fun s id b h => ?_) _ _ _ _
  split
  · exact h
  · split
    · exact h
    · split
      · exact h
      · exact hf _ _ _ h

theorem seqctl_kept {s : State} (h : Memory.wf s.mem = true) (act c) : Kept (seqctl act c s) := by
  refine command_kept h (fun s _ b h => ?_) _ _ _ _
  grind [refuse_wf, accept_wf, abortSlot_wf, stopSlot_wf, State.setSlot_mem]

/-! ### Every instruction, every turn -/

theorem execLd_kept {s : State} (h : Memory.wf s.mem = true) (a0 a1 a2 a3 a4 a5) : Kept (execLd a0 a1 a2 a3 a4 a5 s) := by
  exact issue_kept h fun _ _ _ => loadMeaning_keeps (fun _ _ h => h) _ _ _ _ _ _ _ _

theorem execLda_kept {s : State} (h : Memory.wf s.mem = true) (a0 a1 a2 a3 a4 a5 a6) : Kept (execLda a0 a1 a2 a3 a4 a5 a6 s) := by
  refine issue_kept h fun w s _ => ?_
  have hm := fun (x : View → State → State) (hx : ∀ w s, Memory.wf s.mem = true → Memory.wf (x w s).mem = true) size d ea =>
    loadMeaning_keeps hx size false false (loadKind size) d ea w s
  exact reachedLater_keeps (hm _ (fun _ _ h => ldaBefore_wf h ..) _ _ _) _ _

theorem execSt_kept {s : State} (h : Memory.wf s.mem = true) (a0 a1 a2 a3 a4 a5) : Kept (execSt a0 a1 a2 a3 a4 a5 s) := by
  exact issue_kept h fun _ _ _ => storeMeaning_keeps _ _ _ _ _ _ _ _ _

theorem execStl_kept {s : State} (h : Memory.wf s.mem = true) (a0 a1 a2 a3 a4 a5 a6) : Kept (execStl a0 a1 a2 a3 a4 a5 a6 s) := by
  exact issue_kept h fun _ _ _ => storeMeaning_keeps _ _ _ _ _ _ _ _ _

theorem execSigf_kept {s : State} (h : Memory.wf s.mem = true) (a0 a1 a2 a3 a4) : Kept (execSigf a0 a1 a2 a3 a4 s) := by
  refine issue_kept h fun w s _ => ?_
  exact reached_keeps (storeMeaning_keeps _ _ _ _ _ _ _ w s) _

theorem execFence_kept {s : State} (h : Memory.wf s.mem = true) (a0 a1 a2) : Kept (execFence a0 a1 a2 s) := by
  exact issue_kept h fun _ _ _ _ _ h => ite_wf (fun _ => h) (fun _ => h)

theorem execBarv_kept {s : State} (h : Memory.wf s.mem = true) (a0 a1 a2 a3) : Kept (execBarv a0 a1 a2 a3 s) := by
  exact issue_kept h fun _ _ _ _ _ h => arriveGroup_wf h ..

theorem execBarw_kept {s : State} (h : Memory.wf s.mem = true) (a0 a1 a2 a3 a4) : Kept (execBarw a0 a1 a2 a3 a4 s) := by
  refine issue_kept h fun w s _ done s h => ?_
  have hr := fun g => barAcquire_wf (s := s.modGrp w.key g) h
  dsimp only
  split
  · exact ite_wf (fun _ => h) (fun _ => h)
  · split
    · exact hr _ _ _ _
    · exact barAcquire_wf h ..

theorem execBars_kept {s : State} (h : Memory.wf s.mem = true) (a0 a1 a2 a3) : Kept (execBars a0 a1 a2 a3 s) := by
  exact issue_kept h fun _ _ _ _ _ h => barsEff_wf h ..

theorem execExit_kept {s : State} (h : Memory.wf s.mem = true) (a0) : Kept (execExit a0 s) := by
  exact issue_kept h fun _ _ _ _ _ h => checkDeadlock_wf (exitLanes_wf h ..) _

theorem execRjpark_kept {s : State} (h : Memory.wf s.mem = true) (a0 a1 a2) : Kept (execRjpark a0 a1 a2 s) := by
  exact issue_kept h fun _ _ _ _ _ h => checkDeadlock_wf (by exact h) _

theorem execSpawn_kept {s : State} (h : Memory.wf s.mem = true) (a0 a1 a2 a3 a4) : Kept (execSpawn a0 a1 a2 a3 a4 s) := by
  exact issue_kept h fun _ _ _ => spawnMeaning_keeps _ _ _

theorem execSpawnb_kept {s : State} (h : Memory.wf s.mem = true) (a0 a1 a2 a3 a4) : Kept (execSpawnb a0 a1 a2 a3 a4 s) := by
  exact issue_kept h fun _ _ _ => spawnMeaning_keeps _ _ _

theorem execTake_kept {s : State} (h : Memory.wf s.mem = true) (a0 a1 a2) : Kept (execTake a0 a1 a2 s) := by
  exact issue_kept h fun _ _ _ => takeMeaning_keeps _ _ _

theorem execEndt_kept {s : State} (h : Memory.wf s.mem = true) (a0 a1) : Kept (execEndt a0 a1 s) := by
  exact issue_kept h fun _ _ _ _ _ h => foldl_wf (fun _ h _ => endtLane_wf h ..) h _

theorem execTjoin_kept {s : State} (h : Memory.wf s.mem = true) (a0 a1 a2) : Kept (execTjoin a0 a1 a2 s) := by
  exact issue_kept h fun _ _ _ _ _ h => ite_wf (fun _ => h) (fun _ => acquireAt_wf h ..)

theorem execRole_kept {s : State} (h : Memory.wf s.mem = true) (a0 a1 a2) : Kept (execRole a0 a1 a2 s) := by
  exact issue_kept h fun _ _ _ _ _ h => ite_wf (fun _ => h) (fun _ => h)

theorem execLaunch_kept {s : State} (h : Memory.wf s.mem = true) (a0 a1 a2 a3 a4) : Kept (execLaunch a0 a1 a2 a3 a4 s) := by
  refine issue_kept h fun w s _ => ?_
  split
  · exact allOk_keeps (fun _ _ h => h) _
  dsimp only
  split
  · exact fun _ _ h => h
  · refine fun done s h => ite_wf (fun _ => h) (fun _ => ?_)
    have hr := releaseAt_wf (releaseLanes_wf (dropFetched_wf h w.key w.act) w.key w.act) w.g.core 3
    rw [State.modGrp_mem]
    split
    · exact enqueue_wf hr ..
    · exact hr

theorem execTlend_kept {s : State} (h : Memory.wf s.mem = true) (a0 a1 a2) : Kept (execTlend a0 a1 a2 s) := by
  refine issue_kept h fun w s _ done s h => ite_wf (fun _ => h) (fun _ => ?_)
  rw [State.setStage_mem]
  exact State.writeBytes_wf h ..

theorem execVchain_kept {s : State} (h : Memory.wf s.mem = true) (a0 a1 a2) : Kept (execVchain a0 a1 a2 s) := by
  refine issue_kept h fun w s _ => engineMeaning_keeps (fun _ _ h => ?_) w s
  rw [State.modGrp_mem]
  exact h

theorem execVatwait_kept {s : State} (h : Memory.wf s.mem = true) (a0 a1 a2) : Kept (execVatwait a0 a1 a2 s) := by
  exact issue_kept h fun _ _ _ _ _ h => ite_wf (fun _ => h) (fun _ => vatAcquire_wf h ..)

theorem execVattake_kept {s : State} (h : Memory.wf s.mem = true) (a0 a1 a2) : Kept (execVattake a0 a1 a2 s) := by
  exact issue_kept h fun _ _ _ _ _ h => ite_wf (fun _ => h) (fun _ => by exact vatAcquire_wf h ..)

theorem execVatfree_kept {s : State} (h : Memory.wf s.mem = true) (a0 a1 a2) : Kept (execVatfree a0 a1 a2 s) := by
  exact issue_kept h fun _ _ _ _ _ h => ite_wf (fun _ => h) (fun _ => by exact releaseLanes_wf h ..)

theorem execCpy_kept {s : State} (h : Memory.wf s.mem = true) (a0 a1 a2 a3 a4) : Kept (execCpy a0 a1 a2 a3 a4 s) := by
  exact issue_kept h fun _ _ _ => copyMeaning_keeps (fun _ h => h) _ _ _ _ _ _

theorem execCpya_kept {s : State} (h : Memory.wf s.mem = true) (a0 a1 a2 a3) : Kept (execCpya a0 a1 a2 a3 s) := by
  exact issue_kept h fun _ _ _ => copyMeaning_keeps (fun _ h => h) _ _ _ _ _ _

theorem execCpyx_kept {s : State} (h : Memory.wf s.mem = true) (a0 a1 a2 a3 a4) : Kept (execCpyx a0 a1 a2 a3 a4 s) := by
  exact issue_kept h fun _ _ _ => copyMeaning_keeps (fun _ h => h) _ _ _ _ _ _

theorem execQpush_kept {s : State} (h : Memory.wf s.mem = true) (a0 a1 a2 a3) : Kept (execQpush a0 a1 a2 a3 s) := by
  exact issue_kept h fun _ _ _ => copyMeaning_keeps (fun _ h => h) _ _ _ _ _ _

theorem execCbload_kept {s : State} (h : Memory.wf s.mem = true) (a0 a1 a2 a3 a4) : Kept (execCbload a0 a1 a2 a3 a4 s) := by
  exact issue_kept h fun _ _ _ => copyMeaning_keeps (fun _ h => by exact h) _ _ _ _ _ _

theorem execCpyg_kept {s : State} (h : Memory.wf s.mem = true) (a0 a1 a2 a3) : Kept (execCpyg a0 a1 a2 a3 s) := by
  refine issue_kept h fun w s _ => ?_
  split
  · exact engineFails_keeps _ _ _
  · exact copyMeaning_keeps (fun _ h => dropFetched_wf h ..) _ _ _ _ _ _

theorem execAaset_kept {s : State} (h : Memory.wf s.mem = true) (a0 a1 a2 a3) : Kept (execAaset a0 a1 a2 a3 s) := by
  refine issue_kept h fun w s _ => ?_
  split
  · exact engineFails_keeps _ _ _
  · refine feederMeaning_keeps (fun _ h => ?_) _ _
    rw [State.modGrp_mem]
    exact dropFetched_wf h ..

theorem execVatarm_kept {s : State} (h : Memory.wf s.mem = true) (a0 a1 a2 a3) : Kept (execVatarm a0 a1 a2 a3 s) := by
  exact issue_kept h fun _ _ _ => feederMeaning_keeps (fun _ h => by exact h) _ _

theorem execCpyabort_kept {s : State} (h : Memory.wf s.mem = true) (a0 a1) : Kept (execCpyabort a0 a1 s) := by
  refine issue_kept h fun _ _ _ => feederMeaning_keeps (fun s h => ?_) _ _
  split
  · next o _ =>
    split
    · rw [State.modGrp_mem]
      exact endCopy_wf (o := o) h ..
    · exact h
  · exact h

theorem execDecsub_kept {s : State} (h : Memory.wf s.mem = true) (a0 a1 a2 a3) : Kept (execDecsub a0 a1 a2 a3 s) := by
  refine issue_kept h fun w s _ => ?_
  split
  · exact engineFails_keeps _ _ _
  refine feederMeaning_keeps (fun s h => ?_) _ _
  have hd := dropFetched_wf h w.key w.act
  have hr := fun g => releaseAt_wf (releaseLanes_wf (s := (dropFetched s w.key w.act).modGrp w.key g) hd w.key w.act) w.g.core 3
  exact ite_wf (fun _ => hd) (fun _ => ite_wf (fun _ => hr _) (fun _ => withReqs_wf (hr _) _))

theorem execRshd_kept {s : State} (h : Memory.wf s.mem = true) (a0 a1 a2 a3) : Kept (execRshd a0 a1 a2 a3 s) := by
  refine issue_kept h fun w s _ => ?_
  dsimp only
  split
  · exact engineFails_keeps _ _ _
  split
  · exact engineFails_keeps _ _ _
  · exact fun _ _ h => ite_wf (fun _ => h) (fun _ => acquireAt_wf h ..)
  · refine feederMeaning_keeps (fun _ h => ?_) _ _
    rw [State.modGrp_mem]
    exact dropFetched_wf h ..
  · refine feederMeaning_keeps (fun s h => ?_) _ _
    have hd := dropFetched_wf h w.key w.act
    have hr := fun g => acquireAt_wf (releaseAt_wf (releaseLanes_wf (s := (dropFetched s w.key w.act).modGrp w.key g) hd w.key w.act) w.g.core 3) w.g.core 3
    exact ite_wf (fun _ => hr _) (fun _ => rsBegin_wf (rsAccept_wf (hr _) ..))

theorem execCsrw_kept {s : State} (h : Memory.wf s.mem = true) (a0 a1 a2 a3) : Kept (execCsrw a0 a1 a2 a3 s) := by
  refine issue_kept h fun _ _ _ _ _ h => ?_
  exact ite_wf (fun _ => h) (fun _ => ite_wf (fun _ => h) (fun _ => writeCsr_wf h ..))

theorem execTret_kept {s : State} (h : Memory.wf s.mem = true) (a0) : Kept (execTret a0 s) := by
  refine issue_kept h fun w s _ done s h => ite_wf (fun _ => h) (fun _ => ?_)
  rw [State.modGrp_mem]
  exact returnTrap_wf h ..

theorem execChunkMovi_kept {s : State} (h : Memory.wf s.mem = true) (a0 a1) : Kept (execChunkMovi a0 a1 s) := by
  exact seqScalar_kept h _

theorem execChunkMoviHi_kept {s : State} (h : Memory.wf s.mem = true) (a0 a1) : Kept (execChunkMoviHi a0 a1 s) := by
  exact seqScalar_kept h _

theorem execChunkAddi_kept {s : State} (h : Memory.wf s.mem = true) (a0 a1 a2 a3) : Kept (execChunkAddi a0 a1 a2 a3 s) := by
  exact seqScalar_kept h _

theorem execChunkAddiN_kept {s : State} (h : Memory.wf s.mem = true) (a0 a1 a2 a3) : Kept (execChunkAddiN a0 a1 a2 a3 s) := by
  exact seqScalar_kept h _

theorem execLoop_kept {s : State} (h : Memory.wf s.mem = true) (a0 a1) : Kept (execLoop a0 a1 s) := by
  refine seqIssue_kept h fun s _ k x h => ?_
  dsimp only
  split
  · exact h
  · split
    · exact h
    · exact seqBranch_kept h ..

theorem execBnz_kept {s : State} (h : Memory.wf s.mem = true) (a0 a1) : Kept (execBnz a0 a1 s) := by
  refine seqIssue_kept h fun s _ k x h => ?_
  split
  · exact h
  · exact seqBranch_kept h ..

theorem execYield_kept {s : State} (h : Memory.wf s.mem = true) : Kept (execYield s) := by
  exact seqIssue_kept h fun _ _ _ _ h => h

theorem execChunkHalt_kept {s : State} (h : Memory.wf s.mem = true) : Kept (execChunkHalt s) := by
  exact seqIssue_kept h fun _ _ _ _ _ => trivial

theorem execChunkCsrr_kept {s : State} (h : Memory.wf s.mem = true) (a0 a1) : Kept (execChunkCsrr a0 a1 s) := by
  refine seqIssue_kept h fun s j k x h => ?_
  split
  · exact h
  · trivial

theorem execChunkCsrw_kept {s : State} (h : Memory.wf s.mem = true) (a0 a1) : Kept (execChunkCsrw a0 a1 s) := by
  refine seqIssue_kept h fun s j k x h => ?_
  dsimp only
  split
  · trivial
  · split
    · trivial
    · exact h

theorem execBind_kept {s : State} (h : Memory.wf s.mem = true) (a0 a1) : Kept (execBind a0 a1 s) := by
  refine seqIssue_kept h fun s j k x h => ?_
  dsimp only
  split
  · trivial
  · split
    · trivial
    · split
      · trivial
      · exact h

theorem execWaitf_kept {s : State} (h : Memory.wf s.mem = true) (a0 a1 a2) : Kept (execWaitf a0 a1 a2 s) := by
  exact seqIssue_kept h fun _ _ _ _ h => waitfRead_kept h ..

theorem execChunkSigf_kept {s : State} (h : Memory.wf s.mem = true) (a0 a1) : Kept (execChunkSigf a0 a1 s) := by
  exact seqSigf_kept h _ _ _

theorem execChunkSigfAdd_kept {s : State} (h : Memory.wf s.mem = true) (a0 a1) : Kept (execChunkSigfAdd a0 a1 s) := by
  exact seqSigf_kept h _ _ _

theorem execXmit_kept {s : State} (h : Memory.wf s.mem = true) (a0 a1 a2 a3) : Kept (execXmit a0 a1 a2 a3 s) := by
  refine seqIssue_kept h fun s j k x h => ?_
  split
  · trivial
  · dsimp only
    split
    · exact h
    · split
      · trivial
      · exact sendChunk_wf h ..

theorem execRecv_kept {s : State} (h : Memory.wf s.mem = true) (a0 a1 a2 a3) : Kept (execRecv a0 a1 a2 a3 s) := by
  refine seqIssue_kept h fun s j k x h => ?_
  split
  · trivial
  · split
    · exact h
    · split
      · trivial
      · exact releaseChunk_wf (by exact heldWrite_wf h ..) ..

theorem execComb_kept {s : State} (h : Memory.wf s.mem = true) (a0 a1 a2 a3 a4 a5 a6) : Kept (execComb a0 a1 a2 a3 a4 a5 a6 s) := by
  exact combMeaning_kept h _ _ _ _ _ _ _ _

theorem execCfwd_kept {s : State} (h : Memory.wf s.mem = true) (a0 a1 a2 a3 a4 a5 a6 a7) : Kept (execCfwd a0 a1 a2 a3 a4 a5 a6 a7 s) := by
  exact combMeaning_kept h _ _ _ _ _ _ _ _

theorem execHintImm_kept {s : State} (h : Memory.wf s.mem = true) (a0) : Kept (execHintImm a0 s) := by
  refine next_kept ?_
  grind [prefixWord_wf]

theorem execHintMod_kept {s : State} (h : Memory.wf s.mem = true) (a0 a1 a2 a3) : Kept (execHintMod a0 a1 a2 a3 s) := by
  refine next_kept ?_
  grind [prefixWord_wf]

theorem execTlbinvWrite_kept {s : State} (h : Memory.wf s.mem = true) (a0 a1) : Kept (execTlbinvWrite a0 a1 s) := by
  refine next_kept ?_
  grind [startTlbinv_wf]

theorem execHardwareBreakpoint_kept {s : State} (h : Memory.wf s.mem = true) (a0 a1) : Kept (execHardwareBreakpoint a0 a1 s) := by
  refine next_kept ?_
  grind [meetTrap_wf, rollbackTakes_wf]

theorem execLoadCompletion_kept {s : State} (h : Memory.wf s.mem = true) (a0 a1) : Kept (execLoadCompletion a0 a1 s) := by
  refine next_kept ?_
  grind [State.modGrp_mem]

theorem execStorePerformed_kept {s : State} (h : Memory.wf s.mem = true) (a0 a1) : Kept (execStorePerformed a0 a1 s) := by
  refine next_kept ?_
  grind [performOp_wf]

theorem execFenceCompletion_kept {s : State} (h : Memory.wf s.mem = true) (a0 a1) : Kept (execFenceCompletion a0 a1 s) := by
  refine next_kept ?_
  grind [completeFence_wf, settleFor_wf]

theorem execFenceConflictRollback_kept {s : State} (h : Memory.wf s.mem = true) (a0 a1) : Kept (execFenceConflictRollback a0 a1 s) := by
  refine next_kept ?_
  grind [undoFence_wf]

theorem execQueueEntryArrival_kept {s : State} (h : Memory.wf s.mem = true) (a0 a1 a2) : Kept (execQueueEntryArrival a0 a1 a2 s) := by
  refine next_kept ?_
  grind [nextEntry_wf, pushEntry_wf, setCopy_wf]

theorem execCopyCompletion_kept {s : State} (h : Memory.wf s.mem = true) (a0 a1 a2) : Kept (execCopyCompletion a0 a1 a2 s) := by
  refine next_kept ?_
  grind [endCopy_wf, fillBook_wf, runCopy_wf]

theorem execCopyFault_kept {s : State} (h : Memory.wf s.mem = true) (a0 a1 a2 a3) : Kept (execCopyFault a0 a1 a2 a3 s) := by
  refine next_kept ?_
  grind [faultRun_wf, freezeGrp_wf, setCopy_wf]

theorem execMatrixOperationRetire_kept {s : State} (h : Memory.wf s.mem = true) (a0 a1) : Kept (execMatrixOperationRetire a0 a1 s) := by
  refine next_kept ?_
  grind [linkEnd_wf, retireMat_wf]

theorem execVchainRetire_kept {s : State} (h : Memory.wf s.mem = true) (a0 a1) : Kept (execVchainRetire a0 a1 s) := by
  refine next_kept ?_
  grind [retireChain_wf]

theorem execTlbInvalidationComplete_kept {s : State} (h : Memory.wf s.mem = true) (a0) : Kept (execTlbInvalidationComplete a0 s) := by
  refine next_kept ?_
  grind [State.flushCore_wf, State.modGrp_mem, dropExtent_wf]

theorem execAsyncEventTaken_kept {s : State} (h : Memory.wf s.mem = true) (a0) : Kept (execAsyncEventTaken a0 s) := by
  refine next_kept ?_
  grind [takeAsync_wf]

theorem execSliceExpiry_kept {s : State} (h : Memory.wf s.mem = true) (a0) : Kept (execSliceExpiry a0 s) := by
  refine next_kept ?_
  grind [placeHead_wf, requestCluster_wf]

theorem execDrainTimeout_kept {s : State} (h : Memory.wf s.mem = true) (a0 a1) : Kept (execDrainTimeout a0 a1 s) := by
  refine next_kept ?_
  grind [State.setClus_mem, applyDecision_wf]

theorem execDependenceFlagRead_kept {s : State} (h : Memory.wf s.mem = true) (a0) : Kept (execDependenceFlagRead a0 s) := by
  refine next_kept ?_
  grind [State.setQueue_mem, endPacket_wf, flagViolation_wf, settle_wf]

theorem execClusterPlacement_kept {s : State} (h : Memory.wf s.mem = true) : Kept (execClusterPlacement s) := by
  refine next_kept ?_
  grind [servePlacement_wf]

theorem execImpositionStartArrival_kept {s : State} (h : Memory.wf s.mem = true) (a0 a1) : Kept (execImpositionStartArrival a0 a1 s) := by
  refine next_kept ?_
  grind [State.setSlot_mem]

theorem execChunkArrival_kept {s : State} (h : Memory.wf s.mem = true) (a0 a1 a2 a3) : Kept (execChunkArrival a0 a1 a2 a3 s) := by
  refine next_kept ?_
  grind [arriveChunk_wf]

theorem execWaitfFlagRead_kept {s : State} (h : Memory.wf s.mem = true) (a0 a1) : Kept (execWaitfFlagRead a0 a1 s) := by
  refine next_kept ?_
  grind [rereadFlag_wf]

theorem execCurdReceived_kept {s : State} (h : Memory.wf s.mem = true) (a0 a1) : Kept (execCurdReceived a0 a1 s) := by
  refine next_kept ?_
  grind [curdArrives_wf]

theorem execCommit_kept {s : State} (h : Memory.wf s.mem = true) : Kept (execCommit s) := by
  refine next_kept ?_
  grind [rsCommitted_wf, rsSettled_wf, rsTell_wf]

theorem execParticipantStop_kept {s : State} (h : Memory.wf s.mem = true) (a0) : Kept (execParticipantStop a0 s) := by
  refine next_kept ?_
  grind [rsStop_wf]

theorem execFrameOutput_kept {s : State} (h : Memory.wf s.mem = true) (a0 a1) : Kept (execFrameOutput a0 a1 s) := by
  refine next_kept ?_
  grind [beginFrame_wf, endFrame_wf]

theorem execSlotStart_kept {s : State} (h : Memory.wf s.mem = true) (a0 a1) : Kept (execSlotStart a0 a1 s) := by
  refine next_kept ?_
  grind [State.setLink_mem, endConnection_wf]

theorem execSlotEnd_kept {s : State} (h : Memory.wf s.mem = true) (a0) : Kept (execSlotEnd a0 s) := by
  refine next_kept ?_
  grind [endConnection_wf]

theorem execFlitReception_kept {s : State} (h : Memory.wf s.mem = true) (a0 a1) : Kept (execFlitReception a0 a1 s) := by
  refine next_kept ?_
  grind [State.setLink_mem, acceptMessages_wf]

theorem execRemoteRequestTimeout_kept {s : State} (h : Memory.wf s.mem = true) (a0 a1) : Kept (execRemoteRequestTimeout a0 a1 s) := by
  refine next_kept ?_
  grind [onRefusal_wf, onRefused_wf]

theorem execFecWindowEnd_kept {s : State} (h : Memory.wf s.mem = true) (a0 a1 a2) : Kept (execFecWindowEnd a0 a1 a2 s) := by
  refine next_kept ?_
  grind [State.setLink_mem]

theorem execRetrainingEnd_kept {s : State} (h : Memory.wf s.mem = true) (a0 a1 a2) : Kept (execRetrainingEnd a0 a1 a2 s) := by
  refine next_kept ?_
  grind [State.bboxAdd_mem, State.setLink_mem, endConnection_wf]

theorem execClockStepChange_kept {s : State} (h : Memory.wf s.mem = true) (a0) : Kept (execClockStepChange a0 s) := by
  refine next_kept ?_
  grind

theorem execCoolantHold_kept {s : State} (h : Memory.wf s.mem = true) : Kept (execCoolantHold s) := by
  refine next_kept ?_
  grind

theorem execCoolantHoldRelease_kept {s : State} (h : Memory.wf s.mem = true) : Kept (execCoolantHoldRelease s) := by
  refine next_kept ?_
  grind

theorem execUncorrectableError_kept {s : State} (h : Memory.wf s.mem = true) (a0) : Kept (execUncorrectableError a0 s) := by
  refine next_kept ?_
  grind [State.modGrp_mem]

theorem execParityErrorReexecution_kept {s : State} (h : Memory.wf s.mem = true) (a0 a1) : Kept (execParityErrorReexecution a0 a1 s) := by
  refine next_kept ?_
  grind [State.modGrp_mem, freezeGrp_wf]

theorem execSampleTag_kept {s : State} (h : Memory.wf s.mem = true) (a0 a1 a2) : Kept (execSampleTag a0 a1 a2 s) := by
  refine next_kept ?_
  grind

theorem execTraceBlockWrite_kept {s : State} (h : Memory.wf s.mem = true) (a0) : Kept (execTraceBlockWrite a0 s) := by
  refine next_kept ?_
  grind [writeTrace_wf]

theorem execColdStart_kept {s : State} (h : Memory.wf s.mem = true) (a0 a1) : Kept (execColdStart a0 a1 s) := by
  refine next_kept ?_
  grind [coldStart_wf]

theorem execWarmStart_kept {s : State} (h : Memory.wf s.mem = true) (a0 a1) : Kept (execWarmStart a0 a1 s) := by
  refine next_kept ?_
  grind [warmStart_wf]

theorem execRdmaWrite_kept {s : State} (h : Memory.wf s.mem = true) (a0 a1 a2 a3) : Kept (execRdmaWrite a0 a1 a2 a3 s) := by
  refine next_kept ?_
  grind [beforeRdma_wf, rdmaEnd_wf]

theorem execRdmaRead_kept {s : State} (h : Memory.wf s.mem = true) (a0 a1 a2 a3) : Kept (execRdmaRead a0 a1 a2 a3 s) := by
  refine next_kept ?_
  grind [beforeRdma_wf, rdmaEnd_wf]

theorem execInvalidRequestNak_kept {s : State} (h : Memory.wf s.mem = true) (a0) : Kept (execInvalidRequestNak a0 s) := by
  refine next_kept ?_
  grind [State.send_mem]

theorem execEcnMark_kept {s : State} (h : Memory.wf s.mem = true) (a0) : Kept (execEcnMark a0 s) := by
  refine next_kept ?_
  grind [State.send_mem]

theorem execManagementConnectorAccess_kept {s : State} (h : Memory.wf s.mem = true) (a0) : Kept (execManagementConnectorAccess a0 s) := by
  refine next_kept ?_
  grind [State.send_mem]

theorem execCorrectedError_kept {s : State} (h : Memory.wf s.mem = true) (a0) : Kept (execCorrectedError a0 s) := by
  exact next_kept h

theorem execEthernetPortDown_kept {s : State} (h : Memory.wf s.mem = true) (a0) : Kept (execEthernetPortDown a0 s) := by
  exact next_kept h

theorem execQueuedResultWrite_kept {s : State} (h : Memory.wf s.mem = true) (a0) : Kept (execQueuedResultWrite a0 s) := by
  exact next_kept h

theorem execClusterRestore_kept {s : State} (h : Memory.wf s.mem = true) (a0) : Kept (execClusterRestore a0 s) := by
  refine next_kept ?_
  have hs := settleAll_wf h
  dsimp only
  split
  · exact hs
  · exact ite_wf (fun _ => hs) (fun _ => getD_wf (fun _ hf => restoreCluster_wf hs _ hf) hs)

theorem execPreemptionRequest_kept {s : State} (h : Memory.wf s.mem = true) (a0) : Kept (execPreemptionRequest a0 s) := by
  refine next_kept ?_
  split
  · exact h
  · refine ite_wf (fun _ => h) (fun _ => ?_)
    split
    · exact h
    · exact foldl_wf (fun _ h _ => requestCluster_wf h ..) h _

theorem execImpositionStartTimeout_kept {s : State} (h : Memory.wf s.mem = true) (a0) : Kept (execImpositionStartTimeout a0 s) := by
  refine next_kept ?_
  split
  · exact h
  · exact ite_wf (fun _ => h) (fun _ =>
      foldl_wf (fun _ h _ => hearEnded_wf h ..) (foldl_wf (fun _ h _ => sendAbort_wf h ..) (modImp_wf h ..) _) _)

theorem execReshardPlanning_kept {s : State} (h : Memory.wf s.mem = true) : Kept (execReshardPlanning s) := by
  refine next_kept (ite_wf (fun _ => rsBegin_wf h) (fun _ => ite_wf (fun _ => h) (fun _ => ?_)))
  split
  · exact rsStop_wf h _
  · exact rsFreeze_wf h ..
  · next cs _ =>
    dsimp only
    have hp := fun r => rsState_wf (rsPut_wf (rsForget_wf (s := { s with rs := r }) h) 4 4 cs.length) 2 0
    split
    · exact rsFault_wf (hp _) _
    · have hm := fun r r' l => foldl_wf (f := fun s c => rsMark s c false) (fun _ h _ => rsMark_wf h ..)
        (show Memory.wf ({ rsState (rsPut (rsForget { s with rs := r }) 4 4 cs.length) 2 0 with rs := r' } : State).mem = true from hp r) l
      exact rsSettled_wf (rsCheckMoved_wf (rsServeAll_wf (rsAsk_wf (by exact hm _ _ _) _)))

theorem execPendingCounterChange_kept {s : State} (h : Memory.wf s.mem = true) (a0) : Kept (execPendingCounterChange a0 s) := by
  refine next_kept (ite_wf (fun _ => h) (fun _ => ?_))
  split
  · exact rsFault_wf h _
  · refine ite_wf (fun _ => ite_wf (fun _ => h) (fun _ => ?_)) (fun _ => ite_wf (fun _ => ?_) (fun _ => h))
    · exact rsSettled_wf (rsCheckMoved_wf (rsBack_wf (rsClear_wf (foldl_wf (fun _ h _ => rsSend_wf h ..) (by exact h) _) _)))
    · exact rsSettled_wf (rsCheckMoved_wf (rsServeAll_wf (rsAsk_wf (by exact h) _)))

theorem execDecodeRequestAssignment_kept {s : State} (h : Memory.wf s.mem = true) (a0) : Kept (execDecodeRequestAssignment a0 s) := by
  refine next_kept (ite_wf (fun _ => h) (fun _ => ?_))
  split
  · exact h
  · exact ite_wf (fun _ => h) (fun _ => setReq_wf (foldl_wf (fun _ h _ => State.flushCore_wf h _) h _) _)

theorem execLiveMigration_kept {s : State} (h : Memory.wf s.mem = true) (a0 a1) : Kept (execLiveMigration a0 a1 s) := by
  refine next_kept (ite_wf (fun _ => migrateOut_wf (foldl_wf (fun _ h _ => requestCluster_wf h ..) h _) ..) (fun _ => ite_wf (fun _ => h) (fun _ => ?_)))
  split
  · exact migrateIn_wf h _
  · exact h

theorem execCtxcreate_kept {s : State} (h : Memory.wf s.mem = true) (a0) : Kept (execCtxcreate a0 s) := by
  exact command_kept h (fun _ _ _ h => createContext_wf h ..) _ _ _ _

theorem execCtxdestroy_kept {s : State} (h : Memory.wf s.mem = true) (a0) : Kept (execCtxdestroy a0 s) := by
  refine command_kept h (fun _ _ _ h => ?_) _ _ _ _
  split
  · exact destroyContext_wf h _
  · exact h

theorem execQopen_kept {s : State} (h : Memory.wf s.mem = true) (a0) : Kept (execQopen a0 s) := by
  exact command_kept h (fun _ _ _ h => openQueue_wf h _) _ _ _ _

theorem execQcancel_kept {s : State} (h : Memory.wf s.mem = true) (a0) : Kept (execQcancel a0 s) := by
  refine command_kept h (fun _ _ _ h => ?_) _ _ _ _
  grind [refuse_wf, accept_wf, cancelPackets_wf]

theorem execHostLaunch_kept {s : State} (h : Memory.wf s.mem = true) (a0) : Kept (execHostLaunch a0 s) := by
  refine command_kept h (fun _ _ _ h => ?_) _ _ _ _
  grind [refuse_wf, enqueue_wf]

theorem execSuspend_kept {s : State} (h : Memory.wf s.mem = true) (a0) : Kept (execSuspend a0 s) := by
  refine command_kept h (fun _ _ _ h => ?_) _ _ _ _
  grind [refuse_wf, requestCluster_wf]

theorem execLinkstat_kept {s : State} (h : Memory.wf s.mem = true) (a0) : Kept (execLinkstat a0 s) := by
  refine command_kept h (fun _ _ _ h => ?_) _ _ _ _
  grind [clearCounters_wf]

theorem execObjload_kept {s : State} (h : Memory.wf s.mem = true) (a0) : Kept (execObjload a0 s) := by
  refine command_kept h (fun _ _ _ h => ?_) _ _ _ _
  grind [refuse_wf, refuseLoad_wf]

theorem execRsabort_kept {s : State} (h : Memory.wf s.mem = true) (a0) : Kept (execRsabort a0 s) := by
  refine command_kept h (fun _ _ _ h => ?_) _ _ _ _
  grind [refuse_wf, accept_wf, rsStop_wf]

theorem execQpbind_kept {s : State} (h : Memory.wf s.mem = true) (a0) : Kept (execQpbind a0 s) := by
  refine command_kept h (fun _ _ _ h => ?_) _ _ _ _
  grind [refuse_wf, accept_wf, State.setQp_mem, State.setCtx_mem]

theorem execMrdereg_kept {s : State} (h : Memory.wf s.mem = true) (a0) : Kept (execMrdereg a0 s) := by
  refine command_kept h (fun _ _ _ h => ?_) _ _ _ _
  grind [refuse_wf, accept_wf, State.setQp_mem, State.setCtx_mem]

theorem execObjdrop_kept {s : State} (h : Memory.wf s.mem = true) (a0) : Kept (execObjdrop a0 s) := by
  refine command_kept h (fun _ _ _ h => ?_) _ _ _ _
  grind [refuse_wf, accept_wf, State.setQp_mem, State.setCtx_mem]

theorem execTracecfg_kept {s : State} (h : Memory.wf s.mem = true) (a0) : Kept (execTracecfg a0 s) := by
  refine command_kept h (fun _ _ _ h => ?_) _ _ _ _
  grind [refuse_wf, accept_wf, State.setQp_mem, State.setCtx_mem]

theorem execHostTlbinv_kept {s : State} (h : Memory.wf s.mem = true) (a0) : Kept (execHostTlbinv a0 s) := by
  exact command_kept h (fun _ _ _ h => h) _ _ _ _

theorem execMrreg_kept {s : State} (h : Memory.wf s.mem = true) (a0) : Kept (execMrreg a0 s) := by
  exact command_kept h (fun _ _ _ h => h) _ _ _ _

theorem execMgmtwr_kept {s : State} (h : Memory.wf s.mem = true) (a0) : Kept (execMgmtwr a0 s) := by
  exact command_kept h (fun _ _ _ h => h) _ _ _ _

theorem execMgmtrd_kept {s : State} (h : Memory.wf s.mem = true) (a0) : Kept (execMgmtrd a0 s) := by
  refine command_kept h (fun _ _ _ h => ?_) _ _ _ _
  split <;> exact h

theorem execAttest_kept {s : State} (h : Memory.wf s.mem = true) (a0) : Kept (execAttest a0 s) := by
  refine command_kept h (fun _ _ _ h => ?_) _ _ _ _
  grind [refuse_wf, accept_wf, failWith_wf, writeBuffer_wf]

theorem execBbread_kept {s : State} (h : Memory.wf s.mem = true) (a0) : Kept (execBbread a0 s) := by
  refine command_kept h (fun _ _ _ h => ?_) _ _ _ _
  grind [refuse_wf, accept_wf, failWith_wf, writeBuffer_wf]

theorem execKeyload_kept {s : State} (h : Memory.wf s.mem = true) (a0) : Kept (execKeyload a0 s) := by
  refine command_kept h (fun _ _ _ h => ?_) _ _ _ _
  grind [refuse_wf, accept_wf, rekey_wf]

theorem execSeqctlResume_kept {s : State} (h : Memory.wf s.mem = true) (a0) : Kept (execSeqctlResume a0 s) := by
  exact seqctl_kept h _ _

theorem execSeqctlStep_kept {s : State} (h : Memory.wf s.mem = true) (a0) : Kept (execSeqctlStep a0 s) := by
  exact seqctl_kept h _ _

theorem execSeqctlAbort_kept {s : State} (h : Memory.wf s.mem = true) (a0) : Kept (execSeqctlAbort a0 s) := by
  exact seqctl_kept h _ _

theorem execSeqctlStop_kept {s : State} (h : Memory.wf s.mem = true) (a0) : Kept (execSeqctlStop a0 s) := by
  exact seqctl_kept h _ _

theorem execDebugHalt_kept {s : State} (h : Memory.wf s.mem = true) (a0) : Kept (execDebugHalt a0 s) := by
  refine debugCommand_kept h (fun _ _ _ h => ?_) _ _
  dsimp only
  split
  · exact h
  · exact requestCluster_wf (by exact h) ..

theorem execDebugHold_kept {s : State} (h : Memory.wf s.mem = true) (a0) : Kept (execDebugHold a0 s) := by
  exact debugCommand_kept h (fun _ _ _ h => h) _ _

theorem execDebugUnhold_kept {s : State} (h : Memory.wf s.mem = true) (a0) : Kept (execDebugUnhold a0 s) := by
  exact debugCommand_kept h (fun _ _ _ h => h) _ _

theorem execDebugBkset_kept {s : State} (h : Memory.wf s.mem = true) (a0) : Kept (execDebugBkset a0 s) := by
  exact debugCommand_kept h (fun _ _ _ h => h) _ _

theorem execDebugBkclr_kept {s : State} (h : Memory.wf s.mem = true) (a0) : Kept (execDebugBkclr a0 s) := by
  exact debugCommand_kept h (fun _ _ _ h => h) _ _

theorem execDebugRelease_kept {s : State} (h : Memory.wf s.mem = true) (a0) : Kept (execDebugRelease a0 s) := by
  refine debugCommand_kept h (fun _ _ _ h => ?_) _ _
  grind [refuse_wf, accept_wf, releaseGroup_wf, State.modGrp_mem, State.setGrp_mem]

theorem execDebugStep_kept {s : State} (h : Memory.wf s.mem = true) (a0) : Kept (execDebugStep a0 s) := by
  refine debugCommand_kept h (fun _ _ _ h => ?_) _ _
  grind [refuse_wf, accept_wf, releaseGroup_wf, State.modGrp_mem, State.setGrp_mem]

theorem execDebugSetpc_kept {s : State} (h : Memory.wf s.mem = true) (a0) : Kept (execDebugSetpc a0 s) := by
  refine debugCommand_kept h (fun _ _ _ h => ?_) _ _
  grind [refuse_wf, accept_wf, releaseGroup_wf, State.modGrp_mem, State.setGrp_mem]

theorem execDebugDump_kept {s : State} (h : Memory.wf s.mem = true) (a0) : Kept (execDebugDump a0 s) := by
  refine debugCommand_kept h (fun _ _ _ h => ?_) _ _
  grind [refuse_wf, accept_wf, failWith_wf, writeRange_wf, sealBlocks_wf]

theorem exec_kept (i : Instr) {s : State} (h : Memory.wf s.mem = true) : Kept (exec i s) := by
  cases i
  case add | sub | mul | mulhi | mulhiu | mad | and | or | xor | andn | min | max | minu | maxu | add64 | sub64 | mul64 |
    mulhi64 | mulhiu64 | mad64 | and64 | or64 | xor64 | andn64 | min64 | max64 | minu64 | maxu64 | shl | shr | sar | rot |
    abs | clz | popc | brev | bfx | bfi | permb | div | divu | rem | remu | shl64 | shr64 | sar64 | rot64 | abs64 | clz64 |
    popc64 | brev64 | bfx64 | bfi64 | permb64 | div64 | divu64 | rem64 | remu64 | addi | muli | andi | ori | xori | shli |
    shri | sari | addi64 | muli64 | andi64 | ori64 | xori64 | shli64 | shri64 | sari64 | movi | movi64 | fadd | fsub | fmul |
    ffma | fmin | fmax | fsgnJ | fsgnN | fsgnX | fclass | fdiv | hadd2 | hmul2 | hfma2 | hmin2 | hmax2 | dadd | dmul | dfma |
    icmp | icmp64 | fcmp | plog | sel | shfl | shflImm | voteAll | voteAny | voteBallot | voteUni | matchLanes | vred | vscan |
    mov | mov64 | movs | movsHi | movs64 | scmp | wait | barst | bra | bru | call | callr | ret | jmpr | rjget | csrr | feat |
    trap | brk | nop | hintSched =>
    exact issue_kept h fun _ _ _ _ _ h => h
  case rcp | rsq | sqrt | exp2 | log2 | sin | cos | tanh | cvt | cvtpk | cvtupk =>
    exact issue_kept h fun _ _ _ => queued_keeps _ _
  case partset | rdlane | rdlane64 | sadd | ssub | smul | sand | sor | sxor | sshl | sshr | saddi | rjenrol | rjout =>
    exact issue_kept h fun _ _ _ => once_keeps _ _
  case atomTeam | atomCluster | atomDevice | atomFabric | red | atomcas | atomincb =>
    exact issue_kept h fun _ _ _ => atomMeaning_keeps _ _ _ _ _ _ _ _ _ _
  case tmma | tzero | tacld | tacst | tquant => exact issue_kept h fun _ _ _ => matMeaning_keeps _ _ _ _ _
  case ld a0 a1 a2 a3 a4 a5 => exact execLd_kept h a0 a1 a2 a3 a4 a5
  case lda a0 a1 a2 a3 a4 a5 a6 => exact execLda_kept h a0 a1 a2 a3 a4 a5 a6
  case st a0 a1 a2 a3 a4 a5 => exact execSt_kept h a0 a1 a2 a3 a4 a5
  case stl a0 a1 a2 a3 a4 a5 a6 => exact execStl_kept h a0 a1 a2 a3 a4 a5 a6
  case sigf a0 a1 a2 a3 a4 => exact execSigf_kept h a0 a1 a2 a3 a4
  case fence a0 a1 a2 => exact execFence_kept h a0 a1 a2
  case barv a0 a1 a2 a3 => exact execBarv_kept h a0 a1 a2 a3
  case barw a0 a1 a2 a3 a4 => exact execBarw_kept h a0 a1 a2 a3 a4
  case bars a0 a1 a2 a3 => exact execBars_kept h a0 a1 a2 a3
  case exit a0 => exact execExit_kept h a0
  case rjpark a0 a1 a2 => exact execRjpark_kept h a0 a1 a2
  case spawn a0 a1 a2 a3 a4 => exact execSpawn_kept h a0 a1 a2 a3 a4
  case spawnb a0 a1 a2 a3 a4 => exact execSpawnb_kept h a0 a1 a2 a3 a4
  case take a0 a1 a2 => exact execTake_kept h a0 a1 a2
  case endt a0 a1 => exact execEndt_kept h a0 a1
  case tjoin a0 a1 a2 => exact execTjoin_kept h a0 a1 a2
  case role a0 a1 a2 => exact execRole_kept h a0 a1 a2
  case launch a0 a1 a2 a3 a4 => exact execLaunch_kept h a0 a1 a2 a3 a4
  case tlend a0 a1 a2 => exact execTlend_kept h a0 a1 a2
  case vchain a0 a1 a2 => exact execVchain_kept h a0 a1 a2
  case vatwait a0 a1 a2 => exact execVatwait_kept h a0 a1 a2
  case vattake a0 a1 a2 => exact execVattake_kept h a0 a1 a2
  case vatfree a0 a1 a2 => exact execVatfree_kept h a0 a1 a2
  case cpy a0 a1 a2 a3 a4 => exact execCpy_kept h a0 a1 a2 a3 a4
  case cpya a0 a1 a2 a3 => exact execCpya_kept h a0 a1 a2 a3
  case cpyx a0 a1 a2 a3 a4 => exact execCpyx_kept h a0 a1 a2 a3 a4
  case qpush a0 a1 a2 a3 => exact execQpush_kept h a0 a1 a2 a3
  case cbload a0 a1 a2 a3 a4 => exact execCbload_kept h a0 a1 a2 a3 a4
  case cpyg a0 a1 a2 a3 => exact execCpyg_kept h a0 a1 a2 a3
  case aaset a0 a1 a2 a3 => exact execAaset_kept h a0 a1 a2 a3
  case vatarm a0 a1 a2 a3 => exact execVatarm_kept h a0 a1 a2 a3
  case cpyabort a0 a1 => exact execCpyabort_kept h a0 a1
  case decsub a0 a1 a2 a3 => exact execDecsub_kept h a0 a1 a2 a3
  case rshd a0 a1 a2 a3 => exact execRshd_kept h a0 a1 a2 a3
  case csrw a0 a1 a2 a3 => exact execCsrw_kept h a0 a1 a2 a3
  case tret a0 => exact execTret_kept h a0
  case chunkMovi a0 a1 => exact execChunkMovi_kept h a0 a1
  case chunkMoviHi a0 a1 => exact execChunkMoviHi_kept h a0 a1
  case chunkAddi a0 a1 a2 a3 => exact execChunkAddi_kept h a0 a1 a2 a3
  case chunkAddiN a0 a1 a2 a3 => exact execChunkAddiN_kept h a0 a1 a2 a3
  case loop a0 a1 => exact execLoop_kept h a0 a1
  case bnz a0 a1 => exact execBnz_kept h a0 a1
  case yield => exact execYield_kept h
  case chunkHalt => exact execChunkHalt_kept h
  case chunkCsrr a0 a1 => exact execChunkCsrr_kept h a0 a1
  case chunkCsrw a0 a1 => exact execChunkCsrw_kept h a0 a1
  case bind a0 a1 => exact execBind_kept h a0 a1
  case waitf a0 a1 a2 => exact execWaitf_kept h a0 a1 a2
  case chunkSigf a0 a1 => exact execChunkSigf_kept h a0 a1
  case chunkSigfAdd a0 a1 => exact execChunkSigfAdd_kept h a0 a1
  case xmit a0 a1 a2 a3 => exact execXmit_kept h a0 a1 a2 a3
  case recv a0 a1 a2 a3 => exact execRecv_kept h a0 a1 a2 a3
  case comb a0 a1 a2 a3 a4 a5 a6 => exact execComb_kept h a0 a1 a2 a3 a4 a5 a6
  case cfwd a0 a1 a2 a3 a4 a5 a6 a7 => exact execCfwd_kept h a0 a1 a2 a3 a4 a5 a6 a7
  case hintImm a0 => exact execHintImm_kept h a0
  case hintMod a0 a1 a2 a3 => exact execHintMod_kept h a0 a1 a2 a3
  case tlbinvWrite a0 a1 => exact execTlbinvWrite_kept h a0 a1
  case hardwareBreakpoint a0 a1 => exact execHardwareBreakpoint_kept h a0 a1
  case loadCompletion a0 a1 => exact execLoadCompletion_kept h a0 a1
  case storePerformed a0 a1 => exact execStorePerformed_kept h a0 a1
  case fenceCompletion a0 a1 => exact execFenceCompletion_kept h a0 a1
  case fenceConflictRollback a0 a1 => exact execFenceConflictRollback_kept h a0 a1
  case queueEntryArrival a0 a1 a2 => exact execQueueEntryArrival_kept h a0 a1 a2
  case copyCompletion a0 a1 a2 => exact execCopyCompletion_kept h a0 a1 a2
  case copyFault a0 a1 a2 a3 => exact execCopyFault_kept h a0 a1 a2 a3
  case matrixOperationRetire a0 a1 => exact execMatrixOperationRetire_kept h a0 a1
  case vchainRetire a0 a1 => exact execVchainRetire_kept h a0 a1
  case tlbInvalidationComplete a0 => exact execTlbInvalidationComplete_kept h a0
  case asyncEventTaken a0 => exact execAsyncEventTaken_kept h a0
  case sliceExpiry a0 => exact execSliceExpiry_kept h a0
  case drainTimeout a0 a1 => exact execDrainTimeout_kept h a0 a1
  case dependenceFlagRead a0 => exact execDependenceFlagRead_kept h a0
  case clusterPlacement => exact execClusterPlacement_kept h
  case impositionStartArrival a0 a1 => exact execImpositionStartArrival_kept h a0 a1
  case chunkArrival a0 a1 a2 a3 => exact execChunkArrival_kept h a0 a1 a2 a3
  case waitfFlagRead a0 a1 => exact execWaitfFlagRead_kept h a0 a1
  case curdReceived a0 a1 => exact execCurdReceived_kept h a0 a1
  case commit => exact execCommit_kept h
  case participantStop a0 => exact execParticipantStop_kept h a0
  case frameOutput a0 a1 => exact execFrameOutput_kept h a0 a1
  case slotStart a0 a1 => exact execSlotStart_kept h a0 a1
  case slotEnd a0 => exact execSlotEnd_kept h a0
  case flitReception a0 a1 => exact execFlitReception_kept h a0 a1
  case remoteRequestTimeout a0 a1 => exact execRemoteRequestTimeout_kept h a0 a1
  case fecWindowEnd a0 a1 a2 => exact execFecWindowEnd_kept h a0 a1 a2
  case retrainingEnd a0 a1 a2 => exact execRetrainingEnd_kept h a0 a1 a2
  case clockStepChange a0 => exact execClockStepChange_kept h a0
  case coolantHold => exact execCoolantHold_kept h
  case coolantHoldRelease => exact execCoolantHoldRelease_kept h
  case uncorrectableError a0 => exact execUncorrectableError_kept h a0
  case parityErrorReexecution a0 a1 => exact execParityErrorReexecution_kept h a0 a1
  case sampleTag a0 a1 a2 => exact execSampleTag_kept h a0 a1 a2
  case traceBlockWrite a0 => exact execTraceBlockWrite_kept h a0
  case coldStart a0 a1 => exact execColdStart_kept h a0 a1
  case warmStart a0 a1 => exact execWarmStart_kept h a0 a1
  case rdmaWrite a0 a1 a2 a3 => exact execRdmaWrite_kept h a0 a1 a2 a3
  case rdmaRead a0 a1 a2 a3 => exact execRdmaRead_kept h a0 a1 a2 a3
  case invalidRequestNak a0 => exact execInvalidRequestNak_kept h a0
  case ecnMark a0 => exact execEcnMark_kept h a0
  case managementConnectorAccess a0 => exact execManagementConnectorAccess_kept h a0
  case correctedError a0 => exact execCorrectedError_kept h a0
  case ethernetPortDown a0 => exact execEthernetPortDown_kept h a0
  case queuedResultWrite a0 => exact execQueuedResultWrite_kept h a0
  case clusterRestore a0 => exact execClusterRestore_kept h a0
  case preemptionRequest a0 => exact execPreemptionRequest_kept h a0
  case impositionStartTimeout a0 => exact execImpositionStartTimeout_kept h a0
  case reshardPlanning => exact execReshardPlanning_kept h
  case pendingCounterChange a0 => exact execPendingCounterChange_kept h a0
  case decodeRequestAssignment a0 => exact execDecodeRequestAssignment_kept h a0
  case liveMigration a0 a1 => exact execLiveMigration_kept h a0 a1
  case ctxcreate a0 => exact execCtxcreate_kept h a0
  case ctxdestroy a0 => exact execCtxdestroy_kept h a0
  case qopen a0 => exact execQopen_kept h a0
  case qcancel a0 => exact execQcancel_kept h a0
  case hostLaunch a0 => exact execHostLaunch_kept h a0
  case suspend a0 => exact execSuspend_kept h a0
  case linkstat a0 => exact execLinkstat_kept h a0
  case objload a0 => exact execObjload_kept h a0
  case rsabort a0 => exact execRsabort_kept h a0
  case qpbind a0 => exact execQpbind_kept h a0
  case mrdereg a0 => exact execMrdereg_kept h a0
  case objdrop a0 => exact execObjdrop_kept h a0
  case tracecfg a0 => exact execTracecfg_kept h a0
  case hostTlbinv a0 => exact execHostTlbinv_kept h a0
  case mrreg a0 => exact execMrreg_kept h a0
  case mgmtwr a0 => exact execMgmtwr_kept h a0
  case mgmtrd a0 => exact execMgmtrd_kept h a0
  case attest a0 => exact execAttest_kept h a0
  case bbread a0 => exact execBbread_kept h a0
  case keyload a0 => exact execKeyload_kept h a0
  case seqctlResume a0 => exact execSeqctlResume_kept h a0
  case seqctlStep a0 => exact execSeqctlStep_kept h a0
  case seqctlAbort a0 => exact execSeqctlAbort_kept h a0
  case seqctlStop a0 => exact execSeqctlStop_kept h a0
  case debugHalt a0 => exact execDebugHalt_kept h a0
  case debugHold a0 => exact execDebugHold_kept h a0
  case debugUnhold a0 => exact execDebugUnhold_kept h a0
  case debugBkset a0 => exact execDebugBkset_kept h a0
  case debugBkclr a0 => exact execDebugBkclr_kept h a0
  case debugRelease a0 => exact execDebugRelease_kept h a0
  case debugStep a0 => exact execDebugStep_kept h a0
  case debugSetpc a0 => exact execDebugSetpc_kept h a0
  case debugDump a0 => exact execDebugDump_kept h a0

/-- The state that a turn comes to, or in which it runs an instruction. -/
def Doing.state : Doing → State
  | .done s => s
  | .run _ s => s

section
variable {s : State} (h : Memory.wf s.mem = true)
include h

theorem stateAfter_wf {r : Res} (hr : Kept r) : Memory.wf (stateAfter s r).mem = true := by
  cases r with
  | next t => exact hr t rfl
  | fault e => exact h
  | refused e => exact h

theorem fetchTurn_wf : Memory.wf (Doing.state (fetchTurn s)).mem = true := by
  unfold fetchTurn
  dsimp only
  split
  · exact sampledTrap_wf (trapAll_wf (leaveTakes_wf h _) ..) _
  · split
    · exact holdIssue_wf h ..
    · exact freezeGrp_wf (clearCur_wf (leaveTakes_wf h _)) ..
  · next w _ =>
    have hl := fun c i => leaveTakes_wf (s := { s with cur := c }) h i
    split
    · exact sampledTrap_wf (undecoded_wf (hl ..) _) _
    · split
      · exact hl ..
      · exact issueState_wf (hl ..) _ _ fun _ _ _ _ _ h => h

theorem lanesTurn_wf (k m) : Memory.wf (Doing.state (lanesTurn s k m)).mem = true := by
  unfold lanesTurn
  dsimp only
  split
  · exact h
  split
  · exact h
  split
  · exact h
  split
  · exact getD_wf (fun _ hf => frontTrap_wf (rollbackTakes_wf h ..) _ _ _ hf) h
  · split
    · exact h
    · exact fetchTurn_wf (by exact h)

theorem seqTurn_wf (j) : Memory.wf (Doing.state (seqTurn s j)).mem = true := by
  unfold seqTurn
  split
  · exact h
  · exact curdTurn_wf h _
  · next n _ _ =>
    have hs := selectSlot_wf h j n
    dsimp only
    split
    · exact stopSlot_wf hs ..
    · split
      · exact stopSlot_wf hs ..
      · exact hs

theorem turnOf_wf (t) : Memory.wf (Doing.state (turnOf s t)).mem = true := by
  cases t
  case event i =>
    unfold turnOf
    dsimp only
    split
    · cases commandPair i with
      | none => exact h
      | some q => exact endAhead_wf h _
    · exact h
  all_goals
    unfold turnOf
    dsimp only
    split
    · exact h
  case lanes k m => exact lanesTurn_wf h ..
  case ready k m => exact readyTurn_wf h ..
  case seq j =>
    split
    · exact seqTurn_wf h _
    · exact h
  case retire k => exact retireGroup_wf h _
  case retireTeam tk => exact retireTeam_wf h _
  case writeBack core sector => exact State.flushSector_wf h ..
  case perform k id i => exact performPart_wf h ..
  case reload k id i => exact reloadPart_wf h ..
  case engineSee k id loc => exact engineSee_wf h ..
  case engineDo k id i part => exact engineDo_wf h ..
  case frameStart dec fr => exact beginFrame_wf h ..
  case frameByte dec i => exact frameByte_wf h ..
  case copySee k id i => exact copyEarly_wf h ..
  case copyMove k id i n => exact copyEarly_wf h ..
  case fill core ctxid va => exact fillSector_wf h ..
  case l2Fill ctxid va => exact fillL2_wf h ..
  case l2Drop sector => exact dropL2_wf h _
  case rdmaPart x n => exact rdmaPart_wf h ..
  case rdmaEnd qp => exact endAhead_wf h _
  case curdSee m c i n => exact curdSee_wf h ..
  case curdMove j i n => exact curdMove_wf h ..
  case fetchFill core ctxid va => exact fetchFill_wf h ..
  case fetchDrop core word => exact fetchDrop_wf h ..
  case deliver k => exact deliver_wf h _
  case transmit j k => exact transmit_wf h ..
  case tlbFill who ctxid page => exact tlbFill_wf h ..
  case tlbDrop who ctxid page => exact tlbDrop_wf h ..
  case reply qp => exact sendReply_wf h _
  case result k _ => exact stateAfter_wf h (exec_kept (.queuedResultWrite k) h)
  case flagRead q _ => exact stateAfter_wf h (exec_kept (.dependenceFlagRead q) h)
  case waitRead j n _ => exact stateAfter_wf h (exec_kept (.waitfFlagRead j n) h)
  case counterRead t _ => exact stateAfter_wf h (exec_kept (.pendingCounterChange t) h)
  case unknownCommand op cmd => exact unknownCommand_wf h ..

theorem stepDoing_wf : Memory.wf (Doing.state (stepDoing s)).mem = true := by
  have hp := passTime_wf h
  unfold stepDoing
  dsimp only
  split
  · exact fetchTurn_wf hp
  · exact turnOf_wf (nextTurn_wf hp _) _
end

/-- Settles O55: a step is a state or an instruction executed, and neither leaves the canonical form. -/
theorem memoryStaysWellFormed : Obligations.MemoryStaysWellFormed := by
  unfold Obligations.MemoryStaysWellFormed
  intro s t h ht
  have hd := stepDoing_wf h
  unfold step at ht
  split at ht
  · next u hu =>
    rw [hu] at hd
    exact Host.Outcome.next.inj ht ▸ hd
  · next i u hu =>
    rw [hu] at hd
    exact exec_kept i hd t ht

end Sys2Proof.MemoryForm


/-! PROOFS. Chapter 6: spawning, taking, ending, roles and launches. -/
namespace Sys2Proof.TaskProofs
open Sys2Proof.Machine Sys2Proof.Claims Sys2Proof.MemoryWork

/-! ## The atomic step of a join counter (R154, R161) -/

/-- A counter, in words that stand under its key, takes the step's result; no other byte changes once its sector is home. -/
theorem stepWord_raw {s : State} (who : Nat × Nat) {core tag loc : Nat} (f : Dword → Dword)
    (ht : ∀ i, i < 8 → isDram (loc + i) = true → wordTag (s.flushSector core (loc / 256)) ((loc + i) / 32) = tag) (a : Nat) :
    (stepWord s who core tag loc f).rawByte a = if loc ≤ a ∧ a < loc + 8 then
      (natToBytes 8 (f (BitVec.ofNat 64 ((s.flushSector core (loc / 256)).readNat none tag loc 8))).toNat).getD (a - loc) 0
    else (s.flushSector core (loc / 256)).rawByte a := by
  refine (State.writeBytes_raw (some who) (some core) _ (fun b h1 h2 => ?_) a).trans ?_
  · rw [MemorySync.natToBytes_length] at h2
    have := ht (b - loc) (by omega)
    rwa [Nat.add_sub_cancel' h1] at this
  · rw [MemorySync.natToBytes_length]

theorem joinStep_ok {s : State} {w : View} {l : Nat} {j : Dword} {p : Place} (f : Dword → Dword) (hj : j ≠ 0)
    (hp : joinPlace s w.g .write j = .ok p) (hpoison : s.poisoned none p.loc 8 = none) (hfree : pendingOver (s.grp w.key) l p.loc 8 = false) :
    joinStep s w l j f = (.ok, stepWord s (w.key, l) w.g.core p.tag p.loc f) := by
  unfold joinStep
  rw [if_neg hj, hp]
  dsimp only
  rw [hpoison]
  dsimp only
  rw [if_neg (by rw [hfree]; exact Bool.false_ne_true)]

theorem joinStep_worked (s : State) (w : View) (l : Nat) (j : Dword) (f : Dword → Dword) : Worked s (joinStep s w l j f).2 := by
  unfold joinStep
  split
  · exact .refl s
  · split
    · split
      · exact .refl s
      · split
        · exact .refl s
        · exact stepWord_worked ..
    · exact .refl s
    · exact .refl s
    · exact .refl s

/-! ## Spawning (R151, R152, R154, R164) -/

theorem exec_spawns {i : Instr} {q : View → Nat → SpawnReq} (h : spawns i = some q) (s : State) : exec i s = issue i s (spawnMeaning q) := by
  refine Tables.of_entry (P := fun q => exec i s = issue i s (spawnMeaning q)) ?_ h
  clear h
  cases i
  case spawn | spawnb => exact Eq.refl (exec _ s)
  all_goals exact trivial

theorem outs_map_ok {ls : List Nat} {outs : List (Nat × LaneOut)} (hl : outs.map (·.1) = ls) (hok : ∀ o ∈ outs, o.2 = .ok) :
    outs = ls.map (fun l => (l, LaneOut.ok)) := by
  subst hl
  rw [List.map_map]
  refine (List.map_id' outs).symm.trans (List.map_congr_left fun o ho => ?_)
  rw [Function.comp_apply, ← hok o ho]

theorem spawnLanes_lanes (w : View) (q : Nat → SpawnReq) (ls : List Nat) (s : State) : (spawnLanes w q ls s).1.map (·.1) = ls := by
  induction ls generalizing s with
  | nil => rfl
  | cons l r ih => exact congrArg (l :: ·) (ih _)

/-- What a push of a frame leaves at the bottom of a deque that has room. -/
def pushedOn (t : State) (core : Nat) (f : Frame) (r : State) : Prop :=
  (r.deque core).seq = (t.deque core).seq + 1 ∧
  (r.deque core).frames = (t.deque core).frames ++ [{ f with seq := (t.deque core).seq, origin := core }]

theorem deque_setDeque (s : State) (core : Nat) (d : Deque) : (s.setDeque core d).deque core = d := Bank.get_set_same ..

theorem pushFrame_room {s : State} {core own : Nat} {f : Frame} {after : List (Nat × Nat × Nat)} (h : (s.deque core).frames.length < 64) :
    ∃ t, pushFrame s core own f after = .ok t ∧ pushedOn s core f t := by
  refine ⟨_, if_pos h, ?_, ?_⟩
  · rw [deque_setDeque]
  · rw [deque_setDeque]
theorem pushFrame_spilled {s t : State} {core own : Nat} {f : Frame} {after : List (Nat × Nat × Nat)} (h : 64 ≤ (s.deque core).frames.length)
    (hspill : spill s core own = .ok t) : ∃ r, pushFrame s core own f after = .ok r ∧ pushedOn t core f r := by
  unfold pushFrame
  dsimp only
  rw [if_neg (Nat.not_lt.mpr h), hspill]
  refine ⟨_, rfl, ?_, ?_⟩
  · rw [deque_setDeque]
  · rw [deque_setDeque]

/-- The frames and sequence number of each deque are as they were. -/
def SameDeques (s t : State) : Prop := ∀ core, (t.deque core).frames = (s.deque core).frames ∧ (t.deque core).seq = (s.deque core).seq

theorem SameDeques.refl (s : State) : SameDeques s s := fun _ => ⟨rfl, rfl⟩
theorem SameDeques.trans {a b c : State} (h : SameDeques a b) (h' : SameDeques b c) : SameDeques a c :=
  fun core => ⟨(h' core).1.trans (h core).1, (h' core).2.trans (h core).2⟩
theorem SameDeques.of_worked {s t : State} (h : Worked s t) : SameDeques s t := fun core => by
  rw [h.deque]
  exact ⟨rfl, rfl⟩
theorem SameDeques.foldl {α : Type} {f : State → α → State} (hf : ∀ s x, SameDeques s (f s x)) (l : List α) (s : State) :
    SameDeques s (l.foldl f s) := by
  induction l generalizing s with
  | nil => exact .refl s
  | cons x r ih => exact (hf s x).trans (ih _)

theorem writeRange_worked {s t : State} {who ctxid : Nat} {va : Dword} {d : List Byte} (h : writeRange s who ctxid va d = .ok t) : Worked s t := by
  unfold writeRange at h
  cases hp : rangePlaces s who ctxid .write va d.length with
  | error e => rw [hp] at h; cases h
  | ok ps =>
    rw [hp] at h
    cases h
    exact Worked.foldl (fun s p => writeBytes_worked s _ _ _ _ _) ps s
theorem writeRanges_worked {α : Type} {who ctxid : Nat} {va : State → α → Dword} {d : α → List Byte} (l : List α) {s t : State}
    (h : l.foldlM (fun s x => writeRange s who ctxid (va s x) (d x)) s = .ok t) : Worked s t := by
  induction l generalizing s with
  | nil => cases h; exact .refl _
  | cons x r ih =>
    obtain ⟨u, hx, hr⟩ := MemoryForm.except_bind_ok h
    exact (writeRange_worked hx).trans (ih hr)
theorem setRinged_same (s : State) (grid core n : Nat) : SameDeques s (s.setRinged grid core n) := fun c => by
  unfold State.setRinged
  dsimp only
  by_cases hc : c = core
  · subst hc
    rw [deque_setDeque]
    exact ⟨rfl, rfl⟩
  · have : (s.setDeque core { s.deque core with ringed := Bank.set 0 (s.deque core).ringed grid n }).deque c = s.deque c :=
      Bank.get_set_other _ _ _ hc
    rw [this]
    exact ⟨rfl, rfl⟩
theorem appendRing_same {s t : State} {ctxid core : Nat} {fs : List Frame} (h : appendRing s ctxid core fs = .ok t) : SameDeques s t := by
  obtain ⟨hd, -, h⟩ := MemoryForm.except_bind_ok h
  obtain ⟨s1, h1, h⟩ := MemoryForm.except_bind_ok h
  obtain ⟨s2, h2, rfl⟩ := MemoryForm.except_map_ok h
  refine (SameDeques.of_worked ((writeRanges_worked _ h1).trans (writeRange_worked h2))).trans ?_
  exact SameDeques.foldl (fun s f => setRinged_same s f.grid core _) fs s2
theorem spillVia_same {app : State → Nat → Nat → List Frame → Except RangeFault State}
    (happ : ∀ s c core fs t, app s c core fs = .ok t → SameDeques s t) {core own : Nat} {cs : List Nat} {fs acc : List Frame} {s : State}
    {r : State × List Frame} (h : MemoryForm.spillVia app core own cs fs s acc = .ok r) : SameDeques s r.1 ∧ ∀ f ∈ r.2, f ∈ acc ∨ f ∈ fs := by
  induction cs generalizing s acc with
  | nil => cases h; exact ⟨.refl s, fun f hf => .inl hf⟩
  | cons c rest ih =>
    unfold MemoryForm.spillVia at h
    extract_lets mine at h
    split at h
    · next u hu =>
      obtain ⟨hsame, hmem⟩ := ih h
      refine ⟨(happ _ _ _ _ _ hu).trans hsame, fun f hf => ?_⟩
      rcases hmem f hf with hf | hf
      · exact (List.mem_append.mp hf).imp id List.mem_of_mem_filter
      · exact .inr hf
    · split at h
      · cases h
      · exact ih h
theorem spillContexts_same {core own : Nat} {cs : List Nat} {fs acc : List Frame} {s : State} {r : State × List Frame}
    (h : spillContexts core own cs fs s acc = .ok r) : SameDeques s r.1 ∧ ∀ f ∈ r.2, f ∈ acc ∨ f ∈ fs := by
  rw [MemoryForm.spillContexts_eq] at h
  exact spillVia_same (fun _ _ _ _ _ h => appendRing_same h) h

/-- What a spill takes off the deque is among its 32 oldest frames. -/
theorem spill_ok {s t : State} {core own : Nat} (h : spill s core own = .ok t) :
    (t.deque core).seq = (s.deque core).seq ∧ ∃ gone, gone ≠ [] ∧ (∀ f ∈ gone, f ∈ (s.deque core).frames.take 32) ∧
      (t.deque core).frames = (s.deque core).frames.filter (fun f => !gone.contains f) := by
  unfold spill at h
  dsimp only at h
  split at h
  · cases h
  · split at h
    · cases h
    · next s' gone hs =>
      obtain ⟨hsame, hmem⟩ := spillContexts_same hs
      split at h
      · cases h
      · next hne =>
        cases h
        rw [deque_setDeque]
        refine ⟨(hsame core).2, gone, fun hc => hne (by rw [hc]; rfl), fun f hf => (hmem f hf).resolve_left (fun h => nomatch h), ?_⟩
        exact congrArg (List.filter _) (hsame core).1

section
variable {w : View} {q : SpawnReq} {l : Nat} {s s2 : State} (hcheck : spawnCheck s w.g q = .ok) (hn : q.n ≠ 0)
  (hstep : spawnStep (releaseAt (releaseLanes s w.key (laneBit l)) w.g.core 3) w l q.join q.n = (.ok, s2))

/-- The frame of a request. -/
def frameFor (w : View) (q : SpawnReq) : Frame :=
  { entry := q.entry, arg := q.arg, join := q.join, batch := q.batch, resv := false, team := w.g.team, grid := w.g.grid,
    count := q.n, size := q.size, next := 0, origin := w.g.core, seq := 0 }

include hcheck hn hstep in
/-- A lane whose counter has gone up comes to what its push comes to. -/
theorem spawnLane_push : spawnLane w q l s =
    match pushFrame s2 w.g.core w.g.ctxid (frameFor w q) (unperformed (s2.grp w.key) w.key (laneBit l)) with
    | .ok s3 => (.ok, s3)
    | .full => (.wait, s)
    | .fault e => match e.why with
      | .violation c p => (.violation c p, s)
      | _ => (.late 6 0 e.addr, s) := by
  unfold spawnLane
  rw [hcheck]
  dsimp only
  rw [if_neg hn, hstep]
  rfl

include hcheck hn hstep in
theorem spawnLane_room (h : (s2.deque w.g.core).frames.length < 64) :
    (spawnLane w q l s).1 = .ok ∧ pushedOn s2 w.g.core (frameFor w q) (spawnLane w q l s).2 := by
  obtain ⟨t, ht, hpushed⟩ := pushFrame_room (own := w.g.ctxid) (f := frameFor w q)
    (after := unperformed (s2.grp w.key) w.key (laneBit l)) h
  rw [spawnLane_push hcheck hn hstep, ht]
  exact ⟨rfl, hpushed⟩

include hcheck hn hstep in
theorem spawnLane_spilled (h : 64 ≤ (s2.deque w.g.core).frames.length) {t : State} (hspill : spill s2 w.g.core w.g.ctxid = .ok t) :
    (spawnLane w q l s).1 = .ok ∧ pushedOn t w.g.core (frameFor w q) (spawnLane w q l s).2 := by
  obtain ⟨r, hr, hpushed⟩ := pushFrame_spilled (f := frameFor w q) (after := unperformed (s2.grp w.key) w.key (laneBit l)) h hspill
  rw [spawnLane_push hcheck hn hstep, hr]
  exact ⟨rfl, hpushed⟩

include hcheck hn hstep in
/-- Without room in a ring the lane waits; a ring that cannot be written stops it. -/
theorem spawnLane_stays (h : 64 ≤ (s2.deque w.g.core).frames.length) :
    (spill s2 w.g.core w.g.ctxid = .full → spawnLane w q l s = (.wait, s)) ∧
    ∀ e, spill s2 w.g.core w.g.ctxid = .fault e → (spawnLane w q l s).2 = s ∧ (spawnLane w q l s).1 = match e.why with
      | .violation c p => .violation c p
      | _ => .late 6 0 e.addr := by
  have hpush : ∀ f after, pushFrame s2 w.g.core w.g.ctxid f after = _ := fun f after => if_neg (Nat.not_lt.mpr h)
  rw [spawnLane_push hcheck hn hstep, hpush]
  refine ⟨fun hf => by rw [hf], fun e hf => ?_⟩
  rw [hf]
  dsimp only
  split <;> exact ⟨rfl, rfl⟩
end

theorem spawnStep_counted {w : View} {l n : Nat} {j : Dword} {p : Place} {s : State} (hj : j ≠ 0) (hp : joinPlace s w.g .write j = .ok p)
    (hpoison : s.poisoned none p.loc 8 = none) (hfree : pendingOver (s.grp w.key) l p.loc 8 = false) :
    spawnStep s w l j n = (.ok, stepWord s (w.key, l) w.g.core p.tag p.loc (fun x => x + BitVec.ofNat 64 n)) := by
  unfold spawnStep
  rw [joinStep_ok _ hj hp hpoison hfree]

/-- Settles O24: the lanes in order, one lane's push, its counter, and the spill. -/
theorem spawns : Obligations.Spawns := by
  unfold Obligations.Spawns
  refine ⟨fun i s q hi hready hok => ?_, fun w q l s s2 hcheck hn hstep => ?_, ?_,
    fun w l n s => rfl, fun s t core own h => (spill_ok h).2⟩
  · exact MemorySync.completes_of (exec_spawns hi s) hready (outs_map_ok (spawnLanes_lanes ..) hok) rfl
  · dsimp only
    refine ⟨fun h => spawnLane_room hcheck hn hstep h, fun h => ?_⟩
    obtain ⟨hfull, hfault⟩ := spawnLane_stays hcheck hn hstep h
    cases hs : spill s2 w.g.core w.g.ctxid with
    | ok t =>
      obtain ⟨hok, hseq, hframes⟩ := spawnLane_spilled hcheck hn hstep h hs
      rw [(spill_ok hs).1] at hseq hframes
      exact ⟨hok, hseq, hframes⟩
    | full => exact hfull hs
    | fault e => exact hfault e hs
  · intro w l n j p s h hj hp hpoison hfree htag
    have hraw := stepWord_raw (w.key, l) (core := w.g.core) (fun x => x + BitVec.ofNat 64 n) htag
    refine ⟨_, spawnStep_counted hj hp hpoison hfree, (stepWord_worked ..).deques, fun i hi => ?_, fun a ha => ?_⟩
    · rw [hraw, if_pos (by omega), Nat.add_sub_cancel_left]
    · rw [hraw, if_neg (by omega)]


/-! ## Taking (R158) -/

theorem takeLanes_lanes (w : View) (d : Nat) (ls : List Nat) (s : State) : (takeLanes w d ls s).1.map (·.1) = ls := by
  induction ls generalizing s with
  | nil => rfl
  | cons l r ih =>
    unfold takeLanes
    dsimp only
    split
    · exact congrArg (l :: ·) (ih _)
    · split
      all_goals exact congrArg (l :: ·) (ih _)

theorem bestTrap_ok {outs : List (Nat × LaneOut)} (h : ∀ o ∈ outs, o.2 = .ok) : bestTrap outs = none := by
  have hnone : outs.filterMap (fun o => o.2.trapCode) = [] := List.filterMap_eq_nil_iff.mpr fun o ho => by rw [h o ho]; rfl
  rw [bestTrap, hnone]
  rfl

theorem take_completes {u : Bool} {d : BitVec 6} {p : BitVec 3} {s : State} (hready : ready (.take u d p) s = true)
    (hok : ∀ o ∈ (takeRun (viewOf (.take u d p) s) d.toNat (acting (.take u d p) s) (enter (.take u d p) s)).1, o.2 = .ok) :
    completes (.take u d p) s (fun t => (takeRun (viewOf (.take u d p) s) d.toNat (acting (.take u d p) s) t).2) := by
  have hm : takeMeaning d.toNat (viewOf (.take u d p) s) (enter (.take u d p) s) =
      ⟨(takeRun (viewOf (.take u d p) s) d.toNat (acting (.take u d p) s) (enter (.take u d p) s)).1,
        fun _ t => (takeRun (viewOf (.take u d p) s) d.toNat (acting (.take u d p) s) t).2⟩ := if_pos (.inr (bestTrap_ok hok))
  refine MemorySync.completes_of (m := takeMeaning d.toNat) rfl hready ?_ ?_
  · rw [hm]
    exact outs_map_ok (takeLanes_lanes ..) hok
  · rw [hm]

theorem releaseFrame_frames (s : State) (core : Nat) (f : Frame) : ((releaseFrame s core f).deque core).frames = (s.deque core).frames := by
  unfold releaseFrame
  dsimp only
  split
  · rfl
  · rw [deque_setDeque]
    dsimp only
    rw [(Worked.foldl (fun s (a : Nat × Nat × Nat) => flushCore_worked s a.2.2) _ s).deque core]

/-- What a deal from a core's own deque gives and leaves: the chunk of a card by its count. -/
theorem deal_deque (W core : Nat) (f : Frame) (stolen : Bool) (s : State) :
    let n := if f.batch then Nat.min (f.count - f.next) (Nat.max 1 ((f.count - f.next + 2 * W - 1) / (2 * W))) else 1
    (deal W (.deque core) f stolen s).1 = .got f.entry (if f.batch then f.arg + BitVec.ofNat 64 (f.next * f.size) else f.arg) n f.batch
      stolen f.join ∧
    ((deal W (.deque core) f stolen s).2.deque core).frames = if (f.batch && f.next + n != f.count) = true then
      (s.deque core).frames.map (fun x => if x = f then { f with next := f.next + n, resv := false } else x)
      else (s.deque core).frames.filter (fun x => x ≠ f) := by
  intro n
  refine ⟨rfl, ?_⟩
  refine (releaseFrame_frames _ core f).trans ?_
  rw [deque_setDeque]
  by_cases h : (f.batch && f.next + n != f.count) = true
  · rw [if_pos h, if_pos h]
  · rw [if_neg h, if_neg h]

/-- The least chunk whose 2 W-fold is the rest of a card (R158). -/
theorem chunk_least {W rem n : Nat} (hW : 1 ≤ W) (hrem : 0 < rem) (hn : n = Nat.min rem (Nat.max 1 ((rem + 2 * W - 1) / (2 * W)))) :
    1 ≤ n ∧ n ≤ rem ∧ rem ≤ 2 * W * n ∧ (n = 1 ∨ 2 * W * (n - 1) < rem) := by
  obtain ⟨c, hc⟩ : ∃ c, c = (rem + 2 * W - 1) / (2 * W) := ⟨_, rfl⟩
  have hle : 2 * W * c ≤ rem + 2 * W - 1 := hc ▸ Nat.mul_div_le _ _
  have hlt : rem + 2 * W - 1 < 2 * W * c + 2 * W := hc ▸ Nat.lt_mul_div_succ _ (by omega)
  have hc0 : c ≠ 0 := fun h => by rw [h] at hlt; omega
  have hstep : 2 * W * c = 2 * W * (c - 1) + 2 * W := by rw [← Nat.mul_succ]; congr 1; omega
  have hcrem : c ≤ rem := by
    by_contra h
    have hmul : 2 * W * (rem + 1) ≤ 2 * W * c := Nat.mul_le_mul_left _ (Nat.lt_of_not_le h)
    have hone : 1 * rem ≤ 2 * W * rem := Nat.mul_le_mul_right _ (by omega)
    rw [Nat.mul_succ] at hmul
    omega
  have hnc : n = c := hn.trans (by rw [← hc, show Nat.max 1 c = c from Nat.max_eq_right (by omega)]; exact Nat.min_eq_right hcrem)
  rw [hnc]
  exact ⟨by omega, hcrem, by omega, .inr (by omega)⟩

section
variable (g : Grp) (d l n : Nat) (e a j : Dword) (b st : Bool)

theorem giveTask_task : ((giveTask g d l (.got e a n b st j)).lane l).task = some (j, n) := by
  unfold giveTask
  dsimp only
  rw [Grp.lane_modLane, if_pos rfl]

theorem giveTask_rv (hl : l < 32) (m : Nat) : (giveTask g d l (.got e a n b st j)).rv m l =
    if m = d + 5 then (if b then 1 else 0) + (if st then 2 else 0) else if m = d + 4 then BitVec.ofNat 32 n
    else if m = d + 3 then a.extractLsb' 32 32 else if m = d + 2 then a.extractLsb' 0 32
    else if m = d + 1 then e.extractLsb' 32 32 else if m = d then e.extractLsb' 0 32 else g.rv m l := by
  have hkey : ∀ m k, g.vkey m l = g.vkey k l ↔ m = k := fun m k => ⟨fun h => (g.vkey_inj h hl hl).1, fun h => by rw [h]⟩
  have hmarks : BitVec.ofNat 32 (bit64 b 0 + bit64 st 1) = (if b then 1 else 0) + (if st then 2 else 0) := by
    cases b <;> cases st <;> rfl
  show ((((((g.wv d l (e.extractLsb' 0 32)).wv (d + 1) l (e.extractLsb' 32 32)).wv (d + 2) l (a.extractLsb' 0 32)).wv (d + 3) l
    (a.extractLsb' 32 32)).wv (d + 4) l (BitVec.ofNat 32 n)).wv (d + 5) l (BitVec.ofNat 32 (bit64 b 0 + bit64 st 1))).rv m l = _
  simp only [Grp.rv, Grp.get_wv, Grp.vkey_wv, hkey, hmarks]
end

/-- Settles O25: the lanes in order, what one is dealt, and what a plain task and a card leave. -/
theorem takes : Obligations.Takes := by
  unfold Obligations.Takes
  refine ⟨?_, fun g d l n e a j b st hl => ⟨giveTask_task .., ?_⟩, fun W core f stolen s hb => ?_, fun W core f stolen s hb hnext hW => ?_⟩
  · intro u d p s hready i hok
    exact take_completes hready hok
  · have hrv := giveTask_rv g d l n e a j b st hl
    unfold Grp.rv64
    refine ⟨?_, ?_, ?_, ?_, fun m hm => ?_⟩
    · rw [hrv, hrv]
      simp
      exact Laws.Bits.halves e
    · rw [hrv, hrv]
      simp
      exact Laws.Bits.halves a
    · rw [hrv]
      simp
    · rw [hrv, if_pos rfl]
    · rw [hrv]
      simp only [show m ≠ d + 5 by omega, show m ≠ d + 4 by omega, show m ≠ d + 3 by omega, show m ≠ d + 2 by omega,
        show m ≠ d + 1 by omega, show m ≠ d by omega, if_false]
  · have h := deal_deque W core f stolen s
    simp only [hb] at h
    exact h
  · obtain ⟨hgot, hframes⟩ := deal_deque W core f stolen s
    simp only [hb, if_true, Bool.true_and] at hgot hframes
    obtain ⟨h1, hrem, hleast, hmin⟩ := chunk_least (n := Nat.min (f.count - f.next) _) hW (Nat.sub_pos_of_lt hnext) rfl
    refine ⟨_, hgot, h1, hrem, hleast, hmin, ?_⟩
    rw [hframes]
    by_cases h : f.next + Nat.min (f.count - f.next) (Nat.max 1 ((f.count - f.next + 2 * W - 1) / (2 * W))) = f.count
    · rw [if_pos h, if_neg (by rw [h, bne_self_eq_false]; exact Bool.false_ne_true)]
    · rw [if_neg h, if_pos (bne_iff_ne.mpr h), hb]


/-! ## Ending (R161) -/

section
variable {w : View} {l : Nat} {s : State}

theorem endtLane_some {j : Dword} {n : Nat} (h : (w.g.lane l).task = some (j, n)) : endtLane w s l =
    (joinStep (releaseAt (releaseLanes s w.key (laneBit l)) w.g.core 3) w l j (fun x => x - BitVec.ofNat 64 n)).2.modGrp w.key
      (fun g => g.modLane l (fun x => { x with task := none })) := by
  unfold endtLane
  rw [h]

/-- What ends a lane's task leaves every other lane's. -/
theorem endtLane_task (h : (w.g.lane l).task ≠ none) (i : Nat) :
    (((endtLane w s l).grp w.key).lane i).task = if i = l then none else ((s.grp w.key).lane i).task := by
  obtain ⟨⟨j, n⟩, ht⟩ := Option.ne_none_iff_exists'.mp h
  rw [endtLane_some ht, State.grp_modGrp, Grp.lane_modLane]
  split
  · rfl
  · have hw := ((releaseLanes_worked s w.key (laneBit l)).trans (releaseAt_worked _ w.g.core 3)).trans
      (joinStep_worked _ w l j (fun x => x - BitVec.ofNat 64 n))
    rw [hw.lane]

theorem endtLanes_task (ls : List Nat) (h : ∀ l ∈ ls, (w.g.lane l).task ≠ none) (s : State) (i : Nat) :
    (((ls.foldl (endtLane w) s).grp w.key).lane i).task = if i ∈ ls then none else ((s.grp w.key).lane i).task := by
  induction ls generalizing s with
  | nil => rw [if_neg (fun h => nomatch h)]; rfl
  | cons a r ih =>
    rw [List.foldl_cons, ih (fun l hl => h l (List.mem_cons_of_mem _ hl)), endtLane_task (h a (List.mem_cons_self ..))]
    by_cases hr : i ∈ r
    · rw [if_pos hr, if_pos (List.mem_cons_of_mem _ hr)]
    · by_cases ha : i = a
      · rw [if_neg hr, if_pos ha, if_pos (ha ▸ List.mem_cons_self ..)]
      · rw [if_neg hr, if_neg ha, if_neg (by rw [List.mem_cons]; exact not_or.mpr ⟨ha, hr⟩)]
end

theorem endtOut_task {s : State} {w : View} {l : Nat} (h : endtOut s w l = .ok) : (w.g.lane l).task ≠ none := fun hc => by
  unfold endtOut at h
  rw [hc] at h
  cases h

theorem endt_completes {u : Bool} {p : BitVec 3} {s : State} (hready : ready (.endt u p) s = true)
    (hok : ∀ l, inMask (viewOf (.endt u p) s).act l = true → endtOut (enter (.endt u p) s) (viewOf (.endt u p) s) l = .ok) :
    completes (.endt u p) s (fun t => (acting (.endt u p) s).foldl (endtLane (viewOf (.endt u p) s)) t) :=
  MemorySync.completes_of (m := _) rfl hready (MemorySync.outs_ok hok) rfl

/-- The lanes of Act have no task after ENDT, the others theirs. -/
theorem endt_tasks {u : Bool} {p : BitVec 3} {s : State}
    (hok : ∀ l, inMask (viewOf (.endt u p) s).act l = true → endtOut (enter (.endt u p) s) (viewOf (.endt u p) s) l = .ok) (l : Nat) :
    (((leave (.endt u p) s ((acting (.endt u p) s).foldl (endtLane (viewOf (.endt u p) s)) (enter (.endt u p) s))).grp s.key).lane l).task =
      if inMask (viewOf (.endt u p) s).act l then none else ((s.grp s.key).lane l).task := by
  rw [leave_settle]
  refine ((ControlTraps.settle_lives (.endt u p) s _ (fun _ => .ok)).lanes l).2.trans ?_
  refine (endtLanes_task (w := viewOf (.endt u p) s) _ (fun l hl => endtOut_task (hok l ((mem_lanesOf _ _).mp hl))) _ l).trans ?_
  show (if l ∈ acting (.endt u p) s then none else (((enter (.endt u p) s).grp s.key).lane l).task) = _
  rw [enter_grp, viewOf_lane]
  exact if_congr (mem_lanesOf _ _) rfl rfl

/-! ## Roles (R166) -/

theorem role_goes {u : Bool} {k : BitVec 2} {p : BitVec 3} {s : State} (hready : ready (.role u k p) s = true)
    (hlive : ∀ l ∈ (viewOf (.role u k p) s).g.live, inMask (viewOf (.role u k p) s).act l = true)
    (hwin : (viewOf (.role u k p) s).g.qwinOn = true → 64 ≤ (viewOf (.role u k p) s).g.winOf k.toNat)
    (hidle : roleIdle (enter (.role u k p) s) (viewOf (.role u k p) s) = true) :
    exec (.role u k p) s = .next (settle (.role u k p) s ((acting (.role u k p) s).map (fun l =>
      (l, LaneOut.goto ((viewOf (.role u k p) s).g.kern.entries.getD k.toNat 0))))
      (if (viewOf (.role u k p) s).act = 0 then enter (.role u k p) s
       else (enter (.role u k p) s).modGrp s.key (fun g => { g with role := k.toNat }))) := by
  have hall : (viewOf (.role u k p) s).g.live.any (fun l => !inMask (viewOf (.role u k p) s).act l) = false :=
    List.any_eq_false.mpr fun l hl => by rw [hlive l hl]; exact Bool.false_ne_true
  have hfits : ((viewOf (.role u k p) s).g.qwinOn && decide ((viewOf (.role u k p) s).g.winOf k.toNat < 64)) = false := by
    cases hq : (viewOf (.role u k p) s).g.qwinOn with
    | false => rfl
    | true => exact decide_eq_false (Nat.not_lt.mpr (hwin hq))
  refine ControlTraps.issue_moves (m := _) (out := fun _ => .goto ((viewOf (.role u k p) s).g.kern.entries.getD k.toNat 0)) hready
    (eff := fun done s' => if done = 0 then s' else s'.modGrp (viewOf (.role u k p) s).key (fun g => { g with role := k.toNat })) ?_
    (fun l _ => ⟨rfl, rfl, fun h => nomatch h⟩)
  simp only [hall, hfits, hidle, Bool.not_true, Bool.false_eq_true, if_false]
  rfl

/-! ## Launching from the device (R167) -/

theorem launch_completes {u : Bool} {d a : BitVec 5} {q : BitVec 6} {p : BitVec 3} {s : State} (hready : ready (.launch u d a q p) s = true)
    {l : Nat} {pkt : Packet} (hlow : lowest (viewOf (.launch u d a q p) s).act = some l)
    (hpkt : launchPacket (drainStores (enter (.launch u d a q p) s) s.key (viewOf (.launch u d a q p) s).act) (viewOf (.launch u d a q p) s) l
      ((viewOf (.launch u d a q p) s).g.rs a.toNat) = .ok pkt) :
    completes (.launch u d a q p) s (fun t =>
      let w := viewOf (.launch u d a q p) s
      let t := releaseAt (releaseLanes (dropFetched t s.key w.act) s.key w.act) w.g.core 3
      let code := enqueueCode t q.toNat w.g.ctxid pkt
      let r := if code = 0 then enqueue t q.toNat pkt (unperformed (t.grp s.key) s.key w.act) else (t, 0)
      r.1.modGrp s.key (fun g => g.ws d.toNat (BitVec.ofNat 64 (code + r.2 * 2 ^ 32)))) := by
  have hact : (viewOf (.launch u d a q p) s).act ≠ 0 := fun h => by
    rw [h] at hlow
    cases hlow
  refine MemorySync.completes_of (m := _) rfl hready ?_ ?_
  · simp only [hlow]
    rw [show (viewOf (.launch u d a q p) s).key = s.key from rfl, hpkt]
    rfl
  · simp only [hlow]
    rw [show (viewOf (.launch u d a q p) s).key = s.key from rfl, hpkt]
    exact if_neg hact

/-- Settles O26: ENDT as a whole and one lane's counter, ROLE, and LAUNCH. -/
theorem taskEndsRolesAndLaunches : Obligations.TaskEndsRolesAndLaunches := by
  unfold Obligations.TaskEndsRolesAndLaunches
  refine ⟨⟨?_, ?_, ?_⟩, ?_⟩
  · intro u p s hready i hok
    refine ⟨endt_completes hready hok, _, endt_completes hready hok, fun l hl => ?_, fun l hl => ?_⟩
    · exact (endt_tasks hok l).trans (if_pos hl)
    · exact (endt_tasks hok l).trans (if_neg (by rw [hl]; exact Bool.false_ne_true))
  · intro w l n j p s htask hj s1 h hp hpoison hfree htag
    have hraw := stepWord_raw (w.key, l) (core := w.g.core) (fun x => x - BitVec.ofNat 64 n) htag
    have hend : endtLane w s l = (stepWord s1 (w.key, l) w.g.core p.tag p.loc (fun x => x - BitVec.ofNat 64 n)).modGrp w.key
        (fun g => g.modLane l (fun x => { x with task := none })) := by
      rw [endtLane_some htask, joinStep_ok _ hj hp hpoison hfree]
    have hbyte : ∀ a, (endtLane w s l).rawByte a = (stepWord s1 (w.key, l) w.g.core p.tag p.loc (fun x => x - BitVec.ofNat 64 n)).rawByte a :=
      fun a => by rw [hend]; rfl
    refine ⟨?_, fun i hi => ?_, fun a ha => ?_⟩
    · rw [endtLane_task (by rw [htask]; exact fun h => nomatch h), if_pos rfl]
    · rw [hbyte, hraw, if_pos (by omega), Nat.add_sub_cancel_left]
    · rw [hbyte, hraw, if_neg (by omega)]
  · intro u k p s hready i w hlive hwin hidle
    exact role_goes hready hlive hwin hidle
  · intro u d a q p s hready i w l pkt hlow hpkt
    exact launch_completes hready hlow hpkt

end Sys2Proof.TaskProofs


/-! PROOFS. Chapter 13: the words of the link sequencers. -/
namespace Sys2Proof.SequencerProofs
open Sys2Proof.Machine Sys2Proof.Claims Sys2Proof.MemoryWork Sys2Proof.Tables

/-! ## Slots -/

theorem slot_setSlot (s : State) (k : Nat) (x : SeqSlot) : (s.setSlot k x).slot k = x := Bank.get_set_same ..
theorem slot_modSlot (s : State) (k : Nat) (f : SeqSlot → SeqSlot) : (s.modSlot k f).slot k = f (s.slot k) := slot_setSlot ..
theorem setSlot_setSlot (s : State) (k : Nat) (x y : SeqSlot) : (s.setSlot k x).setSlot k y = s.setSlot k y :=
  congrArg (fun b => ({ s with seqs := { s.seqs with slots := b } } : State)) (ControlTraps.bank_set_set ..)
theorem modSlot_setSlot (s : State) (k : Nat) (x : SeqSlot) (f : SeqSlot → SeqSlot) : (s.setSlot k x).modSlot k f = s.setSlot k (f x) := by
  rw [State.modSlot, slot_setSlot, setSlot_setSlot]
theorem slot_leaveSlot (s : State) (j k a : Nat) : (leaveSlot s j k).slot a = s.slot a := by
  unfold leaveSlot
  dsimp only
  split <;> rfl
theorem slot_worked {s t : State} (h : Worked s t) (k : Nat) : t.slot k = s.slot k := by
  rw [h.rest]
  rfl

/-! ## What an instruction comes to (R298, R318, R322) -/

/-- A word runs in the context of the link whose turn it is. -/
theorem seqIssue_at {s : State} {j n : Nat} (h : SeqAt s j n) (f : State → Nat → Nat → SeqSlot → SeqRes) :
    seqIssue s f = .next (seqCommit (taken s) j (slotKey j n) (f (taken s) j (slotKey j n) (s.slot (slotKey j n)))) := by
  have hrun : ((taken s).seqLink j).running = some n := h.running
  unfold seqIssue
  simp only [h.link]
  unfold taken at hrun ⊢
  simp only [hrun]
  rfl

theorem exec_commits {i : Instr} {s t : State} {j n : Nat} {f : State → Nat → Nat → SeqSlot → SeqRes} (hat : SeqAt s j n)
    (hexec : exec i s = seqIssue s f) (h : seqCommit (taken s) j (slotKey j n) (f (taken s) j (slotKey j n) (s.slot (slotKey j n))) = t) :
    exec i s = .next t := by
  rw [hexec, seqIssue_at hat, h]

section
variable {s t : State} {j k pc : Nat} (hfree : (t.slot k).stepping = false)
include hfree

/-- A word that goes on within its turn. -/
theorem seqCommit_go : seqCommit s j k (.go t pc) = if pc < (t.slot k).imp.words.length then t.modSlot k (fun x => { x with pc := pc, held := none })
    else stopSlot (t.modSlot k (fun x => { x with pc := pc, held := none })) j k 0x41 0 0 := by
  unfold seqCommit
  dsimp only
  rw [slot_modSlot]
  dsimp only
  rw [hfree]
  by_cases h : pc < (t.slot k).imp.words.length
  · rw [if_neg (Nat.not_le.mpr h), if_pos h]
    rfl
  · rw [if_pos (Nat.le_of_not_lt h), if_neg h]

/-- A word that ends its context's turn. -/
theorem seqCommit_boundary (hpend : (t.slot k).pend = none) (hpc : pc < (t.slot k).imp.words.length) :
    seqCommit s j k (.boundary t pc) = atChunkEnd t j k pc := by
  have hready : (t.modSlot k (fun x => { x with pc := pc, held := none })).modSlot k (fun x => { x with st := .ready }) =
      t.modSlot k (fun x => { x with pc := pc, held := none, st := .ready }) := modSlot_setSlot ..
  unfold seqCommit
  dsimp only
  rw [hready, slot_modSlot]
  dsimp only
  rw [hfree, if_neg (Nat.not_le.mpr hpc), if_neg Bool.false_ne_true]
  show atBoundary (atChunkEnd t j k pc) j k = _
  unfold atBoundary atChunkEnd
  rw [slot_leaveSlot, slot_modSlot]
  simp only [hpend]
end

/-! ## Scalar words (R298, R299, R310) -/

theorem wc_parts (x : SeqSlot) (d : Nat) (v : Dword) : (x.wc d v).stepping = x.stepping ∧ (x.wc d v).imp = x.imp := by
  unfold SeqSlot.wc
  split <;> exact ⟨rfl, rfl⟩

/-- What is left of a context that takes y at a word of its own. -/
def goesOn (s : State) (j k : Nat) (x : SeqSlot) : State :=
  if x.pc < x.imp.words.length then (taken s).setSlot k x else stopSlot ((taken s).setSlot k x) j k 0x41 0 0

section
variable {s : State} {j n : Nat} (hat : SeqAt s j n)
include hat

theorem commit_set {y : SeqSlot} {pc : Nat} (hy : y.stepping = (s.slot (slotKey j n)).stepping) :
    seqCommit (taken s) j (slotKey j n) (.go ((taken s).setSlot (slotKey j n) y) pc) = goesOn s j (slotKey j n) { y with pc := pc, held := none } := by
  rw [seqCommit_go (by rw [slot_setSlot, hy]; exact hat.free), slot_setSlot, modSlot_setSlot]
  rfl
theorem commit_same (pc : Nat) : seqCommit (taken s) j (slotKey j n) (.go (taken s) pc) =
    goesOn s j (slotKey j n) { s.slot (slotKey j n) with pc := pc, held := none } := by
  rw [seqCommit_go (t := taken s) hat.free]
  rfl
/-- A branch that is taken goes to its target; one out of the program stops the context. -/
theorem commit_branch {y x : SeqSlot} {imm : BitVec 32} (hy : y.stepping = (s.slot (slotKey j n)).stepping)
    (h : (if 0 ≤ ((s.slot (slotKey j n)).pc : Int) + imm.toInt ∧ ((s.slot (slotKey j n)).pc : Int) + imm.toInt < (s.slot (slotKey j n)).imp.words.length
      then some { y with pc := (((s.slot (slotKey j n)).pc : Int) + imm.toInt).toNat, held := none } else none) = some x) :
    seqCommit (taken s) j (slotKey j n) (seqBranch (taken s) (slotKey j n) (s.slot (slotKey j n)) y imm) = goesOn s j (slotKey j n) x := by
  split at h
  · next hin =>
    cases h
    unfold seqBranch branchTarget
    simp only [if_pos hin]
    exact commit_set hat hy
  · cases h

end

theorem exec_scalar {i : Instr} {s : State} {j n : Nat} {F : SeqSlot → SeqSlot} (hat : SeqAt s j n) (hexec : exec i s = seqScalar s F)
    (hF : (F (s.slot (slotKey j n))).stepping = (s.slot (slotKey j n)).stepping) :
    exec i s = .next (goesOn s j (slotKey j n) { F (s.slot (slotKey j n)) with pc := (s.slot (slotKey j n)).pc + 1, held := none }) :=
  exec_commits hat hexec (commit_set hat hF)

theorem bind_free {x : SeqSlot} {n v : Nat} (h : ∀ m, m < 16 → m ≠ n → x.bound m ≠ some v) :
    (List.range 16).any (fun m => m != n && x.bound m == some v) = false := by
  rw [List.any_eq_false]
  intro m hm hc
  rw [Bool.and_eq_true, bne_iff_ne, beq_iff_eq] at hc
  exact h m (List.mem_range.mp hm) hc.1 hc.2

/-- Settles O38, word by word. -/
theorem sequencerScalars : Obligations.SequencerScalars := by
  unfold Obligations.SequencerScalars
  intro i s j n x hat hx
  show exec i s = .next (goesOn s j (slotKey j n) x)
  refine of_row (Q := seqScalars i j (slotKey j n) (s.slot (slotKey j n)) = some x → exec i s = .next (goesOn s j (slotKey j n) x)) ?_ hx hx
  clear hx
  cases i
  case chunkMovi d imm =>
    refine row fun hx => ?_
    cases hx
    exact exec_scalar hat (F := fun x => x.wc d.toNat (imm.signExtend 64)) rfl (wc_parts ..).1
  case chunkMoviHi d imm =>
    refine row fun hx => ?_
    cases hx
    exact exec_scalar hat (F := fun x => x.wc d.toNat (imm ++ (x.rc d.toNat).extractLsb' 0 32)) rfl (wc_parts ..).1
  case chunkAddi d a b imm =>
    refine row fun hx => ?_
    cases hx
    exact exec_scalar hat (F := fun x => x.wc d.toNat (x.rc a.toNat + x.rc b.toNat + imm.signExtend 64)) rfl (wc_parts ..).1
  case chunkAddiN d a b imm =>
    refine row fun hx => ?_
    cases hx
    exact exec_scalar hat (F := fun x => x.wc d.toNat (x.rc a.toNat - x.rc b.toNat + imm.signExtend 64)) rfl (wc_parts ..).1
  case loop d imm =>
    refine row fun hx => ?_
    unfold seqScalars at hx
    dsimp only at hx
    refine exec_commits hat (show execLoop d imm s = _ from rfl) ?_
    dsimp only
    split at hx
    · next h0 =>
      cases hx
      rw [if_pos h0]
      exact commit_same hat _
    · next h0 =>
      rw [if_neg h0]
      split at hx
      · next h1 =>
        cases hx
        rw [if_pos h1]
        exact commit_set hat (wc_parts ..).1
      · next h1 =>
        rw [if_neg h1]
        exact commit_branch hat (wc_parts ..).1 hx
  case bnz a imm =>
    refine row fun hx => ?_
    unfold seqScalars at hx
    dsimp only at hx
    refine exec_commits hat (show execBnz a imm s = _ from rfl) ?_
    split at hx
    · next h0 =>
      cases hx
      rw [if_pos h0]
      exact commit_same hat _
    · next h0 =>
      rw [if_neg h0]
      exact commit_branch hat rfl hx
  case chunkCsrr d c =>
    refine row fun hx => ?_
    unfold seqScalars at hx
    dsimp only at hx
    obtain ⟨v, hv, hx⟩ := Option.bind_eq_some_iff.mp hx
    cases hx
    refine exec_commits hat (show execChunkCsrr d c s = _ from rfl) ?_
    simp only [hv]
    exact commit_set hat (wc_parts ..).1
  case chunkCsrw a c =>
    refine row fun hx => ?_
    unfold seqScalars at hx
    dsimp only at hx
    split at hx
    · next hin =>
      cases hx
      obtain ⟨hc, hlow, hhigh⟩ := hin
      refine exec_commits hat (show execChunkCsrw a c s = _ from rfl) ?_
      dsimp only
      rw [if_neg (not_not.mpr hc), if_neg (not_or.mpr ⟨by omega, by omega⟩)]
      exact commit_set hat rfl
    · cases hx
  case bind a ch =>
    refine row fun hx => ?_
    unfold seqScalars at hx
    dsimp only at hx
    split at hx
    · next hin =>
      cases hx
      obtain ⟨hv, hrank, hslot, hothers, hempty⟩ := hin
      refine exec_commits hat (show execBind a ch s = _ from rfl) ?_
      have hchan : (((s.slot (slotKey j n)).bound ch.toNat).isSome && !((s.slot (slotKey j n)).chan ch.toNat).isEmpty) = false := by
        cases hb : ((s.slot (slotKey j n)).bound ch.toNat).isSome with
        | false => rfl
        | true => rw [hempty hb]; rfl
      dsimp only
      rw [if_neg (by omega), bind_free hothers, hchan, if_neg Bool.false_ne_true, if_neg Bool.false_ne_true]
      exact commit_set hat rfl
    · cases hx
  all_goals exact trivial

/-! ## Flags and turns (R300, R318, R322) -/

theorem seqFlag_misaligned {s : State} {who ctxid : Nat} {need : Need} {va : Dword} (h : va.toNat % 8 ≠ 0) :
    seqFlag s who ctxid need va = .error (.stop 0x45 0 va) := if_pos h

section
variable {s : State} {j n : Nat} {a b : BitVec 4} {loc tag : Nat} (hat : SeqAt s j n)
  (hpc : (s.slot (slotKey j n)).pc + 1 < (s.slot (slotKey j n)).imp.words.length)
include hat hpc

/-- A word of the context that only moves memory on. -/
theorem commit_worked {t : State} (ht : Worked (taken s) t) :
    seqCommit (taken s) j (slotKey j n) (.go t ((s.slot (slotKey j n)).pc + 1)) =
      t.setSlot (slotKey j n) { t.slot (slotKey j n) with pc := (s.slot (slotKey j n)).pc + 1, held := none } := by
  have hslot : t.slot (slotKey j n) = s.slot (slotKey j n) := slot_worked ht _
  rw [seqCommit_go (by rw [hslot]; exact hat.free), hslot, if_pos hpc, State.modSlot, hslot]

theorem waitf_goes {cc : BitVec 4} (hflag : seqFlag (taken s) (whoLink j) (s.slot (slotKey j n)).imp.ctxid .read ((s.slot (slotKey j n)).rc a.toNat) = .ok (loc, tag))
    (hmet : flagMet cc.toNat (BitVec.ofNat 64 (s.readNat none tag loc 8)) ((s.slot (slotKey j n)).rc b.toNat) = true) :
    exec (.waitf cc a b) s = .next ((taken s).setSlot (slotKey j n)
      { (taken s).slot (slotKey j n) with pc := (s.slot (slotKey j n)).pc + 1, held := none }) := by
  refine exec_commits hat (show execWaitf cc a b s = _ from rfl) ?_
  refine Eq.trans ?_ (commit_worked hat hpc (.refl _))
  unfold waitfRead
  rw [hflag]
  exact congrArg _ (if_pos hmet)

theorem sigf_writes (hflag : seqFlag (taken s) (whoLink j) (s.slot (slotKey j n)).imp.ctxid .write ((s.slot (slotKey j n)).rc a.toNat) = .ok (loc, tag))
    {reads : Bool} (hpoison : (if reads then (taken s).poisoned none loc 8 else none) = none) (f : SeqSlot → Dword → Dword) :
    let t := (taken s).writeBytes none none tag loc (natToBytes 8 (f (s.slot (slotKey j n)) (BitVec.ofNat 64 (s.readNat none tag loc 8))).toNat)
    seqSigf a reads f s = .next (t.setSlot (slotKey j n) { t.slot (slotKey j n) with pc := (s.slot (slotKey j n)).pc + 1, held := none }) := by
  intro t
  refine (seqIssue_at hat _).trans (congrArg _ ?_)
  refine Eq.trans ?_ (commit_worked hat hpc (writeBytes_worked (taken s) none none tag loc _))
  rw [hflag]
  dsimp only
  rw [hpoison]
  rfl
end

theorem halt_ends {s : State} {j n : Nat} (hat : SeqAt s j n) : exec .chunkHalt s = .next (endSlot (taken s) j (slotKey j n) false) := by
  show execChunkHalt s = _
  rw [execChunkHalt, seqIssue_at hat]
  rfl

theorem yield_ends {s : State} {j n : Nat} (hat : SeqAt s j n) (hpc : (s.slot (slotKey j n)).pc + 1 < (s.slot (slotKey j n)).imp.words.length) :
    exec .yield s = .next (atChunkEnd (taken s) j (slotKey j n) ((s.slot (slotKey j n)).pc + 1)) := by
  show execYield s = _
  rw [execYield, seqIssue_at hat, seqCommit_boundary (t := taken s) hat.free hat.still hpc]

/-- Settles O39. -/
theorem sequencerFlagsAndTurns : Obligations.SequencerFlagsAndTurns := by
  unfold Obligations.SequencerFlagsAndTurns
  refine ⟨fun s j n hat => ⟨fun hpc => yield_ends hat hpc, halt_ends hat⟩, ?_⟩
  · intro s j n a b cc loc tag hat k x next hpc
    refine ⟨fun hflag => ?_, fun hflag => ⟨?_, fun hpoison => ?_⟩⟩
    · refine ⟨fun hcc hv => waitf_goes hat hpc hflag ?_, fun hcc hv => waitf_goes hat hpc hflag ?_, fun hcc hv => waitf_goes hat hpc hflag ?_⟩
      · rw [hcc]
        exact (Bool.not_eq_true' _).mpr (decide_eq_false (Nat.not_lt.mpr hv))
      · rw [hcc]
        exact beq_iff_eq.mpr hv.symm
      · rw [hcc]
        exact bne_iff_ne.mpr (Ne.symm hv)
    · exact sigf_writes hat hpc hflag (reads := false) rfl (fun x _ => x.rc b.toNat)
    · exact sigf_writes hat hpc hflag (reads := true) hpoison (fun x m => m + x.rc b.toNat)

/-! ## Stops (R298, R300, R303, R310) -/

theorem exec_stops {i : Instr} {s : State} {j n c d : Nat} {a : Dword} {f : State → Nat → Nat → SeqSlot → SeqRes} (hat : SeqAt s j n)
    (hexec : exec i s = seqIssue s f) (h : f (taken s) j (slotKey j n) (s.slot (slotKey j n)) = .err (.stop c d a)) :
    exec i s = .next (stopSlot (taken s) j (slotKey j n) c d a) := by
  refine exec_commits hat hexec ?_
  rw [h]
  rfl

theorem sigf_stops {i : Instr} {s : State} {j n c d : Nat} {e : Dword} {a : BitVec 4} {reads : Bool} {f : SeqSlot → Dword → Dword} (hat : SeqAt s j n)
    (hexec : exec i s = seqSigf a reads f s)
    (hflag : seqFlag (taken s) (whoLink j) (s.slot (slotKey j n)).imp.ctxid .write ((s.slot (slotKey j n)).rc a.toNat) = .error (.stop c d e)) :
    exec i s = .next (stopSlot (taken s) j (slotKey j n) c d e) := by
  refine exec_stops hat hexec ?_
  rw [hflag]

/-- Settles O41, word by word. -/
theorem sequencerStops : Obligations.SequencerStops := by
  unfold Obligations.SequencerStops
  intro i s j n c d a hat hstop
  have hbranch : ∀ (y : SeqSlot) (imm : BitVec 32),
      (if 0 ≤ ((s.slot (slotKey j n)).pc : Int) + imm.toInt ∧ ((s.slot (slotKey j n)).pc : Int) + imm.toInt < (s.slot (slotKey j n)).imp.words.length
        then none else some (0x41, 0, (0 : Dword))) = some (c, d, a) →
      seqBranch (taken s) (slotKey j n) (s.slot (slotKey j n)) y imm = .err (.stop c d a) := by
    intro y imm h
    split at h
    · cases h
    · next hout =>
      cases h
      unfold seqBranch branchTarget
      simp only [if_neg hout]
  have hflag : ∀ (need : Need) (va : Dword), (if va.toNat % 8 ≠ 0 then some (0x45, 0, va) else none) = some (c, d, a) →
      seqFlag (taken s) (whoLink j) (s.slot (slotKey j n)).imp.ctxid need va = .error (.stop c d a) := by
    intro need va h
    split at h
    · next hal =>
      cases h
      exact seqFlag_misaligned hal
    · cases h
  refine of_row (Q := seqStops i (s.slot (slotKey j n)) = some (c, d, a) →
    exec i s = .next (stopSlot (taken s) j (slotKey j n) c d a)) ?_ hstop hstop
  clear hstop
  cases i
  case loop dd imm =>
    refine row fun hstop => ?_
    unfold seqStops at hstop
    dsimp only at hstop
    split at hstop
    · cases hstop
    · next hn =>
      refine exec_stops hat (show execLoop dd imm s = _ from rfl) ?_
      dsimp only
      rw [if_neg fun h => hn (by rw [h]; decide), if_neg fun h => hn (by rw [h]; decide)]
      exact hbranch _ _ hstop
  case bnz aa imm =>
    refine row fun hstop => ?_
    unfold seqStops at hstop
    dsimp only at hstop
    split at hstop
    · cases hstop
    · next hn =>
      refine exec_stops hat (show execBnz aa imm s = _ from rfl) ?_
      rw [if_neg hn]
      exact hbranch _ _ hstop
  case chunkCsrr dd cc =>
    refine row fun hstop => ?_
    unfold seqStops at hstop
    dsimp only at hstop
    split at hstop
    · cases hstop
    · next hcc =>
      cases hstop
      refine exec_stops hat (show execChunkCsrr dd cc s = _ from rfl) ?_
      have hnone : seqCsr (s.slot (slotKey j n)) j (slotKey j n) cc.toNat = none := by
        unfold seqCsr
        split
        case h_7 => rfl
        all_goals omega
      simp only [hnone]
  case chunkCsrw aa cc =>
    refine row fun hstop => ?_
    unfold seqStops at hstop
    dsimp only at hstop
    split at hstop
    · next hcc =>
      cases hstop
      exact exec_stops hat (show execChunkCsrw aa cc s = _ from rfl) (if_pos hcc)
    · next hcc =>
      split at hstop
      · next hv =>
        cases hstop
        exact exec_stops hat (show execChunkCsrw aa cc s = _ from rfl) ((if_neg hcc).trans (if_pos hv))
      · cases hstop
  case waitf cc aa b =>
    refine row fun hstop => ?_
    unfold seqStops at hstop
    dsimp only at hstop
    refine exec_stops hat (show execWaitf cc aa b s = _ from rfl) ?_
    unfold waitfRead
    rw [hflag _ _ hstop]
  case chunkSigf aa bb =>
    refine row fun hstop => ?_
    unfold seqStops at hstop
    dsimp only at hstop
    exact sigf_stops (reads := false) (f := fun x _ => x.rc bb.toNat) hat rfl (hflag _ _ hstop)
  case chunkSigfAdd aa bb =>
    refine row fun hstop => ?_
    unfold seqStops at hstop
    dsimp only at hstop
    exact sigf_stops (reads := true) (f := fun x m => m + x.rc bb.toNat) hat rfl (hflag _ _ hstop)
  all_goals exact trivial

/-! ## Chunk words (R303 to R307) -/

/-- What CFWD sends on besides, to its second channel. -/
def forwarded (fwd : Option Nat) (u : State) (j k : Nat) (z : List Byte) (d : Nat) : State := match fwd with
  | some m => sendChunk u j k m z ((u.slot k).rc d)
  | none => u

/-- COMB and CFWD whose chunk and room are there. -/
theorem comb_ends {m : BitVec 1} {op f d a b ch : BitVec 4} {fwd : Option Nat} {s t : State} {j n : Nat} {held : List HeldPage}
    {c : Chunk} {left : Bool} {label : Dword} {y : List Byte}
    (htree : ¬(m = 1 ∧ ((taken s).ctx (s.slot (slotKey j n)).imp.ctxid).contract.getLsbD 11 = false))
    (hchecks : chunkChecks (taken s) j (s.slot (slotKey j n)) [.read, .write] (ch.toNat :: fwd.toList) ((s.slot (slotKey j n)).rc a.toNat)
      ((s.slot (slotKey j n)).rc b.toNat) = .ok held)
    (hchunk : ((s.slot (slotKey j n)).chan ch.toNat).head? = some c)
    (hroom : ¬(c.payload.length ≠ ((s.slot (slotKey j n)).rc b.toNat).toNat ∨
      (fwd.isSome = true ∧ roomFor (taken s) j ((s.slot (slotKey j n)).rc b.toNat).toNat = false)))
    (hlabel : (if m = 1 then treeLabels (s.slot (slotKey j n)).tleaf ((s.slot (slotKey j n)).rc d.toNat) c.label else .ok (true, c.label)) = .ok (left, label))
    (hread : heldRead (taken s) held ((s.slot (slotKey j n)).rc a.toNat) ((s.slot (slotKey j n)).rc b.toNat).toNat = .ok y)
    (ht : (let z := if left then combineAll op.toNat f.toNat y c.payload else combineAll op.toNat f.toNat c.payload y
      let u := releaseChunk ((heldWrite (taken s) held ((s.slot (slotKey j n)).rc a.toNat) z).modSlot (slotKey j n) (fun x => x.wc d.toNat label))
        j (slotKey j n) ch.toNat
      forwarded fwd u j (slotKey j n) z d.toNat) = t)
    (hend : ∀ f : State → Nat → Nat → SeqSlot → SeqRes, f (taken s) j (slotKey j n) (s.slot (slotKey j n)) = .boundary t ((s.slot (slotKey j n)).pc + 1) →
      seqIssue s f = .next (atChunkEnd t j (slotKey j n) ((s.slot (slotKey j n)).pc + 1))) :
    combMeaning m op f d a b ch fwd s = .next (atChunkEnd t j (slotKey j n) ((s.slot (slotKey j n)).pc + 1)) := by
  obtain ⟨hlen, hfree⟩ := not_or.mp hroom
  have hspace : (fwd.isSome && !roomFor (taken s) j ((s.slot (slotKey j n)).rc b.toNat).toNat) = false := by
    rw [Bool.eq_false_iff]
    intro h
    rw [Bool.and_eq_true, Bool.not_eq_true'] at h
    exact hfree h
  refine hend _ ?_
  dsimp only
  rw [if_neg htree, hchecks]
  dsimp only
  rw [hchunk]
  dsimp only
  rw [if_neg hlen, hlabel]
  dsimp only
  rw [hspace, if_neg Bool.false_ne_true, hread]
  dsimp only
  rw [← ht]
  rfl

/-- Settles O40, word by word. -/
theorem chunkWords : Obligations.ChunkWords := by
  unfold Obligations.ChunkWords
  intro i s t j n hat ht hfree hpend hpc
  have hend : ∀ f : State → Nat → Nat → SeqSlot → SeqRes,
      f (taken s) j (slotKey j n) (s.slot (slotKey j n)) = .boundary t ((s.slot (slotKey j n)).pc + 1) →
      seqIssue s f = .next (atChunkEnd t j (slotKey j n) ((s.slot (slotKey j n)).pc + 1)) := by
    intro f hf
    rw [seqIssue_at hat, hf, seqCommit_boundary hfree hpend hpc]
  refine of_row (Q := Claims.chunkWords i (taken s) j (slotKey j n) = some t →
    exec i s = .next (atChunkEnd t j (slotKey j n) ((s.slot (slotKey j n)).pc + 1))) ?_ ht ht
  clear ht
  cases i
  case xmit d a b ch =>
    refine row fun ht => ?_
    unfold Claims.chunkWords at ht
    rw [show (taken s).slot (slotKey j n) = s.slot (slotKey j n) from rfl] at ht
    dsimp only at ht
    split at ht
    · cases ht
    · next held hchecks =>
      split at ht
      · cases ht
      · next hroom =>
        split at ht
        · next p hread =>
          cases ht
          show execXmit d a b ch s = _
          refine hend _ ?_
          dsimp only
          rw [hchecks]
          dsimp only
          rw [Bool.eq_true_of_not_eq_false hroom, hread]
          rfl
        · cases ht
  case recv d a b ch =>
    refine row fun ht => ?_
    unfold Claims.chunkWords at ht
    rw [show (taken s).slot (slotKey j n) = s.slot (slotKey j n) from rfl] at ht
    dsimp only at ht
    split at ht
    · next held c hchecks hchunk =>
      split at ht
      · next hlen =>
        cases ht
        show execRecv d a b ch s = _
        refine hend _ ?_
        dsimp only
        rw [hchecks]
        dsimp only
        rw [hchunk]
        dsimp only
        rw [if_neg (not_not.mpr hlen)]
      · cases ht
    · cases ht
  case comb m op f d a b ch =>
    refine row fun ht => ?_
    unfold Claims.chunkWords at ht
    rw [show (taken s).slot (slotKey j n) = s.slot (slotKey j n) from rfl] at ht
    dsimp only at ht
    split at ht
    · cases ht
    · next htree =>
      split at ht
      · cases ht
      · next held hchecks =>
        obtain ⟨c, hchunk, ht⟩ := Option.bind_eq_some_iff.mp ht
        split at ht
        · cases ht
        · next hroom =>
          split at ht
          · next left label y hlabel hread =>
            exact comb_ends (fwd := none) htree hchecks hchunk hroom hlabel hread (Option.some.inj ht) hend
          · cases ht
  case cfwd m fw op f d a b ch =>
    refine row fun ht => ?_
    unfold Claims.chunkWords at ht
    rw [show (taken s).slot (slotKey j n) = s.slot (slotKey j n) from rfl] at ht
    dsimp only at ht
    split at ht
    · cases ht
    · next htree =>
      split at ht
      · cases ht
      · next held hchecks =>
        obtain ⟨c, hchunk, ht⟩ := Option.bind_eq_some_iff.mp ht
        split at ht
        · cases ht
        · next hroom =>
          split at ht
          · next left label y hlabel hread =>
            exact comb_ends (fwd := some fw.toNat) htree hchecks hchunk hroom hlabel hread (Option.some.inj ht) hend
          · cases ht
  all_goals exact trivial

end Sys2Proof.SequencerProofs


/-! PROOFS. Chapters 12 to 18: the commands of the host. -/
namespace Sys2Proof.CommandProofs
open Sys2Proof.Machine Sys2Proof.Claims Sys2Proof.Tables

/-! ## What every command shares (R364) -/

theorem debugs_command {i : Instr} {s : State} {c : Command} {act : Nat} {r : Res} {f : State → Nat → List Byte → Done} (hexec : exec i s = r)
    (hr : r = debugCommand act c s f) : ∃ bad g, exec i s = command s c .debug 32 bad g := ⟨_, _, hexec.trans hr⟩

/-- Each command of Table 16-5 is heard, permitted and measured the same way. -/
def Commanded (i : Instr) (s : State) (x : Command × Permit × Nat) : Prop := ∃ bad f, exec i s = command s x.1 x.2.1 x.2.2 bad f

theorem exec_command {i : Instr} {c : Command} {p : Permit} {n : Nat} (h : commands i = some (c, p, n)) (s : State) :
    ∃ bad f, exec i s = command s c p n bad f := by
  refine of_entry (P := Commanded i s) ?_ h
  clear h
  cases i
  case ctxcreate c => exact ⟨_, _, show execCtxcreate c s = _ from rfl⟩
  case ctxdestroy c => exact ⟨_, _, show execCtxdestroy c s = _ from rfl⟩
  case qpbind c => exact ⟨_, _, show execQpbind c s = _ from rfl⟩
  case qopen c => exact ⟨_, _, show execQopen c s = _ from rfl⟩
  case qcancel c => exact ⟨_, _, show execQcancel c s = _ from rfl⟩
  case hostLaunch c => exact ⟨_, _, show execHostLaunch c s = _ from rfl⟩
  case hostTlbinv c => exact ⟨_, _, show execHostTlbinv c s = _ from rfl⟩
  case seqctlResume c => exact ⟨_, _, show seqctl 1 c s = _ from rfl⟩
  case seqctlStep c => exact ⟨_, _, show seqctl 2 c s = _ from rfl⟩
  case seqctlAbort c => exact ⟨_, _, show seqctl 3 c s = _ from rfl⟩
  case seqctlStop c => exact ⟨_, _, show seqctl 4 c s = _ from rfl⟩
  case rsabort c => exact ⟨_, _, show execRsabort c s = _ from rfl⟩
  case mrreg c => exact ⟨_, _, show execMrreg c s = _ from rfl⟩
  case mrdereg c => exact ⟨_, _, show execMrdereg c s = _ from rfl⟩
  case suspend c => exact ⟨_, _, show execSuspend c s = _ from rfl⟩
  case linkstat c => exact ⟨_, _, show execLinkstat c s = _ from rfl⟩
  case objload c => exact ⟨_, _, show execObjload c s = _ from rfl⟩
  case objdrop c => exact ⟨_, _, show execObjdrop c s = _ from rfl⟩
  case debugHalt c => exact debugs_command (s := s) (show exec _ s = execDebugHalt c s from rfl) rfl
  case debugRelease c => exact debugs_command (s := s) (show exec _ s = execDebugRelease c s from rfl) rfl
  case debugHold c => exact debugs_command (s := s) (show exec _ s = execDebugHold c s from rfl) rfl
  case debugUnhold c => exact debugs_command (s := s) (show exec _ s = execDebugUnhold c s from rfl) rfl
  case debugStep c => exact debugs_command (s := s) (show exec _ s = execDebugStep c s from rfl) rfl
  case debugBkset c => exact debugs_command (s := s) (show exec _ s = execDebugBkset c s from rfl) rfl
  case debugBkclr c => exact debugs_command (s := s) (show exec _ s = execDebugBkclr c s from rfl) rfl
  case debugSetpc c => exact debugs_command (s := s) (show exec _ s = execDebugSetpc c s from rfl) rfl
  case debugDump c => exact debugs_command (s := s) (show exec _ s = execDebugDump c s from rfl) rfl
  case tracecfg c => exact ⟨_, _, show execTracecfg c s = _ from rfl⟩
  case attest c => exact ⟨_, _, show execAttest c s = _ from rfl⟩
  case keyload c => exact ⟨_, _, show execKeyload c s = _ from rfl⟩
  case bbread c => exact ⟨_, _, show execBbread c s = _ from rfl⟩
  case mgmtrd c => exact ⟨_, _, show execMgmtrd c s = _ from rfl⟩
  case mgmtwr c => exact ⟨_, _, show execMgmtwr c s = _ from rfl⟩
  all_goals exact trivial

/-- Settles O50. -/
theorem commandRefusals : Obligations.CommandRefusals := by
  unfold Obligations.CommandRefusals
  intro i s c p n hi
  obtain ⟨bad, f, hexec⟩ := exec_command hi s
  refine ⟨fun hdeaf => ?_, fun hlive hp => ?_, fun hlive hp hform => ?_⟩
  · rw [hexec, command_deaf _ _ _ _ _ _ hdeaf]
  · rw [hexec, command_forbidden _ _ _ _ _ _ hlive hp]
    rfl
  · rw [hexec, command_malformed _ _ _ _ _ _ hlive hp (by tauto)]
    rfl

/-! ## Sound commands -/

/-- What a sound command's checks have found. -/
theorem sound_parts {i : Instr} {s : State} {c : Command} {p : Permit} {n : Nat} (hi : commands i = some (c, p, n)) (h : sound i s) :
    qpLive s c.qp = true ∧ permitted s c p = true ∧ c.len = n ∧ c.body.length = n ∧ c.rsvd = 0 := by
  obtain ⟨c', p', n', hi', h⟩ := h
  cases hi.symm.trans hi'
  exact h
/-- A sound command whose body is in range does its own work. -/
theorem exec_sound {i : Instr} {s : State} {c : Command} {p : Permit} {n : Nat} {bad : List Byte → Bool} {f : State → Nat → List Byte → Done}
    (hexec : exec i s = command s c p n bad f) (hi : commands i = some (c, p, n)) (h : sound i s) (hbad : bad c.body = false) {d : Done}
    (hf : f s (owner s c) c.body = d) : exec i s = .next (queueReply c d) := by
  obtain ⟨hlive, hp, hlen, hbody, hrsvd⟩ := sound_parts hi h
  rw [hexec, command_runs _ _ _ _ _ _ hlive hp hlen hbody hrsvd hbad, ← hf]
  rfl

theorem bne_zero_false {n : Nat} (h : n = 0) : (n != 0) = false := by rw [h]; rfl

/-! ## Contexts and queues (R34, R279, R280, R272, R289) -/

section
variable {c : Command} {s : State}

theorem ctxcreate_accepts (h : sound (.ctxcreate c) s) (hbad : descriptorBad s c.body = false) (hconf : (contextOf c.body).conf = false) :
    accepts (.ctxcreate c) c s (s.setCtx (bodyNat c 0 2) (contextOf c.body)) := by
  refine exec_sound (i := .ctxcreate c) (s := s) (c := c) (show execCtxcreate c s = _ from rfl) rfl h rfl ?_
  unfold createContext
  simp only [hbad, hconf]
  rfl
theorem ctxdestroy_accepts (h : sound (.ctxdestroy c) s) (hz : bodyNat c 2 2 = 0) (halive : ctxAlive s (bodyNat c 0 2) = true) :
    accepts (.ctxdestroy c) c s (destroyContext s (bodyNat c 0 2)) :=
  exec_sound (i := .ctxdestroy c) (s := s) (c := c) (show execCtxdestroy c s = _ from rfl) rfl h (bne_zero_false hz) (if_pos halive)
theorem qpbind_accepts (h : sound (.qpbind c) s) (hlow : 2 ≤ bodyNat c 2 2) (hhigh : bodyNat c 2 2 ≤ 255)
    (halive : ctxAlive s (bodyNat c 0 2) = true) : accepts (.qpbind c) c s
      (s.setQp (bodyNat c 2 2) { s.qp (bodyNat c 2 2) with enabled := true, ctxid := some (bodyNat c 0 2) }) := by
  refine exec_sound (i := .qpbind c) (s := s) (c := c) (show execQpbind c s = _ from rfl) rfl h rfl ?_
  exact (if_neg (not_or.mpr ⟨Nat.not_lt.mpr hlow, Nat.not_lt.mpr hhigh⟩)).trans (if_neg (by
    rw [show ctxAlive s (fld c.body 0 2) = true from halive]; exact Bool.false_ne_true))
theorem qopen_accepts (h : sound (.qopen c) s) (hz : bodyNat c 6 2 = 0) (hq : bodyNat c 0 1 < 64) (hlevel : bodyNat c 1 1 < 8)
    (hd1 : 1 ≤ bodyNat c 2 2) (hd2 : bodyNat c 2 2 ≤ 1024) (hs1 : 2 ^ 16 ≤ bodyNat c 8 8) (hs2 : bodyNat c 8 8 ≤ 2 ^ 40)
    (halive : ctxAlive s (bodyNat c 4 2) = true) (hopen : (s.queue (bodyNat c 0 1)).isOpen = false) :
    accepts (.qopen c) c s (s.setQueue (bodyNat c 0 1)
      { isOpen := true, level := bodyNat c 1 1, depth := bodyNat c 2 2, ctxid := bodyNat c 4 2, slice := bodyNat c 8 8 }) := by
  refine exec_sound (i := .qopen c) (s := s) (c := c) (show execQopen c s = _ from rfl) rfl h (bne_zero_false hz) ?_
  unfold bodyNat at hq hlevel hd1 hd2 hs1 hs2 halive hopen
  unfold openQueue
  simp only [halive, hopen]
  rw [if_neg (by simp only [not_or, not_lt, not_le]; exact ⟨hq, hlevel, hd1, hd2, hs1, hs2⟩)]
  rfl
theorem qcancel_accepts (h : sound (.qcancel c) s) (hz : bodyNat c 1 3 = 0) (hq : bodyNat c 0 1 < 64)
    (hopen : (s.queue (bodyNat c 0 1)).isOpen = true) : accepts (.qcancel c) c s (cancelPackets s (bodyNat c 0 1) true) := by
  refine exec_sound (i := .qcancel c) (s := s) (c := c) (show execQcancel c s = _ from rfl) rfl h (bne_zero_false hz) ?_
  exact (if_neg (Nat.not_le.mpr hq)).trans (if_neg (by rw [show (s.queue (fld c.body 0 1)).isOpen = true from hopen]; exact Bool.false_ne_true))
theorem hostLaunch_accepts (h : sound (.hostLaunch c) s) (hz : bodyNat c 1 15 = 0)
    (hcode : enqueueCode s (bodyNat c 0 1) (owner s c) ⟨dwordsOf (c.body.drop 16)⟩ = 0) :
    acceptsWith (.hostLaunch c) c s (enqueue s (bodyNat c 0 1) ⟨dwordsOf (c.body.drop 16)⟩ []).1
      (BitVec.ofNat 64 (s.queue (bodyNat c 0 1)).next) [] .now :=
  exec_sound (i := .hostLaunch c) (s := s) (c := c) (show execHostLaunch c s = _ from rfl) rfl h (bne_zero_false hz) (if_neg (not_not.mpr hcode))
theorem hostTlbinv_accepts (h : sound (.hostTlbinv c) s) (hz : csrReserved 0x060#12 (body64 c 0) = false) :
    acceptsWith (.hostTlbinv c) c s s 0 [] (.inval (owner s c) (body64 c 0)) :=
  exec_sound (i := .hostTlbinv c) (s := s) (c := c) (show execHostTlbinv c s = _ from rfl) rfl h hz rfl
theorem suspend_accepts (h : sound (.suspend c) s) (hz : bodyNat c 4 4 = 0) (hused : (s.grid (bodyNat c 0 2)).used = true)
    (howner : (s.grid (bodyNat c 0 2)).ctxid = owner s c) (hclus : bodyNat c 2 2 < (s.grid (bodyNat c 0 2)).nclus) :
    acceptsWith (.suspend c) c s (requestCluster s (clusterKey (bodyNat c 0 2) (bodyNat c 2 2)) (bodyNat c 8 8) false) 0 []
      (.cluster (clusterKey (bodyNat c 0 2) (bodyNat c 2 2))) := by
  refine exec_sound (i := .suspend c) (s := s) (c := c) (show execSuspend c s = _ from rfl) rfl h (bne_zero_false hz) (if_neg ?_)
  unfold bodyNat at hused howner hclus
  rw [hused, howner]
  simp only [not_or, not_le]
  exact ⟨Bool.false_ne_true, not_not.mpr rfl, hclus⟩

/-! ## Objects, regions, links and traces (R333, R360, R363, R372, R374, R381) -/

theorem objload_accepts {n : Nat} {o : LoadedObj} (h : sound (.objload c) s) (hz : bodyNat c 0x14 4 = 0)
    (hn : (List.range 256).find? (fun i => (s.obj (objKey (owner s c) i)).isNone) = some n)
    (ho : checkObject s (owner s c) (objKey (owner s c) n) (body64 c 0) = .ok o) :
    acceptsWith (.objload c) c s { s with objs := Bank.set none s.objs (objKey (owner s c) n) (some o), l1i := [] } (BitVec.ofNat 64 n) [] .now := by
  refine exec_sound (i := .objload c) (s := s) (c := c) (show execObjload c s = _ from rfl) rfl h (bne_zero_false hz) ?_
  unfold body64 at ho
  simp only [hn, ho]
theorem objdrop_accepts {o : LoadedObj} (h : sound (.objdrop c) s) (hn : bodyNat c 0 4 < 256)
    (ho : s.obj (objKey (owner s c) (bodyNat c 0 4)) = some o) (hdrop : o.dropping = false) :
    acceptsWith (.objdrop c) c s { s with objs := Bank.set none s.objs (objKey (owner s c) (bodyNat c 0 4)) (some { o with dropping := true }) }
      0 [] (.object (objKey (owner s c) (bodyNat c 0 4))) := by
  refine exec_sound (i := .objdrop c) (s := s) (c := c) (show execObjdrop c s = _ from rfl) rfl h rfl ?_
  unfold bodyNat at hn ho
  simp only [hn, ho, hdrop, if_true]
  rfl
theorem mrreg_accepts (h : sound (.mrreg c) s) (hw : bodyNat c 0x10 4 < 2) (hz : bodyNat c 0x14 4 = 0) :
    acceptsWith (.mrreg c) c s { s with host := { s.host with
        nextKey := s.host.nextKey + 1
        regions := Bank.set none s.host.regions (s.host.nextKey % 2 ^ 32) (some ⟨owner s c, body64 c 0, body64 c 8, bodyNat c 0x10 4 == 1⟩) } }
      (BitVec.ofNat 64 (s.host.nextKey % 2 ^ 32)) [] .now := by
  refine exec_sound (i := .mrreg c) (s := s) (c := c) (show execMrreg c s = _ from rfl) rfl h ?_ rfl
  unfold bodyNat at hw hz
  rw [decide_eq_false (Nat.not_le.mpr hw), hz]
  rfl
theorem mrdereg_accepts {r : MemRegion} (h : sound (.mrdereg c) s) (hr : Bank.get none s.host.regions (bodyNat c 0 4) = some r)
    (howner : r.ctxid = owner s c) :
    accepts (.mrdereg c) c s { s with host := { s.host with regions := Bank.set none s.host.regions (bodyNat c 0 4) none } } := by
  refine exec_sound (i := .mrdereg c) (s := s) (c := c) (show execMrdereg c s = _ from rfl) rfl h rfl ?_
  unfold bodyNat at hr
  simp only [hr, howner, if_true]
  rfl
theorem linkstat_accepts (h : sound (.linkstat c) s) (hj : bodyNat c 0 1 ≤ 31) (hdir : bodyNat c 1 1 < 4) (hz : bodyNat c 2 2 = 0) :
    acceptsWith (.linkstat c) c s (if 2 ≤ bodyNat c 1 1 then clearCounters s (bodyNat c 0 1) (bodyNat c 1 1 % 2 == 0) else s) 0
      (linkRecord s (bodyNat c 0 1) (bodyNat c 1 1 % 2 == 0)) .now := by
  refine exec_sound (i := .linkstat c) (s := s) (c := c) (show execLinkstat c s = _ from rfl) rfl h ?_ rfl
  unfold bodyNat at hj hdir hz
  rw [decide_eq_false (Nat.not_lt.mpr hj), decide_eq_false (Nat.not_le.mpr hdir), hz]
  rfl
theorem rsabort_accepts (h : sound (.rsabort c) s) (hactive : s.rs.active = true) (howner : s.rs.ctxid = owner s c)
    (hprog : rsProg s = body64 c 0) : accepts (.rsabort c) c s (rsStop s 8) := by
  refine exec_sound (i := .rsabort c) (s := s) (c := c) (show execRsabort c s = _ from rfl) rfl h rfl (if_pos ?_)
  unfold body64 at hprog
  rw [hactive, howner, hprog, beq_self_eq_true, beq_self_eq_true]
  rfl
theorem tracecfg_accepts (h : sound (.tracecfg c) s) (hp1 : 2 ^ 8 ≤ bodyNat c 4 4) (hp2 : bodyNat c 4 4 ≤ 2 ^ 20)
    (hn1 : bodyNat c 16 8 % 4096 = 0) (hn2 : 8192 ≤ bodyNat c 16 8) (halive : ctxAlive s (bodyNat c 0 2) = true)
    (hown : 2 ≤ c.qp → bodyNat c 0 2 = owner s c) :
    accepts (.tracecfg c) c s (s.setCtx (bodyNat c 0 2) { s.ctx (bodyNat c 0 2) with trace :=
      { on := true, mask := bodyNat c 2 2, period := bodyNat c 4 4, ring := body64 c 8, bytes := bodyNat c 16 8
        seq := (s.ctx (bodyNat c 0 2)).trace.seq } }) := by
  refine exec_sound (i := .tracecfg c) (s := s) (c := c) (show execTracecfg c s = _ from rfl) rfl h rfl ?_
  unfold bodyNat at hp1 hp2 hn1 hn2 halive hown
  dsimp only
  rw [if_neg (by simp only [not_or, not_lt, not_not]; exact ⟨hp1, hp2, hn1, hn2⟩), halive, if_neg (by decide),
    if_neg fun hc => hc.2 (hown hc.1)]
  rfl
end

/-- Settles O51, command by command. -/
theorem contextAndObjectCommands : Obligations.ContextAndObjectCommands := by
  unfold Obligations.ContextAndObjectCommands
  refine ⟨fun c s => ⟨ctxcreate_accepts, ctxdestroy_accepts, qpbind_accepts, qopen_accepts, fun h hz hq hopen _ => qcancel_accepts h hz hq hopen,
    hostLaunch_accepts, hostTlbinv_accepts, suspend_accepts⟩, fun c s => ⟨fun n o => objload_accepts, fun o => objdrop_accepts, mrreg_accepts,
    fun r => mrdereg_accepts, linkstat_accepts, rsabort_accepts, tracecfg_accepts⟩⟩

/-! ## Sequencer contexts (R322) -/

/-- The four actions of Table 13-12 on a context that may take them. -/
def seqctlAction (act : Nat) (s : State) (j k : Nat) : Done :=
  let x := s.slot k
  match act with
  | 1 => if x.st = .stopped then accept (s.setSlot k { x with st := .ready }) else refuse s 3
  | 2 => if x.st = .stopped then accept (s.setSlot k { x with st := .ready, stepping := true }) else refuse s 3
  | 3 => accept (abortSlot s k)
  | _ =>
    if x.st = .stopped then accept s
    else if x.st = .running then accept (s.setSlot k { x with pend := some (x.pend.getD false) })
    else accept (stopSlot s j k 0x4E 0 0)

section
variable {i : Instr} {c : Command} {s : State} {act : Nat} {d : Done}

/-- SEQCTL of a context that it may command comes to its action. -/
theorem seqctl_acts (hexec : exec i s = seqctl act c s) (hi : commands i = some (c, .bound, 16)) (h : sound i s) (hz3 : bodyNat c 3 1 = 0)
    (hz6 : bodyNat c 6 10 = 0) (hj : bodyNat c 0 1 ≤ 31) (hn : bodyNat c 1 1 < 3) (hact : bodyNat c 2 1 = act)
    (hfree : (s.slot (slotKey (bodyNat c 0 1) (bodyNat c 1 1))).st ≠ .free)
    (hctx : bodyNat c 4 2 = (s.slot (slotKey (bodyNat c 0 1) (bodyNat c 1 1))).imp.ctxid)
    (hfrozen : (s.slot (slotKey (bodyNat c 0 1) (bodyNat c 1 1))).frozen = false)
    (hd : seqctlAction act s (bodyNat c 0 1) (slotKey (bodyNat c 0 1) (bodyNat c 1 1)) = d) : exec i s = .next (queueReply c d) := by
  refine exec_sound (hexec.trans (show seqctl act c s = _ from rfl)) hi h ?_ ?_
  · unfold bodyNat at hz3 hz6
    rw [hz3, hz6]
    rfl
  · unfold bodyNat at hj hn hact hfree hctx hfrozen
    dsimp only
    rw [if_neg (by simp only [not_or, not_lt, not_not]; exact ⟨hj, by omega, hact⟩), if_neg (by omega), if_neg hfree, if_neg (not_not.mpr hctx),
      if_neg (by rw [hfrozen]; exact Bool.false_ne_true)]
    exact hd
end

/-- Settles O52, action by action. -/
theorem sequencerCommands : Obligations.SequencerCommands := by
  unfold Obligations.SequencerCommands
  intro c s hz3 hz6 hj hn j k x hfree hctx hfrozen
  refine ⟨fun h hact hst => ?_, fun h hact hst => ?_, fun h hact => ?_, fun h hact => ?_⟩
  · exact seqctl_acts (show exec _ s = seqctl 1 c s from rfl) rfl h hz3 hz6 hj hn hact hfree hctx hfrozen (if_pos hst)
  · exact seqctl_acts (show exec _ s = seqctl 2 c s from rfl) rfl h hz3 hz6 hj hn hact hfree hctx hfrozen (if_pos hst)
  · exact seqctl_acts (show exec _ s = seqctl 3 c s from rfl) rfl h hz3 hz6 hj hn hact hfree hctx hfrozen rfl
  · refine seqctl_acts (show exec _ s = seqctl 4 c s from rfl) rfl h hz3 hz6 hj hn hact hfree hctx hfrozen ?_
    show (if x.st = .stopped then accept s
      else if x.st = .running then accept (s.setSlot k { x with pend := some (x.pend.getD false) }) else accept (stopSlot s j k 0x4E 0 0)) = _
    split
    · rfl
    · split <;> rfl

/-! ## Debugging (R378 to R380) -/

section
variable {i : Instr} {c : Command} {s : State} {k act : Nat} {d : Done} {f : State → Nat → List Byte → Done}

/-- DEBUG of a group that the queue pair may debug comes to its action. -/
theorem debug_acts (hexec : exec i s = debugCommand act c s f) (hi : commands i = some (c, .debug, 32)) (h : sound i s)
    (hz : bodyNat c 0xC 4 = 0) (hk : findGroup s (bodyNat c 2 2) (bodyNat c 4 2) (bodyNat c 6 1) (bodyNat c 7 1) = some k)
    (hown : 2 ≤ c.qp → (s.grp k).ctxid = owner s c) (hact : bodyNat c 0 2 = act) (hd : f s k c.body = d) :
    exec i s = .next (queueReply c d) := by
  refine exec_sound (hexec.trans (show debugCommand act c s f = _ from rfl)) hi h (bne_zero_false hz) ?_
  unfold bodyNat at hk hact
  rw [if_neg (not_not.mpr hact), hk]
  dsimp only
  rw [if_neg fun hc => hc.2 (hown hc.1)]
  exact hd
end

/-- The commands of Table 18-2 that change a group and answer at once. -/
theorem debugs_accepts {i : Instr} {s t : State} {c : Command} {k act : Nat} (hz : bodyNat c 0xC 4 = 0)
    (hk : findGroup s (bodyNat c 2 2) (bodyNat c 4 2) (bodyNat c 6 1) (bodyNat c 7 1) = some k) (hown : 2 ≤ c.qp → (s.grp k).ctxid = owner s c)
    (hi : debugs i s k = some (c, act, true, t)) (h : sound i s) (hact : bodyNat c 0 2 = act) : accepts i c s t := by
  refine of_row (Q := debugs i s k = some (c, act, true, t) → sound i s → accepts i c s t) ?_ hi hi h
  clear hi h
  cases i
  case debugRelease c' =>
    refine row fun hi h => ?_
    unfold debugs at hi
    dsimp only at hi
    simp only [Option.some.injEq, Prod.mk.injEq] at hi
    obtain ⟨rfl, rfl, hfree, rfl⟩ := hi
    refine debug_acts (act := 2) (show exec _ s = execDebugRelease _ s from rfl) rfl h hz hk hown hact ?_
    rw [Bool.not_eq_true'] at hfree
    rw [if_neg (by rw [hfree]; exact Bool.false_ne_true)]
    split <;> rfl
  case debugHold c' =>
    refine row fun hi h => ?_
    unfold debugs at hi
    dsimp only at hi
    simp only [Option.some.injEq, Prod.mk.injEq] at hi
    obtain ⟨rfl, rfl, -, rfl⟩ := hi
    exact debug_acts (act := 3) (show exec _ s = execDebugHold _ s from rfl) rfl h hz hk hown hact rfl
  case debugUnhold c' =>
    refine row fun hi h => ?_
    unfold debugs at hi
    dsimp only at hi
    simp only [Option.some.injEq, Prod.mk.injEq] at hi
    obtain ⟨rfl, rfl, -, rfl⟩ := hi
    exact debug_acts (act := 4) (show exec _ s = execDebugUnhold _ s from rfl) rfl h hz hk hown hact rfl
  case debugStep c' =>
    refine row fun hi h => ?_
    unfold debugs at hi
    dsimp only at hi
    simp only [Option.some.injEq, Prod.mk.injEq] at hi
    obtain ⟨rfl, rfl, hmay, rfl⟩ := hi
    refine debug_acts (act := 5) (show exec _ s = execDebugStep _ s from rfl) rfl h hz hk hown hact (if_neg ?_)
    simp only [Bool.and_eq_true, Bool.not_eq_true'] at hmay
    obtain ⟨⟨hhalted, hhold⟩, hfree⟩ := hmay
    rw [hhalted, hhold, hfree]
    decide
  case debugBkset c' =>
    refine row fun hi h => ?_
    unfold debugs at hi
    dsimp only at hi
    simp only [Option.some.injEq, Prod.mk.injEq] at hi
    obtain ⟨rfl, rfl, -, rfl⟩ := hi
    exact debug_acts (act := 6) (show exec _ s = execDebugBkset _ s from rfl) rfl h hz hk hown hact rfl
  case debugBkclr c' =>
    refine row fun hi h => ?_
    unfold debugs at hi
    dsimp only at hi
    simp only [Option.some.injEq, Prod.mk.injEq] at hi
    obtain ⟨rfl, rfl, -, rfl⟩ := hi
    exact debug_acts (act := 7) (show exec _ s = execDebugBkclr _ s from rfl) rfl h hz hk hown hact rfl
  case debugSetpc c' =>
    refine row fun hi h => ?_
    unfold debugs at hi
    dsimp only at hi
    simp only [Option.some.injEq, Prod.mk.injEq] at hi
    obtain ⟨rfl, rfl, hmay, rfl⟩ := hi
    refine debug_acts (act := 8) (show exec _ s = execDebugSetpc _ s from rfl) rfl h hz hk hown hact ?_
    rw [Bool.and_eq_true, decide_eq_true_eq] at hmay
    obtain ⟨hhalted, hal⟩ := hmay
    exact (if_neg (by rw [hhalted]; decide)).trans (if_neg (not_not.mpr hal))
  all_goals exact trivial

section
variable {c : Command} {s : State} {k : Nat} (hz : bodyNat c 0xC 4 = 0)
  (hk : findGroup s (bodyNat c 2 2) (bodyNat c 4 2) (bodyNat c 6 1) (bodyNat c 7 1) = some k) (hown : 2 ≤ c.qp → (s.grp k).ctxid = owner s c)
include hz hk hown

/-- HALT answers at once for a halted group, else when it halts. -/
theorem debugHalt_answers (h : sound (.debugHalt c) s) (hact : bodyNat c 0 2 = 1) :
    ((s.grp k).halted = true → accepts (.debugHalt c) c s s) ∧
    ((s.grp k).halted = false → acceptsWith (.debugHalt c) c s (requestCluster (s.modGrp k (fun g => { g with haltPend := true }))
      (clusterKey (s.grp k).grid (s.grp k).cluster) 0 true) 0 [] (.halt k)) := by
  refine ⟨fun hh => ?_, fun hh => ?_⟩
  · exact debug_acts (act := 1) (show exec _ s = execDebugHalt _ s from rfl) rfl h hz hk hown hact (if_pos hh)
  · exact debug_acts (act := 1) (show exec _ s = execDebugHalt _ s from rfl) rfl h hz hk hown hact (if_neg (by rw [hh]; exact Bool.false_ne_true))
theorem debugDump_answers {t : State} (h : sound (.debugDump c) s) (hact : bodyNat c 0 2 = 9) (hh : (s.grp k).halted = true)
    (hconf : (s.ctx (s.grp k).ctxid).conf = false)
    (ht : writeRange s whoHost (s.grp k).ctxid (body64 c 24) (dumpBytes (s.grp k)) = .ok t) : accepts (.debugDump c) c s t := by
  refine debug_acts (act := 9) (show exec _ s = execDebugDump _ s from rfl) rfl h hz hk hown hact ?_
  unfold body64 at ht
  simp only [hh, hconf, Bool.not_true, Bool.false_eq_true, if_false, ht]
  rfl
end

/-! ## Management (R5, R385, R386, R388) -/

section
variable {c : Command} {s : State}

theorem mgmtrd_accepts {v : Dword} (h : sound (.mgmtrd c) s) (hv : mgmtRead s (bodyNat c 0 4) = some v) :
    acceptsWith (.mgmtrd c) c s { s with free := s.free + 1 } v [] .now := by
  refine exec_sound (i := .mgmtrd c) (s := s) (c := c) (show execMgmtrd c s = _ from rfl) rfl h rfl ?_
  unfold bodyNat at hv
  simp only [hv]
theorem mgmtwr_answers (h : sound (.mgmtwr c) s) (hz : bodyNat c 4 4 = 0) : exec (.mgmtwr c) s = .next (queueReply c
    { st := { s with mgmt := (mgmtWrite s.mgmt (bodyNat c 0 4) (body64 c 8)).2 }
      status := (mgmtWrite s.mgmt (bodyNat c 0 4) (body64 c 8)).1 }) :=
  exec_sound (i := .mgmtwr c) (s := s) (c := c) (show execMgmtwr c s = _ from rfl) rfl h (bne_zero_false hz) rfl
theorem attest_accepts {t : State} (h : sound (.attest c) s) (hz : bodyNat c 0x2A 6 = 0)
    (halive : bodyNat c 0x28 2 ≠ 0 → ctxAlive s (bodyNat c 0x28 2) = true)
    (ht : writeBuffer s c (body64 c 0x20) (attestReport s (c.body.take 32) (bodyNat c 0x28 2)) = .ok t) : accepts (.attest c) c s t := by
  refine exec_sound (i := .attest c) (s := s) (c := c) (show execAttest c s = _ from rfl) rfl h (bne_zero_false hz) ?_
  unfold bodyNat at halive ht
  unfold body64 at ht
  rw [if_neg fun hc => Bool.false_ne_true (by rw [halive hc.1] at hc; exact hc.2), ht]
  rfl
theorem keyload_answers (h : sound (.keyload c) s) (hz1 : bodyNat c 1 1 = 0) (hz2 : bodyNat c 0x72 2 = 0) (hslot : bodyNat c 0 1 ≠ 0) :
    exec (.keyload c) s = .next (queueReply c
      (if Config.unwraps ((c.body.drop 2).take 112) then
        { st := rekey s (bodyNat c 0 1) (Config.keyOf ((c.body.drop 2).take 112)), status := 0 }
      else { st := s, status := 3 })) := by
  refine exec_sound (i := .keyload c) (s := s) (c := c) (show execKeyload c s = _ from rfl) rfl h ?_ ?_
  · unfold bodyNat at hz1 hz2
    rw [hz1, hz2]
    rfl
  · by_cases hu : Config.unwraps ((c.body.drop 2).take 112) = true
    · exact (if_neg (not_or.mpr ⟨hslot, by rw [hu]; exact Bool.false_ne_true⟩)).trans (if_pos hu).symm
    · exact (if_pos (.inr (by rw [Bool.eq_false_iff.mpr hu]; rfl))).trans (if_neg hu).symm
theorem bbread_accepts {t : State} (h : sound (.bbread c) s) (hlow : 1 ≤ bodyNat c 12 4) (hhigh : bodyNat c 12 4 ≤ 4096)
    (ht : writeBuffer s c (body64 c 0) ((bboxEntries s.bbox (bodyNat c 8 4) (bodyNat c 12 4)).flatMap BBoxEntry.bytes) = .ok t) :
    acceptsWith (.bbread c) c s t (BitVec.ofNat 64 (bboxEntries s.bbox (bodyNat c 8 4) (bodyNat c 12 4)).length) [] .now := by
  refine exec_sound (i := .bbread c) (s := s) (c := c) (show execBbread c s = _ from rfl) rfl h rfl ?_
  unfold bodyNat at hlow hhigh ht
  unfold body64 at ht
  rw [if_neg (by omega)]
  simp only [ht]
  rfl
end

/-- Settles O53, command by command. -/
theorem debugAndManagementCommands : Obligations.DebugAndManagementCommands := by
  unfold Obligations.DebugAndManagementCommands
  refine ⟨fun i s c k hz hk hown => ⟨fun act t hi h hact => debugs_accepts hz hk hown hi h hact, ?_, ?_⟩,
    fun c s => ⟨fun v => mgmtrd_accepts, mgmtwr_answers, fun t => attest_accepts, keyload_answers, fun t => bbread_accepts⟩⟩
  · rintro rfl h hact
    exact debugHalt_answers hz hk hown h hact
  · rintro t rfl h hact hh hconf ht
    exact debugDump_answers hz hk hown h hact hh hconf ht

end Sys2Proof.CommandProofs


/-! PROOFS. Chapters 11 and 13: invalidations and the events of the sequencers. -/
namespace Sys2Proof.EventProofs
open Sys2Proof.Machine Sys2Proof.Claims Sys2Proof.MemoryWork Sys2Proof.SequencerProofs

/-! ## Invalidations (R272) -/

theorem tlbinvWrite_starts {c : Nat} {v : Dword} {s : State} (hused : (s.grp c).used = true) (hidle : (s.grp c).tlbinv.getLsbD 0 = false)
    (hres : csrReserved 0x060#12 v = false) :
    exec (.tlbinvWrite c v) s = .next (startTlbinv s c v) ∧ ((startTlbinv s c v).grp c).tlbinv.getLsbD 0 = true := by
  refine ⟨?_, ?_⟩
  · show execTlbinvWrite c v s = _
    unfold execTlbinvWrite
    rw [hused, hidle, hres]
    rfl
  · rw [startTlbinv, State.grp_modGrp]
    dsimp only
    rw [BitVec.getLsbD_or, show (1 : Dword).getLsbD 0 = true from rfl, Bool.or_true]

theorem tlbInvalidation_ends {c : Nat} {s : State} (hbusy : (s.grp c).tlbinv.getLsbD 0 = true) (hdone : invalPerformed (s.grp c) = true)
    (hfree : extentFree s (s.grp c).ctxid (s.grp c).tlbinv = true) :
    ∃ t, exec (.tlbInvalidationComplete c) s = .next t ∧ (t.grp c).tlbinv.getLsbD 0 = false ∧ (t.grp c).tlbAfter = [] ∧
      t.tlb = s.tlb.filter (fun e => !(e.1 / 2 ^ 40 % 65536 == (s.grp c).ctxid && inExtent (s.grp c).tlbinv (e.1 % 2 ^ 40))) := by
  have hexec : exec (.tlbInvalidationComplete c) s = .next ((dropExtent (s.flushCore (s.grp c).core) (s.grp c).ctxid (s.grp c).tlbinv).modGrp c
      (fun g => { g with tlbinv := g.tlbinv &&& ~~~ 1#64, tlbAfter := [] })) := by
    show execTlbInvalidationComplete c s = _
    unfold execTlbInvalidationComplete
    simp only [hbusy, hdone, hfree]
    rfl
  refine ⟨_, hexec, ?_, ?_, ?_⟩
  · rw [State.grp_modGrp]
    dsimp only
    rw [BitVec.getLsbD_and, show (~~~ 1#64).getLsbD 0 = false from rfl, Bool.and_false]
  · rw [State.grp_modGrp]
  · have htlb : (s.flushCore (s.grp c).core).tlb = s.tlb := by rw [(flushCore_worked s (s.grp c).core).rest]
    show (s.flushCore (s.grp c).core).tlb.filter _ = _
    rw [htlb]

/-! ## Flags and impositions (R300, R314, R317) -/

theorem waitfFlagRead_goes {j n loc tag : Nat} {a b : BitVec 4} {s : State} (hst : (s.slot (slotKey j n)).st = .waiting)
    (hwait : (s.slot (slotKey j n)).wait = some .flag)
    (hword : decodeChunk ((s.slot (slotKey j n)).imp.words.getD (s.slot (slotKey j n)).pc 0) = some (.waitf 0 a b)) {t : State}
    (ht : t = s.setSlot (slotKey j n) { s.slot (slotKey j n) with st := .ready, wait := none })
    (hflag : seqFlag t (whoLink j) (s.slot (slotKey j n)).imp.ctxid .read ((s.slot (slotKey j n)).rc a.toNat) = .ok (loc, tag))
    (hmet : (s.slot (slotKey j n)).rc b.toNat ≤ BitVec.ofNat 64 (t.readNat none tag loc 8))
    (hpc : (s.slot (slotKey j n)).pc + 1 < (s.slot (slotKey j n)).imp.words.length) (hfree : (s.slot (slotKey j n)).stepping = false)
    (hj : j < 32) (hn : n < 4) :
    exec (.waitfFlagRead j n) s = .next (t.modSlot (slotKey j n) (fun y => { y with pc := (s.slot (slotKey j n)).pc + 1, held := none })) := by
  have hslot : t.slot (slotKey j n) = { s.slot (slotKey j n) with st := .ready, wait := none } := by rw [ht, slot_setSlot]
  have hgo : waitfRead t j (s.slot (slotKey j n)) 0 a b = .go t ((s.slot (slotKey j n)).pc + 1) := by
    unfold waitfRead
    rw [hflag]
    exact if_pos ((Bool.not_eq_true' _).mpr (decide_eq_false (Nat.not_lt.mpr hmet)))
  show execWaitfFlagRead j n s = _
  unfold execWaitfFlagRead rereadFlag
  rw [if_pos ⟨hj, hn⟩, if_pos ⟨hst, hwait⟩, hword]
  dsimp only
  rw [← ht, hgo]
  dsimp only
  rw [seqCommit_go (by rw [hslot]; exact hfree), hslot, if_pos hpc]

theorem rc_wc (x : SeqSlot) {n : Nat} (hn : n ≠ 0) (v : Dword) {m : Nat} (hm : m ≠ 0) : (x.wc n v).rc m = if m = n then v else x.rc m := by
  unfold SeqSlot.wc SeqSlot.rc
  rw [if_neg hn, if_neg hm, if_neg hm, Bank.get_set]

/-- The registers that a start sets. -/
theorem loadSlot_rc (x : SeqSlot) (j : Nat) (i : SeqImp) {m : Nat} (hm : m ≠ 0) : (loadSlot x j i).rc m =
    if m = 4 then BitVec.ofNat 64 j else if m = 3 then BitVec.ofNat 64 i.mods.length else if m = 2 then BitVec.ofNat 64 i.rank
    else if m = 1 then i.param else 0 := by
  unfold loadSlot
  dsimp only
  rw [rc_wc _ (by decide) _ hm, rc_wc _ (by decide) _ hm, rc_wc _ (by decide) _ hm, rc_wc _ (by decide) _ hm]
  unfold SeqSlot.rc
  rw [if_neg hm, Bank.get_nil]
theorem loadSlot_pc (x : SeqSlot) (j : Nat) (i : SeqImp) : (loadSlot x j i).pc = 0 := rfl

theorem impositionStartArrival_loads {j n : Nat} {i : SeqImp} {rest : List SeqImp} {s : State} (hstarts : (s.slot (slotKey j n)).starts = i :: rest)
    (hfree : (s.slot (slotKey j n)).st = .free) :
    exec (.impositionStartArrival j n) s = .next (s.setSlot (slotKey j n) (loadSlot (s.slot (slotKey j n)) j i)) := by
  show execImpositionStartArrival j n s = _
  unfold execImpositionStartArrival
  simp only [hstarts, hfree, if_true]

theorem impositionStartTimeout_aborts {k : Nat} {i : Imposition} {s : State} (hi : s.seqs.imps[k]? = some i)
    (hlost : i.mods.filter (fun m => !i.answered.contains m) ≠ []) :
    exec (.impositionStartTimeout k) s = .next ((i.mods.filter (fun m => !i.answered.contains m)).foldl (fun s m => hearEnded s i.uid m true)
      (i.mods.foldl (fun s m => sendAbort s i.ctxid i.uid m)
        (modImp s i.uid (fun x => { x with aborted := true, answered := x.answered ++ i.mods.filter (fun m => !i.answered.contains m) })))) := by
  show execImpositionStartTimeout k s = _
  unfold execImpositionStartTimeout
  rw [hi]
  dsimp only
  exact congrArg Host.Outcome.next (if_neg (by simpa only [List.isEmpty_iff] using hlost))

/-- Settles O46. -/
theorem invalidationAndSequencerEvents : Obligations.InvalidationAndSequencerEvents := by
  unfold Obligations.InvalidationAndSequencerEvents
  refine ⟨fun c v s => tlbinvWrite_starts, ?_, ?_, ?_, ?_⟩
  · intro c s g hbusy hdone hfree
    exact tlbInvalidation_ends hbusy hdone hfree
  · intro j n loc tag a b s x hst hwait hword t hflag hmet hpc hfree hj hn
    exact waitfFlagRead_goes hst hwait hword rfl hflag hmet hpc hfree hj hn
  · intro j n i rest s x hstarts hfree
    have hrc := fun m hm => loadSlot_rc x j i (m := m) hm
    refine ⟨impositionStartArrival_loads hstarts hfree, loadSlot_pc .., ?_, ?_, ?_, ?_, fun m hm => ?_⟩
    · exact hrc 1 (by decide)
    · exact hrc 2 (by decide)
    · exact hrc 3 (by decide)
    · exact hrc 4 (by decide)
    · rw [hrc m (by omega), if_neg (by omega), if_neg (by omega), if_neg (by omega), if_neg (by omega)]
  · intro k i s hi hlost
    exact impositionStartTimeout_aborts hi hlost

end Sys2Proof.EventProofs


/-! The module's own events (O48): the host's RDMA, the management connector, the clock, errors, breakpoints and samples. -/
namespace Sys2Proof.ModuleEvents
open Sys2Proof.Machine
open Sys2Proof

/-! ## RDMA (R260, R363) -/

variable {s : State} {x : Rdma}

/-- An access of a queue pair that has none under way runs whole. -/
theorem rdmaEnd_whole (hahead : (s.qp x.qp).ahead = none) :
    rdmaEnd (beforeRdma s x) x = match rdmaCheck s x with
      | .error t => t
      | .ok (ctxid, ps) => if x.w then rdmaStore s ps x.data []
        else match rdmaPoison s ps [] with
          | some w => freezeQp s x.qp ctxid 2 w
          | none => s.send (.readData x.qp (ps.flatMap (fun p => s.readBytes none p.2.1 p.1 p.2.2.2))) := by
  have hbefore : beforeRdma s x = s := by simp [beforeRdma, hahead]
  have hseen : aheadOf s x = [] := by simp [aheadOf, hahead]
  rw [hbefore]
  unfold rdmaEnd
  rw [hseen]
  simp only [hahead]
  rfl

theorem rdmaCheck_outside (hlive : qpLive s x.qp = true) (hout : rdmaRegion s x.qp x.rkey x.off x.len x.w = none) :
    rdmaCheck s x = .error (s.send (.accessNak x.qp)) := by simp [rdmaCheck, hlive, hout]

theorem rdmaCheck_inside {r : MemRegion} {ps : List (Nat × Nat × Nat × Nat)} (hlive : qpLive s x.qp = true)
    (hin : rdmaRegion s x.qp x.rkey x.off x.len x.w = some r)
    (hps : rdmaPlaces s r.ctxid (if x.w then .write else .read) (r.vbase + x.off) x.len = .ok ps) :
    rdmaCheck s x = .ok (r.ctxid, ps) := by simp [rdmaCheck, hlive, hin, hps]

theorem rdmaWrite_outcomes {q : Nat} {rkey : Word} {off : Dword} {d : List Byte} (hlive : qpLive s q = true)
    (hahead : (s.qp q).ahead = none) :
    (rdmaRegion s q rkey off d.length true = none → exec (.rdmaWrite q rkey off d) s = .next (s.send (.accessNak q))) ∧
    (∀ r ps, rdmaRegion s q rkey off d.length true = some r → rdmaPlaces s r.ctxid .write (r.vbase + off) d.length = .ok ps →
      exec (.rdmaWrite q rkey off d) s = .next (ps.foldl (fun s p =>
        s.writeBytes none none p.2.1 p.1 ((d.drop p.2.2.1).take p.2.2.2)) s)) := by
  have hrun : exec (.rdmaWrite q rkey off d) s =
      .next (rdmaEnd (beforeRdma s ⟨q, true, rkey, off, d, d.length⟩) ⟨q, true, rkey, off, d, d.length⟩) := rfl
  rw [hrun, rdmaEnd_whole (x := ⟨q, true, rkey, off, d, d.length⟩) hahead]
  constructor
  · intro hout
    rw [rdmaCheck_outside (x := ⟨q, true, rkey, off, d, d.length⟩) hlive hout]
  · intro r ps hin hps
    rw [rdmaCheck_inside (x := ⟨q, true, rkey, off, d, d.length⟩) hlive hin hps]
    rfl

theorem rdmaRead_outcomes {q n : Nat} {rkey : Word} {off : Dword} (hlive : qpLive s q = true)
    (hahead : (s.qp q).ahead = none) :
    (rdmaRegion s q rkey off n false = none → exec (.rdmaRead q rkey off n) s = .next (s.send (.accessNak q))) ∧
    (∀ r ps, rdmaRegion s q rkey off n false = some r → rdmaPlaces s r.ctxid .read (r.vbase + off) n = .ok ps → rdmaPoison s ps [] = none →
      exec (.rdmaRead q rkey off n) s = .next (s.send (.readData q (ps.flatMap (fun p => s.readBytes none p.2.1 p.1 p.2.2.2))))) := by
  have hrun : exec (.rdmaRead q rkey off n) s =
      .next (rdmaEnd (beforeRdma s ⟨q, false, rkey, off, [], n⟩) ⟨q, false, rkey, off, [], n⟩) := rfl
  rw [hrun, rdmaEnd_whole (x := ⟨q, false, rkey, off, [], n⟩) hahead]
  constructor
  · intro hout
    rw [rdmaCheck_outside (x := ⟨q, false, rkey, off, [], n⟩) hlive hout]
  · intro r ps hin hps hclean
    rw [rdmaCheck_inside (x := ⟨q, false, rkey, off, [], n⟩) hlive hin hps]
    simp only [hclean, Bool.false_eq_true, if_false]

theorem naks_answer {q : Nat} (hon : (s.qp q).enabled = true) (herr : (s.qp q).error = false) :
    exec (.invalidRequestNak q) s = .next (s.send (.invalidNak q)) ∧ exec (.ecnMark q) s = .next (s.send (.congestion q)) := by
  show execInvalidRequestNak q s = _ ∧ execEcnMark q s = _
  simp [execInvalidRequestNak, execEcnMark, hon, herr]

/-- What a port that goes down makes of a queue pair. -/
def portDown (p : Nat) (e : Nat × QPair) : Nat × QPair := if portOf e.1 = p then (e.1, { e.2 with error := true }) else e

theorem portDown_eq (p q : Nat) (y : QPair) : portDown p (q, y) = (q, if portOf q = p then { y with error := true } else y) := by
  unfold portDown
  split <;> rfl

theorem mem_portDown {p q : Nat} {x : QPair} {qps : List (Nat × QPair)} :
    (q, x) ∈ qps.map (portDown p) ↔ ∃ y, (q, y) ∈ qps ∧ x = if portOf q = p then { y with error := true } else y := by
  simp only [List.mem_map, Prod.exists, portDown_eq, Prod.mk.injEq]
  constructor
  · rintro ⟨_, y, hy, rfl, rfl⟩
    exact ⟨y, hy, rfl⟩
  · rintro ⟨y, hy, rfl⟩
    exact ⟨q, y, hy, rfl, rfl⟩

theorem ethernetPortDown_effect (p : Nat) (s : State) :
    ∃ t, exec (.ethernetPortDown p) s = .next t ∧ t = { s with host := { s.host with qps := t.host.qps } } ∧
      ∀ q x, (q, x) ∈ t.host.qps ↔ ∃ y, (q, y) ∈ s.host.qps ∧ x = if portOf q = p then { y with error := true } else y :=
  ⟨{ s with host := { s.host with qps := s.host.qps.map (portDown p) } }, rfl, rfl, fun _ _ => mem_portDown⟩

/-! ## The management connector and the clock (R3, R4, R7) -/

theorem connector_answers (s : State) :
    (∀ o v, mgmtRead s o.toNat = some v → exec (.managementConnectorAccess (.read o)) s =
      .next ({ s with free := s.free + 1 }.send (.mgmt (natToBytes 8 v.toNat)))) ∧
    (∀ o v, exec (.managementConnectorAccess (.write o v)) s = .next { s with mgmt := (mgmtWrite s.mgmt o.toNat v).2 }) ∧
    (∀ j rx, j ≤ 31 → exec (.managementConnectorAccess (.link j rx)) s = .next (s.send (.mgmt (linkRecord s j !rx)))) := by
  refine ⟨fun o v hv => ?_, fun o v => rfl, fun j rx hj => ?_⟩
  · show execManagementConnectorAccess (.read o) s = _
    simp only [execManagementConnectorAccess, hv]
  · show execManagementConnectorAccess (.link j rx) s = _
    simp only [execManagementConnectorAccess, hj, if_true]

theorem clock_slower (hhold : s.mgmt.hold = false) (hstep : s.mgmt.clkStep < 20) :
    exec (.clockStepChange true) s = .next { s with mgmt := { s.mgmt with
      clkStep := s.mgmt.clkStep + 1, clkLimit := s.mgmt.clkStep + 1, limiting := true } } := by
  show execClockStepChange true s = _
  simp [execClockStepChange, hhold, Nat.not_le.mpr hstep, Mgmt.limit]

theorem clock_faster (hhold : s.mgmt.hold = false) (hcap : s.mgmt.clkCap < s.mgmt.clkStep) :
    let k := if s.mgmt.clkStep - 1 ≤ s.mgmt.clkCap then 0 else min s.mgmt.clkLimit (s.mgmt.clkStep - 1)
    exec (.clockStepChange false) s = .next { s with mgmt := { s.mgmt with
      clkStep := s.mgmt.clkStep - 1, clkLimit := k, limiting := decide (k ≠ 0) } } := by
  show execClockStepChange false s = _
  simp only [execClockStepChange, hhold, Nat.not_le.mpr hcap, Mgmt.limit, Bool.false_eq_true, if_false]

theorem coolantHold_holds (hhold : s.mgmt.hold = false) :
    exec .coolantHold s = .next { s with mgmt := { s.mgmt with
      hold := true, holds := (s.mgmt.holds + 1) % 2 ^ 32, clkStep := 20 } } := by
  show execCoolantHold s = _
  simp only [execCoolantHold, hhold, Bool.false_eq_true, if_false]

theorem coolantHoldRelease_releases (hhold : s.mgmt.hold = true) :
    exec .coolantHoldRelease s = .next { s with mgmt := { s.mgmt with hold := false } } := by
  show execCoolantHoldRelease s = _
  simp only [execCoolantHoldRelease, hhold, if_true]

/-! ## Errors (R276 to R280) -/

theorem uncorrectableError_memory {a : Nat} (ha : a < 2 ^ 62) (hheld : wordHeld s a = true) :
    exec (.uncorrectableError a) s = .next { s with poison := Bank.set false s.poison (a / 32) true } := by
  show execUncorrectableError a s = _
  simp only [execUncorrectableError, ge_iff_le, Nat.not_le.mpr ha, if_false, hheld, if_true]

theorem uncorrectableError_register {k r : Nat} (hr : r < 2 ^ 13) (hused : (s.grp k).used = true) :
    ∃ t, exec (.uncorrectableError (regPoisonLoc k r)) s = .next t ∧ r ∈ (t.grp k).poison ∧
      ∀ x, x ∈ (t.grp k).poison ↔ x = r ∨ x ∈ (s.grp k).poison := by
  have hbig : regPoisonLoc k r ≥ 2 ^ 62 := Nat.le_add_right ..
  have hn : (regPoisonLoc k r - 2 ^ 62) / 32 = k * 2 ^ 13 + r := by unfold regPoisonLoc; omega
  have hk : (k * 2 ^ 13 + r) / 2 ^ 13 = k := by omega
  have hrem : (k * 2 ^ 13 + r) % 2 ^ 13 = r := by omega
  have hrun : exec (.uncorrectableError (regPoisonLoc k r)) s =
      .next (s.modGrp k (fun g => { g with poison := r :: g.poison.filter (· != r) })) := by
    show execUncorrectableError _ s = _
    simp only [execUncorrectableError, hbig, if_true, hn, hk, hrem, hused]
  refine ⟨_, hrun, ?_, fun x => ?_⟩ <;> rw [State.grp_modGrp]
  · exact List.mem_cons_self
  · simp only [List.mem_cons, List.mem_filter, bne_iff_ne, ne_eq]
    tauto

theorem parityError_reexecutes (c : Nat) (mask : BitVec 32) (s : State) :
    let ls := (lanesOf mask).filter (fun l => stands (s.grp c) l && ((s.grp c).lane l).run != 0)
    ((∀ l ∈ ls, ((s.grp c).lane l).parity = false) →
      exec (.parityErrorReexecution c mask) s = .next (s.modGrp c (fun g => g.modLanes ls (fun _ x => { x with parity := true })))) ∧
    ((∃ l ∈ ls, ((s.grp c).lane l).parity = true) → exec (.parityErrorReexecution c mask) s = .next (s.freezeGrp c 3 0 2)) := by
  intro ls
  have hrun : exec (.parityErrorReexecution c mask) s = .next (if ls.any (fun l => ((s.grp c).lane l).parity) then s.freezeGrp c 3 0 2
    else s.modGrp c (fun g => g.modLanes ls (fun _ x => { x with parity := true }))) := rfl
  rw [hrun]
  constructor
  · intro hfirst
    rw [if_neg]
    simpa using hfirst
  · intro hagain
    rw [if_pos (List.any_eq_true.mpr hagain)]

/-! ## Breakpoints, samples and trace (R378 to R382) -/

theorem hardwareBreakpoint_traps {c n l0 : Nat} {mask : BitVec 32} {hit : Word} {a : Dword} (hl0 : lowest mask = some l0) :
    let pc := ((s.grp c).lane l0).pc
    let m := maskOf ((lanesOf mask).filter (fun l => stands (s.grp c) l && ((s.grp c).lane l).pc == pc))
    breakLanes (s.grp c) m pc (groupLen s (s.grp c) pc) = some (n, hit, a) →
    exec (.hardwareBreakpoint c mask) s = .next (meetTrap (rollbackTakes s c (lanesOf m)) c hit m 0x0B (0xF0 + n) pc (fun _ => a) id) := by
  intro pc m hbreak
  show execHardwareBreakpoint c mask s = _
  unfold execHardwareBreakpoint
  simp only [hl0]
  rw [hbreak]

theorem sampleTag_tags {core quad ctx : Nat} (hcore : core < 128) (hquad : quad < 4) (hctx : ctx < 65536)
    (hon : (s.ctx ctx).trace.on = true) :
    let n := (Bank.get (false, 0) s.sample ((core * 4 + quad) * 65536 + ctx)).2
    (n = 0 ∨ ((s.ctx ctx).trace.period ≤ 2 * n ∧ 2 * n ≤ 3 * (s.ctx ctx).trace.period)) → exec (.sampleTag core quad ctx) s =
      .next { s with sample := Bank.set (false, 0) s.sample ((core * 4 + quad) * 65536 + ctx) (true, n) } := by
  intro n hdue
  have htag : tagDue (s.ctx ctx).trace.period n = true := by simpa [tagDue] using hdue
  show execSampleTag core quad ctx s = _
  unfold execSampleTag
  exact congrArg Host.Outcome.next (if_pos ⟨hcore, hquad, hctx, hon, htag⟩)

theorem traceBlockWrite_writes {ctx : Nat} (hon : (s.ctx ctx).trace.on = true) (hrecs : (s.ctx ctx).trace.recs ≠ []) :
    exec (.traceBlockWrite ctx) s = .next (writeTrace s ctx) := by
  show execTraceBlockWrite ctx s = _
  simp [execTraceBlockWrite, hon, hrecs]

/-- Settles O48. -/
theorem networkAndManagementEvents : Obligations.NetworkAndManagementEvents := by
  unfold Obligations.NetworkAndManagementEvents
  refine ⟨⟨fun q rkey off d s => rdmaWrite_outcomes, fun q n rkey off s => rdmaRead_outcomes, fun q s => naks_answer,
    ethernetPortDown_effect⟩, fun s => ?_⟩
  obtain ⟨hread, hwrite, hlink⟩ := connector_answers s
  exact ⟨hread, hwrite, hlink, clock_slower, clock_faster, coolantHold_holds, coolantHoldRelease_releases, rfl, rfl,
    fun a => uncorrectableError_memory, fun k r => uncorrectableError_register, fun c mask => parityError_reexecutes c mask s,
    fun c mask l0 n hit a hl0 => hardwareBreakpoint_traps hl0, fun core quad ctx hcore hquad hctx hon => sampleTag_tags hcore hquad hctx hon,
    fun ctx => traceBlockWrite_writes⟩

end Sys2Proof.ModuleEvents


/-! Starts and migration (O49). -/
namespace Sys2Proof.StartProofs
open Sys2Proof.Machine
open Sys2Proof

/-! ## Starts (R389, R390) -/

/-- What every start leaves, made or stopped: no work stands, and the L1s and the loaded keys are empty. -/
structure Cleared (t : State) : Prop where
  l1 : t.l1 = []
  grps : t.grps = []
  ctxs : t.ctxs = []
  keys : t.keys = []

@[simp] theorem leaveL2_mem (s : State) (current sector : Nat) (x : L2Sector) : (s.leaveL2 current sector x).mem = s.mem := by
  unfold State.leaveL2
  dsimp only
  split <;> rfl

/-- Emptying the L2 leaves every store's bytes. -/
@[simp] theorem emptyL2_mem (s : State) : (emptyL2 s).mem = s.mem := by
  unfold emptyL2
  generalize s.l2 = held
  induction held generalizing s with
  | nil => rfl
  | cons e rest ih =>
    rw [List.foldl_cons, ih]
    cases e.2 with
    | none => rfl
    | some x => exact leaveL2_mem ..

theorem failStart_leaves (s : State) (m : Mgmt) (step : Nat) (warm : Bool) :
    Cleared (failStart s m step warm) ∧ (failStart s m step warm).mgmt.dead = true ∧
      (failStart s m step warm).mgmt.failStep = step ∧ (failStart s m step warm).host.qps = [] := ⟨⟨rfl, rfl, rfl, rfl⟩, rfl, rfl, rfl⟩

variable {s : State} {imgs : List FwImage}

theorem coldStart_refused (hbad : (measureImages imgs 0).2 = false) :
    coldStart s imgs 0 = failStart s { s.mgmt with measure := (measureImages imgs 0).1 } 1 false := by
  simp only [coldStart, hbad, Bool.not_false, if_true]

theorem coldStart_made (hgood : (measureImages imgs 0).2 = true) :
    coldStart s imgs 0 = { afterStart s { measure := (measureImages imgs 0).1, failStep := s.mgmt.failStep, hold := s.mgmt.hold, clkStep := if s.mgmt.hold then 20 else 0 }
                              with bbox := {} } := by
  simp only [coldStart, hgood, Bool.not_true, Bool.false_eq_true, if_false, Nat.reduceLeDiff, false_and]

theorem coldStart_outcome (s : State) (imgs : List FwImage) : ∃ t, exec (.coldStart imgs 0) s = .next t ∧ t.grps = [] ∧ t.ctxs = [] ∧ t.keys = [] ∧
    if (measureImages imgs 0).2 then
      t.mem = [] ∧ t.l1 = [] ∧ t.sched = {} ∧ t.bbox = {} ∧ t.tags = [] ∧ t.poison = [] ∧
      t.mgmt.measure = (measureImages imgs 0).1 ∧ t.mgmt.lastKind = 1 ∧ t.mgmt.warmCount = 0
    else t.mgmt.dead = true ∧ t.mgmt.failStep = 1 ∧ t.host.qps = [] := by
  refine ⟨_, rfl, ?_⟩
  cases himgs : (measureImages imgs 0).2 with
  | true => exact coldStart_made himgs ▸ ⟨rfl, rfl, rfl, rfl, rfl, rfl, rfl, rfl, rfl, rfl, rfl, rfl⟩
  | false =>
    rw [coldStart_refused himgs]
    obtain ⟨cleared, hdead⟩ := failStart_leaves s { s.mgmt with measure := (measureImages imgs 0).1 } 1 false
    exact ⟨cleared.grps, cleared.ctxs, cleared.keys, hdead⟩

theorem warmStart_refused (hrow : s.mgmt.failedRow < 3) (hbad : (measureImages imgs 0).2 = false) :
    warmStart s imgs 0 = failStart s { s.mgmt with measure := (measureImages imgs 0).1 } 1 true := by
  simp only [warmStart, Nat.not_le.mpr hrow, hbad, Bool.not_false, if_true, if_false]

/-- What a warm start that is made leaves, before its entry in the black box. -/
def warmed (s : State) (imgs : List FwImage) : State :=
  afterStart (emptyL2 s) { s.mgmt with measure := (measureImages imgs 0).1, lastKind := 2, failedRow := 0, warmCount := s.mgmt.warmCount + 1, dead := false }

theorem warmStart_made (hrow : s.mgmt.failedRow < 3) (hgood : (measureImages imgs 0).2 = true) :
    warmStart s imgs 0 = (if s.mgmt.start.getLsbD 2 then
      { warmed s imgs with
        mem := s.mem.filter (fun e => inNear e.1), tags := (emptyL2 s).tags.filter (fun e => inNear (e.1 * 32))
        poison := (emptyL2 s).poison.filter (fun e => inNear (e.1 * 32)) }
      else warmed s imgs).bboxAdd 8 0 0 0 0 := by
  simp only [warmStart, Nat.not_le.mpr hrow, hgood, Bool.not_true, Bool.false_eq_true, if_false, Nat.reduceLeDiff, false_and,
    emptyL2_mem, warmed]

theorem warmStart_outcome (hrow : s.mgmt.failedRow < 3) :
    ∃ t, exec (.warmStart imgs 0) s = .next t ∧ t.l1 = [] ∧ t.grps = [] ∧ t.ctxs = [] ∧ t.keys = [] ∧
      if (measureImages imgs 0).2 then
        t.mgmt.lastKind = 2 ∧ t.mgmt.warmCount = s.mgmt.warmCount + 1 ∧ t.mgmt.measure = (measureImages imgs 0).1 ∧
        t.mem = (if s.mgmt.start.getLsbD 2 then s.mem.filter (fun e => decide (e.1 < 2 * 2 ^ 40)) else [])
      else t.mgmt.dead = true ∧ t.mgmt.failStep = 1 ∧ t.host.qps = [] := by
  refine ⟨_, rfl, ?_⟩
  cases himgs : (measureImages imgs 0).2 with
  | true =>
    rw [warmStart_made hrow himgs]
    cases s.mgmt.start.getLsbD 2 with
    | true => exact ⟨rfl, rfl, rfl, rfl, rfl, rfl, rfl, rfl⟩
    | false => exact ⟨rfl, rfl, rfl, rfl, rfl, rfl, rfl, rfl⟩
  | false =>
    rw [warmStart_refused hrow himgs]
    obtain ⟨cleared, hdead⟩ := failStart_leaves s { s.mgmt with measure := (measureImages imgs 0).1 } 1 true
    exact ⟨cleared.l1, cleared.grps, cleared.ctxs, cleared.keys, hdead⟩

theorem warmStart_cold (hrow : s.mgmt.failedRow ≥ 3) : exec (.warmStart imgs 0) s = exec (.coldStart imgs 0) s := by
  show execWarmStart imgs 0 s = execColdStart imgs 0 s
  rw [execWarmStart, execColdStart, warmStart, if_pos hrow]

/-! ## Migration (R36, R376) -/

variable {id budget : Nat} {features : BitVec 512}

theorem liveMigration_out (halive : ctxAlive s id = true) : exec (.liveMigration id ⟨features, budget⟩) s =
    .next (migrateOut ((clustersOf s id).foldl (fun s ck => requestCluster s ck budget false) s) id features) := by
  show execLiveMigration id ⟨features, budget⟩ s = _
  rw [execLiveMigration, if_pos halive]

/-- What leaves with a context. -/
def migrated (s : State) (id : Nat) : Migrated :=
  { ctxid := id, ctx := { s.ctx id with saved := true }
    objs := s.objs.filter (fun e => (e.2.map (·.ctxid)) == some id)
    grids := s.sched.grids.filter (fun e => (s.grid e.1).used && (s.grid e.1).ctxid == id)
    clusters := s.sched.clusters.filter (fun e => (s.grid (e.1 / 65536)).used && (s.grid (e.1 / 65536)).ctxid == id)
    saved := s.sched.saved.filter (fun v => (s.grid v.grid).used && (s.grid v.grid).ctxid == id) }

/-- What stays when a context leaves. -/
def withoutContext (s : State) (id : Nat) : State :=
  { s with
    away := s.away ++ [migrated s id]
    ctxs := Bank.set {} s.ctxs id {}
    objs := s.objs.filter (fun e => (e.2.map (·.ctxid)) != some id)
    sched := { s.sched with
      grids := s.sched.grids.filter (fun e => !((s.grid e.1).used && (s.grid e.1).ctxid == id))
      clusters := s.sched.clusters.filter (fun e => !((s.grid (e.1 / 65536)).used && (s.grid (e.1 / 65536)).ctxid == id))
      saved := s.sched.saved.filter (fun v => !((s.grid v.grid).used && (s.grid v.grid).ctxid == id)) }
    tlb := s.tlb.filter (fun e => e.1 / 2 ^ 40 % 65536 != id) }

theorem migrateOut_leaves (hnone : ∀ e ∈ s.grps, e.2.used = true → e.2.ctxid ≠ id)
    (hfeatures : (s.ctx id).contract &&& ~~~ features = 0) :
    (migrateOut s id features).away = s.away ++ [migrated s id] ∧ ((migrateOut s id features).ctx id).used = false ∧
      (migrateOut s id features).mem = s.mem := by
  have hno : s.grps.any (fun e => e.2.used && e.2.ctxid == id) = false := by
    simpa only [List.any_eq_false, Bool.and_eq_true, beq_iff_eq, not_and] using hnone
  have hkept : ((s.ctx id).contract &&& ~~~ features != 0) = false := bne_eq_false_iff_eq.mpr hfeatures
  have hleft : migrateOut s id features = withoutContext s id := by
    simp only [migrateOut, hno, hkept, Bool.false_eq_true, if_false]
    rfl
  rw [hleft]
  have hctx : (withoutContext s id).ctx id = {} := State.ctx_setCtx s id {}
  exact ⟨rfl, by rw [hctx], rfl⟩

theorem liveMigration_leaves (halive : ctxAlive s id = true) (hclus : clustersOf s id = [])
    (hnone : ∀ e ∈ s.grps, e.2.used = true → e.2.ctxid ≠ id) (hfeatures : (s.ctx id).contract &&& ~~~ features = 0) :
    ∃ t x, exec (.liveMigration id ⟨features, budget⟩) s = .next t ∧ t.away = s.away ++ [x] ∧ x.ctxid = id ∧
      x.ctx = { s.ctx id with saved := true } ∧ (t.ctx id).used = false ∧
      x.saved = s.sched.saved.filter (fun v => (s.grid v.grid).used && (s.grid v.grid).ctxid == id) ∧ t.mem = s.mem := by
  obtain ⟨haway, hused, hmem⟩ := migrateOut_leaves hnone hfeatures
  exact ⟨_, migrated s id, by rw [liveMigration_out halive, hclus, List.foldl_nil], haway, rfl, rfl, hused, rfl, hmem⟩

theorem foldl_setGrid_ctx (grids : List (Nat × Grid)) (s : State) (a : Nat) :
    (grids.foldl (fun (s : State) e => s.setGrid e.1 e.2) s).ctx a = s.ctx a := by
  induction grids generalizing s with
  | nil => rfl
  | cons e rest ih => rw [List.foldl_cons, ih, State.ctx_setGrid]

theorem foldl_setClus_ctx (clusters : List (Nat × Cluster)) (s : State) (a : Nat) :
    (clusters.foldl (fun (s : State) e => s.setClus e.1 e.2) s).ctx a = s.ctx a := by
  induction clusters generalizing s with
  | nil => rfl
  | cons e rest ih => rw [List.foldl_cons, ih, State.ctx_setClus]

theorem migrateIn_ctx {x : Migrated} (hfeatures : x.ctx.contract &&& ~~~ deviceFeatures = 0)
    (hfree : ∀ e ∈ x.grids, (s.grid e.1).used = false) : (migrateIn s x).ctx x.ctxid = { x.ctx with saved := false } := by
  have hno : x.grids.any (fun e => (s.grid e.1).used) = false := by
    simpa only [List.any_eq_false, Bool.not_eq_true] using hfree
  have hruns : (x.ctx.contract &&& ~~~ deviceFeatures != 0) = false := bne_eq_false_iff_eq.mpr hfeatures
  unfold migrateIn
  simp only [hno, hruns, Bool.or_false, Bool.false_eq_true, if_false]
  show State.ctx (x.clusters.foldl _ _) x.ctxid = _
  rw [foldl_setClus_ctx, foldl_setGrid_ctx, State.ctx_setCtx]

theorem liveMigration_in {x : Migrated} (hused : (s.ctx id).used = false) (hx : s.away.find? (fun x => x.ctxid == id) = some x) :
    exec (.liveMigration id ⟨features, budget⟩) s = .next (migrateIn s x) := by
  have hdead : ctxAlive s id = false := by rw [ctxAlive, hused, Bool.false_and]
  show execLiveMigration id ⟨features, budget⟩ s = _
  simp only [execLiveMigration, hdead, hused, Bool.false_eq_true, if_false, hx]

/-- Settles O49. -/
theorem startsAndMigration : Obligations.StartsAndMigration := by
  unfold Obligations.StartsAndMigration
  refine ⟨fun s imgs => ⟨coldStart_outcome s imgs, warmStart_outcome, warmStart_cold⟩, fun id T features s => ⟨?_, ?_, ?_⟩⟩
  · exact fun halive _ _ => liveMigration_out halive
  · exact liveMigration_leaves
  · intro x hused hx hfeatures hfree
    obtain rfl : x.ctxid = id := by simpa using List.find?_some hx
    exact ⟨liveMigration_in hused hx, migrateIn_ctx hfeatures hfree⟩

end Sys2Proof.StartProofs


/-! The scheduler's events (O43). -/
namespace Sys2Proof.SchedulerProofs
open Sys2Proof.Machine
open Sys2Proof

variable {s : State} {q k : Nat}

theorem dependenceFlagRead_latches {h : Queued} {rest : List Queued} {ls : List Nat} :
    let t := s.settle q
    (t.queue q).packets = h :: rest → h.ready = none → h.checked = true →
    latchDeps t (t.queue q).ctxid h.packet h.latched = some ls →
    exec (.dependenceFlagRead q) s = .next ((t.setQueue q { t.queue q with packets := { h with
      latched := ls, ready := if ls.length = h.packet.ndep then some t.sched.cycle.toNat else none } :: rest }).settle q) := by
  intro t hhead hwait hchecked hlatch
  show execDependenceFlagRead q s = _
  simp only [execDependenceFlagRead, show ((s.settle q).queue q).packets = h :: rest from hhead, hwait, hchecked, Option.isSome_none,
    Bool.not_true, Bool.or_false, Bool.false_eq_true, if_false,
    show latchDeps (s.settle q) ((s.settle q).queue q).ctxid h.packet h.latched = some ls from hlatch]
  rfl

theorem clusterRestore_restores {u : State} {c : SavedCluster} (hsaved : (settleAll s).sched.saved[k]? = some c)
    (hlower : ∀ l, l < 8 → ((settleAll s).grid c.grid).level < l → levelServable (settleAll s) l = false)
    (hback : restoreCluster (settleAll s) c = some u) : exec (.clusterRestore k) s = .next u := by
  have hnone : (List.range 8).any (fun l => decide (l > ((settleAll s).grid c.grid).level) && levelServable (settleAll s) l) = false := by
    simpa only [List.any_eq_false, List.mem_range, Bool.and_eq_true, decide_eq_true_eq, not_and, Bool.not_eq_true] using hlower
  show execClusterRestore k s = _
  simp only [execClusterRestore, hsaved, hnone, Bool.false_eq_true, if_false, hback, Option.getD_some]

theorem preemptionRequest_asks {h : Queued} {cks : List Nat} (hhead : placeable s q = some h) (hdeadline : h.packet.deadline ≠ 0)
    (hfull : placeHead s q = none)
    (hroom : roomBy s q ((victims s (fun l => decide (l < (s.queue q).level))).map (·.1)) [] = some cks) :
    exec (.preemptionRequest q) s = .next (cks.foldl (fun s' ck => requestCluster s' ck
      (h.packet.deadline - (s.sched.cycle.toNat - h.ready.getD 0)) false) s) := by
  show execPreemptionRequest q s = _
  simp only [execPreemptionRequest, hhead, hdeadline, hfull, hroom, Option.isSome_none, Bool.false_eq_true, or_self, if_false]

theorem sliceExpiry_asks {h : Queued} {e : Nat × Cluster} {es : List (Nat × Cluster)} (hhead : placeable s q = some h)
    (hfull : placeHead s q = none)
    (hdue : ((victims s (fun l => l == (s.queue q).level)).filter (fun e => e.2.st == .resident &&
      decide (s.sched.cycle.toNat - e.2.placed ≥ (s.queue (s.grid (e.1 / 65536)).queue).slice))).mergeSort
        (fun a b => decide (a.2.placed ≤ b.2.placed)) = e :: es) :
    exec (.sliceExpiry q) s = .next (requestCluster s e.1 0 false) := by
  show execSliceExpiry q s = _
  simp only [execSliceExpiry, hhead, hfull, Option.isSome_none, Bool.false_eq_true, if_false]
  rw [hdue]

theorem drainTimeout_decides {gk ck T made : Nat} (hst : (s.clus (clusterKey gk ck)).st = .draining)
    (hreq : (s.clus (clusterKey gk ck)).request = some (T, made)) (hlong : made + T ≤ s.sched.cycle.toNat) :
    exec (.drainTimeout gk ck) s = .next (applyDecision
      (s.setClus (clusterKey gk ck) { s.clus (clusterKey gk ck) with st := .resident }) (clusterKey gk ck)
      (decideCluster s (clusterKey gk ck) T true)) := by
  show execDrainTimeout gk ck s = _
  simp only [execDrainTimeout, hst, hreq, Nat.not_lt.mpr hlong, if_false]

theorem asyncEvent_taken (hused : (s.grp k).used = true) (hbound : atEventBoundary (s.grp k) = true) :
    exec (.asyncEventTaken k) s = .next (takeAsync s k) := by
  show execAsyncEventTaken k s = _
  simp only [execAsyncEventTaken, hused, hbound, Bool.and_self, if_true]

theorem takeAsync_halts (halive : (s.ctx (s.grp k).ctxid).dying = false) (hpend : (s.grp k).haltPend = true)
    (hruns : (s.grp k).halted = false) : takeAsync s k = (settleForEvent s k).haltGrp k 1 0 := by
  simp only [takeAsync, halive, hpend, hruns, Bool.false_eq_true, if_false, Bool.not_false, Bool.and_self, if_true]

/-- Settles O43. -/
theorem schedulingEvents : Obligations.SchedulingEvents := by
  unfold Obligations.SchedulingEvents
  exact ⟨fun q s h rest ls => dependenceFlagRead_latches, fun k s u c => clusterRestore_restores,
    fun q s h cks => preemptionRequest_asks, fun q s h e es => sliceExpiry_asks, fun gk ck T made s => drainTimeout_decides,
    fun k s hused hbound => ⟨asyncEvent_taken hused hbound, takeAsync_halts⟩⟩

end Sys2Proof.SchedulerProofs


/-! The events of the re-sharding engine and of the decoders (O47). -/
namespace Sys2Proof.EngineEvents
open Sys2Proof.Machine
open Sys2Proof

variable {s : State}

/-! ## The re-sharding engine (R329 to R335) -/

theorem planning_asked (hactive : s.rs.active = true) (hst : s.rs.st = 1) (hall : rsAllAccepted s = true) :
    (s.rs.active && s.rs.st == 0) = false ∧ (!s.rs.active || s.rs.st != 1 || !rsAllAccepted s) = false := by
  rw [hactive, hst, hall]
  exact ⟨rfl, rfl⟩

theorem planning_stops (hactive : s.rs.active = true) (hst : s.rs.st = 1) (hall : rsAllAccepted s = true) {e : Nat}
    (hplan : rsPlan s = .error (.error e)) : exec .reshardPlanning s = .next (rsStop s e) := by
  obtain ⟨hbegin, hgo⟩ := planning_asked hactive hst hall
  show execReshardPlanning s = _
  simp only [execReshardPlanning, hbegin, hgo, Bool.false_eq_true, if_false, hplan]

theorem planning_freezes (hactive : s.rs.active = true) (hst : s.rs.st = 1) (hall : rsAllAccepted s = true) {kind c p : Nat}
    (hplan : rsPlan s = .error (.violation kind c p)) : exec .reshardPlanning s = .next (rsFreeze s kind c p) := by
  obtain ⟨hbegin, hgo⟩ := planning_asked hactive hst hall
  show execReshardPlanning s = _
  simp only [execReshardPlanning, hbegin, hgo, Bool.false_eq_true, if_false, hplan]

/-- The engine with its plan fixed (R330). -/
def planned (s : State) (old new : Forme) (cs : List Curd) : State :=
  rsState (rsPut (rsForget { s with rs := { s.rs with formes := some (old, new), curds := cs } }) 4 4 cs.length) 2 0

/-- The engine with the tensors held back whose counters are not 0, and what was cleared before marked so (R333). -/
def heldBack (t : State) (ns : List Nat) : State :=
  let u := { t with rs := { t.rs with held := (List.range ns.length).filter (fun n => ns.getD n 0 != 0) } }
  u.rs.clears.foldl (fun s c => rsMark s c false) u

theorem planning_fixes (hactive : s.rs.active = true) (hst : s.rs.st = 1) (hall : rsAllAccepted s = true) {old new : Forme}
    {cs : List Curd} (hplan : rsPlan s = .ok (old, new, cs)) (hrank : s.rs.rank = 0) {ns : List Nat}
    (hns : (List.range old.tensors.length).mapM (rsCounter (planned s old new cs)) = .ok ns) :
    exec .reshardPlanning s = .next (rsSettled (rsCheckMoved (rsServeAll (rsAsk
      { heldBack (planned s old new cs) ns with rs := { (heldBack (planned s old new cs) ns).rs with clears := [] } }
      (List.range cs.length))))) := by
  obtain ⟨hbegin, hgo⟩ := planning_asked hactive hst hall
  show execReshardPlanning s = _
  simp only [execReshardPlanning, hbegin, hgo, Bool.false_eq_true, if_false, hplan, if_pos hrank]
  rw [show (List.range old.tensors.length).mapM (rsCounter (rsState (rsPut (rsForget
    { s with rs := { s.rs with formes := some (old, new), curds := cs, commit := s.rs.commit } }) 4 4 cs.length) 2 0)) = .ok ns from hns]
  rfl

/-- None of a curd's bytes is stored, so all are stored in one step. -/
theorem rsStore_whole {c : Nat} {x : Curd} {d : List Byte} {h : List HeldPage} (hhold : seqHold s whoReshard s.rs.ctxid [.write] x.dst x.len = .ok h)
    (hnew : ∀ i, (c, i) ∉ s.rs.landed) :
    rsStore s c x d = rsSettled (rsCheckMoved (rsMark
      (rsUnsee (heldWrite s h x.dst (d.take x.len)) (heldWrite s h x.dst (d.take x.len)).fabric.self c) c true)) := by
  have hall : ((List.range x.len).filter (fun i => !s.rs.landed.contains (c, i))).length = x.len := by
    rw [List.filter_eq_self.mpr (by simpa using fun i _ => hnew i), List.length_range]
  simp only [rsStore, hhold, hall, if_true]

theorem curdReceived_stores {c : Nat} {x : Curd} {d : List Byte} (hcurd : s.rs.curds[c]? = some x) (hactive : s.rs.active = true)
    (hst : s.rs.st = 2) (hopen : rsIsDone s c = false) (hother : x.source ≠ s.fabric.self) (hlen : x.len ≤ d.length) :
    exec (.curdReceived c d) s = .next (rsStore s c x d) := by
  have hgo : (!s.rs.active || s.rs.st != 2 || rsIsDone s c) = false := by rw [hactive, hst, hopen]; rfl
  show execCurdReceived c d s = _
  simp only [execCurdReceived, curdArrives, hcurd, hgo, hother, Nat.not_lt.mpr hlen, Bool.false_eq_true, if_false]

theorem pendingCounter_lets_move {n : Nat} (hlive : rsLive s = true) (hst : s.rs.st = 2 ∨ s.rs.st = 3) (hzero : rsCounter s n = .ok 0) :
    let t := { s with rs := { s.rs with held := s.rs.held.filter (fun t => t != n) } }
    exec (.pendingCounterChange n) s = .next (rsSettled (rsCheckMoved (rsServeAll (rsAsk t (rsSourced t n t.fabric.self))))) := by
  have hgo : (!rsLive s || !(s.rs.st == 2 || s.rs.st == 3)) = false := by
    rw [hlive]
    rcases hst with h | h <;> rw [h] <;> rfl
  show execPendingCounterChange n s = _
  simp only [execPendingCounterChange, hgo, hzero, Bool.false_eq_true, if_false, ne_eq, not_true_eq_false, false_and, if_true]

theorem commit_commits (hactive : s.rs.active = true) (hrank : s.rs.rank = 0) (hst : s.rs.st = 3) (hcommit : s.rs.commit = true)
    (hfirst : s.rs.committing = false) (hall : ∀ r, r < s.rs.parts.length → r ∈ s.rs.reports) :
    let gen := s.rs.req.getD 6 0 + 1
    exec .commit s = .next (rsSettled (rsCommitted (rsTell s (.commit gen)) gen)) := by
  have hreports : (List.range s.rs.parts.length).all (fun r => s.rs.reports.contains r) = true := by simpa using hall
  show execCommit s = _
  unfold execCommit
  rw [hactive, hrank, hst, hcommit, hfirst, hreports]
  rfl

theorem participantStop_stops {r : Nat} (hr : r < s.rs.parts.length) (hother : r ≠ s.rs.rank) :
    exec (.participantStop r) s = .next (rsStop s 7) := congrArg Host.Outcome.next (if_pos ⟨hr, hother⟩)

/-! ## The decoders (R339, R343) -/

theorem decodeRequest_assigned {dec : Nat} {r : DecReq} (hdec : dec < 16) (hidle : ∀ x ∈ s.decs.reqs, x.dec ≠ some dec)
    (hruns : Bank.get none s.decs.frozen dec = none) (hnext : s.decs.reqs.find? (fun r => r.dec.isNone) = some r)
    (hops : opsPerformed s r.after = true) :
    let t := r.after.foldl (fun s a => s.flushCore a.2.2) s
    exec (.decodeRequestAssignment dec) s = .next (setReq t { r with
      dec := some dec, strm := if decFlags r.block / 8 % 2 = 1 then (t.decs.streams.reverse.find? (holdsStream t r)).getD {} else {} }) := by
  have hany : s.decs.reqs.any (fun r => r.dec == some dec) = false := by simpa using hidle
  show execDecodeRequestAssignment dec s = _
  simp only [execDecodeRequestAssignment, Nat.not_le.mpr hdec, hany, hruns, Option.isSome_none, Bool.false_eq_true, or_self, if_false, hnext,
    hops, Bool.not_true, streamAt]

/-- A decoder that writes no frame begins the next and finishes it. -/
theorem frameOutput_begins {dec : Nat} {fr : FrameInfo} (hnone : ∀ y ∈ s.decs.reqs, y.dec = some dec → y.frame = none) :
    exec (.frameOutput dec fr) s = .next (endFrame (beginFrame s dec fr) dec) := by
  have hany : s.decs.reqs.any (fun r => r.dec == some dec && r.frame.isSome) = false := by
    simpa using hnone
  show execFrameOutput dec fr s = _
  simp only [execFrameOutput, hany, Bool.false_eq_true, if_false]

theorem beginFrame_decodes {dec : Nat} {fr : FrameInfo} {r : DecReq} {err : Nat}
    (hreq : s.decs.reqs.find? (fun r => r.dec == some dec) = some r) (hframe : r.frame = none)
    (hteam : teamRuns s r.grid r.cluster r.team = true)
    (hvat : (s.vat (r.grp s) (decVat0 r.block + r.next % decNvat r.block)).st = .free) (hplaced : framePlaced r fr = true)
    (herr : frameErr s r fr (if r.dead = 0 then frameFault s r fr else none) = some err) :
    let vat := decVat0 r.block + r.next % decNvat r.block
    let ended : Prop := r.dead ≠ 0 ∨ err = 5 ∨ err = 6
    let x := decodeFrame r (if ended then r.strm.header else (frameHeader s r fr).or r.strm.header) fr err
    let t := (if r.dead ≠ 0 ∨ err = 6 then s else leaveStream s r fr x.2.2.2).setVat (r.grp s) vat { st := .filling, n := 1 }
    beginFrame s dec fr = setReq t { r with
      dead := if err = 5 ∨ err = 6 then err else r.dead
      pos := if ended then r.pos else if err = 0 then fr.bits.1 + fr.bits.2 else nextUnit s r (blockField r.block 0x10 4) r.pos
      strm := x.2.2.2, frame := some ⟨vat, windowBytes r.block x.1, [], x.2.1, x.2.2.1⟩ } := by
  intro vat ended x t
  have hended : (decide (r.dead ≠ 0) || err == 5 || err == 6) = true ↔ ended := by
    simp only [Bool.or_eq_true, decide_eq_true_eq, beq_iff_eq, or_assoc, ended]
  simp only [beginFrame, hreq, hframe, hteam, hvat, hplaced, herr, hended, Option.isSome_none, Bool.not_true, Bool.or_false,
    bne_self_eq_false, Bool.false_eq_true, if_false]
  rfl

/-- Settles O47. -/
theorem reshardAndDecodeEvents : Obligations.ReshardAndDecodeEvents := by
  unfold Obligations.ReshardAndDecodeEvents
  refine ⟨?_, ?_, fun n s => pendingCounter_lets_move, fun s => commit_commits, fun r s => participantStop_stops,
    fun dec s r => decodeRequest_assigned, ?_⟩
  · exact fun s hactive hst hall => ⟨fun e => planning_stops hactive hst hall, fun kind c p => planning_freezes hactive hst hall,
      fun old new cs hplan hrank ns hns => planning_fixes hactive hst hall hplan hrank hns⟩
  · intro c x d s hcurd hactive hst hopen hother hlen hnew h hhold t
    rw [curdReceived_stores hcurd hactive hst hopen hother hlen, rsStore_whole hhold hnew]
  · intro dec fr s r err hreq hnone vat hteam hvat hplaced herr ended x t
    have hr : r.dec = some dec := by simpa using List.find?_some hreq
    have hframe := hnone r (List.mem_of_find?_eq_some hreq) hr
    rw [frameOutput_begins hnone, beginFrame_decodes hreq hframe hteam hvat hplaced herr]

end Sys2Proof.EngineEvents


/-! Chunks that arrive at a link sequencer (O45). -/
namespace Sys2Proof.ChunkProofs
open Sys2Proof.Machine Sys2Proof.SequencerProofs
open Sys2Proof

/-! ## Waking -/

/-- A context that waits for room may have been made Ready. -/
def RoomWoken (x y : SeqSlot) : Prop :=
  y = x ∨ ∃ m, x.st = .waiting ∧ x.wait = some (.room m) ∧ y = { x with st := .ready, wait := none }

theorem RoomWoken.trans {x y z : SeqSlot} (h : RoomWoken x y) (g : RoomWoken y z) : RoomWoken x z := by
  obtain rfl | ⟨m, hst, hwait, rfl⟩ := h
  · exact g
  · obtain rfl | ⟨_, hready, _⟩ := g
    · exact .inr ⟨m, hst, hwait, rfl⟩
    · exact nomatch hready

/-- What else of a slot such a waking leaves. -/
theorem RoomWoken.kept {x y : SeqSlot} (h : RoomWoken x y) :
    (∃ st w, y = { x with st := st, wait := w }) ∧ (y.st = .free ↔ x.st = .free) ∧
      ∀ m, x.wait = some (.chunk m) → y = x := by
  obtain rfl | ⟨r, hst, hwait, rfl⟩ := h
  · exact ⟨⟨_, _, rfl⟩, Iff.rfl, fun _ _ => rfl⟩
  · refine ⟨⟨_, _, rfl⟩, ?_, fun m hm => ?_⟩
    · rw [hst]
      exact ⟨nofun, nofun⟩
    · rw [hwait] at hm
      exact nomatch hm

/-- Some contexts that waited for room have been made Ready, and nothing else has happened. -/
structure Woke (s t : State) : Prop where
  rest : t = { s with seqs := { s.seqs with slots := t.seqs.slots } }
  slot : ∀ k, RoomWoken (s.slot k) (t.slot k)

theorem Woke.refl (s : State) : Woke s s := ⟨rfl, fun _ => .inl rfl⟩

theorem Woke.trans {s t u : State} (h : Woke s t) (g : Woke t u) : Woke s u :=
  ⟨by rw [g.rest, h.rest], fun k => (h.slot k).trans (g.slot k)⟩

theorem wakeSlot_met {s : State} {k : Nat} {f : SeqWait → Bool} {w : SeqWait} (hst : (s.slot k).st = .waiting)
    (hwait : (s.slot k).wait = some w) (hmet : f w = true) :
    wakeSlot s k f = s.setSlot k { s.slot k with st := .ready, wait := none } := by
  simp only [wakeSlot, hst, hwait, hmet, if_true]

theorem wakeSlot_cases (s : State) (k : Nat) (f : SeqWait → Bool) : wakeSlot s k f = s ∨
    ∃ w, (s.slot k).st = .waiting ∧ (s.slot k).wait = some w ∧ f w = true ∧
      wakeSlot s k f = s.setSlot k { s.slot k with st := .ready, wait := none } := by
  by_cases h : ∃ w, (s.slot k).st = .waiting ∧ (s.slot k).wait = some w ∧ f w = true
  · obtain ⟨w, hst, hwait, hmet⟩ := h
    exact .inr ⟨w, hst, hwait, hmet, wakeSlot_met hst hwait hmet⟩
  · refine .inl ?_
    unfold wakeSlot
    dsimp only
    split
    · next w hst hwait => exact if_neg fun hmet => h ⟨w, hst, hwait, hmet⟩
    · rfl

theorem wakeSlot_woke (s : State) (k : Nat) {f : SeqWait → Bool} (hf : ∀ w, f w = true → ∃ m, w = .room m) : Woke s (wakeSlot s k f) := by
  obtain heq | ⟨w, hst, hwait, hmet, heq⟩ := wakeSlot_cases s k f
  · rw [heq]
    exact .refl s
  · obtain ⟨m, rfl⟩ := hf w hmet
    rw [heq]
    refine ⟨rfl, fun a => ?_⟩
    by_cases ha : a = k
    · subst ha
      rw [slot_setSlot]
      exact .inr ⟨m, hst, hwait, rfl⟩
    · rw [State.slot_setSlot_other _ _ ha]
      exact .inl rfl

theorem foldl_wakeSlot_woke (ks : List Nat) (key : Nat → Nat) {f : SeqWait → Bool} (hf : ∀ w, f w = true → ∃ m, w = .room m) (s : State) :
    Woke s (ks.foldl (fun s k => wakeSlot s (key k) f) s) := by
  induction ks generalizing s with
  | nil => exact .refl s
  | cons k rest ih => exact (wakeSlot_woke s (key k) hf).trans (ih _)

theorem freeTransmit_woke (s : State) (j n : Nat) :
    Woke (s.setSeqLink j { s.seqLink j with tx := (s.seqLink j).tx - n }) (freeTransmit s j n) := by
  refine foldl_wakeSlot_woke _ (slotKey j) (fun w hw => ?_) _
  cases w with
  | room m => exact ⟨m, rfl⟩
  | _ => exact nomatch hw

/-! ## A chunk enters the staging -/

/-- The sender of a chunk of n bytes gets its credit (R302). -/
def credit (s : State) (j k src n : Nat) : State :=
  if src = s.fabric.self then freeTransmit s j n else s.sendMsg src 9 (s.slot k).imp.ctxid 0 0 (.credit j n)

/-- A chunk whose sender has its credit is discarded, delivered or held. -/
def lodge (s : State) (j k : Nat) (c : Chunk) : State :=
  let x := s.slot k
  if k % 4 = 3 then
    if s.rs.active && s.rs.addr == c.impid then wakeCurds (s.setSlot k { x with staged := x.staged ++ [c] }) j else s
  else if x.last = some c.impid then s.bboxAdd 4 (seqMaster k) x.imp.ctxid 0 0
  else if x.st ≠ .free ∧ x.imp.impid = c.impid then
    match (List.range 16).find? (fun n => x.bound n == some (c.rank + 128 * c.slot)) with
    | some n => wakeSlot (s.setSlot k { x with chans := Bank.set [] x.chans n (x.chan n ++ [c]) }) k (fun w => w == .chunk n)
    | none => s.setSlot k { x with staged := x.staged ++ [c] }
  else s.setSlot k { x with staged := x.staged ++ [c] }

theorem acceptChunk_eq (s : State) (j k src : Nat) (c : Chunk) : acceptChunk s j k src c = lodge (credit s j k src c.payload.length) j k c := rfl

/-- What a credit does: a message to another module, or room in the own transmit staging. -/
structure Credited (s t : State) (j k src n : Nat) : Prop where
  rest : t = { s with fabric := t.fabric, seqs := t.seqs }
  slot : RoomWoken (s.slot k) (t.slot k)
  sent : src ≠ s.fabric.self → ∃ m, t.fabric.outbox = s.fabric.outbox ++ [m] ∧ m.dst = src ∧ m.kind = 9 ∧ m.body = .credit j n
  freed : src = s.fabric.self → (t.seqLink j).tx = (s.seqLink j).tx - n

theorem credit_credited (s : State) (j k src n : Nat) : Credited s (credit s j k src n) j k src n := by
  unfold credit
  by_cases hself : src = s.fabric.self
  · rw [if_pos hself]
    have hwoke := freeTransmit_woke s j n
    refine ⟨by rw [hwoke.rest]; rfl, hwoke.slot k, fun h => absurd hself h, fun _ => ?_⟩
    rw [hwoke.rest]
    exact congrArg SeqLink.tx (Bank.get_set_same ..)
  · rw [if_neg hself]
    refine ⟨rfl, .inl rfl, fun _ => ⟨⟨s.fabric.self, src, _, _, _, _, _, _⟩, if_neg hself, rfl, rfl, rfl⟩, fun h => absurd h hself⟩

/-- Where a chunk is lodged, no memory, group, message or transmit staging changes. -/
structure Lodged (s t : State) : Prop where
  mem : t.mem = s.mem
  grps : t.grps = s.grps
  fabric : t.fabric = s.fabric
  links : t.seqs.links = s.seqs.links

theorem wakeSlot_lodged (s : State) (k : Nat) (f : SeqWait → Bool) : Lodged s (wakeSlot s k f) := by
  obtain heq | ⟨_, _, _, _, heq⟩ := wakeSlot_cases s k f <;> rw [heq] <;> exact ⟨rfl, rfl, rfl, rfl⟩

theorem wakeSlot_kept (s : State) (k : Nat) (f : SeqWait → Bool) : ∃ st w, (wakeSlot s k f).slot k = { s.slot k with st := st, wait := w } := by
  obtain heq | ⟨_, _, _, _, heq⟩ := wakeSlot_cases s k f <;> rw [heq]
  · exact ⟨_, _, rfl⟩
  · exact ⟨_, _, slot_setSlot ..⟩

theorem lodge_lodged (s : State) (j k : Nat) (c : Chunk) : Lodged s (lodge s j k c) := by
  unfold lodge
  dsimp only
  split
  · split <;> exact ⟨rfl, rfl, rfl, rfl⟩
  · split
    · exact ⟨rfl, rfl, rfl, rfl⟩
    · split
      · split
        · next n _ =>
          obtain ⟨hmem, hgrps, hfabric, hlinks⟩ := wakeSlot_lodged
            (s.setSlot k { s.slot k with chans := Bank.set [] (s.slot k).chans n ((s.slot k).chan n ++ [c]) }) k (fun w => w == .chunk n)
          exact ⟨hmem, hgrps, hfabric, hlinks⟩
        · exact ⟨rfl, rfl, rfl, rfl⟩
      · exact ⟨rfl, rfl, rfl, rfl⟩

variable {s : State} {j k : Nat} {c : Chunk}

/-- Slot 3: the re-sharding engine's (R318, R332). -/
theorem lodge_curd (hk : k = slotKey j 3) : ∃ st imp, (lodge s j k c).slot k = { s.slot k with
    st := st, imp := imp, staged := if s.rs.active && s.rs.addr == c.impid then (s.slot k).staged ++ [c] else (s.slot k).staged } := by
  have h3 : k % 4 = 3 := by rw [hk, slotKey]; omega
  unfold lodge
  dsimp only
  rw [if_pos h3]
  split
  · rw [wakeCurds, ← hk, slot_modSlot, slot_setSlot]
    dsimp only
    split <;> exact ⟨_, _, rfl⟩
  · exact ⟨_, _, rfl⟩

section
variable (h3 : k % 4 ≠ 3)
include h3

/-- The imposition has ended in the slot: the chunk is discarded and entered in the black box. -/
theorem lodge_late (hlast : (s.slot k).last = some c.impid) :
    (lodge s j k c).slot k = s.slot k ∧ (lodge s j k c).bbox.seq = s.bbox.seq + 1 ∧
      ∃ e, Bank.get none (lodge s j k c).bbox.entries (s.bbox.seq % 4096) = some e ∧ e.kind = 4 := by
  have heq : lodge s j k c = s.bboxAdd 4 (seqMaster k) (s.slot k).imp.ctxid 0 0 := by
    unfold lodge
    dsimp only
    rw [if_neg h3, if_pos hlast]
  rw [heq]
  refine ⟨rfl, rfl, ?_⟩
  unfold State.bboxAdd State.bboxNote
  dsimp only
  rw [Bank.get_set_same]
  exact ⟨_, rfl, rfl⟩

/-- The chunk goes last to the channel that is bound to its sender. -/
theorem lodge_delivered {m : Nat} (hlast : (s.slot k).last ≠ some c.impid) (hst : (s.slot k).st ≠ .free)
    (himp : (s.slot k).imp.impid = c.impid)
    (hbound : (List.range 16).find? (fun n => (s.slot k).bound n == some (c.rank + 128 * c.slot)) = some m) :
    lodge s j k c = wakeSlot (s.setSlot k { s.slot k with chans := Bank.set [] (s.slot k).chans m ((s.slot k).chan m ++ [c]) }) k
      (fun w => w == .chunk m) := by
  unfold lodge
  dsimp only
  rw [if_neg h3, if_neg hlast, if_pos ⟨hst, himp⟩]
  simp only [hbound]

/-- A chunk of no channel is held. -/
theorem lodge_held (hlast : (s.slot k).last ≠ some c.impid) (hnone : (s.slot k).st = .free ∨ (s.slot k).imp.impid ≠ c.impid ∨
      (List.range 16).find? (fun n => (s.slot k).bound n == some (c.rank + 128 * c.slot)) = none) :
    lodge s j k c = s.setSlot k { s.slot k with staged := (s.slot k).staged ++ [c] } := by
  unfold lodge
  dsimp only
  rw [if_neg h3, if_neg hlast]
  by_cases hruns : (s.slot k).st ≠ .free ∧ (s.slot k).imp.impid = c.impid
  · have hfind : (List.range 16).find? (fun n => (s.slot k).bound n == some (c.rank + 128 * c.slot)) = none := by
      obtain h | h | h := hnone
      · exact absurd h hruns.1
      · exact absurd hruns.2 h
      · exact h
    rw [if_pos hruns]
    simp only [hfind]
  · rw [if_neg hruns]
end

/-- What lodging a chunk leaves of its slot, whatever becomes of the chunk. -/
theorem lodge_kept (hk : k = slotKey j 3 ∨ k % 4 ≠ 3) : ((lodge s j k c).slot k).backlog = (s.slot k).backlog ∧
    ((lodge s j k c).slot k).bind = (s.slot k).bind ∧ ((lodge s j k c).slot k).pc = (s.slot k).pc ∧ ((lodge s j k c).slot k).c = (s.slot k).c := by
  obtain hk | h3 := hk
  · obtain ⟨st, imp, heq⟩ := lodge_curd (s := s) (c := c) hk
    rw [heq]
    exact ⟨rfl, rfl, rfl, rfl⟩
  · unfold lodge
    dsimp only
    rw [if_neg h3]
    split
    · exact ⟨rfl, rfl, rfl, rfl⟩
    · split
      · split
        · next n _ =>
          obtain ⟨st, w, heq⟩ := wakeSlot_kept (s.setSlot k { s.slot k with chans := Bank.set [] (s.slot k).chans n ((s.slot k).chan n ++ [c]) }) k
            (fun w => w == .chunk n)
          rw [heq, slot_setSlot]
          exact ⟨rfl, rfl, rfl, rfl⟩
        · rw [slot_setSlot]
          exact ⟨rfl, rfl, rfl, rfl⟩
      · rw [slot_setSlot]
        exact ⟨rfl, rfl, rfl, rfl⟩

/-! ## CHUNK_ARRIVAL -/

section
variable {n src : Nat} (hj : j < 32) (hn : n < 4)
include hj hn

/-- A chunk that arrives stands last behind those that wait, and the chunks that have room enter the staging. -/
theorem chunkArrival_settles : exec (.chunkArrival j n src c) s = .next (settleBacklog ((s.slot (slotKey j n)).backlog.length + 1) j (slotKey j n)
    (s.setSlot (slotKey j n) { s.slot (slotKey j n) with backlog := (s.slot (slotKey j n)).backlog ++ [(src, c)] })) := by
  show execChunkArrival j n src c s = _
  unfold execChunkArrival
  rw [if_pos ⟨hj, hn⟩]
  unfold arriveChunk settleSlot
  simp only [State.modSlot, slot_setSlot, List.length_append, List.length_singleton]

theorem chunkArrival_waits (hfull : ((s.slot (slotKey j n)).backlog = [] ∧ stagingBytes < (s.slot (slotKey j n)).used + c.payload.length) ∨
      (∃ b rest, (s.slot (slotKey j n)).backlog = b :: rest ∧ stagingBytes < (s.slot (slotKey j n)).used + b.2.payload.length)) :
    exec (.chunkArrival j n src c) s = .next (s.setSlot (slotKey j n)
      { s.slot (slotKey j n) with backlog := (s.slot (slotKey j n)).backlog ++ [(src, c)] }) := by
  rw [chunkArrival_settles hj hn, settleBacklog]
  simp only [slot_setSlot]
  have hused : ∀ l, ({ s.slot (slotKey j n) with backlog := l } : SeqSlot).used = (s.slot (slotKey j n)).used := fun _ => rfl
  obtain ⟨hnil, hroom⟩ | ⟨b, rest, hcons, hroom⟩ := hfull
  · simp only [hnil, List.nil_append, hused, Nat.not_le.mpr hroom, if_false]
  · simp only [hcons, List.cons_append, hused, Nat.not_le.mpr hroom, if_false]

theorem chunkArrival_accepts (hnil : (s.slot (slotKey j n)).backlog = [])
    (hroom : (s.slot (slotKey j n)).used + c.payload.length ≤ stagingBytes) :
    exec (.chunkArrival j n src c) s =
      .next (lodge (credit (s.setSlot (slotKey j n) (s.slot (slotKey j n))) j (slotKey j n) src c.payload.length) j (slotKey j n) c) := by
  have hempty : ({ s.slot (slotKey j n) with backlog := [] } : SeqSlot) = s.slot (slotKey j n) := by rw [← hnil]
  have hused : ∀ l, ({ s.slot (slotKey j n) with backlog := l } : SeqSlot).used = (s.slot (slotKey j n)).used := fun _ => rfl
  rw [chunkArrival_settles hj hn, hnil, settleBacklog]
  simp only [slot_setSlot, List.nil_append, hused, hroom, if_true, setSlot_setSlot, List.length_nil, hempty, acceptChunk_eq, settleBacklog]
end

/-- Settles O45. -/
theorem chunkArrivals : Obligations.ChunkArrivals := by
  intro j n src c s hj hn k x bound
  refine ⟨chunkArrival_waits hj hn, fun hnil hroom => ?_⟩
  let s0 := s.setSlot k x
  have hx0 : s0.slot k = x := slot_setSlot ..
  have hcred := credit_credited s0 j k src c.payload.length
  have hexec : exec (.chunkArrival j n src c) s = .next (lodge (credit s0 j k src c.payload.length) j k c) :=
    chunkArrival_accepts hj hn hnil hroom
  generalize credit s0 j k src c.payload.length = s1 at hcred hexec
  obtain ⟨hrest, hslot, hsent, hfreed⟩ := hcred
  obtain ⟨⟨st1, w1, hx1⟩, hfree, hchunk⟩ := hslot.kept
  rw [hx0] at hx1 hfree hchunk
  have hmod : k % 4 = n := by simp only [k, slotKey]; omega
  have hkey : k = slotKey j 3 ∨ k % 4 ≠ 3 := by
    by_cases h3 : n = 3
    · exact .inl (by rw [← h3])
    · exact .inr (hmod ▸ h3)
  have hlodged := lodge_lodged s1 j k c
  obtain ⟨hback, hbind, hpc, hc⟩ := lodge_kept (s := s1) (c := c) hkey
  have hrs : s1.rs = s.rs := by rw [hrest]; rfl
  have hbbox : s1.bbox = s.bbox := by rw [hrest]; rfl
  have hoff : n ≠ 3 → k % 4 ≠ 3 := fun h3 => hmod ▸ h3
  refine ⟨_, hexec, ?_, ?_, ?_, ?_, ?_, ?_, fun hother => ?_, fun hself => ?_, fun h3 => ?_, fun h3 hlast => ?_,
    fun h3 hlast hst himp m hm => ?_, fun h3 hlast hnone => ?_⟩
  · rw [hlodged.mem, hrest]; rfl
  · rw [hlodged.grps, hrest]; rfl
  · rw [hback, hx1]; exact hnil
  · rw [hbind, hx1]
  · rw [hpc, hx1]
  · rw [hc, hx1]
  · rw [hlodged.fabric]
    exact hsent hother
  · rw [State.seqLink, hlodged.links]
    exact hfreed hself
  · obtain ⟨st, imp, hslot⟩ := lodge_curd (s := s1) (c := c) (k := k) (by rw [← h3])
    rw [hslot, hx1, hrs]
    exact ⟨rfl, rfl⟩
  · obtain ⟨hslot, hseq, hentry⟩ := lodge_late (s := s1) (j := j) (c := c) (hoff h3) (by rw [hx1]; exact hlast)
    rw [hbbox] at hseq hentry
    rw [hslot, hx1]
    exact ⟨rfl, rfl, hseq, hentry⟩
  · have heq := lodge_delivered (s := s1) (j := j) (c := c) (m := m) (hoff h3) (by rw [hx1]; exact hlast)
      (fun h => hst (hfree.mp h)) (by rw [hx1]; exact himp) (by rw [hx1]; exact hm)
    have hput := slot_setSlot s1 k { s1.slot k with chans := Bank.set [] (s1.slot k).chans m ((s1.slot k).chan m ++ [c]) }
    obtain ⟨st, w, hkept⟩ := wakeSlot_kept (s1.setSlot k { s1.slot k with chans := Bank.set [] (s1.slot k).chans m ((s1.slot k).chan m ++ [c]) }) k
      (fun w => w == .chunk m)
    rw [hput, hx1] at hkept
    rw [heq, hx1]
    refine ⟨?_, fun m' hm' => ?_, ?_, fun hwaits hwait => ?_⟩
    · rw [hkept]
      exact Bank.get_set_same ..
    · rw [hkept]
      exact Bank.get_set_other _ _ _ hm'
    · rw [hkept]
    · have hsame : s1.slot k = x := hchunk m hwait
      rw [← hx1, hsame]
      rw [wakeSlot_met (w := .chunk m) (by rw [slot_setSlot]; exact hwaits) (by rw [slot_setSlot]; exact hwait) (by simp), slot_setSlot]
      exact ⟨rfl, rfl⟩
  · have heq := lodge_held (s := s1) (j := j) (c := c) (hoff h3) (by rw [hx1]; exact hlast) (by
      rw [hfree, hx1]
      exact hnone)
    rw [heq, slot_setSlot, hx1]
    exact ⟨rfl, rfl⟩

end Sys2Proof.ChunkProofs


/-! The links' events (O44). -/
namespace Sys2Proof.LinkProofs
open Sys2Proof.Machine
open Sys2Proof

/-! ## Flits (R350) -/

theorem bit64_eq (b : Bool) (i : Nat) : bit64 b i = b.toNat * 2 ^ i := by
  cases b <;> simp [bit64]

theorem low_lt (h : FlitHead) : h.low < 2 ^ 96 := by
  have hseq := Nat.mod_lt h.seq (show 2 ^ 24 > 0 by decide)
  have hhop := h.hop.toNat_lt
  have hnak := h.nak.toNat_lt
  have hack := Nat.mod_lt h.ack (show 2 ^ 24 > 0 by decide)
  unfold FlitHead.low
  rw [bit64_eq, bit64_eq]
  omega

/-- The first unit of a flit holds the 96 bits of its header and, above them, the CRC. -/
theorem headUnit_toNat (h : FlitHead) (crc : Word) : (BitVec.ofNat 128 (h.low + crc.toNat * 2 ^ 96)).toNat = h.low + crc.toNat * 2 ^ 96 := by
  have hlow := low_lt h
  have hcrc := crc.isLt
  rw [BitVec.toNat_ofNat, Nat.mod_eq_of_lt (by omega)]

theorem units_length (h : FlitHead) (p : List (BitVec 128)) : (h.units p).length = 16 := by
  simp [FlitHead.units]

theorem units_crcHolds (h : FlitHead) (p : List (BitVec 128)) : crcHolds (h.units p) = true := by
  have hlow := low_lt h
  unfold FlitHead.units crcHolds
  dsimp only
  rw [headUnit_toNat, beq_iff_eq, Nat.add_mul_mod_self_right, Nat.mod_eq_of_lt hlow, Nat.add_mul_div_right _ _ (by decide),
    Nat.div_eq_of_lt hlow, Nat.zero_add, BitVec.ofNat_toNat, BitVec.setWidth_eq]

/-- The fields of a header, laid one above the other. -/
theorem header_fields {u q t d s o n r a k c : Nat} (hq : q < 2 ^ 24) (ht : t < 256) (hd : d < 128) (hs : s < 128) (ho : o < 2) (hn : n < 256)
    (hr : r < 256) (ha : a < 2 ^ 24) (hk : k < 2)
    (hu : u = q + t * 2 ^ 24 + (d + s * 2 ^ 8 + o * 2 ^ 15 + n * 2 ^ 16 + r * 2 ^ 24) * 2 ^ 32 + (a + k * 2 ^ 24) * 2 ^ 64 + c * 2 ^ 96) :
    u / 2 ^ 24 % 2 ^ 8 = t ∧ u / 2 ^ 0 % 2 ^ 24 = q ∧ u / 2 ^ 56 % 2 ^ 8 = r ∧ u / 2 ^ 48 % 2 ^ 8 = n ∧ u / 2 ^ 47 % 2 = o ∧
    u / 2 ^ 40 % 2 ^ 7 = s ∧ u / 2 ^ 32 % 2 ^ 7 = d ∧ u / 2 ^ 88 % 2 = k ∧ u / 2 ^ 64 % 2 ^ 24 = a := by
  refine ⟨?_, ?_, ?_, ?_, ?_, ?_, ?_, ?_, ?_⟩ <;> omega

/-- The fields of a header come back from its unit, each cut to its width. -/
theorem headOf_unit (h : FlitHead) (crc : Word) : headOf (BitVec.ofNat 128 (h.low + crc.toNat * 2 ^ 96)) =
    ⟨h.typ % 256, h.seq % 2 ^ 24, h.rxmask % 256, h.nmask % 256, h.hop, h.src % 128, h.dest % 128, h.nak, h.ack % 2 ^ 24⟩ := by
  have hbit : ∀ (u : BitVec 128) (i : Nat), u.getLsbD i = decide (u.toNat / 2 ^ i % 2 = 1) := fun u i => Nat.testBit_eq_decide_div_mod_eq
  have hdec : ∀ b : Bool, decide (b.toNat = 1) = b := by decide
  have hunit := headUnit_toNat h crc
  generalize BitVec.ofNat 128 (h.low + crc.toNat * 2 ^ 96) = u at hunit
  unfold FlitHead.low at hunit
  simp only [bit64_eq] at hunit
  have hmod : ∀ m n : Nat, 0 < n → m % n < n := fun m n => Nat.mod_lt m
  obtain ⟨htyp, hseq, hrx, hnm, hhop, hsrc, hdest, hnak, hack⟩ := header_fields (hmod _ _ (by decide)) (hmod _ _ (by decide))
    (hmod _ _ (by decide)) (hmod _ _ (by decide)) h.hop.toNat_lt (hmod _ _ (by decide)) (hmod _ _ (by decide)) (hmod _ _ (by decide))
    h.nak.toNat_lt hunit
  unfold headOf
  rw [hbit, hbit, hhop, hnak, hdec, hdec]
  dsimp only
  rw [htyp, hseq, hrx, hnm, hsrc, hdest, hack]

/-- A flit that is sent has the fields of Table 16-1, its CRC holds, and it is striped by the map announced before. -/
theorem send_flit (x : Link) (typ seq src dest : Nat) (hop nak opening : Bool) (payload : List (BitVec 128)) :
    ∃ us, us.length = 16 ∧ crcHolds us = true ∧
      headOf (us.headD 0) = ⟨typ % 256, seq % 2 ^ 24, x.rx.active % 256, (if opening then 0 else x.peerMask) % 256, hop, src % 128, dest % 128, nak,
        x.rxSeq % 2 ^ 24⟩ ∧
      x.send typ seq src dest hop nak opening payload =
        { x with out := x.out ++ [if opening then List.replicate 8 us else striped x.map us], map := if opening then x.map else x.peerMask } :=
  ⟨FlitHead.units ⟨typ, seq, x.rx.active, if opening then 0 else x.peerMask, hop, src, dest, nak, x.rxSeq⟩ payload,
    units_length .., units_crcHolds .., headOf_unit .., rfl⟩

/-- Units are dealt to the active wavelengths in turn (R351). -/
theorem waveOf_deals {m u : Nat} (hsome : wavesOf m ≠ []) : m.testBit (waveOf m u) = true ∧ waveOf m (u + (wavesOf m).length) = waveOf m u := by
  have hlt : u % (wavesOf m).length < (wavesOf m).length := Nat.mod_lt _ (List.length_pos_iff.mpr hsome)
  constructor
  · have hmem : waveOf m u ∈ wavesOf m := by
      rw [waveOf, List.getD_eq_getElem _ _ hlt]
      exact List.getElem_mem hlt
    exact (List.mem_filter.mp hmem).2
  · rw [waveOf, Nat.add_mod_right, waveOf]

/-! ## Connections (R352, R354) -/

variable {s : State} {j n : Nat} (hj : j < 32)
include hj

theorem slotStart_opens (hn : n < 127) (hup : (s.link j).up = true) (hclosed : (s.link j).slot = none) :
    exec (.slotStart j n) s = .next (s.setLink j ((({ s.link j with
      slot := some n, peer := (s.fabric.self ^^^ matching n j) % 128, relaySpace := 0, announced := relayRoom s, rxMap := (s.link j).rx.active
      out := [] } : Link).send 2 0 s.fabric.self ((s.fabric.self ^^^ matching n j) % 128) false false true
        ((List.range 15).map (Config.openingUnit (relayRoom s)))))) := by
  show execSlotStart j n s = _
  unfold execSlotStart
  rw [if_neg (by omega)]
  dsimp only
  simp only [hclosed, Option.isSome_none, Bool.false_eq_true, if_false, hup, Bool.not_true]

theorem flitReception_open (hopen : (s.link j).slot.isSome = true) (hup : (s.link j).up = true) :
    ¬(j ≥ 32 ∨ (s.link j).slot.isNone = true ∨ (!(s.link j).up) = true) := by
  rw [hup, ← Option.not_isSome, hopen]
  simpa using hj

/-- A bad flit is counted and dropped. -/
theorem flitReception_drops {f : Flit} (hopen : (s.link j).slot.isSome = true) (hup : (s.link j).up = true)
    (hbad : flitBad s (gathered (!(s.link j).opened) (s.link j).rxMap f) = true) :
    exec (.flitReception j f) s = .next (s.setLink j (discardFlit (s.link j) s.fabric.self (s.link j).opened)) := by
  show execFlitReception j f s = _
  unfold execFlitReception
  dsimp only
  rw [if_neg (flitReception_open hj hopen hup), if_pos hbad]
omit hj

theorem discardFlit_counts (x : Link) (self : Nat) (nak : Bool) :
    (discardFlit x self nak).rx.discard = inc32 x.rx.discard 1 ∧ (discardFlit x self nak).rxSeq = x.rxSeq := by
  unfold discardFlit
  dsimp only
  split <;> exact ⟨rfl, rfl⟩
include hj

/-- A good flit's header is read; one of data in sequence leaves its messages, where there is room for them. -/
theorem flitReception_takes {f : Flit} {u : BitVec 128} {p : List (BitVec 128)} (hopen : (s.link j).slot.isSome = true)
    (hup : (s.link j).up = true) (hunits : gathered (!(s.link j).opened) (s.link j).rxMap f = some (u :: p))
    (hgood : flitBad s (some (u :: p)) = false) (hagree : unitsAgree (headOf u) p f.units = true) :
    let y := readHeader (s.link j) s.fabric.self (headOf u) f.relay
    ((headOf u).typ ≠ 1 → exec (.flitReception j f) s = .next (s.setLink j y)) ∧
    ((headOf u).typ = 1 → y.opened = true → (headOf u).seq = y.rxSeq →
      exec (.flitReception j f) s = .next (if Config.rxFull j s.tick then s.setLink j (discardFlit y s.fabric.self true) else
        acceptMessages (s.setLink j { y with
          rxSeq := y.rxSeq + 1, naking := false, part := (gatherUnits f.units y.part []).1 }) j (gatherUnits f.units y.part []).2)) := by
  intro y
  have hexec : exec (.flitReception j f) s = .next (if (headOf u).typ ≠ 1 then s.setLink j y
      else if !y.opened || (headOf u).seq != y.rxSeq || Config.rxFull j s.tick then
        s.setLink j (discardFlit y s.fabric.self (y.opened && decide (y.rxSeq ≤ (headOf u).seq)))
      else acceptMessages (s.setLink j { y with
        rxSeq := y.rxSeq + 1, naking := false, part := (gatherUnits f.units y.part []).1 }) j (gatherUnits f.units y.part []).2) := by
    show execFlitReception j f s = _
    unfold execFlitReception
    dsimp only
    rw [if_neg (flitReception_open hj hopen hup), hunits, if_neg (ne_true_of_eq_false hgood)]
    dsimp only
    rw [hagree]
    rfl
  rw [hexec]
  refine ⟨fun htyp => by rw [if_pos htyp], fun htyp hopened hseq => ?_⟩
  rw [if_neg (not_not_intro htyp), hopened, hseq, bne_self_eq_false, decide_eq_true (Nat.le_refl _)]
  cases Config.rxFull j s.tick <;> rfl

/-! ## Requests, error windows and retraining (R357, R358) -/

theorem fecWindow_counts {w bits bad : Nat} (hw : w < 8) :
    let x := s.link j
    let d := { x.rx with cbits := Bank.set 0 x.rx.cbits w (inc32 (Bank.get 0 x.rx.cbits w) bits), uncorr := inc32 x.rx.uncorr bad }
    (bits ≤ 21474 → exec (.fecWindowEnd j w (bits, bad)) s = .next (s.setLink j { x with rx := d })) ∧
    (21474 < bits → x.rx.failed.testBit w = false → x.rx.retraining.testBit w = false → w ∉ x.rx.queue →
      exec (.fecWindowEnd j w (bits, bad)) s = .next (s.setLink j { x with rx := startRetrain d w })) := by
  intro x d
  have hexec : exec (.fecWindowEnd j w (bits, bad)) s = .next (s.setLink j { x with
      rx := if bits > 21474 && !(x.rx.failed.testBit w || x.rx.retraining.testBit w || x.rx.queue.contains w) then startRetrain d w else d }) :=
    congrArg Host.Outcome.next (if_neg (by omega))
  rw [hexec]
  constructor
  · intro hfew
    rw [decide_eq_false (Nat.not_lt.mpr hfew)]
    rfl
  · intro hmany hfailed hretrain hqueue
    rw [decide_eq_true hmany, hfailed, hretrain, show x.rx.queue.contains w = false by simpa using hqueue]
    rfl

theorem retraining_ends {w : Nat} (hw : w < 8) (hbusy : (s.link j).rx.retraining.testBit w = true) :
    exec (.retrainingEnd j w true) s = .next (s.setLink j { s.link j with
      rx := nextRetrain { (s.link j).rx with
        active := (s.link j).rx.active ||| 2 ^ w, retraining := (s.link j).rx.retraining - 2 ^ w
        fails := Bank.set 0 (s.link j).rx.fails w 0 } }) := by
  show execRetrainingEnd j w true s = _
  unfold execRetrainingEnd
  dsimp only
  rw [if_neg (by rw [hbusy]; simp; omega)]
  rfl
omit hj

theorem remoteRequest_refused {c k : Nat} {o : PendOp} {rs : List ROut} {r : ROut} (hreq : findRequest (s.grp c) k = some (o, rs, r)) :
    exec (.remoteRequestTimeout c k) s = .next (onRefusal s k (r.lanes.map (fun y => (y.lane, 7, 4)))) := by
  show execRemoteRequestTimeout c k s = _
  simp only [execRemoteRequestTimeout, hreq]

/-- Settles O44. -/
theorem linkEvents : Obligations.LinkEvents := by
  unfold Obligations.LinkEvents
  refine ⟨send_flit, fun m u => waveOf_deals, fun j s hj => ?_⟩
  refine ⟨fun n => slotStart_opens hj, fun hopen => congrArg Host.Outcome.next (if_pos hopen), fun f hopen hup hbad => ?_,
    fun f u p => flitReception_takes hj, fun c k o rs r => remoteRequest_refused, fun w bits bad => fecWindow_counts hj,
    fun w => retraining_ends hj⟩
  exact ⟨flitReception_drops hj hopen hup hbad, discardFlit_counts ..⟩

end Sys2Proof.LinkProofs


/-! Words of the engines and of the feeders (O34, O35). -/
namespace Sys2Proof.EngineWords
open Sys2Proof.Machine Sys2Proof.Claims Sys2Proof.MemorySync Sys2Proof.Tables
open Sys2Proof

/-! ## Matrix words and chains (R119, R208) -/

section
variable {α : Type} {w : View} {s0 : State} {check : State → Except EngFault α} {start : α → State → State} {x : α}

theorem engineMeaning_outs (hact : w.act ≠ 0) (hcheck : check (drainStores s0 w.key w.act) = .ok x) (hready : engineReady s0 w = true)
    (hroom : w.g.count .tl < 63) : (engineMeaning w s0 check start).outs = (lanesOf w.act).map (fun l => (l, LaneOut.ok)) := by
  have hgo : (engineReady s0 w && w.g.room .tl) = true := by rw [hready, Grp.room, decide_eq_true hroom]; rfl
  unfold engineMeaning
  cases hlow : lowest w.act with
  | none => exact absurd (List.head?_eq_none_iff.mp hlow) (lanesOf_ne_nil hact)
  | some l0 => simp only [hcheck, hgo, if_true]

theorem engineMeaning_starts (hact : w.act ≠ 0) (hcheck : check (drainStores s0 w.key w.act) = .ok x) :
    (engineMeaning w s0 check start).eff w.act s0 = start x (dropFetched (drainStores s0 w.key w.act) w.key w.act) := by
  unfold engineMeaning
  cases hlow : lowest w.act with
  | none => exact absurd (List.head?_eq_none_iff.mp hlow) (lanesOf_ne_nil hact)
  | some l0 => simp only [hcheck, hact, if_false]
end

/-- A word of the engines whose checks pass starts its operation, if the lanes' stores are performed and TL has room. -/
theorem engine_starts {α : Type} {i : Instr} {s : State} {check : View → State → Except EngFault α} {begin : View → α → State → State}
    {start : State → State} (hexec : exec i s = issue i s (fun w t => engineMeaning w t (check w) (begin w))) (hready : ready i s = true)
    (hact : (viewOf i s).act ≠ 0)
    (hcheck : (check (viewOf i s) (drainStores (enter i s) s.key (viewOf i s).act)).map (begin (viewOf i s)) = .ok start)
    (hdrained : engineReady (enter i s) (viewOf i s) = true) (hroom : (viewOf i s).g.count .tl < 63) :
    completes i s (fun t => start (dropFetched (drainStores t s.key (viewOf i s).act) s.key (viewOf i s).act)) := by
  obtain ⟨x, hx, rfl⟩ := MemoryForm.except_map_ok hcheck
  exact completes_of (m := fun w t => engineMeaning w t (check w) (begin w)) hexec hready (engineMeaning_outs hact hx hdrained hroom)
    (engineMeaning_starts hact hx)

/-! ## Copies (R233 to R235, R237) -/

/-- A copy word whose checks pass starts its copy, if it waits for nothing. -/
theorem copy_starts {i : Instr} {s : State} {m : View → State → Meaning} {f : CopyForm} {bad : Bool}
    (hexec : exec i s = issue i s m)
    (hm : m (viewOf i s) (enter i s) = copyMeaning (viewOf i s) (enter i s) bad f.kind f.aligned f.busy f.extra) (hbad : bad = !f.inside)
    (hready : ready i s = true) (hact : (viewOf i s).act ≠ 0) (hinside : f.inside = true) (hbusy : f.busy = false)
    (hchecks : copyChecks (enter i s) (viewOf i s).g f.kind f.aligned = .ok) (hfree : copyReady (enter i s) (viewOf i s) = true)
    (hroom : (viewOf i s).g.count .cp < 63) :
    completes i s (fun t => startCopy f.kind s.key (f.extra (drainStores t s.key (viewOf i s).act))) := by
  have hgo : (!f.busy && copyReady (enter i s) (viewOf i s) && (viewOf i s).g.room .cp) = true := by
    rw [hbusy, hfree, Grp.room, decide_eq_true hroom]; rfl
  have hsound : bad = false := by rw [hbad, hinside]; rfl
  refine completes_of (m := m) hexec hready ?_ ?_
  · rw [hm]
    unfold copyMeaning feederMeaning
    simp only [hsound, Bool.false_eq_true, if_false, hchecks, hgo, if_true]
    rfl
  · rw [hm]
    exact if_neg hact

theorem decide_gt_eq (a b : Nat) : decide (a > b) = !decide (a ≤ b) := by
  rw [← decide_not, decide_eq_decide]
  exact Nat.not_le.symm

theorem team_waits (team : Option Nat) (k : Nat) : (match team with
    | some t => t != k
    | none => false) = team.any (fun t => t != k) := by cases team <;> rfl

/-- What O34 says of an engine's word whose checks are `f`. -/
def EngineStarts (i : Instr) (s : State) (f : View → State → Except EngFault (State → State)) : Prop :=
  ∀ start, ready i s = true → (viewOf i s).act ≠ 0 → f (viewOf i s) (drainStores (enter i s) s.key (viewOf i s).act) = .ok start →
    engineReady (enter i s) (viewOf i s) = true → (viewOf i s).g.count .tl < 63 →
    completes i s (fun t => start (dropFetched (drainStores t s.key (viewOf i s).act) s.key (viewOf i s).act))

theorem engines_start {i : Instr} {f : View → State → Except EngFault (State → State)} (hf : engines i = some f) (s : State) :
    EngineStarts i s f := by
  refine of_entry (P := EngineStarts i s) ?_ hf
  clear hf
  cases i
  case tmma u a b p => exact fun _ => engine_starts (check := fun w => matIssue w 0 a.toNat b.toNat) (begin := fun w => startMat w 0) rfl
  case tzero u a p => exact fun _ => engine_starts (check := fun w => matIssue w 1 a.toNat 0) (begin := fun w => startMat w 1) rfl
  case tacld u a p => exact fun _ => engine_starts (check := fun w => matIssue w 2 a.toNat 0) (begin := fun w => startMat w 2) rfl
  case tacst u a p => exact fun _ => engine_starts (check := fun w => matIssue w 3 a.toNat 0) (begin := fun w => startMat w 3) rfl
  case tquant u a b p => exact fun _ => engine_starts (check := fun w => matIssue w 4 a.toNat b.toNat) (begin := fun w => startMat w 4) rfl
  case vchain u a p =>
    exact fun _ => engine_starts (check := fun w => chainIssue w a.toNat)
      (begin := fun w op t => t.modGrp w.key (fun g => g.addOp .tl w.act (.vchain op))) rfl
  all_goals exact trivial

/-- What O34 says of a copy word of form `f`. -/
def CopyStarts (i : Instr) (s : State) (f : CopyForm) : Prop :=
  ready i s = true → (viewOf i s).act ≠ 0 → f.inside = true → f.busy = false →
    copyChecks (enter i s) (viewOf i s).g f.kind f.aligned = .ok → copyReady (enter i s) (viewOf i s) = true →
    (viewOf i s).g.count .cp < 63 → completes i s (fun t => startCopy f.kind s.key (f.extra (drainStores t s.key (viewOf i s).act)))

theorem copies_start {i : Instr} {s : State} {f : CopyForm} (hf : copies i s = some f) : CopyStarts i s f := by
  refine of_row (Q := copies i s = some f → CopyStarts i s f) ?_ hf hf
  clear hf
  cases i
  case cpy u d a b p =>
    refine row fun hf => ?_
    cases hf
    exact copy_starts rfl rfl (decide_gt_eq ..)
  case cpya u d k p =>
    refine row fun hf => ?_
    cases hf
    exact copy_starts rfl rfl rfl
  case cpyg u d a p =>
    refine row fun hf => ?_
    unfold copies at hf
    dsimp only at hf
    split at hf <;> cases hf
    next b hb =>
    refine copy_starts (m := _) rfl ?_ (Bool.not_not _).symm
    dsimp only
    rw [hb]
    rfl
  case cpyx u d a b p =>
    refine row fun hf => ?_
    cases hf
    exact copy_starts rfl rfl (by rw [Bool.not_and, ← decide_gt_eq, ← decide_not, decide_eq_decide.mpr Nat.not_lt])
  case cbload u d a k p =>
    refine row fun hf => ?_
    cases hf
    refine copy_starts (m := _) rfl ?_ (Bool.not_not _).symm
    exact congrArg (fun busy => copyMeaning _ _ _ _ _ busy _) (team_waits ..)
  case qpush u k q p =>
    refine row fun hf => ?_
    cases hf
    exact copy_starts rfl rfl rfl
  all_goals exact trivial

/-- Settles O34. -/
theorem engineAndCopyWordsStart : Obligations.EngineAndCopyWordsStart := by
  unfold Obligations.EngineAndCopyWordsStart
  exact ⟨fun i s f start hf => engines_start hf s start, fun i s f hf => copies_start hf⟩

/-! ## Words that act at once (R200, R226, R229 to R231) -/

/-- A word each lane of whose Act completes it with the same effect. -/
theorem feeder_completes {i : Instr} {s : State} {m : View → State → Meaning} {eff : State → State} (hexec : exec i s = issue i s m)
    (hm : m (viewOf i s) (enter i s) = feederMeaning (viewOf i s) .ok eff) (hready : ready i s = true) (hact : (viewOf i s).act ≠ 0) :
    completes i s eff := by
  refine completes_of (m := m) hexec hready ?_ ?_
  · rw [hm]
    rfl
  · rw [hm]
    exact if_neg hact

theorem vatOuts_ok {w : View} {v : Nat} {out : LaneOut} (hvat : w.g.kern.hasVat v = true) (hout : out = .ok) :
    vatOuts w v out = (lanesOf w.act).map (fun l => (l, LaneOut.ok)) := by
  subst hout
  unfold vatOuts
  rw [hvat]
  rfl

theorem direct_completes {i : Instr} {s : State} {f : State → State} (hf : direct i s = some (true, f)) (hready : ready i s = true)
    (hact : (viewOf i s).act ≠ 0) : completes i s f := by
  refine of_row (Q := direct i s = some (true, f) → ready i s = true → (viewOf i s).act ≠ 0 → completes i s f) ?_ hf hf hready hact
  clear hf hready hact
  cases i
  case tlend u d p =>
    refine row fun hf hready hact => ?_
    unfold direct at hf
    dsimp only at hf
    obtain ⟨hok, rfl⟩ := Prod.mk.inj (Option.some.inj hf)
    rw [Bool.and_eq_true, bne_iff_ne, Bool.not_eq_true'] at hok
    obtain ⟨hlends, hbound⟩ := hok
    refine completes_of (m := _) rfl hready ?_ (if_neg hact)
    refine List.map_congr_left fun l _ => congrArg (Prod.mk l) ?_
    rw [if_neg hlends]
    exact if_neg (ne_true_of_eq_false hbound)
  case vattake u v p =>
    refine row fun hf hready hact => ?_
    unfold direct at hf
    dsimp only at hf
    obtain ⟨hok, rfl⟩ := Prod.mk.inj (Option.some.inj hf)
    rw [Bool.and_eq_true, beq_iff_eq] at hok
    obtain ⟨hvat, hfull⟩ := hok
    exact completes_of (m := _) rfl hready (vatOuts_ok hvat (if_pos hfull)) (if_neg hact)
  case vatfree u v p =>
    refine row fun hf hready hact => ?_
    unfold direct at hf
    dsimp only at hf
    obtain ⟨hok, rfl⟩ := Prod.mk.inj (Option.some.inj hf)
    rw [Bool.and_eq_true, Bool.and_eq_true, Bool.and_eq_true, beq_iff_eq] at hok
    obtain ⟨⟨⟨hvat, hdraining⟩, hremote⟩, hdrained⟩ := hok
    refine completes_of (m := _) rfl hready (vatOuts_ok hvat ?_) (if_neg hact)
    refine (if_neg (not_not_intro hdraining)).trans (if_pos ?_)
    rw [hremote]
    exact hdrained
  case vatarm u a v p =>
    refine row fun hf hready hact => ?_
    unfold direct at hf
    dsimp only at hf
    obtain ⟨hok, rfl⟩ := Prod.mk.inj (Option.some.inj hf)
    rw [Bool.and_eq_true, Bool.and_eq_true, Bool.and_eq_true, beq_iff_eq, bne_iff_ne, decide_eq_true_eq] at hok
    obtain ⟨⟨⟨hvat, hsome⟩, hfew⟩, hfree⟩ := hok
    refine feeder_completes (m := _) rfl ?_ hready hact
    refine congrArg (fun out => feederMeaning _ out _) ?_
    rw [if_neg (by rw [hvat]; simpa using ⟨hsome, hfew⟩)]
    exact if_pos hfree
  case aaset u a k p =>
    refine row fun hf hready hact => ?_
    unfold direct at hf
    dsimp only at hf
    split at hf
    · cases hf
    · next b hb =>
      obtain ⟨hok, rfl⟩ := Prod.mk.inj (Option.some.inj hf)
      rw [Bool.not_eq_true'] at hok
      refine feeder_completes (m := _) rfl ?_ hready hact
      rw [hb]
      exact congrArg (fun out => feederMeaning _ out _) (if_neg (ne_true_of_eq_false hok))
  all_goals exact trivial

/-! ## CPYABORT (R240) -/

section
variable {u : Bool} {p : BitVec 3} {s : State}

/-- What CPYABORT leaves of a group with the reported copy taken off. -/
def abortCopy (key : Nat) (s : State) : State :=
  match (s.grp key).cfOp.bind (fun id => (s.grp key).findOp id) with
  | some o => match o.body with
    | .copy op => (endCopy s key o op true).modGrp key (fun g => { g with cfOp := none })
    | _ => s
  | none => s

theorem cpyabort_aborts (hready : ready (.cpyabort u p) s = true) (hact : (viewOf (.cpyabort u p) s).act ≠ 0) :
    completes (.cpyabort u p) s (abortCopy s.key) :=
  feeder_completes (m := fun w _ => feederMeaning w .ok (abortCopy w.key)) rfl rfl hready hact

theorem enter_cfOp (i : Instr) (s : State) : ((enter i s).grp s.key).cfOp = (s.grp s.key).cfOp := by
  rw [enter_grp, viewOf_g]
theorem enter_findOp (i : Instr) (s : State) (id : Nat) : ((enter i s).grp s.key).findOp id = (s.grp s.key).findOp id := by
  rw [enter_grp, viewOf_g]
  rfl
end

/-- Settles O35. -/
theorem directWordsAndSubmissions : Obligations.DirectWordsAndSubmissions := by
  unfold Obligations.DirectWordsAndSubmissions
  refine ⟨fun i s f => direct_completes, ?_, ?_⟩
  · intro u p s hready hact
    have hruns := cpyabort_aborts hready hact
    refine ⟨fun id o op hid ho hop => ?_, fun hnone => ?_⟩
    · refine hruns.trans (congrArg (fun t => Host.Outcome.next (leave _ s t)) ?_)
      simp only [abortCopy, enter_cfOp, enter_findOp, hid, Option.bind_some, ho, hop]
    · refine hruns.trans (congrArg (fun t => Host.Outcome.next (leave _ s t)) ?_)
      simp only [abortCopy, enter_cfOp, hnone, Option.bind_none]
  · intro u d a p s b
    refine ⟨fun hready => ?_, fun hready => ?_⟩
    · intro i w hact hb st
      have hrecord : readRecord (drainStores (enter i s) (viewOf i s).key (viewOf i s).act) (viewOf i s) ((viewOf i s).g.rv64 a.toNat 0) =
        .ok b := hb
      refine feeder_completes (i := i) (m := _) rfl ?_ hready hact
      rw [hrecord]
      rfl
    · intro i w t1 status hact hb
      have hrecord : readRecord (drainStores (enter i s) (viewOf i s).key (viewOf i s).act) (viewOf i s) ((viewOf i s).g.rv64 a.toNat 0) =
        .ok b := hb
      refine ⟨fun st hst => ?_, fun plist hplist => ?_⟩
      · refine feeder_completes (i := i) (m := _) rfl ?_ hready hact
        dsimp only
        rw [hrecord]
        dsimp only
        rw [show rshdCheck (drainStores (enter i s) (viewOf i s).key (viewOf i s).act)
          ((drainStores (enter i s) (viewOf i s).key (viewOf i s).act).grp (viewOf i s).key) b = _ from hst]
        rfl
      · refine feeder_completes (i := i) (m := _) rfl ?_ hready hact
        dsimp only
        rw [hrecord]
        dsimp only
        rw [show rshdCheck (drainStores (enter i s) (viewOf i s).key (viewOf i s).act)
          ((drainStores (enter i s) (viewOf i s).key (viewOf i s).act).grp (viewOf i s).key) b = _ from hplist]
        rfl

end Sys2Proof.EngineWords


/-! Fabric accesses (O30). -/
namespace Sys2Proof.FabricProofs
open Sys2Proof.Machine Sys2Proof.Claims
open Sys2Proof

/-- Two open requests of one operation under one number: the first awaits no lane any more, the second lane 0. -/
def twoRequests : List ROut := [⟨7, false, 1, [], false⟩, ⟨7, false, 1, [⟨0, [], 4, false, 0⟩], false⟩]

def waitingOp : PendOp := { id := 0, cls := .rm, lanes := 1, done := false, body := .remote twoRequests }

/-- A group that waits for both. -/
def waitingTwice : State := { grps := [(0, { ops := [waitingOp] })] }

theorem waitingTwice_asks : askerOf waitingTwice 7 = some 0 ∧
    findRequest (waitingTwice.grp 0) 7 = some (waitingOp, twoRequests, ⟨7, false, 1, [], false⟩) := by decide

/-- What the operation is after the answer. -/
def openStill : PendOp := { waitingOp with body := .remote [⟨7, false, 1, [], true⟩, ⟨7, false, 1, [⟨0, [], 4, false, 0⟩], false⟩] }

theorem waitingTwice_waits : ((onResponse waitingTwice 7 []).grp 0).ops = [openStill] := by
  obtain ⟨hasker, hrequest⟩ := waitingTwice_asks
  simp only [onResponse, hasker, hrequest, Bool.false_eq_true, if_false]
  rw [State.grp_modGrp]
  decide

/-- Refutes O30: an answer to the first of two requests of one number leaves the second open, and the operation waits on. -/
theorem not_fabricAccesses : ¬ Obligations.FabricAccesses := by
  unfold Obligations.FabricAccesses
  rintro ⟨-, -, -, -, -, hanswers, -⟩
  obtain ⟨hasker, hrequest⟩ := waitingTwice_asks
  obtain ⟨-, -, -, hends⟩ := (hanswers waitingTwice 7 0 _ _ _ hasker hrequest).1 []
  have hdone := hends (by simp) (by decide) openStill (waitingTwice_waits ▸ List.mem_singleton_self _) rfl
  exact Bool.false_ne_true hdone

end Sys2Proof.FabricProofs


/-! What the operations of the arrays and of the stream engine leave when they retire (O36). -/
namespace Sys2Proof.Retirements
open Sys2Proof.Machine Sys2Proof.Claims Sys2Proof.MemoryWork
open Sys2Proof

/-! ## Writes that touch each byte once -/

theorem noted_tags (s : State) (who : Option (Nat × Nat)) (sectors : List Nat) : (s.noted who sectors).tags = s.tags := by
  unfold State.noted
  split <;> rfl
theorem coverChains_tags (s : State) (hit : Nat → Bool) : (s.coverChains hit).tags = s.tags := by
  unfold State.coverChains
  split <;> rfl
theorem dirtyL2_tags (s : State) (sectors : List Nat) : (s.dirtyL2 sectors).tags = s.tags := by rw [State.dirtyL2_rest]

theorem writeBytes_tags {s : State} {tag loc : Nat} (who : Option (Nat × Nat)) (core : Option Nat) (d : List Byte)
    (ht : ∀ i, i < d.length → isDram (loc + i) = true → wordTag s ((loc + i) / 32) = tag) :
    (s.writeBytes who core tag loc d).tags = s.tags := by
  have hbytes : ∀ (d : List Byte) (n : Nat) (t : State), t.tags = s.tags →
      (∀ i, i < d.length → isDram (loc + (n + i)) = true → wordTag s ((loc + (n + i)) / 32) = tag) →
      ((d.zipIdx n).foldl (fun s (x : Byte × Nat) => s.writeByte core tag (loc + x.2) x.1) t).tags = s.tags := by
    intro d
    induction d with
    | nil => exact fun _ _ h _ => h
    | cons b r ih =>
      intro n t hkept hd
      rw [List.zipIdx_cons, List.foldl_cons]
      have hfirst : isDram (loc + n) = true → wordTag t ((loc + n) / 32) = tag := by
        rw [wordTag, hkept]
        exact hd 0 (Nat.succ_pos _)
      refine ih (n + 1) _ (by rw [State.writeByte_tags hfirst, hkept]) fun i hi => ?_
      have hnext := hd (i + 1) (by rw [List.length_cons]; omega)
      rwa [show n + 1 + i = n + (i + 1) by omega]
  have hkept := hbytes d 0 s rfl (by simpa using ht)
  unfold State.writeBytes
  dsimp only
  rw [noted_tags, coverChains_tags, dirtyL2_tags]
  exact hkept

/-- Writes at one place each, in words that stand under their keys, leave their data and no other byte changed. -/
theorem engineWrite_leaves (core : Nat) (ws : List EngWrite) (s : State) (hapart : apart s ws) :
    leavesBytes s (engineWrite s core [] ws) ws := by
  induction ws generalizing s with
  | nil => exact ⟨nofun, fun _ _ => rfl⟩
  | cons w rest ih =>
    obtain ⟨hnodup, htags⟩ := hapart
    have hlocs : EngWrite.locs (w :: rest) = (List.range w.data.length).map (w.loc + ·) ++ EngWrite.locs rest := List.flatMap_cons ..
    rw [hlocs, List.nodup_append'] at hnodup
    obtain ⟨-, hrest, hdisjoint⟩ := hnodup
    have hw := htags w List.mem_cons_self
    have htag : (s.writeBytes none (some core) w.tag w.loc w.data).tags = s.tags := writeBytes_tags none (some core) w.data hw
    have hraw := State.writeBytes_raw (s := s) none (some core) w.data (tag := w.tag) (loc := w.loc) fun a hlo hhi hd => by
      have h := hw (a - w.loc) (by omega)
      rw [show w.loc + (a - w.loc) = a by omega] at h
      exact h hd
    obtain ⟨hdata, hother⟩ := ih (s.writeBytes none (some core) w.tag w.loc w.data) ⟨hrest, fun x hx i hi hd => by
      rw [wordTag, htag]
      exact htags x (List.mem_cons_of_mem _ hx) i hi hd⟩
    refine ⟨fun x hx i hi => ?_, fun a ha => ?_⟩
    · obtain rfl | hx := List.mem_cons.mp hx
      · have hnot : x.loc + i ∉ EngWrite.locs rest := hdisjoint (List.mem_map.mpr ⟨i, List.mem_range.mpr hi, rfl⟩)
        refine (hother _ hnot).trans ?_
        rw [hraw, if_pos ⟨Nat.le_add_right .., by omega⟩, Nat.add_sub_cancel_left]
      · exact hdata x hx i hi
    · rw [hlocs, List.mem_append, not_or] at ha
      obtain ⟨hfirst, hlater⟩ := ha
      refine (hother a hlater).trans ?_
      rw [hraw, if_neg]
      rintro ⟨hlo, hhi⟩
      exact hfirst (List.mem_map.mpr ⟨a - w.loc, List.mem_range.mpr (by omega), by omega⟩)

theorem leavesBytes_congr {s t u : State} {ws : List EngWrite} (h : leavesBytes s t ws) (hu : ∀ a, u.rawByte a = t.rawByte a) :
    leavesBytes s u ws := by
  obtain ⟨hdata, hother⟩ := h
  exact ⟨fun w hw i hi => (hu _).trans (hdata w hw i hi), fun a ha => (hu a).trans (hother a ha)⟩

theorem unpoisonAll_rawByte (s : State) (locs : List Nat) (a : Nat) : (s.unpoisonAll locs).rawByte a = s.rawByte a := by
  unfold State.unpoisonAll
  split <;> rfl

/-- What is left of an operation of which nothing has been written. -/
theorem engineEnds_leaves {s : State} (core : Nat) {n : Nat} {ws : Nat → List EngWrite} (hapart : apart s ((List.range n).flatMap ws)) :
    leavesBytes s (engineEnds s core [] n ws) ((List.range n).flatMap ws) := by
  refine leavesBytes_congr (engineWrite_leaves core _ s hapart) fun a => ?_
  unfold engineEnds
  rw [unpoisonAll_rawByte]
  unfold engineWrite
  rw [List.foldl_flatMap]

theorem unpoisonAll_worked (s : State) (locs : List Nat) : Worked s (s.unpoisonAll locs) := by
  unfold State.unpoisonAll
  exact .ite _ (.refl s) (.of_stores s rfl)

theorem engineEnds_worked (s : State) (core : Nat) (wrote : List Nat) (n : Nat) (ws : Nat → List EngWrite) :
    Worked s (engineEnds s core wrote n ws) := by
  refine Worked.trans (Worked.foldl (fun s i => Worked.foldl (fun s w => ?_) _ s) _ s) (unpoisonAll_worked _ _)
  exact .ite _ (.refl s) (writeBytes_worked ..)

/-! ## The tile (R209, R211, R212) -/

/-- The writes of a tile, element by element. -/
def tileWrites (s : State) (g : Grp) (t : Nat) (elem : Nat → Nat → Nat) : List EngWrite :=
  (List.range 256).flatMap (fun m => (List.range 64).map (fun n => ⟨accAt s g t m n, 0, natToBytes 4 (elem m n)⟩))

/-- The bytes of a tile lie one after the other, a quarter of it in each quad's memory. -/
theorem accAt_eq (s : State) (g : Grp) (t m n : Nat) :
    accAt s g t m n = accAt s g t 0 0 + m / 64 * 786432 + m % 64 * 256 + 4 * n := by
  unfold accAt accLoc
  dsimp only
  omega

theorem accAt_far (s : State) (g : Grp) (t m n : Nat) : 2 ^ 46 ≤ accAt s g t m n := by
  unfold accAt accLoc
  dsimp only
  omega

theorem natToBytes_len (n x : Nat) : (natToBytes n x).length = n := by
  induction n generalizing x with
  | zero => rfl
  | succ n ih => rw [natToBytes, List.length_cons, ih]

theorem tileWrites_locs (s : State) (g : Grp) (t : Nat) (elem : Nat → Nat → Nat) : EngWrite.locs (tileWrites s g t elem) =
    (List.range 256).flatMap (fun m => (List.range 64).flatMap (fun n => (List.range 4).map (accAt s g t m n + ·))) := by
  simp only [EngWrite.locs, tileWrites, List.flatMap_assoc, List.flatMap_map, natToBytes_len]

theorem tileWrites_apart (s : State) (g : Grp) (t : Nat) (elem : Nat → Nat → Nat) : apart s (tileWrites s g t elem) := by
  constructor
  · rw [tileWrites_locs, List.nodup_flatMap]
    refine ⟨fun m _ => List.nodup_flatMap.mpr ⟨fun n _ => List.nodup_range.map (fun _ _ h => Nat.add_left_cancel h), ?_⟩, ?_⟩
    · refine List.pairwise_lt_range.imp fun {n n'} hn a ha ha' => ?_
      obtain ⟨i, hi, rfl⟩ := List.mem_map.mp ha
      obtain ⟨i', hi', heq⟩ := List.mem_map.mp ha'
      rw [accAt_eq s g t m n, accAt_eq s g t m n'] at heq
      rw [List.mem_range] at hi hi'
      omega
    · refine List.pairwise_lt_range.imp_of_mem fun {m m'} hm hm' hlt a ha ha' => ?_
      obtain ⟨n, hn, ha⟩ := List.mem_flatMap.mp ha
      obtain ⟨n', hn', ha'⟩ := List.mem_flatMap.mp ha'
      obtain ⟨i, hi, rfl⟩ := List.mem_map.mp ha
      obtain ⟨i', hi', heq⟩ := List.mem_map.mp ha'
      rw [accAt_eq s g t m n, accAt_eq s g t m' n'] at heq
      rw [List.mem_range] at hn hn' hi hi'
      omega
  · intro w hw i _ hd
    obtain ⟨m, _, hw⟩ := List.mem_flatMap.mp hw
    obtain ⟨n, _, rfl⟩ := List.mem_map.mp hw
    have hfar := accAt_far s g t m n
    have hdram := of_decide_eq_true hd
    dsimp only at hdram
    omega

theorem zipIdx_map_range {α β : Type} (f : Nat → α) (h : α × Nat → β) (k : Nat) :
    ((List.range k).map f).zipIdx.map h = (List.range k).map (fun n => h (f n, n)) := by
  refine List.ext_getElem (by simp) fun i _ _ => ?_
  simp

theorem accRow_eq (s : State) (g : Grp) (t m : Nat) (elem : Nat → Nat) :
    accRow s g t m ((List.range 64).map elem) = (List.range 64).map (fun n => ⟨accAt s g t m n, 0, natToBytes 4 (elem n)⟩) :=
  zipIdx_map_range elem _ 64

/-- The rows of a TMMA, a TZERO or a TACLD hold the elements of Table 8-8. -/
theorem matRows_tile (s : State) (g : Grp) {op : MatOp} (hfn : op.fn ≤ 2) (m : Nat) : matRows s g op m =
    (List.range 64).map (fun n => ⟨accAt s g (pTile op.block) m n, 0, natToBytes 4 (matElem s g op m n)⟩) := by
  obtain h0 | h1 | h2 : op.fn = 0 ∨ op.fn = 1 ∨ op.fn = 2 := by omega
  · have hscale : ∀ n, n < 64 → (scalesB s g op).getD n [] = scaleLine s g op (pAddr op.block 0x28) 64 n := fun n hn => by
      simp [scalesB, hn]
    unfold matRows
    simp only [h0]
    unfold tmmaRow
    rw [accRow_eq]
    refine List.map_congr_left fun n hn => ?_
    simp only [matElem, h0, hscale n (List.mem_range.mp hn)]
  · unfold matRows
    simp only [h1]
    rw [show List.replicate 64 0 = (List.range 64).map (fun _ => 0) from rfl, accRow_eq]
    refine List.map_congr_left fun n _ => ?_
    simp only [matElem, h1]
  · unfold matRows
    simp only [h2]
    rw [accRow_eq]
    refine List.map_congr_left fun n _ => ?_
    simp only [matElem, h2]

theorem matWork_plain (s : State) (c : Nat) {op : MatOp} (hfn : op.fn ≠ 4) :
    matWork s c op = engineEnds s (s.grp c).core op.wrote 256 (matRows s (s.grp c) op) := by
  unfold matWork matRowCount
  dsimp only
  rw [if_neg hfn, if_pos hfn]

theorem matWork_tile (s : State) (c : Nat) {op : MatOp} (hnew : op.wrote = []) (hfn : op.fn ≤ 2) :
    leavesBytes s (matWork s c op) ((List.range 256).flatMap (fun m => (List.range 64).map (fun n =>
      ⟨accAt s (s.grp c) (pTile op.block) m n, 0, natToBytes 4 (matElem s (s.grp c) op m n)⟩))) := by
  have hrows : matRows s (s.grp c) op = fun m => (List.range 64).map (fun n =>
      ⟨accAt s (s.grp c) (pTile op.block) m n, 0, natToBytes 4 (matElem s (s.grp c) op m n)⟩) := funext (matRows_tile s (s.grp c) hfn)
  rw [matWork_plain s c (by omega), hnew, hrows]
  exact engineEnds_leaves _ (tileWrites_apart s (s.grp c) (pTile op.block) (matElem s (s.grp c) op))

/-! ## TACST (R213, R215) -/

/-- A row rounded without a generator. -/
theorem seededRow_plain (f : Nat → Nat → Nat) (k i : Nat) (gen : Word) :
    (seededRow false f k i gen).1 = (List.range k).map (fun n => f (i + n) 0) := by
  induction k generalizing i with
  | zero => rfl
  | succ k ih =>
    rw [seededRow, List.range_succ_eq_map, List.map_cons, List.map_map]
    refine congrArg₂ List.cons rfl ((ih (i + 1)).trans (List.map_congr_left fun n _ => ?_))
    rw [Function.comp_apply, Nat.succ_eq_add_one, show i + 1 + n = i + (n + 1) by omega]

/-- A row rounded with one step of the generator for each element. -/
theorem seededRow_stochastic (f : Nat → Nat → Nat) (k i : Nat) (gen : Word) :
    (seededRow true f k i gen).1 = (List.range k).map (fun n => f (i + n) (stepGen ((fun x => (stepGen x).1)^[n] gen)).2) := by
  induction k generalizing i gen with
  | zero => rfl
  | succ k ih =>
    rw [seededRow, List.range_succ_eq_map, List.map_cons, List.map_map]
    refine congrArg₂ List.cons rfl ((ih (i + 1) (stepGen gen).1).trans (List.map_congr_left fun n _ => ?_))
    rw [Function.comp_apply, Nat.succ_eq_add_one, Function.iterate_succ_apply, show i + 1 + n = i + (n + 1) by omega]

theorem matRows_tacst (s : State) (g : Grp) {op : MatOp} (hfn : op.fn = 3) (m : Nat) : matRows s g op m =
    engineBytes s g op.held (xElem op (xWidth op) m 0) (packElems (xWidth op) ((List.range 64).map (tacstOf s g op m))) := by
  unfold matRows
  simp only [hfn]
  refine congrArg (fun row => engineBytes s g op.held (xElem op (xWidth op) m 0) (packElems (xWidth op) row)) ?_
  by_cases hmode : pXctl op.block / 32 % 8 = 4
  · simp only [hmode, beq_self_eq_true, if_true, seededRow_stochastic, Nat.zero_add]
    refine List.map_congr_left fun n _ => ?_
    rw [← Function.iterate_add_apply, Nat.add_comm n]
    simp only [tacstOf, hmode, if_true]
  · rw [beq_eq_false_iff_ne.mpr hmode, seededRow_plain]
    refine List.map_congr_left fun n _ => ?_
    simp only [Nat.zero_add, tacstOf, hmode, if_false]

theorem matWork_tacst (s : State) (c : Nat) {op : MatOp} (hnew : op.wrote = []) (hfn : op.fn = 3) :
    let ws := (List.range 256).flatMap (fun m => engineBytes s (s.grp c) op.held (xElem op (xWidth op) m 0)
      (packElems (xWidth op) ((List.range 64).map (tacstOf s (s.grp c) op m))))
    apart s ws → leavesBytes s (matWork s c op) ws := by
  intro ws hapart
  rw [matWork_plain s c (by omega), hnew, funext (matRows_tacst s (s.grp c) hfn)]
  exact engineEnds_leaves _ hapart

/-! ## TQUANT (R87, R214) -/

/-- Blocks quantised one after the other, each from the generator that the one before left. -/
def quantised (q : Nat → Word → QBlock) (n : Nat) (seed : Word) : List QBlock × Word :=
  (List.range n).foldl (fun (r : List QBlock × Word) i => (q i r.2 :: r.1, (q i r.2).gen)) ([], seed)

theorem quantised_succ (q : Nat → Word → QBlock) (n : Nat) (seed : Word) : quantised q (n + 1) seed =
    (q n (quantised q n seed).2 :: (quantised q n seed).1, (q n (quantised q n seed).2).gen) := by
  rw [quantised, List.range_succ, List.foldl_append]
  rfl

theorem quantised_length (q : Nat → Word → QBlock) (n : Nat) (seed : Word) : (quantised q n seed).1.length = n := by
  induction n with
  | zero => rfl
  | succ n ih => rw [quantised_succ, List.length_cons, ih]

/-- The generator after n blocks is the one that the last of them left. -/
theorem quantised_gen (q : Nat → Word → QBlock) (n : Nat) (seed : Word) :
    (quantised q n seed).2 = if n = 0 then seed else ((quantised q n seed).1.reverse[n - 1]?).elim 0 (·.gen) := by
  cases n with
  | zero => rfl
  | succ n =>
    rw [if_neg (Nat.succ_ne_zero n), quantised_succ, List.reverse_cons, Nat.add_sub_cancel, List.getElem?_append_right (by
      rw [List.length_reverse, quantised_length]), List.length_reverse, quantised_length, Nat.sub_self]
    rfl

/-- Later blocks leave the earlier ones. -/
theorem quantised_stable (q : Nat → Word → QBlock) (seed : Word) {i n : Nat} (hi : i < n) (m : Nat) :
    (quantised q (n + m) seed).1.reverse[i]? = (quantised q n seed).1.reverse[i]? := by
  induction m with
  | zero => rfl
  | succ m ih =>
    rw [← ih, ← Nat.add_assoc, quantised_succ, List.reverse_cons, List.getElem?_append_left]
    rw [List.length_reverse, quantised_length]
    omega

theorem quantised_block (q : Nat → Word → QBlock) (seed : Word) {i n : Nat} (hi : i < n) :
    (quantised q n seed).1.reverse[i]? =
      some (q i (if i = 0 then seed else ((quantised q n seed).1.reverse[i - 1]?).elim 0 (·.gen))) := by
  obtain ⟨m, rfl⟩ := Nat.exists_eq_add_of_lt hi
  have hgen := quantised_gen q i seed
  rw [Nat.add_right_comm, quantised_stable q seed (Nat.lt_succ_self i), quantised_succ, List.reverse_cons,
    List.getElem?_append_right (by rw [List.length_reverse, quantised_length]), List.length_reverse, quantised_length, Nat.sub_self, hgen]
  by_cases h0 : i = 0
  · rw [if_pos h0, if_pos h0]
    rfl
  · rw [if_neg h0, if_neg h0, Nat.add_assoc i 1 m, quantised_stable q seed (show i - 1 < i by omega)]
    rfl

theorem quantBlocks_eq (s : State) (g : Grp) (op : MatOp) : quantBlocks s g op =
    (quantised (fun i gen => quantizeBlock (fltOf (fmtWord op.fw).af) (fmtWord op.fw).rnd op.start (quantInputs s g op i) gen) 512
      op.seed).1.reverse := rfl

theorem matRows_tquant (s : State) (g : Grp) {op : MatOp} (hfn : op.fn = 4) (i : Nat) :
    matRows s g op i = ((quantBlocks s g op)[i]?).elim [] (quantWrites s g op i) := by
  unfold matRows
  simp only [hfn]
  cases (quantBlocks s g op)[i]? <;> rfl

/-- What a TQUANT reports in SCALEH. -/
def quantScaleh (qs : List QBlock) (g : Grp) : Dword :=
  BitVec.ofNat 64 (g.scaleh.toNat % 256 + qs.foldl (fun x q => Nat.max x q.e) 0 * 2 ^ 8 +
    qs.foldl (fun x q => Nat.max x q.nr) 0 * 2 ^ 16 + bit64 (qs.any (·.sat)) 18)

/-- A group whose lanes raise a flag on a condition. -/
def raisesIf (b : Bool) (lanes fl : Word) (g : Grp) : Grp := if b then g.raiseFlag lanes fl else g

/-- The group after a TQUANT of some blocks. -/
def quantReport (qs : List QBlock) (lanes : Word) (g : Grp) : Grp :=
  raisesIf (qs.any (·.sat)) lanes flQOV { g with scaleh := quantScaleh qs g }

theorem matWork_tquant (s : State) (c : Nat) {op : MatOp} (hfn : op.fn = 4) : matWork s c op =
    (engineEnds s (s.grp c).core op.wrote 512 (fun i => ((quantBlocks s (s.grp c) op)[i]?).elim [] (quantWrites s (s.grp c) op i))).modGrp c
      (quantReport (quantBlocks s (s.grp c) op) op.lanes) := by
  have hrows : matRows s (s.grp c) op = _ := funext (matRows_tquant s (s.grp c) hfn)
  unfold matWork matRowCount
  dsimp only
  rw [if_neg (not_not.mpr hfn), if_pos hfn, hrows]
  rfl

theorem raiseFlag_flags (g : Grp) (m fl : Word) (l : Nat) :
    ((g.raiseFlag m fl).lane l).flags = (g.lane l).flags ||| (if inMask m l = true then fl else 0) := by
  have hlane : (g.raiseFlag m fl).lane l = if l ∈ lanesOf m then { g.lane l with flags := (g.lane l).flags ||| fl } else g.lane l :=
    Grp.lane_modLanes _ (lanesOf_nodup m) _ g l
  rw [hlane]
  by_cases hl : inMask m l = true
  · rw [if_pos ((mem_lanesOf m l).mpr hl), if_pos hl]
  · rw [if_neg (fun h => hl ((mem_lanesOf m l).mp h)), if_neg hl]
    exact BitVec.or_zero.symm

theorem raisesIf_flags (b : Bool) (m fl : Word) (g : Grp) (l : Nat) :
    ((raisesIf b m fl g).lane l).flags = (g.lane l).flags ||| (if b = true ∧ inMask m l = true then fl else 0) := by
  cases b
  · exact BitVec.or_zero.symm
  · simp only [true_and]
    exact raiseFlag_flags g m fl l

theorem raisesIf_scaleh (b : Bool) (m fl : Word) (g : Grp) : (raisesIf b m fl g).scaleh = g.scaleh := by
  cases b
  · rfl
  · show (g.modLanes (lanesOf m) (fun _ x => { x with flags := x.flags ||| fl })).scaleh = g.scaleh
    rw [Grp.modLanes_rest]
    rfl

theorem quantReport_scaleh (qs : List QBlock) (lanes : Word) (g : Grp) : (quantReport qs lanes g).scaleh =
    BitVec.ofNat 64 (g.scaleh.toNat % 256 + qs.foldl (fun x q => Nat.max x q.e) 0 * 2 ^ 8 +
      qs.foldl (fun x q => Nat.max x q.nr) 0 * 2 ^ 16 + (if qs.any (·.sat) then 2 ^ 18 else 0)) :=
  raisesIf_scaleh (qs.any (·.sat)) lanes flQOV { g with scaleh := quantScaleh qs g }

theorem quantReport_flags (qs : List QBlock) (lanes : Word) (g : Grp) (l : Nat) : ((quantReport qs lanes g).lane l).flags =
    (g.lane l).flags ||| (if qs.any (·.sat) ∧ inMask lanes l = true then flQOV else 0) :=
  raisesIf_flags (qs.any (·.sat)) lanes flQOV { g with scaleh := quantScaleh qs g } l

theorem grpWorked_scaleh {g h : Grp} (hw : GrpWorked g h) : h.scaleh = g.scaleh := by rw [hw.rest]

theorem modGrp_rawByte (s : State) (k : Nat) (f : Grp → Grp) (a : Nat) : (s.modGrp k f).rawByte a = s.rawByte a := rfl

theorem matWork_tquant_grp (s : State) (c : Nat) {op : MatOp} (hfn : op.fn = 4) : ∃ h, GrpWorked (s.grp c) h ∧
    (matWork s c op).grp c = quantReport (quantBlocks s (s.grp c) op) op.lanes h := by
  rw [matWork_tquant s c hfn, State.grp_modGrp]
  exact ⟨_, (engineEnds_worked s _ _ _ _).grps c, rfl⟩

/-- A TQUANT's bytes, SCALEH and QOV. -/
theorem matWork_quantises (s : State) (c : Nat) {op : MatOp} (hnew : op.wrote = []) (hfn : op.fn = 4) :
    let qs := quantBlocks s (s.grp c) op
    let ws := (List.range 512).flatMap (fun i => (qs[i]?).elim [] (quantWrites s (s.grp c) op i))
    (apart s ws → leavesBytes s (matWork s c op) ws) ∧
    ((matWork s c op).grp c).scaleh = BitVec.ofNat 64 ((s.grp c).scaleh.toNat % 256 + qs.foldl (fun x q => Nat.max x q.e) 0 * 2 ^ 8 +
      qs.foldl (fun x q => Nat.max x q.nr) 0 * 2 ^ 16 + (if qs.any (·.sat) then 2 ^ 18 else 0)) ∧
    (∀ l, (((matWork s c op).grp c).lane l).flags =
      ((s.grp c).lane l).flags ||| (if qs.any (·.sat) ∧ inMask op.lanes l = true then flQOV else 0)) := by
  obtain ⟨h, hworked, hgrp⟩ := matWork_tquant_grp s c hfn
  refine ⟨fun hapart => ?_, ?_, fun l => ?_⟩
  · rw [matWork_tquant s c hfn, hnew]
    exact leavesBytes_congr (engineEnds_leaves (s.grp c).core (n := 512) hapart) fun _ => modGrp_rawByte ..
  · rw [hgrp, quantReport_scaleh, grpWorked_scaleh hworked]
  · rw [hgrp, quantReport_flags, hworked.lanes]

/-! ## The end of an operation (R209, R120) -/

theorem retireList_sublist (ops : List PendOp) (blocked : List Cls) : (retireList ops blocked).Sublist ops := by
  induction ops generalizing blocked with
  | nil => exact .slnil
  | cons o r ih =>
    unfold retireList
    split
    · exact (ih _).cons _
    · exact (ih _).cons_cons _

theorem finishOp_done (g : Grp) (id : Nat) : ∀ y ∈ (g.finishOp id).ops, y.id = id → y.done = true := by
  intro y hy hid
  obtain ⟨o, -, rfl⟩ := List.mem_map.mp ((retireList_sublist _ _).subset hy)
  by_cases ho : o.id = id
  · rw [if_pos ho]
  · rw [if_neg ho] at hid
    exact absurd hid ho

theorem arriveLink_mem (s : State) (g : Grp) (idx : Nat) (m : Word) : (arriveLink s g idx m).mem = s.mem := by
  unfold arriveLink
  dsimp only
  rw [(ControlTraps.arriveLanes_quiet 0 _ g 0 idx _).1]
  split
  · rfl
  · exact (ControlTraps.setBar_quiet 0 s _ _).1

theorem retireMat_clean {s : State} (c : Nat) (o : PendOp) {op : MatOp}
    (hclean : placesPoison s (s.grp c).core op.seen (matSources s (s.grp c) op ++ tmmaSums s (s.grp c) op) = none) :
    let t := matWork s c { op with go := true }
    retireMat s c o { op with go := true } =
      (if linkAen (pLink op.block) then arriveLink t (t.grp c) (linkAidx (pLink op.block)) op.lanes else t).modGrp c
        (fun g => g.finishOp o.id) := by
  have hclean' : placesPoison s (s.grp c).core op.seen (matSources s (s.grp c) { op with go := true } ++
      tmmaSums s (s.grp c) { op with go := true }) = none := hclean
  unfold retireMat
  dsimp only
  rw [hclean']

theorem exec_matrixOperationRetire {c k : Nat} {s : State} {o : PendOp} {op : MatOp} (hfind : (s.grp c).findOp k = some o)
    (hbody : o.body = .matrix op) (hready : matReady s (s.grp c) o op = true) :
    exec (.matrixOperationRetire c k) s = .next (retireMat (linkEnd s c o op) c o { op with go := true }) := by
  show execMatrixOperationRetire c k s = _
  unfold execMatrixOperationRetire
  simp only [hfind, hbody, hready, if_true]

theorem exec_vchainRetire {c k : Nat} {s : State} {o : PendOp} {op : ChainOp} (hfind : (s.grp c).findOp k = some o)
    (hdone : o.done = false) (hbody : o.body = .vchain op) : exec (.vchainRetire c k) s = .next (retireChain s c o op) := by
  show execVchainRetire c k s = _
  unfold execVchainRetire
  simp [hfind, hbody, hdone]

theorem matrix_retires (c k : Nat) (s : State) (o : PendOp) (op : MatOp) (hfind : (s.grp c).findOp k = some o) (hbody : o.body = .matrix op)
    (hready : matReady s (s.grp c) o op = true) :
    let u := linkEnd s c o op
    placesPoison u (u.grp c).core op.seen (matSources u (u.grp c) op ++ tmmaSums u (u.grp c) op) = none →
    let x := pLink op.block
    let t := matWork u c { op with go := true }
    let r := (if linkAen x then arriveLink t (t.grp c) (linkAidx x) op.lanes else t).modGrp c (fun g => g.finishOp o.id)
    exec (.matrixOperationRetire c k) s = .next r ∧ r.mem = t.mem ∧ ∀ y ∈ (r.grp c).ops, y.id = o.id → y.done = true := by
  intro u hclean x t r
  refine ⟨?_, ?_, ?_⟩
  · rw [exec_matrixOperationRetire hfind hbody hready, retireMat_clean c o hclean]
  · show (if linkAen x then arriveLink t (t.grp c) (linkAidx x) op.lanes else t).mem = t.mem
    split
    · exact arriveLink_mem ..
    · rfl
  · rw [State.grp_modGrp]
    exact finishOp_done _ _

theorem retireChain_leaves (s : State) (c : Nat) (o : PendOp) (op : ChainOp)
    (hclean : cCount op.block = 0 ∨
      enginePoison s (s.grp c) op.held op.seen (chainX op.block :: chainY op.block) = none) :
    (∀ y ∈ ((retireChain s c o op).grp c).ops, y.id = o.id → y.done = true) ∧
    (let ws := (List.range (cCount op.block)).flatMap (chainWrites s (s.grp c) op)
     op.wrote = [] → apart s ws → leavesBytes s (retireChain s c o op) ws) := by
  unfold retireChain
  dsimp only
  by_cases hnone : cCount op.block = 0
  · rw [if_pos hnone, State.grp_modGrp, hnone]
    exact ⟨finishOp_done _ _, fun _ _ => ⟨nofun, fun _ _ => rfl⟩⟩
  · rw [if_neg hnone, hclean.resolve_left hnone]
    dsimp only
    rw [State.grp_modGrp]
    refine ⟨finishOp_done _ _, fun hnew hapart => ?_⟩
    rw [hnew]
    exact leavesBytes_congr (engineEnds_leaves _ hapart) fun _ => rfl

/-- Settles O36: the writes of an operation touch each byte once, so each byte holds what its one write leaves there. -/
theorem engineRetirements : Obligations.EngineRetirements := by
  unfold Obligations.EngineRetirements
  refine ⟨⟨matrix_retires, fun s c op => matWork_tile s c, fun s c op => matWork_tacst s c, fun s c op hnew hfn => ?_⟩,
    fun c k s o op hfind hdone hbody => ?_⟩
  · refine ⟨?_, fun i hi => ?_, matWork_quantises s c hnew hfn⟩
    · rw [quantBlocks_eq, List.length_reverse, quantised_length]
    · rw [quantBlocks_eq]
      exact quantised_block _ op.seed hi
  · intro g b hclean
    exact ⟨_, exec_vchainRetire hfind hdone hbody, retireChain_leaves s c o op hclean⟩

end Sys2Proof.Retirements


/-! What the copies of a feeder deliver and how they end (O37). -/
namespace Sys2Proof.Copies
open Sys2Proof.Machine Sys2Proof.Claims
open Sys2Proof

/-! ## The events -/

section
variable {s : State} {c k : Nat} {o : PendOp} {op : CopyOp}

theorem exec_copyCompletion (peer : List Byte) (hfind : findCopy s c k = some (o, op)) (hq : op.kind.isQpush = false)
    (hruns : (runCopy s (s.grp c) op).stopped = false) : exec (.copyCompletion c k peer) s =
      .next (endCopy (fillBook (runCopy s (s.grp c) op).st (s.grp c) (runCopy s (s.grp c) op).op) c o op false) := by
  show execCopyCompletion c k peer s = _
  simp [execCopyCompletion, hfind, hq, hruns]

theorem exec_copyCompletion_queue (peer : List Byte) (hfind : findCopy s c k = some (o, op)) (hq : op.kind.isQpush = true)
    (hall : op.bytes = copyTotal op) : exec (.copyCompletion c k peer) s = .next (endCopy s c o op false) := by
  show execCopyCompletion c k peer s = _
  simp [execCopyCompletion, hfind, hq, hall]

theorem exec_queueEntryArrival (peer : List Byte) {p : Pattern} {q : Nat} (hfind : findCopy s c k = some (o, op)) (hkind : op.kind = .qpush p q)
    (hleft : op.bytes ≠ copyTotal op) (hturn : queueBehind (s.grp c) o q = false) (hroom : ((s.grp (c - 1)).queue q).length < 16)
    (hruns : (nextEntry s (s.grp c) op p).2.stopped = false) : exec (.queueEntryArrival c k peer) s =
      .next (setCopy (pushEntry (nextEntry s (s.grp c) op p).2.st c q (nextEntry s (s.grp c) op p).1) c o
        { op with bytes := Nat.min (op.bytes + 128) (copyTotal op) }) := by
  have htakes : queueTakes s c o op q = true := by simp [queueTakes, hleft, hturn, hroom]
  show execQueueEntryArrival c k peer s = _
  simp [execQueueEntryArrival, hfind, hkind, htakes, hruns]

theorem exec_copyFault (peer : List Byte) (refused : Option Nat) {f : TrapInfo} (hfind : findCopy s c k = some (o, op))
    (hviol : (faultRun s (s.grp c) op).viol = none) (hfault : (faultRun s (s.grp c) op).fault = some f) :
    exec (.copyFault c k peer refused) s = .next (setCopy (faultRun s (s.grp c) op).st c o
      { (faultRun s (s.grp c) op).copy with fault := some f, sent := [], pages := [] }) := by
  show execCopyFault c k peer refused s = _
  simp [execCopyFault, hfind, hviol, hfault]

end

/-! ## One piece of a copy, in one page on either side (R236) -/

/-- A run that has nothing read early and no page started. -/
structure Fresh (r : Run) : Prop where
  seen  : r.op.seen = []
  pages : r.op.pages = []

theorem Fresh.spot {r : Run} (h : Fresh r) (g : Grp) (dst : Bool) (i : Nat) (va : Dword) (n : Nat) :
    r.spot g dst i va n = spotOf r.st g dst va n := by
  rw [Run.spot, h.pages]
  rfl

/-- The bytes of a place that are in no poisoned word. -/
theorem readSpot_here {r : Run} (h : Fresh r) (g : Grp) (i : Nat) {va : Dword} {n a ta : Nat} {la : Bool}
    (hspot : spotOf r.st g false va n = .inl (.here a ta la))
    (hclean : ∀ t, t < n → r.st.poisoned (if la then some g.core else none) (a + t) 1 = none) :
    readSpot g i va n r = ((List.range n).map (fun t => r.st.readByte (if la then some g.core else none) ta (a + t)), r) := by
  have hseen : ∀ j, r.seen j = none := fun j => by rw [Run.seen, h.seen]; rfl
  have hnone : (List.range n).findSome? (fun t => if (r.seen (i + t)).isSome then none
      else r.st.poisoned (if la then some g.core else none) (a + t) 1) = none := by
    refine List.findSome?_eq_none_iff.mpr fun t ht => ?_
    rw [hseen, hclean t (List.mem_range.mp ht)]
    rfl
  unfold readSpot
  rw [h.spot, hspot]
  dsimp only
  rw [hnone]
  simp only [hseen, Option.getD_none]

theorem writeSpot_here {r : Run} (h : Fresh r) (g : Grp) {vb : Dword} {n b tb : Nat} {lb : Bool} (d : List Byte) (hdry : r.dry = false) (hmoved : r.op.moved = [])
    (hspot : spotOf r.st g true vb n = .inl (.here b tb lb)) :
    writeSpot g vb n d r = { r with st := r.st.writeBytes none (some g.core) tb b d, pos := r.pos + n } := by
  unfold writeSpot
  rw [h.spot, hspot]
  dsimp only
  rw [hdry, writeLeft, hmoved]
  rfl

theorem moveBytes_none (g : Grp) (fuel : Nat) (a b : End) (r : Run) : moveBytes g fuel a b 0 r = r := by
  cases fuel with
  | zero => rfl
  | succ fuel => exact if_pos (.inl rfl)

theorem moveBytes_piece (g : Grp) (fuel : Nat) {va vb : Dword} {n a ta : Nat} {la : Bool} {b tb : Nat} {lb : Bool} {r : Run}
    (hruns : r.stopped = false) (hdry : r.dry = false) (h : Fresh r) (hmoved : r.op.moved = []) (hn : 0 < n)
    (hva : va.toNat % 65536 + n ≤ 65536) (hvb : vb.toNat % 65536 + n ≤ 65536)
    (hsrc : spotOf r.st g false va n = .inl (.here a ta la)) (hdst : spotOf r.st g true vb n = .inl (.here b tb lb))
    (hclean : ∀ i, i < n → r.st.poisoned (if la then some g.core else none) (a + i) 1 = none) :
    moveBytes g (fuel + 1) (.mem va) (.mem vb) n r = { r with
      st := r.st.writeBytes none (some g.core) tb b
        ((List.range n).map (fun t => r.st.readByte (if la then some g.core else none) ta (a + t)))
      pos := r.pos + n } := by
  have hall : Nat.min n (Nat.min (End.mem va).room (End.mem vb).room) = n := by
    refine Nat.min_eq_left (Nat.le_min.mpr ⟨?_, ?_⟩)
    · exact Nat.le_sub_of_add_le' hva
    · exact Nat.le_sub_of_add_le' hvb
  have hread : readEnd g (.mem va) n r =
      ((List.range n).map (fun t => r.st.readByte (if la then some g.core else none) ta (a + t)), r) := by
    rw [readEnd, hdry]
    exact readSpot_here h g r.pos hsrc hclean
  have hstart : ¬ (n = 0 ∨ r.stopped = true) := by rw [hruns]; simp [Nat.pos_iff_ne_zero.mp hn]
  rw [moveBytes, if_neg hstart]
  dsimp only
  rw [hall, hread]
  dsimp only
  rw [hruns, if_neg Bool.false_ne_true, Nat.sub_self, moveBytes_none, writeEnd]
  exact writeSpot_here h g _ hdry hmoved hdst

/-- The bytes of a piece stand at its destination, and no other byte has changed. -/
theorem piece_rawByte (s : State) (core : Option Nat) (f : Nat → Byte) {n b tb : Nat}
    (htags : ∀ i, i < n → isDram (b + i) = true → wordTag s ((b + i) / 32) = tb) :
    (∀ i, i < n → (s.writeBytes none core tb b ((List.range n).map f)).rawByte (b + i) = f i) ∧
    ∀ x, x < b ∨ b + n ≤ x → (s.writeBytes none core tb b ((List.range n).map f)).rawByte x = s.rawByte x := by
  have hlen : ((List.range n).map f).length = n := by rw [List.length_map, List.length_range]
  have hraw := State.writeBytes_raw (s := s) (tag := tb) (loc := b) none core ((List.range n).map f) fun a hlo hhi hd => by
    have ht := htags (a - b) (by omega)
    rw [Nat.add_sub_cancel' hlo] at ht
    exact ht hd
  refine ⟨fun i hi => ?_, fun x hx => ?_⟩
  · rw [hraw, hlen, if_pos (by omega), Nat.add_sub_cancel_left]
    simp [hi]
  · rw [hraw, hlen, if_neg (by omega)]

/-! ## A whole CPY (R233, R236) -/

theorem runCopy_cpy {s : State} {g : Grp} {op : CopyOp} {d src : Dword} {len : Nat} (hkind : op.kind = .cpy d src len) (hnew : op.bytes = 0)
    (hlen : 0 < len) : runCopy s g op =
      moveBytes g (2 * (len / 65536) + 4) (.mem src) (.mem d) len ⟨s, op, 0, false, none, none, false⟩ := by
  have hbegin : beginRun false s g op = ⟨s, op, 0, false, none, none, false⟩ := by
    simp [beginRun, startCpyx, hkind, hnew]
  have hunits : copyUnits op.kind = (1, len) := by simp [hkind, copyUnits, Nat.pos_iff_ne_zero.mp hlen]
  have htotal : copyTotal op = len := by simp [copyTotal, hkind, copyUnits, Nat.pos_iff_ne_zero.mp hlen]
  have hlast : (len + len - 1) / len = 1 := Nat.div_eq_of_lt_le (by omega) (by omega)
  have hunit : copyUnit g 0 ⟨s, op, 0, false, none, none, false⟩ = (some (.mem src, .mem d), ⟨s, op, 0, false, none, none, false⟩) := by
    simp [copyUnit, hkind]
  unfold runCopy
  dsimp only
  rw [hbegin]
  dsimp only
  rw [htotal]
  unfold Run.to
  simp [hunits, Nat.pos_iff_ne_zero.mp hlen, hlast, hunit, Run.stopped, End.plus]

theorem cpy_completes {s : State} {c k : Nat} (peer : List Byte) {o : PendOp} {op : CopyOp} (hfind : findCopy s c k = some (o, op))
    {d src : Dword} {len a ta : Nat} {la : Bool} {b tb : Nat} {lb : Bool} (hkind : op.kind = .cpy d src len) (hnew : op.bytes = 0)
    (hseen : op.seen = []) (hmoved : op.moved = []) (hpages : op.pages = []) (hlen : 0 < len)
    (hva : src.toNat % 65536 + len ≤ 65536) (hvb : d.toNat % 65536 + len ≤ 65536)
    (hsrc : spotOf s (s.grp c) false src len = .inl (.here a ta la)) (hdst : spotOf s (s.grp c) true d len = .inl (.here b tb lb))
    (hclean : ∀ i, i < len → s.poisoned (if la then some (s.grp c).core else none) (a + i) 1 = none) :
    exec (.copyCompletion c k peer) s = .next (endCopy (s.writeBytes none (some (s.grp c).core) tb b
      ((List.range len).map (fun t => s.readByte (if la then some (s.grp c).core else none) ta (a + t)))) c o op false) := by
  have hrun := (runCopy_cpy (s := s) (g := s.grp c) hkind hnew hlen).trans
    (moveBytes_piece (s.grp c) _ rfl rfl ⟨hseen, hpages⟩ hmoved hlen hva hvb hsrc hdst hclean)
  rw [exec_copyCompletion peer hfind (by rw [hkind]; rfl) (by rw [hrun]; rfl), hrun]
  dsimp only
  rw [fillBook, hkind]

/-! ## An entry of an operand queue (R228) -/

theorem readSpot_copyByte {r : Run} (h : Fresh r) {g : Grp} {va : Dword} {b : Byte} (i : Nat) (hbyte : copyByte r.st g va = some b) :
    readSpot g i va 1 r = ([b], r) := by
  unfold copyByte at hbyte
  split at hbyte
  · next loc tag l1 hspot =>
    dsimp only at hbyte
    by_cases hclean : r.st.poisoned (if l1 then some g.core else none) loc 1 = none
    · rw [if_pos hclean] at hbyte
      rw [readSpot_here h g i hspot fun t ht => by rw [Nat.lt_one_iff.mp ht]; exact hclean]
      exact congrArg (fun x => ([x], r)) (Option.some.inj hbyte)
    · rw [if_neg hclean] at hbyte
      cases hbyte
  · cases hbyte

/-- Bytes that a copy reads one by one. -/
theorem readSmall_copyBytes {r : Run} (h : Fresh r) (hruns : r.stopped = false) {g : Grp} {va : Dword} (f : Nat → Byte) (i n : Nat)
    (hbytes : ∀ t, t < n → copyByte r.st g (va + BitVec.ofNat 64 t) = some (f t)) :
    readSmall g i va n r = ((List.range n).map f, r) := by
  induction n with
  | zero => rfl
  | succ n ih =>
    have hfirst := ih fun t ht => hbytes t (Nat.lt_succ_of_lt ht)
    unfold readSmall at hfirst ⊢
    rw [List.range_succ, List.foldl_append, hfirst, List.foldl_cons, List.foldl_nil, hruns, if_neg Bool.false_ne_true,
      readSpot_copyByte h _ (hbytes n (Nat.lt_succ_self n)), List.map_append]
    rfl

/-- A word is its four bytes. -/
theorem word_of_bytes (x : Word) : BitVec.ofNat 32 (bytesToNat ((List.range 4).map (fun i => x.extractLsb' (8 * i) 8))) = x := by
  have hbytes : (List.range 4).map (fun i => x.extractLsb' (8 * i) 8) =
    [x.extractLsb' 0 8, x.extractLsb' 8 8, x.extractLsb' 16 8, x.extractLsb' 24 8] := rfl
  rw [hbytes]
  refine BitVec.eq_of_toNat_eq ?_
  have hx := x.isLt
  simp only [bytesToNat, BitVec.toNat_ofNat, BitVec.extractLsb'_toNat, Nat.shiftRight_eq_div_pow]
  omega

/-- One lane of an entry. -/
def entryStep (g : Grp) (p : Pattern) (e : Nat) (x : Bank Word × Run) (l : Nat) : Bank Word × Run :=
  let j := 32 * e + l
  if x.2.stopped || decide (j ≥ patCount p) then x else
  let y := readSmall g (4 * j) (patAddr p j) 4 x.2
  (if y.2.stopped then x.1 else Bank.set 0 x.1 l (BitVec.ofNat 32 (bytesToNat y.1)), y.2)

theorem nextEntry_eq (s : State) (g : Grp) (op : CopyOp) (p : Pattern) :
    nextEntry s g op p = (List.range 32).foldl (entryStep g p (op.bytes / 128)) ([], beginRun false s g op) := rfl

theorem entryStep_past (g : Grp) {p : Pattern} {e l : Nat} (x : Bank Word × Run) (hpast : ¬ 32 * e + l < patCount p) :
    entryStep g p e x l = x := if_pos (by simp [Nat.le_of_not_lt hpast])

theorem entryStep_within {g : Grp} {p : Pattern} {e l : Nat} {w : Word} (m : Bank Word) {r : Run} (h : Fresh r) (hruns : r.stopped = false)
    (hwithin : 32 * e + l < patCount p)
    (hbytes : ∀ i, i < 4 → copyByte r.st g (patAddr p (32 * e + l) + BitVec.ofNat 64 i) = some (w.extractLsb' (8 * i) 8)) :
    entryStep g p e (m, r) l = (Bank.set 0 m l w, r) := by
  unfold entryStep
  dsimp only
  rw [if_neg (by simp [hruns, hwithin]), readSmall_copyBytes h hruns _ _ 4 hbytes]
  dsimp only
  rw [hruns, if_neg Bool.false_ne_true, word_of_bytes]

/-- The lanes of an entry that have been read hold their elements. -/
theorem entry_lanes {g : Grp} {p : Pattern} {e : Nat} {word : Nat → Word} {r : Run} (h : Fresh r) (hruns : r.stopped = false) (n : Nat)
    (hbytes : ∀ l, l < n → 32 * e + l < patCount p → ∀ i, i < 4 →
      copyByte r.st g (patAddr p (32 * e + l) + BitVec.ofNat 64 i) = some ((word l).extractLsb' (8 * i) 8)) :
    ((List.range n).foldl (entryStep g p e) ([], r)).2 = r ∧
    ∀ l, Bank.get 0 ((List.range n).foldl (entryStep g p e) ([], r)).1 l = if l < n ∧ 32 * e + l < patCount p then word l else 0 := by
  induction n with
  | zero => exact ⟨rfl, fun l => by simp⟩
  | succ n ih =>
    obtain ⟨hrun, hgot⟩ := ih fun l hl => hbytes l (Nat.lt_succ_of_lt hl)
    rw [List.range_succ, List.foldl_append, List.foldl_cons, List.foldl_nil]
    generalize (List.range n).foldl (entryStep g p e) ([], r) = x at hrun hgot ⊢
    obtain ⟨m, r'⟩ := x
    obtain rfl : r' = r := hrun
    by_cases hwithin : 32 * e + n < patCount p
    · rw [entryStep_within m h hruns hwithin (hbytes n (Nat.lt_succ_self n) hwithin)]
      refine ⟨rfl, fun l => ?_⟩
      by_cases hl : l = n
      · subst hl
        rw [if_pos ⟨Nat.lt_succ_self l, hwithin⟩]
        exact Bank.get_set_same ..
      · simp only [show l < n + 1 ↔ l < n by omega]
        exact (Bank.get_set_other _ _ _ hl).trans (hgot l)
    · rw [entryStep_past g _ hwithin]
      refine ⟨rfl, fun l => ?_⟩
      by_cases hl : l = n
      · subst hl
        rw [hgot, if_neg (by omega), if_neg (by omega)]
      · simp only [show l < n + 1 ↔ l < n by omega]
        exact hgot l

theorem nextEntry_lanes {s : State} {g : Grp} {op : CopyOp} {p : Pattern} {q : Nat} {word : Nat → Word} (hkind : op.kind = .qpush p q)
    (hseen : op.seen = []) (hpages : op.pages = [])
    (hbytes : ∀ l, l < 32 → 32 * (op.bytes / 128) + l < patCount p → ∀ i, i < 4 →
      copyByte s g (patAddr p (32 * (op.bytes / 128) + l) + BitVec.ofNat 64 i) = some ((word l).extractLsb' (8 * i) 8)) :
    (nextEntry s g op p).2.stopped = false ∧
      ∀ l, l < 32 → Bank.get 0 (nextEntry s g op p).1 l = if 32 * (op.bytes / 128) + l < patCount p then word l else 0 := by
  have hbegin : beginRun false s g op = ⟨s, op, op.bytes, false, none, none, false⟩ := by simp [beginRun, startCpyx, hkind]
  rw [nextEntry_eq, hbegin]
  have hfresh : Fresh ⟨s, op, op.bytes, false, none, none, false⟩ := ⟨hseen, hpages⟩
  obtain ⟨hrun, hlanes⟩ := entry_lanes hfresh rfl 32 hbytes
  refine ⟨by rw [hrun]; rfl, fun l hl => ?_⟩
  rw [hlanes]
  simp only [hl, true_and]

theorem pushEntry_queue (s : State) (c q : Nat) (e : Bank Word) :
    ((pushEntry s c q e).grp (c - 1)).queue q = (s.grp (c - 1)).queue q ++ [e] := by
  unfold pushEntry
  dsimp only
  rw [State.grp_modGrp]
  exact Bank.get_set_same ..

/-! ## The end of a copy (R190, R236, R240) -/

/-- The vats of every team stay, and so does memory. -/
structure KeepsVats (s t : State) : Prop where
  mem  : t.mem = s.mem
  vats : ∀ k, (t.team k).vats = (s.team k).vats

theorem KeepsVats.refl (s : State) : KeepsVats s s := ⟨rfl, fun _ => rfl⟩
theorem KeepsVats.trans {a b c : State} (h : KeepsVats a b) (h' : KeepsVats b c) : KeepsVats a c :=
  ⟨h'.mem.trans h.mem, fun k => (h'.vats k).trans (h.vats k)⟩
theorem KeepsVats.foldl {α : Type} {f : State → α → State} (hf : ∀ s x, KeepsVats s (f s x)) (l : List α) (s : State) :
    KeepsVats s (l.foldl f s) := by
  induction l generalizing s with
  | nil => exact .refl s
  | cons x r ih => exact (hf s x).trans (ih _)

theorem setBar_vats (s : State) (r : BarRef) (b : Barrier) : KeepsVats s (s.setBar r b) := by
  unfold State.setBar
  split
  · refine ⟨rfl, fun k => ?_⟩
    by_cases hk : k = r.owner
    · subst hk
      dsimp only
      rw [State.team_setTeam]
    · dsimp only
      rw [State.team_setTeam_other s _ hk]
  · exact ⟨rfl, fun _ => rfl⟩
  · exact ⟨rfl, fun _ => rfl⟩

theorem markDone_vats (s : State) (r : BarRef) (b : Barrier) : KeepsVats s (markDone s r b) := by
  refine KeepsVats.foldl (fun s e => ?_) _ s
  split
  · exact .refl s
  · exact ⟨rfl, fun _ => rfl⟩

theorem completePhases_vats (n : Nat) (s : State) (r : BarRef) (d : Nat × Nat × Nat) : KeepsVats s (completePhases n s r d) := by
  induction n generalizing s with
  | zero => exact .refl s
  | succ n ih =>
    unfold completePhases
    dsimp only
    split
    · exact ((markDone_vats s r _).trans (setBar_vats _ r _)).trans (ih _)
    · exact .refl s

theorem arriveFeeder_vats (s : State) (g : Grp) (level idx : Nat) (dmg : Bool) : KeepsVats s (arriveFeeder s g level idx dmg) :=
  (setBar_vats s _ _).trans (completePhases_vats _ _ _ _)

theorem bar_setBar (s : State) (r : BarRef) (b : Barrier) : (s.setBar r b).bar r = b := by
  obtain ⟨level, idx, owner⟩ := r
  match level with
  | 0 =>
    show Bank.get {} ((s.setTeam owner _).team owner).bars idx = b
    rw [State.team_setTeam]
    exact Bank.get_set_same ..
  | 1 =>
    show Bank.get {} ((s.setClus owner _).clus owner).bars idx = b
    rw [State.clus_setClus]
    exact Bank.get_set_same ..
  | n + 2 =>
    show Bank.get {} ((s.setGrid owner _).grid owner).bars idx = b
    rw [State.grid_setGrid]
    exact Bank.get_set_same ..

theorem bar_setVat (s : State) (g : Grp) (n : Nat) (v : Vat) (r : BarRef) : (s.setVat g n v).bar r = s.bar r := by
  obtain ⟨level, idx, owner⟩ := r
  match level with
  | 0 =>
    show Bank.get {} ((s.setTeam g.teamKey _).team owner).bars idx = Bank.get {} (s.team owner).bars idx
    by_cases hk : owner = g.teamKey
    · subst hk
      rw [State.team_setTeam]
    · rw [State.team_setTeam_other s _ hk]
  | 1 => rfl
  | n + 2 => rfl

theorem completePhases_waits (n : Nat) {s : State} {r : BarRef} {d : Nat × Nat × Nat} (hmore : (s.bar r).fcount ≠ d.2.1) :
    completePhases n s r d = s := by
  cases n with
  | zero => rfl
  | succ n => exact if_neg fun h => hmore h.2.1

/-- A feeder arrival that is not the last of its phase. -/
theorem arriveFeeder_bar {s : State} {g : Grp} {level idx : Nat} (dmg : Bool)
    (hmore : (s.bar (g.barRef level idx)).fcount + 1 < (g.kern.bar level idx).2.1) :
    (arriveFeeder s g level idx dmg).bar (g.barRef level idx) =
      { s.bar (g.barRef level idx) with
        fcount := (s.bar (g.barRef level idx)).fcount + 1, dmg := (s.bar (g.barRef level idx)).dmg || dmg } := by
  unfold arriveFeeder settleBar
  dsimp only
  rw [if_pos (Nat.lt_of_succ_lt hmore), completePhases_waits, bar_setBar]
  rw [bar_setBar]
  exact Nat.ne_of_lt hmore

theorem vat_setVat (s : State) (g : Grp) (n : Nat) (v : Vat) : (s.setVat g n v).vat g n = v := by
  unfold State.vat State.setVat
  dsimp only
  rw [State.team_setTeam]
  exact Bank.get_set_same ..

theorem vat_congr {s t : State} (g : Grp) (n : Nat) (h : (t.team g.teamKey).vats = (s.team g.teamKey).vats) : t.vat g n = s.vat g n := by
  rw [State.vat, State.vat, h]

theorem fillVat_vat (s : State) (g : Grp) (n : Nat) (dmg : Bool) : (fillVat s g n dmg false).vat g n = { s.vat g n with
    filled := (s.vat g n).filled + 1, dmg := (s.vat g n).dmg || dmg
    st := if (s.vat g n).filled + 1 = (s.vat g n).n then .full else (s.vat g n).st } := by
  unfold fillVat
  dsimp only
  rw [vat_setVat, Bool.or_false]
  split <;> rfl

/-- A copy's vat has taken its fill. -/
def fills (s : State) (g : Grp) (op : CopyOp) (dmg : Bool) : State :=
  if bindVen op.bind && !op.kind.isQpush then fillVat s g (bindVat op.bind) dmg false else s

/-- A copy has arrived at its barrier. -/
def arrivesAt (s : State) (g : Grp) (op : CopyOp) (dmg : Bool) : State :=
  if bindBen op.bind then arriveFeeder s g (bindLvl op.bind) (bindIdx op.bind) dmg else s

theorem endCopy_eq (s : State) (k : Nat) (o : PendOp) (op : CopyOp) (dmg : Bool) : endCopy s k o op dmg =
    (arrivesAt (fills s (s.grp k) op dmg) (s.grp k) op dmg).modGrp k (fun g => g.finishOp o.id) := rfl

theorem fills_mem (s : State) (g : Grp) (op : CopyOp) (dmg : Bool) : (fills s g op dmg).mem = s.mem := by
  unfold fills
  split <;> rfl
theorem fills_bar (s : State) (g : Grp) (op : CopyOp) (dmg : Bool) (r : BarRef) : (fills s g op dmg).bar r = s.bar r := by
  unfold fills
  split
  · exact bar_setVat ..
  · rfl
theorem arrivesAt_vats (s : State) (g : Grp) (op : CopyOp) (dmg : Bool) : KeepsVats s (arrivesAt s g op dmg) := by
  unfold arrivesAt
  split
  · exact arriveFeeder_vats ..
  · exact .refl s

theorem modGrp_bar (s : State) (k : Nat) (f : Grp → Grp) (r : BarRef) : (s.modGrp k f).bar r = s.bar r := rfl

theorem endCopy_mem (s : State) (k : Nat) (o : PendOp) (op : CopyOp) (dmg : Bool) : (endCopy s k o op dmg).mem = s.mem :=
  (arrivesAt_vats _ _ op dmg).mem.trans (fills_mem ..)

theorem endCopy_ends (s : State) (c : Nat) (o : PendOp) (op : CopyOp) (dmg : Bool) : let t := endCopy s c o op dmg
    let g := s.grp c
    let r := g.barRef (bindLvl op.bind) (bindIdx op.bind)
    (∀ y ∈ (t.grp c).ops, y.id = o.id → y.done = true) ∧
    (bindVen op.bind = true → op.kind.isQpush = false →
      let v := s.vat g (bindVat op.bind)
      t.vat g (bindVat op.bind) = { v with
        filled := v.filled + 1, dmg := v.dmg || dmg, st := if v.filled + 1 = v.n then .full else v.st }) ∧
    (bindBen op.bind = true → (s.bar r).fcount + 1 < (g.kern.bar (bindLvl op.bind) (bindIdx op.bind)).2.1 →
      t.bar r = { s.bar r with fcount := (s.bar r).fcount + 1, dmg := (s.bar r).dmg || dmg }) := by
  intro t g r
  refine ⟨?_, fun hven hqueue => ?_, fun hben hmore => ?_⟩
  · show ∀ y ∈ ((endCopy s c o op dmg).grp c).ops, y.id = o.id → y.done = true
    rw [endCopy_eq, State.grp_modGrp]
    exact Retirements.finishOp_done _ _
  · have hfills : fills s g op dmg = fillVat s g (bindVat op.bind) dmg false := by simp [fills, hven, hqueue]
    have hvats := (arrivesAt_vats (fills s g op dmg) g op dmg).vats g.teamKey
    refine (vat_congr g _ hvats).trans ?_
    rw [hfills]
    exact fillVat_vat s g _ dmg
  · have hbar : (fills s g op dmg).bar r = s.bar r := fills_bar ..
    show ((arrivesAt (fills s g op dmg) g op dmg).modGrp c _).bar r = _
    rw [modGrp_bar, arrivesAt, if_pos hben, arriveFeeder_bar dmg (by rw [hbar]; exact hmore), hbar]

theorem piece_rawByte_of_mem (s : State) (core : Option Nat) (f : Nat → Byte) {n b tb : Nat} {t : State} (hmem : t.mem =
      (s.writeBytes none core tb b ((List.range n).map f)).mem)
    (htags : ∀ i, i < n → isDram (b + i) = true → wordTag s ((b + i) / 32) = tb) :
    (∀ i, i < n → t.rawByte (b + i) = f i) ∧ ∀ x, x < b ∨ b + n ≤ x → t.rawByte x = s.rawByte x := by
  have hraw : ∀ x, t.rawByte x = (s.writeBytes none core tb b ((List.range n).map f)).rawByte x := fun x => by
    rw [State.rawByte, hmem]
    rfl
  simp only [hraw]
  exact piece_rawByte s core f htags

/-- Settles O37: a piece in one page on either side is read whole and then written whole; an entry is read lane by lane. -/
theorem copyEvents : Obligations.CopyEvents := by
  unfold Obligations.CopyEvents
  refine ⟨fun c k s peer o op hfind => ⟨fun hq hruns => exec_copyCompletion peer hfind hq hruns,
    fun hq hall => exec_copyCompletion_queue peer hfind hq hall, ?_,
    fun p q hkind hleft hturn hroom hruns => exec_queueEntryArrival peer hfind hkind hleft hturn hroom hruns,
    fun refused f hviol hfault => exec_copyFault peer refused hfind hviol hfault⟩, ?_,
    fun s g op p q word hkind hseen hpages => nextEntry_lanes hkind hseen hpages, pushEntry_queue, endCopy_ends⟩
  · intro d src len a ta la b tb lb hkind hnew hseen hmoved hpages hlen hva hvb hsrc hdst core hclean
    refine ⟨_, cpy_completes peer hfind hkind hnew hseen hmoved hpages hlen hva hvb hsrc hdst fun i hi => (hclean i hi).1, ?_⟩
    exact piece_rawByte_of_mem s _ _ (endCopy_mem ..) fun i hi => (hclean i hi).2
  · intro g fuel va vb n a ta la b tb lb r hruns hdry hseen hmoved hpages hn hva hvb hsrc hdst core hclean
    rw [moveBytes_piece g fuel hruns hdry ⟨hseen, hpages⟩ hmoved hn hva hvb hsrc hdst fun i hi => (hclean i hi).1]
    exact ⟨hruns, rfl, rfl, piece_rawByte r.st _ _ fun i hi => (hclean i hi).2⟩

end Sys2Proof.Copies
